-- ==== Sys2Proof/Word.lean ====
section
/-! DEFINITION. The words of the DYR9256 and their plainest arithmetic: 32-bit registers (R3), bytes, and the
signed comparison of wrapping 32-bit counts that R17 gives for chain times and R118 for sample indices. -/
namespace Sys2Proof

/-- A register (R3), a chain time (R17), a sample index (R118): 32 bits. -/
abbrev Word := BitVec 32

/-- One byte of Stock, X, Y, program memory, Heartwood or flash. -/
abbrev Byte := BitVec 8

/-- The 32-bit word of a natural number, modulo 2^32. -/
def w32 (n : Nat) : Word := BitVec.ofNat 32 n

/-- The 32-bit word of an integer, modulo 2^32. -/
def w32i (n : Int) : Word := BitVec.ofInt 32 n

/-- Signed value of `t - u` modulo 2^32 (R17, R118): positive when `t` is later than `u`. -/
def later (t u : Word) : Int := (t - u).toInt

end Sys2Proof
end

