-- ==== Sys2Proof/Syntax.lean ====
section
/-! DEFINITION. The commands of the DYR9256 as a block: one constructor of Instr per row of the opcode table, with the
operands its rule gives it. What the environment decides (pin levels, sensor readings, bytes on a line, frames of a
network) is an operand of the command that stands for its event. -/
namespace Sys2Proof

/-- Levels on the strap balls when they are sampled (R23, R24). -/
structure Straps where
  bootsel1 : Bool
  bootsel0 : Bool
  head : Bool
  svc : Bool
  deriving DecidableEq, Repr

/-- What the flash answers to the probe of R49 and its SFDP tables. -/
structure FlashId where
  sfdpOk : Bool
  octal : Bool
  trainOk : Bool
  sectors : Nat
  jedec : Nat
  eccst : Bool
  deriving DecidableEq, Repr

/-- One reading of the sensor sites of R465: replica slacks in ps and ring counts of sites 0 to 4, and the die
temperature in 0.25 degrees. -/
structure Sense where
  m : List Int
  ring : List Nat
  temp : Int
  deriving DecidableEq, Repr

/-- What the regulator answers on the AVS port (R474, R475): acknowledged after at most two retries, the voltage read
back in mV, the word of STATUS_WORD, and the byte of VOUT_MODE. -/
structure AvsRes where
  ack : Bool
  readMv : Nat
  status : Nat
  voutMode : Nat
  deriving DecidableEq, Repr

/-- The environment of the boot sequence: how many of its steps run before the next command (the rest wait in CHUCK),
the flash, the lock of the clocks, the AVS port (its READ_VOUT after the last voltage step) and the sensor readings, one
for each measurement of the ladder; whether every flash read completes, and whether a Stock or patch load meets an
uncorrectable error (R488). -/
structure BootEnv where
  steps : Nat
  flash : FlashId
  clocksOk : Bool
  avs : AvsRes
  senses : List Sense
  readOk : Bool
  stockBad : Bool
  deriving DecidableEq, Repr

/-- The other fields of a SYS_MODE write that carries a request (R46). -/
structure ModeWrite where
  depth : Bool
  illClr : Bool
  deriving DecidableEq, Repr

/-- Samples 7, 8 and 9 of one bit (R425). -/
structure Samples where
  a : Bool
  b : Bool
  c : Bool
  deriving DecidableEq, Repr

/-- The four slots of a bundle (R240). -/
inductive Slot where
  | xmem | ymem | mac | ctrl
  deriving DecidableEq, Repr

/-- The fields of a memory slot (R245); `y` tells YMEM from XMEM. -/
structure MemF where
  y : Bool
  size : BitVec 2
  reg : BitVec 4
  ireg : BitVec 3
  mode : BitVec 3
  mreg : BitVec 3
  wreg : BitVec 2
  ofs : BitVec 11
  deriving DecidableEq, Repr

/-- The fields of the MAC slot (R249). -/
structure MacF where
  acc : BitVec 2
  s : Bool
  cj : Bool
  ra : BitVec 4
  rb : BitVec 4
  rd : BitVec 4
  an : BitVec 2
  imm : BitVec 9
  deriving DecidableEq, Repr

/-- The fields of the CTRL/ALU slot (R253): S, F, bits [23:20], [19:16] and [15:0]. -/
structure AluF where
  s : Bool
  f : Bool
  rd : BitVec 4
  ra : BitVec 4
  low : BitVec 16
  deriving DecidableEq, Repr

/-- What carries a link frame to the receiver (R370, R371): the port it arrives on, its DST, its SRC, its SEQ, and whether
its CRC, LEN, code and EOF are good. -/
structure LinkHdr where
  port : Nat
  dst : Nat
  src : Nat
  seq : Nat
  ok : Bool
  deriving DecidableEq, Repr

/-- What carries a Swilum frame (R433, R434): TAG, DEVID, and whether its length and CRC are good. -/
structure HostHdr where
  tag : Nat
  devid : Nat
  ok : Bool
  deriving DecidableEq, Repr

/-- The 16-byte event record of R114. -/
structure EvRec where
  stamp : Word
  kind : Nat
  attr : Bool
  key : Nat
  part : Nat
  late : Bool
  chan : Nat
  src : Nat
  value : Word
  seq : Nat
  devid : Nat
  index : Nat
  deriving DecidableEq, Repr

/-- One entry of EVENT_DN (R376): the record, TAG, TARGET, ADM and u. -/
structure DnEntry where
  ev : EvRec
  tag : Nat
  target : Nat
  adm : Bool
  u : Nat
  deriving DecidableEq, Repr

/-- HELLO (R376): SYS_ID, LPV, depth, STG_EPOCH, STG_IMGVER, image digest, path. -/
structure HelloMsg where
  sysId : Word
  lpv : Nat
  depth : Nat
  epoch : Word
  imgver : Word
  digest : List Byte
  path : List Bool
  deriving DecidableEq, Repr

/-- ASSIGN (R376): depth, verdict, ID, reason, L_chain in ns, anchor sample and its chain time, path. -/
structure AssignMsg where
  depth : Nat
  verdict : Nat
  id : Nat
  reason : Nat
  lchain : Nat
  anchor : Word
  tau : Word
  path : List Bool
  deriving DecidableEq, Repr

/-- STATUS (R376): state, reason, ship code, ERR in ns, image digest. -/
structure StatusMsg where
  state : Nat
  reason : Nat
  ship : Nat
  err : Nat
  digest : List Byte
  deriving DecidableEq, Repr

/-- What the firmware gets from one Sync of a domain (R408, R411): domain time and the counter c it maps to, the rate
of the domain against c in 2^-40, the residual of the mapping in ns, and logSync. -/
structure SyncMeas where
  domTime : Int
  adj : Int
  resid : Int
  logSync : Int
  deriving DecidableEq, Repr

/-- An AVTP frame at a listener (R418, R420): whether format, nsr and channel count equal the settings, its sequence
number, tv, avtp_timestamp, its frame length in samples and the samples, one list per sample index. -/
structure AvtpFrame where
  tagged : Bool
  streamId : Nat
  format : Nat
  nsr : Nat
  channels : Nat
  seq : Nat
  tv : Bool
  timestamp : Word
  samples : List (List Word)
  deriving DecidableEq, Repr

/-- One UMP word with the chain times of its first start edge and of its last stop bit (R106). -/
structure UmpWord where
  w : Word
  start : Word
  done : Word
  deriving DecidableEq, Repr

/-- How the flash does one program or erase of the journal (R445, R460): whether the read-back matches, the time it
took (us for a program, ms for an erase) and the corrected bits of the read. -/
structure FlashEnv where
  ok : Bool
  time : Nat
  corrected : Nat
  deriving DecidableEq, Repr

/-- The commands of the block: one constructor per row of the opcode table, in the table's order. -/
inductive Instr where
  /-- POWER_ON (R21). Release of the internal power-on reset, or return of a lost rail, enters BLANK from any mode, makes outputs inert and samples the straps. -/
  | powerOn (vaonLost : Bool) (straps : Straps)
  /-- ZERO_FILL_COMPLETE (R289). The zero-fill or memory clear ends, MEM_STAT.FILLED sets, and access to the memories is granted. -/
  | zeroFillComplete
  /-- PIN_RESET (R21). RESET_N held low for at least 1 us enters BLANK from any mode except SHELF and records PIN in SYS_RSTCAUSE. -/
  | pinReset
  /-- SOFTWARE_RESET (R21). A SYS_RESET write with KEY 0xC1A5 and GO 1 enters BLANK; any other key is ignored. -/
  | softwareReset (v : Word)
  /-- BLANK_ADVANCE (R26). After strap sampling or zero-fill, an autonomous start moves BLANK to CHUCK, or to SERVICE when SVC is 1, and CHUCK runs its boot sequence. -/
  | blankAdvance (env : BootEnv)
  /-- MODE_REQUEST_CHUCK (R27). SYS_MODE.REQ = 1 in hosted BLANK starts CHUCK; anywhere else it is illegal and counted. -/
  | modeRequestChuck (w : ModeWrite)
  /-- MODE_REQUEST_RUN (R27). SYS_MODE.REQ = 2 returns REST to RUN; outside REST it is illegal and counted. -/
  | modeRequestRun (w : ModeWrite)
  /-- MODE_REQUEST_REST (R29). SYS_MODE.REQ = 3 enters REST at DEPTH, or sets PEND until the REST conditions hold. -/
  | modeRequestRest (w : ModeWrite)
  /-- MODE_REQUEST_SHELF (R29). SYS_MODE.REQ = 4 enters SHELF, or sets PEND in RUN until the REST conditions hold. -/
  | modeRequestShelf (w : ModeWrite)
  /-- MODE_REQUEST_SERVICE (R26). SYS_MODE.REQ = 5 from hosted BLANK, RUN or REST enters SERVICE with outputs inert and no dump. -/
  | modeRequestService (w : ModeWrite)
  /-- MODE_REQUEST_6 (R27). SYS_MODE.REQ = 6 is always illegal, is ignored, and increments ILL_CNT. -/
  | modeRequest6 (w : ModeWrite)
  /-- MODE_REQUEST_CANCEL (R29). SYS_MODE.REQ = 7 cancels a pending REST or SHELF request, and is never counted. -/
  | modeRequestCancel (w : ModeWrite)
  /-- ILL_CLR (R46). Writing SYS_MODE.ILL_CLR clears ILL_CNT before any request in the same write. -/
  | illClr (depth : Bool)
  /-- PENDING_REQUEST_ENTRY (R29). At the first VS boundary at which the REST conditions hold, a pending REST or SHELF request takes effect. -/
  | pendingRequestEntry
  /-- IDLE_ENTRY (R30). When the REST conditions have held for SYS_PWR.IDLE_MS, the device enters REST at DEPTH, falling back to REST-WARM where REST-COLD is not allowed. -/
  | idleEntry
  /-- REST_WAKE (R39). A wake edge on an enabled source in REST latches SYS_WAKE_SRC, raises source 62 and restarts the clocks into RUN. -/
  | restWake (src : Nat) (hfrcNs : Nat)
  /-- PWR_EN_LOW (R43). Once the record in progress is complete, PWR_EN is driven low so that the board removes every rail but VAON. -/
  | pwrEnLow
  /-- SHELF_WAKE (R43). An enabled WAKE, MIDI0_RX or HOST_RX edge in SHELF trips the comparator and sets the power latch. -/
  | shelfWake (src : Nat)
  /-- PWR_EN_HIGH (R44). PWR_EN is driven high 50 us after the wake, or after it has been low for 100 us for a wake latched during entry. -/
  | pwrEnHigh
  /-- CHECK (R72). STG_CTRL.CHECK snapshots staging and starts the consistency check with BUSY set. -/
  | check (v : Word)
  /-- CHECK_COMPLETE (R72). The check ends at the first failing rule, sets RESULT, RULE and FAIL_ADDR, and commits if COMMIT was also written. -/
  | checkComplete
  /-- COMMIT (R74). STG_CTRL.COMMIT copies a passed snapshot into the commit buffer, or is refused with REJ and source 33. -/
  | commit (v : Word)
  /-- DISCARD (R70). STG_CTRL.DISCARD copies every live ST value back into staging without affecting a pending commit. -/
  | discard (v : Word)
  /-- COMMIT_ABORT (R85). STG_CTRL.ABORT cancels a pending standalone commit, or on a head sends ABORT before the decision. -/
  | commitAbort (v : Word)
  /-- STAGED_WRITE (R73). A write to an ST register goes to the staging copy and sets STG_STATUS.RESULT to 0. -/
  | stagedWrite (addr value : Word)
  /-- REGISTER_WRITE (R7). A write to a register with no row of its own acts on each field by its access code. -/
  | registerWrite (addr value : Word)
  /-- COMMIT_APPLY (R79). At sample s the committed set takes effect stage by stage, STG_EPOCH increments and source 32 is raised. -/
  | commitApply
  /-- PREPARE (R81). A member receiving PREPARE checks its staging, fills its commit buffer and sends VOTE. -/
  | prepare (h : LinkHdr) (epoch t : Word)
  /-- VOTE (R81). The head receives a member's yes or no vote with its rule and register. -/
  | vote (h : LinkHdr) (epoch : Word) (yes : Bool) (rule : Nat) (reg : Word)
  /-- CHAIN_COMMIT_DEADLINE (R81). At T_d the head sends GO if every census member voted yes with the census unchanged, else ABORT with source 34. -/
  | chainCommitDeadline
  /-- GO (R84). A member that voted yes applies the commit at its VS boundary nearest T, or late at C with LATE set. -/
  | go (h : LinkHdr) (epoch : Word)
  /-- ABORT (R83). A member receiving ABORT empties its commit buffer, keeps staging and raises source 34. -/
  | abort (h : LinkHdr) (epoch : Word)
  /-- SELF_CONFIRMATION (R65). After CONFIRM_S seconds in RUN with no fatal source raised, CONFIRMED is programmed on the running slot. -/
  | selfConfirmation
  /-- CHARACTER (R425). A UART receiver takes a character from a start edge and judges its bits by the majority of samples 7, 8 and 9. -/
  | character (n : Nat) (start : Word) (bits : List Samples)
  /-- LINE_DEAD (R427). A line still low 10 character times after a break sets DEAD, raises the line-dead source, masks wake and issues all-notes-off on MIDI ports. -/
  | lineDead (n : Nat)
  /-- LINE_DEAD_EXIT (R427). After the line has been high for 1 ms without a break, DEAD clears and the wake is unmasked. -/
  | lineDeadExit (n : Nat)
  /-- TRANSMIT_CHARACTER (R431). A UART transmitter starts a queued character once HOST_CTS_N allows, and always completes a character it has started. -/
  | transmitCharacter (n : Nat) (ctsHigh : Bool)
  /-- UART_DIVIDER_WRITE (R424). A DIV write takes effect once neither direction of the UART has a character in progress. -/
  | uartDividerWrite (n div : Nat)
  /-- MIDI_MESSAGE (R89). A MIDI port parser completes a message, handling running status, real-time bytes, system messages and discards. -/
  | midiMessage (n : Nat)
  /-- ACTIVE_SENSING_TIMEOUT (R91). 300 ms with no byte after 0xFE releases the pedals and issues all-notes-off on the port's parts, then disarms sensing. -/
  | activeSensingTimeout (n : Nat)
  /-- EVENT_ENTRY (R111). An internal event takes a pipeline entry when one is free, receives its arrival sequence and stamp, and is judged on time or late. -/
  | eventEntry (src : Nat)
  /-- HWM_CLEAR (R117). A write to NOTE_STAT clears HWM to OCC. -/
  | hwmClear (v : Word)
  /-- EVENT_APPLY (R124). When rendering reaches an event's sample, the event is applied to its voices at its onset in the order of R88. -/
  | eventApply (seq : Nat)
  /-- HELD_PATCH_WRITE (R175). A held patch write to a slot is submitted once C has passed the sample of the previous write to that slot. -/
  | heldPatchWrite (slot : Nat)
  /-- ROLLBACK_ORDER (R233). A rollback order reaching a spindle preloads its target, suspends the running context at a safe bundle boundary and starts the rollback. -/
  | rollbackOrder (n c : Nat) (sample : Word)
  /-- VS_BOUNDARY (R228). At each VS boundary, C advances, spindle gates open, and boundary work reads END and level words and takes send-unit handovers. -/
  | vsBoundary
  /-- CONTEXT_SWITCH (R229). Once any preload and patch fetch are done, the sequencer switches a context in to render one sample. -/
  | contextSwitch (n c : Nat)
  /-- PEAK_CLEAR (R239). A write to SPNn_LOAD clears PEAK to LAST. -/
  | peakClear (n : Nat) (v : Word)
  /-- ALLOCATION_REQUEST (R154). A note-on request leaves the allocator queue, runs its passes through the tree and commits its chosen leaves as pending. -/
  | allocationRequest
  /-- QHWM_CLEAR (R168). A write to ALLOC_STAT clears QHWM to QOCC. -/
  | qhwmClear (v : Word)
  /-- NOP (R241). An all-zero slot does nothing. -/
  | nop (n : Nat) (slot : Slot) (last : Bool)
  /-- LD (R245). A memory slot loads a word, pair or quad from X or Y into D registers and updates its address register. -/
  | ld (n : Nat) (f : MemF) (last : Bool)
  /-- ST (R245). A memory slot stores a word, pair or quad to X or Y and updates its address register. -/
  | st (n : Nat) (f : MemF) (last : Bool)
  /-- MOD (R246). A memory slot performs only the address update of its mode. -/
  | mod (n : Nat) (f : MemF) (last : Bool)
  /-- RMAC1 (R249). One real multiply term is accumulated into an accumulator. -/
  | rmac1 (n : Nat) (f : MacF) (last : Bool)
  /-- RMAC4 (R249). Four real multiply terms are accumulated into A0 to A3. -/
  | rmac4 (n : Nat) (f : MacF) (last : Bool)
  /-- CMAC1 (R249). One complex multiply term is accumulated into a complex accumulator. -/
  | cmac1 (n : Nat) (f : MacF) (last : Bool)
  /-- CMAC2 (R249). Two complex multiply terms are accumulated into CA0 and CA1. -/
  | cmac2 (n : Nat) (f : MacF) (last : Bool)
  /-- CRMAC2 (R249). Two complex-by-real terms are accumulated into CA0 and CA1. -/
  | crmac2 (n : Nat) (f : MacF) (last : Bool)
  /-- RND1 (R252). One accumulator is rounded half-up to a D register, saturating or wrapping. -/
  | rnd1 (n : Nat) (f : MacF) (last : Bool)
  /-- RND4 (R252). Four accumulators are rounded half-up to a quad of D registers. -/
  | rnd4 (n : Nat) (f : MacF) (last : Bool)
  /-- LDA (R249). An accumulator is loaded from a D register times 2^32, sign-extended. -/
  | lda (n : Nat) (f : MacF) (last : Bool)
  /-- CLRA (R249). The accumulators selected by the mask are cleared. -/
  | clra (n : Nat) (f : MacF) (last : Bool)
  /-- ASHA (R249). An accumulator is shifted arithmetically by a signed immediate. -/
  | asha (n : Nat) (f : MacF) (last : Bool)
  /-- ADD (R253). RD receives RA + RB, with optional saturation and flags. -/
  | add (n : Nat) (f : AluF) (last : Bool)
  /-- SUB (R253). RD receives RA - RB, with optional saturation and flags. -/
  | sub (n : Nat) (f : AluF) (last : Bool)
  /-- AND (R253). RD receives the bitwise AND of RA and RB. -/
  | and (n : Nat) (f : AluF) (last : Bool)
  /-- OR (R253). RD receives the bitwise OR of RA and RB. -/
  | or (n : Nat) (f : AluF) (last : Bool)
  /-- XOR (R253). RD receives the bitwise XOR of RA and RB. -/
  | xor (n : Nat) (f : AluF) (last : Bool)
  /-- ASL (R253). RD receives RA shifted left by RB[4:0]. -/
  | asl (n : Nat) (f : AluF) (last : Bool)
  /-- ASR (R253). RD receives RA shifted right arithmetically by RB[4:0]. -/
  | asr (n : Nat) (f : AluF) (last : Bool)
  /-- LSR (R253). RD receives RA shifted right logically by RB[4:0]. -/
  | lsr (n : Nat) (f : AluF) (last : Bool)
  /-- MIN (R253). RD receives the signed minimum of RA and RB. -/
  | min (n : Nat) (f : AluF) (last : Bool)
  /-- MAX (R253). RD receives the signed maximum of RA and RB. -/
  | max (n : Nat) (f : AluF) (last : Bool)
  /-- ABS (R254). RD receives the signed absolute value of RA. -/
  | abs (n : Nat) (f : AluF) (last : Bool)
  /-- NEG (R253). RD receives the negation of RA. -/
  | neg (n : Nat) (f : AluF) (last : Bool)
  /-- MUL (R253). RD receives the low 32 bits of the signed product of RA and RB. -/
  | mul (n : Nat) (f : AluF) (last : Bool)
  /-- FMUL (R253). RD receives 2 x RA x RB, rounded to 32 bits. -/
  | fmul (n : Nat) (f : AluF) (last : Bool)
  /-- CMP (R253). RA - RB sets the flags only. -/
  | cmp (n : Nat) (f : AluF) (last : Bool)
  /-- MOV (R253). RD receives RA. -/
  | mov (n : Nat) (f : AluF) (last : Bool)
  /-- MOVL (R253). The low half of RD receives the immediate. -/
  | movl (n : Nat) (f : AluF) (last : Bool)
  /-- MOVH (R253). The high half of RD receives the immediate. -/
  | movh (n : Nat) (f : AluF) (last : Bool)
  /-- ADDI (R253). RD receives RA plus the sign-extended immediate. -/
  | addi (n : Nat) (f : AluF) (last : Bool)
  /-- ASLI (R253). RD receives RA shifted left by an immediate. -/
  | asli (n : Nat) (f : AluF) (last : Bool)
  /-- ASRI (R253). RD receives RA shifted right arithmetically by an immediate. -/
  | asri (n : Nat) (f : AluF) (last : Bool)
  /-- LSRI (R253). RD receives RA shifted right logically by an immediate. -/
  | lsri (n : Nat) (f : AluF) (last : Bool)
  /-- MVT (R253). A class register (I, M, W, LC, SR or RP) receives a D register. -/
  | mvt (n : Nat) (f : AluF) (last : Bool)
  /-- MVF (R253). A D register receives a class register. -/
  | mvf (n : Nat) (f : AluF) (last : Bool)
  /-- RDSYS (R256). A D register receives the system value named by the selector. -/
  | rdsys (n : Nat) (f : AluF) (last : Bool)
  /-- EVPOP (R257). The next event of the sample is taken into a quad, with Z set when the queue is empty. -/
  | evpop (n : Nat) (f : AluF) (last : Bool)
  /-- SLD (R258). 64 bits are read from Stock into a pair, landing 24 cycles later. -/
  | sld (n : Nat) (f : AluF) (bad : Nat) (last : Bool)
  /-- RLD (R258). A delay-ring entry is read at delay d from the position held at the start of the sample. -/
  | rld (n : Nat) (f : AluF) (bad : Nat) (last : Bool)
  /-- RAPP (R258). A D register is appended at the ring pointer's position. -/
  | rapp (n : Nat) (f : AluF) (bad : Nat) (last : Bool)
  /-- BR (R259). A conditional branch takes effect after two delay bundles. -/
  | br (n : Nat) (f : AluF) (last : Bool)
  /-- CALL (R259). The return address is pushed and execution branches after two delay bundles. -/
  | call (n : Nat) (f : AluF) (last : Bool)
  /-- RET (R259). An address is popped and execution branches to it after two delay bundles. -/
  | ret (n : Nat) (f : AluF) (last : Bool)
  /-- REP (R260). The next bundle is issued an immediate number of times in consecutive cycles. -/
  | rep (n : Nat) (f : AluF) (last : Bool)
  /-- REPR (R260). The next bundle is repeated a number of times taken from a D register. -/
  | repr (n : Nat) (f : AluF) (last : Bool)
  /-- LOOP (R261). A body of 2 to 64 bundles runs an immediate number of passes with LACT set. -/
  | loop (n : Nat) (f : AluF) (last : Bool)
  /-- LOOPR (R261). A loop body runs a number of passes taken from a D register. -/
  | loopr (n : Nat) (f : AluF) (last : Bool)
  /-- ENDS (R262). The sample ends; the output pair, send map and gains go to the send unit, and bound ring pointers advance. -/
  | ends (n : Nat) (f : AluF) (last : Bool)
  /-- BANK_HANDOVER (R273). A write of MEM_BANKk.OWNER hands an idle bank to the new owner, or is refused with REFUSED set. -/
  | bankHandover (k owner : Nat)
  /-- SCRUB_READ (R279). Every INTERVAL + 1 us the scrubber reads and checks the next Stock word. -/
  | scrubRead (bad : Nat)
  /-- TAMPER (R286). TAMPER_N low for at least 200 ns wipes Heartwood, raises source 58 and withholds the refill while the pin stays low. -/
  | tamper
  /-- VOLTAGE_GLITCH (R517). A VDD_CORE excursion beyond the glitch thresholds wipes Heartwood and raises source 58. -/
  | voltageGlitch
  /-- CLOCK_GLITCH (R517). A short SPCLK or PCLK period or phase wipes Heartwood and raises source 58. -/
  | clockGlitch
  /-- HEARTWOOD_REFILL (R286). After the wipe's zero-fill, and once TAMPER_N is high, Heartwood bytes 0x0000 to 0x00BF are refilled from the fuses. -/
  | heartwoodRefill (tamperHigh : Bool)
  /-- DECIMATOR_SETTLED (R308). When the last non-zero settling counter of a bus reaches 0, source 52 is raised. -/
  | decimatorSettled
  /-- DSYNC (R305). A qualified edge on DSYNC with DSEN set registers a sync request. -/
  | dsync (rising : Bool)
  /-- MIX_SYNC (R305). A write of 1 to MIX_CTRL.SYNC registers a sync request. -/
  | mixSync (v : Word)
  /-- SYNC_SAMPLE (R305). At the sync sample s_y, decimator histories are zeroed, stage periods restart, settling counters load and MIX_SYNCT is recorded. -/
  | syncSample
  /-- COEFFICIENT_WRITE (R303). A write of a bank's NTAP or coefficient updates FILL, or is ignored with WIGN set when the bank is in use or about to be. -/
  | coefficientWrite (addr value : Word)
  /-- PDM_CONTROL_SAMPLE (R311). A PDM channel's CIC comb sample is taken, scaled, clamped into MIX_PDMk_VAL and stamped. -/
  | pdmControlSample (k : Nat) (bits : List Bool)
  /-- FRAME_START (R334). At a serial-port frame start, FCNT and the stamps latch and the frame's slots are sent and received from the channel queues. -/
  | frameStart (n : Nat) (bclks : Nat) (rx : List Word)
  /-- FRAME_LOST (R320). A slave port with no frame start for two frame periods sets SAPn_STATUS.LOST. -/
  | frameLost (n : Nat)
  /-- OS_BOUNDARY (R326). At each OS boundary, each receive channel delivers its sample for the index at the output point, or 0 with an underrun. -/
  | osBoundary
  /-- SAP_START (R322). A write of SAP_START.GO schedules the start of the armed, enabled, stopped ports and clears ARM. -/
  | sapStart (v : Word)
  /-- PORT_START (R322). At the first OS boundary at least 2 OS after its trigger, a port sends its first frame with a shared o_0. -/
  | portStart (n : Nat)
  /-- FCNT_READ (R334). A read of SAPn_FCNT copies that frame's FSTAMP and CSTAMP into the holding registers. -/
  | fcntRead (n : Nat)
  /-- CVO_CHN_SET (R341). A CVO_CHn_SET write queues a code for the first CV tick at or after C. -/
  | cvoChnSet (n code : Nat)
  /-- CV_DRAIN (R341). At τ(s) + λ VS the tick's entries pass through curve, trim and clamp into all 16 converter latches together. -/
  | cvDrain
  /-- OVER_TEMPERATURE (R345). A CV buffer bank past its trip temperature sets OT and OTF, raises source 45 + k and makes its pins inert. -/
  | overTemperature (k : Nat)
  /-- OVER_TEMPERATURE_RELEASE (R345). A CV bank below its release temperature clears OT and drives again from the next drain. -/
  | overTemperatureRelease (k : Nat)
  /-- TIMER_START (R350). A TMR_CTRL.START bit loads CNT with PHASE and starts the timer at its next tick. -/
  | timerStart (v : Word)
  /-- TIMER_STOP (R350). A TMR_CTRL.STOP bit stops the timer, keeping its count and making an output pin inactive. -/
  | timerStop (v : Word)
  /-- MATCH (R349). CNT reaching CMP sets MATCH and, with IEM set on an XO32 timer, acts as the timer wake. -/
  | matchHit (n : Nat)
  /-- WRAP (R349). The counter wraps past PER, sets OVF, loads preloads, and stops a one-shot timer. -/
  | wrap (n : Nat)
  /-- TRIGGER_PULSE_END (R348). A trigger pulse ends after CMP ticks. -/
  | triggerPulseEnd (n : Nat)
  /-- GATE_EDGE (R351). A committed gate edge reaches its timer pin at τ(s) + (D_out + φ / 256) VS. -/
  | gateEdge (n : Nat)
  /-- CAPTURE (R352). A qualified counted input edge captures CNT and chain time into CAP and CAPT and sets NEW, or OVER if NEW was set. -/
  | capture (n : Nat) (rising : Bool) (count time : Word)
  /-- CAP_READ (R353). A read of TMRn_CAP returns the capture and clears NEW unless a capture lands in the same cycle. -/
  | capRead (n : Nat) (sameCycle : Option (Word × Word))
  /-- STUCK (R354). No capture for TOUT ms sets STUCK and may issue the matching gate note-off. -/
  | stuck (n : Nat)
  /-- AUTO_TUNE_GO (R359). A write of CVO_AT_CTRL.GO makes the run of an enabled job due. -/
  | autoTuneGo (v : Word)
  /-- AUTO_TUNE_DUE (R359). The boot delay, the scheduled interval or the retry delay expires and a job's run becomes due. -/
  | autoTuneDue (ch : Nat)
  /-- AUTO_TUNE_CLAIM (R356). A due run starts when no other job runs and, for scheduled or boot runs, the channel has been unused for 1 s. -/
  | autoTuneClaim
  /-- AUTO_TUNE_SETTLE (R356). After SETTLE ms at a point's code, the capture gate opens. -/
  | autoTuneSettle
  /-- AUTO_TUNE_GATE (R356). After GATE ms the point's frequency is computed, and the next point is written or the fit is begun. -/
  | autoTuneGate
  /-- HEADWAIT_EXPIRY (R363). With no squelch break on CB0 within HEADWAIT, the device becomes the headstock. -/
  | headwaitExpiry
  /-- SQUELCH_BREAK (R367). A receiver sees signal for at least 1 us, which starts training or makes a member candidate. -/
  | squelchBreak (p : Nat)
  /-- BEACON (R367). Every 1 ms an enabled downstream port that is not up sends TS1 for 2 us. -/
  | beacon (p : Nat)
  /-- TRAINING_SET (R367). Receipt of TS1 and TS2 sets advances training to link-up, or to isolation on version or role. -/
  | trainingSet (p : Nat) (role lpvMin lpvMax set count : Nat)
  /-- TRAINING_TIMEOUT (R367). Training not finished 100 us after the squelch break restarts at the next beacon. -/
  | trainingTimeout (p : Nat)
  /-- ACK (R372). An ACK set acknowledges frames up to its SEQ and grants credit. -/
  | ack (p : Nat) (seq credit : Nat)
  /-- NAK (R372). A NAK makes the sender resend every frame from the named SEQ onward. -/
  | nak (p : Nat) (seq : Nat)
  /-- REPLAY_TIMEOUT (R372). 4 us with frames unacknowledged resends from the oldest one; eight resends from one SEQ lose the link. -/
  | replayTimeout (p : Nat)
  /-- EVENT_UP (R110). The head receives a member's event and stamps it at its arrival plus offset plus L_chain. -/
  | eventUp (h : LinkHdr) (ev : EvRec)
  /-- EVENT_DN (R377). A census device applies the head's ordered event entries, allocating the targeted note-ons. -/
  | eventDn (h : LinkHdr) (entries : List DnEntry)
  /-- SUMMARY (R164). The head replaces its copy of a device's summaries and deducts later targetings again. -/
  | summary (h : LinkHdr) (tag : Nat) (epoch sample : Word) (sums : List (Word × Nat))
  /-- REG_REQ (R394). A member performs a forwarded register access and returns REG_RSP. -/
  | regReq (h : LinkHdr) (tag : Nat) (write : Bool) (addr value : Word)
  /-- REG_RSP (R394). The head returns a member's register-access status to the host. -/
  | regRsp (h : LinkHdr) (tag status : Nat) (value : Word)
  /-- MEMBER_RESPONSE_TIMEOUT (R394). A forwarded access with no response within 2 ms answers status 3. -/
  | memberResponseTimeout (tag : Nat)
  /-- HELLO (R384). A new device's HELLO, filled in with depth and path on the way, reaches the head. -/
  | hello (h : LinkHdr) (m : HelloMsg)
  /-- ASSIGN (R384). A member takes its ID, verdict, L_chain and sample anchor and begins locking or quarantine. -/
  | assign (h : LinkHdr) (m : AssignMsg)
  /-- STATUS (R384). The head receives a member's state, ship code and digest report. -/
  | status (h : LinkHdr) (m : StatusMsg)
  /-- ADMIT (R385). A member receives its admission sample and the head's epoch. -/
  | linkAdmit (h : LinkHdr) (sample epoch : Word) (gen : Nat)
  /-- ADMISSION (R385). At s_adm the member sets its epoch, applies the ADM records, enters VOICED and starts its ports. -/
  | admission
  /-- IMG (R388). A member receives a piece of the shipped image, and under SHIP 2 writes it into slot B. -/
  | img (h : LinkHdr) (offset : Nat) (data : List Byte)
  /-- IMAGE_LOAD (R388). With no active context, the member loads the shipped image in RAM, or is isolated with reason 11. -/
  | imageLoad (env : BootEnv)
  /-- SYNC (R379). A child computes its residual from SYNC, steps once or corrects rate, and updates ERR and its lock state. -/
  | sync (h : LinkHdr) (t : Word) (err : Nat)
  /-- SYNC_INTERVAL (R379). Every 1 ms the parent sends SYNC on each joined downstream port. -/
  | syncInterval
  /-- PD_REQ (R378). The parent stamps PD_REQ arrival and answers with PD_RSP. -/
  | pdReq (h : LinkHdr) (t2 t3 : Nat)
  /-- PD_RSP (R378). The child computes the peer delay from the four stamps. -/
  | pdRsp (h : LinkHdr) (t1 t2 t3 t4 : Nat)
  /-- PD_INTERVAL (R378). Every 1 ms the child end of each joined link sends PD_REQ. -/
  | pdInterval
  /-- LOCK_TIMEOUT (R380). A member not locked within LOCKTO of ASSIGN is quarantined with reason 4. -/
  | lockTimeout
  /-- SUM (R383). A parent receives a child's partial bus sums for a sample. -/
  | sum (h : LinkHdr) (sample : Word) (first : Nat) (vals : List (Nat × BitVec 40))
  /-- LOST (R392). The head removes the lost subtree from the census, handles its notes and raises source 22. -/
  | lost (h : LinkHdr) (depth : Nat) (t : Word) (path : List Bool)
  /-- HEADLOST (R393). A member passes HEADLOST downstream and fades its committed bus values to zero. -/
  | headlost (h : LinkHdr)
  /-- LINK_LOSS (R390). Loss of signal or symbol lock on a link fades the subtree's sums and sends LOST, or on CB0 starts the orphan fade. -/
  | linkLoss (p : Nat)
  /-- ORPHAN_ENTRY (R393). At the end of the 32-sample fade, the member frees every context, makes its pins inert and enters ORPHAN. -/
  | orphanEntry
  /-- MEMBER_RELEASE (R386). CBL_MCMD command 1 releases a member from quarantine reasons 2, 3 and 5 and readmits it. -/
  | memberRelease (dev : Nat)
  /-- MEMBER_QUARANTINE (R386). CBL_MCMD command 2 quarantines a member with reason 5. -/
  | memberQuarantine (dev : Nat)
  /-- MEMBER_ISOLATE (R387). CBL_MCMD command 3 isolates a member with reason 12 and holds its link isolated. -/
  | memberIsolate (dev : Nat)
  /-- MEMBER_SHIP (R388). CBL_MCMD command 4 ships the head's image to the member now. -/
  | memberShip (dev : Nat)
  /-- PORT_ENABLE (R390). Clearing CBL_Pn_CTRL.EN loses an up link and holds electrical idle; setting it again releases isolation. -/
  | portEnable (p : Nat) (v : Word)
  /-- TIME_STEP (R401). At the VS boundary after the first domain lock with an empty census, chain time steps by Δ and every held stamp shifts with it. -/
  | timeStep
  /-- ALARM (R405). Chain time reaching TIME_ALARM sets ALM, clears ALARM_EN and wakes the device from REST. -/
  | alarm
  /-- GPTP_SYNC (R411). A Sync of a tracked domain refreshes its mapping and lock state and, for the active domain, sets ADJ. -/
  | gptpSync (d : Nat) (m : SyncMeas)
  /-- ANNOUNCE (R409). An Announce refreshes the receipt timeout, and a grandmaster identity change loses the domain. -/
  | announce (d : Nat) (gm : Nat)
  /-- PEER_DELAY (R408). The service firmware handles an IEEE 802.1AS peer-delay message on the port. -/
  | peerDelay (capable : Bool) (ns : Int)
  /-- DOMAIN_LOST (R409). A missed-Sync or Announce timeout returns the domain to Listening. -/
  | domainLost (d : Nat)
  /-- NETWORK_LINK_CHANGE (R406). A PHY link-state change updates NET_STAT.LINK and raises source 59. -/
  | networkLinkChange (up : Bool) (speed : Nat)
  /-- MSRP (R417). An MSRP frame passes to the service firmware for stream reservations. -/
  | msrp (n : Nat) (ready failed : Bool)
  /-- MVRP (R417). An MVRP frame passes to the service firmware for VLAN membership. -/
  | mvrp (vid : Nat) (joined : Bool)
  /-- AVTP_FRAME (R418). A listener accepts a matching AAF frame and places its samples by presentation time, counting faults. -/
  | avtpFrame (n : Nat) (f : AvtpFrame)
  /-- TALKER_LAUNCH (R416). A talker frame is launched at LT, or when credit allows, and counted in DELAYED if late. -/
  | talkerLaunch (n : Nat) (creditOk : Bool)
  /-- STREAM_TIMEOUT (R420). No accepted frame for 8 frame periods sets TIMEOUT and raises source 60. -/
  | streamTimeout (n : Nat)
  /-- EXTENSION_ANCHOR (R413). At least once per second the firmware publishes the extension anchor under the sequence value. -/
  | extensionAnchor
  /-- TIME_CNTL_READ (R421). A read of TIME_CNTL latches TIME_CNTH and TIME_SNAP. -/
  | timeCntlRead
  /-- INTER_BYTE_TIMEOUT (R434). More than TOUT us between two frame bytes discards the frame, counts TOUT and raises source 16. -/
  | interByteTimeout
  /-- PING (R437). PING returns SYS_ID and CBL_STAT. -/
  | ping (h : HostHdr)
  /-- REG_READ (R437). REG_READ returns 1 to 64 words from consecutive addresses under the mode rules. -/
  | regRead (h : HostHdr) (addr : Word) (count : Nat) (bad : Nat)
  /-- REG_WRITE (R437). REG_WRITE writes 1 to 64 words to consecutive addresses under the access codes. -/
  | regWrite (h : HostHdr) (addr : Word) (words : List Word)
  /-- UMP (R437). UMP passes whole packets to intake with live or JR stamps. -/
  | ump (h : HostHdr) (words : List UmpWord)
  /-- TIMED_UMP (R108). TIMED_UMP passes packets to intake stamped exactly at the supplied chain time. -/
  | timedUmp (h : HostHdr) (t : Word) (words : List UmpWord)
  /-- MIDI_OUT (R437). MIDI_OUT queues bytes on a MIDI transmitter, or answers status 7. -/
  | midiOut (h : HostHdr) (port : Nat) (data : List Byte)
  /-- PATCH_WRITE (R175). PATCH_WRITE issues a stamped service event that writes the inactive copy of a patch slot. -/
  | patchWrite (h : HostHdr) (slot : Nat) (stamp : Word) (data : List Byte)
  /-- FLASH_READ (R437). FLASH_READ returns up to 1,000 bytes of flash. -/
  | flashRead (h : HostHdr) (offset len : Nat)
  /-- FLASH_ERASE (R69). FLASH_ERASE erases sectors, or answers status 6 where R52 or R69 forbid it. -/
  | flashErase (h : HostHdr) (first count : Nat)
  /-- FLASH_PROG (R69). FLASH_PROG programs up to 256 bytes within one page, subject to R52 and R69. -/
  | flashProg (h : HostHdr) (offset : Nat) (data : List Byte)
  /-- VERIFY (R68). VERIFY runs the header, section-table and digest checks on a slot without booting it and returns a failure code. -/
  | verify (h : HostHdr) (slot : Nat)
  /-- CONFIRM (R65). CONFIRM programs CONFIRMED on the running slot, or answers status 1. -/
  | confirm (h : HostHdr)
  /-- JOURNAL_STAT (R463). The JOURNAL STAT sub-command returns NVJ_STAT, NVJ_LIVE, NVJ_LIMIT and NVJ_LIFE. -/
  | journalStat (h : HostHdr)
  /-- JOURNAL_READ (R463). The JOURNAL READ sub-command returns part of the live record of a type and key. -/
  | journalRead (h : HostHdr) (type key offset len : Nat)
  /-- JOURNAL_NEXT (R463). The JOURNAL NEXT sub-command returns the next live key, or the next newer appended record. -/
  | journalNext (h : HostHdr) (type key : Nat)
  /-- JOURNAL_WRITE (R463). The JOURNAL WRITE sub-command queues a host record, answering after read-back outside a transaction. -/
  | journalWrite (h : HostHdr) (type key txid : Nat) (data : List Byte)
  /-- JOURNAL_DELETE (R463). The JOURNAL DELETE sub-command queues a DELETE record for a key. -/
  | journalDelete (h : HostHdr) (type key txid : Nat)
  /-- JOURNAL_TXOPEN (R463). The JOURNAL TXOPEN sub-command opens a transaction and returns its TXID. -/
  | journalTxopen (h : HostHdr)
  /-- JOURNAL_TXCOMMIT (R446). The JOURNAL TXCOMMIT sub-command writes the COMMIT record that closes a transaction. -/
  | journalTxcommit (h : HostHdr) (txid : Nat)
  /-- JOURNAL_TXABORT (R463). The JOURNAL TXABORT sub-command abandons a transaction without writing. -/
  | journalTxabort (h : HostHdr) (txid : Nat)
  /-- JOURNAL_RECALL (R463). The JOURNAL RECALL sub-command writes a PRESET's pairs to the staging copy. -/
  | journalRecall (h : HostHdr) (preset : Nat)
  /-- JOURNAL_FORMAT (R463). In SERVICE, the JOURNAL FORMAT sub-command erases both superblock sectors and formats the region. -/
  | journalFormat (h : HostHdr)
  /-- DUMP_READ (R494). DUMP_READ returns bytes from a flash dump slot or from the RAM copy. -/
  | dumpRead (h : HostHdr) (source offset len : Nat)
  /-- FUSE_BURN_KEY_HASH (R438). FUSE_BURN field 0 burns a key hash into an unwritten slot. -/
  | fuseBurnKeyHash (h : HostHdr) (index : Nat) (value : List Byte)
  /-- FUSE_BURN_REVOKE (R438). FUSE_BURN field 1 burns the revocation of a key slot. -/
  | fuseBurnRevoke (h : HostHdr) (index : Nat)
  /-- FUSE_BURN_MIN_VERSION (R438). FUSE_BURN field 2 raises the minimum security version. -/
  | fuseBurnMinVersion (h : HostHdr) (index : Nat)
  /-- FUSE_BURN_LIFE_CYCLE (R438). FUSE_BURN field 3 advances the life-cycle state and wipes Heartwood. -/
  | fuseBurnLifeCycle (h : HostHdr) (index : Nat)
  /-- UNKNOWN_OPCODE (R436). A valid frame with an unknown opcode is answered with status 5. -/
  | unknownOpcode (h : HostHdr) (opcode : Nat)
  /-- RECORD_WRITE (R445). The journal engine writes the next queued record, payload first and header last, and reads it back. -/
  | recordWrite (env : FlashEnv)
  /-- SECTOR_ERASE (R456). A released or unknown sector is erased when a token is available and its erase header is programmed. -/
  | sectorErase (env : FlashEnv)
  /-- SUPERBLOCK_SAVE (R443). Every 24 h of RUN a superblock is written to save TOKENS. -/
  | superblockSave (env : FlashEnv)
  /-- POWER_FAIL (R453). PFAIL_N low for 10 us raises source 40, sets PFAIL and stops new flash commands after the record in progress. -/
  | powerFail
  /-- POWER_FAIL_CLEAR (R454). PFAIL_N high for 100 ms clears PFAIL, and the held records are written into a new sector. -/
  | powerFailClear
  /-- COUNTERS_RECORD (R448). After every hour of RUN the service firmware writes the COUNTERS record. -/
  | countersRecord
  /-- EVENT_LOG_RECORD (R448). With 64 entries pending, or 60 s of RUN with any pending, an EVENT_LOG record is written. -/
  | eventLogRecord
  /-- AGE_CHECK (R469). A write of AGE_CTRL.CHECK makes a measurement due. -/
  | ageCheck (v : Word)
  /-- SCHEDULED_MEASUREMENT (R469). CHECKH hours of RUN after the previous measurement, a measurement falls due and the XREF and wear records are written. -/
  | scheduledMeasurement
  /-- TEMPERATURE_SAMPLE (R467). Every 1 ms the die temperature is sampled, updating T_w and making a measurement due on a 2  deg C rise. -/
  | temperatureSample (temp : Int)
  /-- MEASUREMENT (R470). Once idle cycles are found, the sites are measured and the re-planning ladder acts on the decision slack. -/
  | measurement (m : Sense)
  /-- MEASUREMENT_LATE (R469). A measurement not taken within 1 h of falling due increments AGE_CNT.LATE. -/
  | measurementLate
  /-- VOLTAGE_STEP (R470). VSETTLE after a 5 mV VOUT_COMMAND, READ_VOUT confirms the voltage and slack is measured again. -/
  | voltageStep (avs : AvsRes) (m : Sense)
  /-- CLOCK_STEP_BEGIN (R472). Once no commit is pending, CLKSEQ sets, commits are refused, and the allocator stops offering removed contexts. -/
  | clockStepBegin
  /-- CONTEXT_REMOVAL (R472). When no removed context has a pending note-on, they begin in-place fades at s_r. -/
  | contextRemoval
  /-- CLOCK_STEP_APPLY (R472). At the VS boundary at which every removed context is free, STEP, budgets and voice count change together and the plan is written. -/
  | clockStepApply
  /-- AGE_CLEAR (R471). AGE_CTRL.CLEAR in SERVICE discards the plan and T_w. -/
  | ageClear (v : Word)
  /-- EVT_RAW_CLEAR (R485). A W1C clear of a counted source's RAW bit starts its hold-off. -/
  | evtRawClear (h : Nat) (v : Word)
  /-- HOLDOFF_END (R485). The hold-off of a counted source expires, so the next raise can set RAW again. -/
  | holdoffEnd (k : Nat)
  /-- WATCHDOG_EXPIRY (R489). 250 ms with no refresh raises source 57 and freezes and restarts the firmware, fails the boot, or restarts SERVICE. -/
  | watchdogExpiry
  /-- SHAVINGS_DUMP (R491). After the freeze, the firmware completes the journal record, assembles the dump in bank 15 and programs it into flash. -/
  | shavingsDump (readBackOk : Bool)
  /-- DUMP_WRITTEN (R492). The dump completes, EVT_DUMP records the outcome and source 63 is raised. -/
  | dumpWritten
  /-- FATAL_SERVICE_ENTRY (R486). At least 1 ms after the dump announcement, the device enters SERVICE. -/
  | fatalServiceEntry
  /-- DUMP_SLOT_ERASE (R490). At RUN entry with no erased slot, one dump slot is erased in the background. -/
  | dumpSlotErase
  /-- RESET_N_RISING_EDGE (R23). The rising edge of RESET_N after a pin reset is the moment at which BOOTSEL0, BOOTSEL1, HEAD and SVC are sampled into SYS_STRAP, from which BLANK can advance. -/
  | resetNRisingEdge (straps : Straps)
  /-- XO32_QUALIFIED (R522). The 32.768 kHz crystal completes its start-up and qualifies, and SYS_CLKSTAT.XO32_OK goes from 0 to 1, which makes REST-COLD requests legal. -/
  | xo32Qualified
  /-- XREF_LEAVES_RANGE (R508). XREF drifts outside ±300 ppm of nominal, or returns inside it, and XREF_OK clears or sets accordingly. -/
  | xrefLeavesRange (inRange : Bool)
  deriving DecidableEq, Repr

end Sys2Proof
end

