-- ==== Sys2Proof/Decode.lean ====
section
/-! DEFINITION. Decoding of a row's word. The rows of the opcode table give no bits: a command of this block is an event,
not a word, so no word spells one. -/
namespace Sys2Proof

/-- The command that the `nbits` bits of `w` spell by the table's bits: none, since the table gives no row bits. -/
def decodeTableWord (_nbits _w : Nat) : Option Instr := none

end Sys2Proof
end

