-- ==== Sys2Proof/Config.lean ====
section
/-! DEFINITION. What the spec leaves open: constants with no body, so that no proof can see their value. Each is named
in the assumption log. -/
namespace Sys2Proof.Config

/-- A value of the ROM Bowl program whose arithmetic the chapters do not give to the bit (tables of the ROM, roundings
of a stage, filter states): a function of the quantity's number and of everything it is computed from, so that a
re-render gives the same value (R135, R136; log entry 10). -/
opaque bowlNum : Nat → List Int → BitVec 32

/-- Bytes of the ROM copy of Bowl: program, X and Y shared tables (R223), by memory (0 program, 1 X, 2 Y) and byte
address; log entry 11. -/
opaque bowlRom : Nat → Nat → BitVec 8

/-- ENTRY of the Zheul build of Bowl (R169, R223); log entry 11. -/
opaque bowlEntry : BitVec 11

/-- A value the source leaves undefined after an operation that goes on: by the counter of free values. -/
opaque freeWord : Nat → BitVec 32

/-- The fuse contents of a part as made: the device unique identifier, 16 bytes (R285); log entry 5. -/
opaque deviceUid : Nat → BitVec 8

end Sys2Proof.Config
end

