-- ==== Sys2Proof/Machine/Num.lean ====
section
/-! DEFINITION. The number tables of the chapters, computed in fixed point with 128 fractional bits: powers of two (R179,
R194, R200), the cosine fade (R158), logarithms (R357), and the envelope curves (R195). -/
namespace Sys2Proof.Machine

/-- One in the fixed point of this file. -/
def one128 : Nat := 2 ^ 128
/-- pi and the natural logarithm of 2, times 2^128. -/
def pi128 : Nat := 1069028584064966747859680373161870783300
def ln2x128 : Nat := 235865763225513294137944142764154484399

/-- exp(x) for x below 2 in fixed point, by its power series: `n` more terms from term `t` with index `k`. -/
def expSeries : Nat → Nat → Nat → Nat → Nat
  | 0, _, _, _ => 0
  | n + 1, x, k, t => t + expSeries n x (k + 1) (t * x / one128 / k)

/-- 2^(num / den) in fixed point. -/
def exp2Fix (num : Int) (den : Nat) : Nat :=
  let q := num / (den : Int)
  let r := (num % (den : Int)).toNat
  let m := expSeries 40 (ln2x128 * r / den) 1 one128
  if q ≥ 0 then m * 2 ^ q.toNat else m / 2 ^ (-q).toNat

/-- cos(x) for x up to pi in fixed point: the even terms, signs alternating. -/
def cosSeries : Nat → Nat → Nat → Int → Int
  | 0, _, _, _ => 0
  | n + 1, x2, k, t => t + cosSeries n x2 (k + 2) (-(t * (x2 : Int) / (one128 : Int) / ((k * (k + 1) : Nat) : Int)))

/-- The fade table T of R158: round(2^23 (1 + cos(pi i / 1024)) / 2). -/
def fadeT (i : Nat) : Nat :=
  let i := min i 1024
  let x := pi128 * i / 1024
  let c := cosSeries 40 (x * x / one128) 1 (one128 : Int)
  (((1 + (one128 : Int) + c) / 2 * 2 ^ 23 + (one128 / 2 : Nat)) / (one128 : Int)).toNat

/-- Bits of the fraction of log2 of `x` in [1, 2), most significant first, by squaring: the sum of the first `n` bits
times 2^n. -/
def log2Frac : Nat → Nat → Nat → Nat
  | 0, _, acc => acc
  | n + 1, x, acc =>
    let y := x * x / one128
    if y ≥ 2 * one128 then log2Frac n (y / 2) (2 * acc + 1) else log2Frac n y (2 * acc)

/-- log2(num / den) times 2^64, for positive num and den. -/
def log2x64 (num den : Nat) : Int :=
  let e : Int := (Nat.log2 num : Int) - (Nat.log2 den : Int)
  let x := if e ≥ 0 then num * one128 / (den * 2 ^ e.toNat) else num * one128 * 2 ^ (-e).toNat / den
  let e' := if x < one128 then e - 1 else e
  let x' := if x < one128 then 2 * x else x
  e' * 2 ^ 64 + (log2Frac 64 x' 0 : Int)

/-- round(786,432 log2(num / den)): a frequency ratio as a pitch difference (R178, R357). -/
def pitchOf (num den : Nat) : Int := (log2x64 num den * 786432 + 2 ^ 63) / 2 ^ 64

/-- E[i] of R179: round(2^30 2^(i/768)). -/
def expE (i : Nat) : Nat := (exp2Fix i 768 + 2 ^ 97) / 2 ^ 98

/-- K_c[i] of R195: round(65,536 (i/256)^(2^(-c/2))). -/
def curveK (c : Int) (i : Nat) : Nat :=
  if i = 0 then 0 else if i ≥ 256 then 65536 else
    let l := -(log2x64 i 256)
    let p := exp2Fix (-c) 2
    let e := l * (p : Int) / (one128 : Int)
    (exp2Fix (-e) (2 ^ 64) * 65536 + one128 / 2) / one128

/-- A duration in samples of time code T at a voice rate, scaled by 2^(num/den): max(1, round(...)) (R194). -/
def timeCode (t rate : Nat) (num : Int) (den : Nat) : Nat :=
  if t = 0 then 1 else
    let x := exp2Fix ((t : Int) * den + 200 * num) (200 * den) * rate
    max 1 ((x + 10000 * one128) / (20000 * one128))

/-- A number of the Bowl program for the exact value num / den, where the chapters give the value and not its rounding:
one of the two integers beside it, which of them a free value (log entry 10); the value itself where it is one. -/
def bq (code : Nat) (num : Int) (den : Nat) : Int :=
  if num % (den : Int) = 0 then num / (den : Int)
  else num / (den : Int) + ((Config.bowlNum code [num, den]).toNat % 2 : Nat)

end Sys2Proof.Machine
end

