-- ==== Sys2Proof/Machine/RegMap.lean ====
section
/-! DEFINITION. The register map: every register of the SYS to TIME blocks, field by field, with its access code and
its reset value, from the register tables of the chapters (the rule of each stands beside its group). A field the
tables do not name is reserved: it reads 0 and ignores writes (R6). -/
namespace Sys2Proof.Machine

/-- The access codes of R7; `cnt` is a W1C field that the chapters call a counter field (R520). -/
inductive Acc where
  | rw | ro | w1c | cnt | w1s | wo | st | lk
  deriving DecidableEq, Repr

/-- One field of a register: bits `hi` to `lo`, both included (R5). -/
structure FieldDesc where
  hi : Nat
  lo : Nat
  acc : Acc
  deriving DecidableEq, Repr

/-- A register, or a family of like registers repeated with `n1` steps of `s1` bytes, `n2` of `s2`, `n3` of `s3`. -/
structure RegGroup where
  base : Nat
  n1 : Nat
  s1 : Nat
  n2 : Nat
  s2 : Nat
  n3 : Nat
  s3 : Nat
  rst : Nat
  fields : List FieldDesc
  deriving DecidableEq, Repr

/-- The SYS block. -/
def regsSys : List RegGroup := [
  -- SYS_ID (R2): ID [31:0]
  ⟨0x0, 1, 0x0, 1, 0x0, 1, 0x0, 0x92560D01, [⟨31, 0, .ro⟩]⟩,
  -- SYS_MODE (R46): ILL_CNT [23:16], ILL_CLR [15:15], PREV [14:12], PEND [9:9], DEPTH [8:8], REQ [6:4], CUR [2:0]
  ⟨0x4, 1, 0x0, 1, 0x0, 1, 0x0, 0x0, [⟨23, 16, .ro⟩, ⟨15, 15, .wo⟩, ⟨14, 12, .ro⟩, ⟨9, 9, .ro⟩, ⟨8, 8, .rw⟩, ⟨6, 4, .wo⟩, ⟨2, 0, .ro⟩]⟩,
  -- SYS_RESET (R46): KEY [31:16], GO [0:0]
  ⟨0x8, 1, 0x0, 1, 0x0, 1, 0x0, 0x0, [⟨31, 16, .wo⟩, ⟨0, 0, .wo⟩]⟩,
  -- SYS_RSTCAUSE (R47): BY_HOST [10:10], BY_MIDI0 [9:9], BY_WAKE [8:8], CORE_POR [4:4], SW [3:3], PIN [2:2], SHELF [1:1], POR [0:0]
  ⟨0xC, 1, 0x0, 1, 0x0, 1, 0x0, 0x1, [⟨10, 10, .w1c⟩, ⟨9, 9, .w1c⟩, ⟨8, 8, .w1c⟩, ⟨4, 4, .w1c⟩, ⟨3, 3, .w1c⟩, ⟨2, 2, .w1c⟩, ⟨1, 1, .w1c⟩, ⟨0, 0, .w1c⟩]⟩,
  -- SYS_STRAP (R47): SVC [3:3], HEAD [2:2], BOOTSEL [1:0]
  ⟨0x10, 1, 0x0, 1, 0x0, 1, 0x0, 0x0, [⟨3, 3, .ro⟩, ⟨2, 2, .ro⟩, ⟨1, 0, .ro⟩]⟩,
  -- SYS_CLKSTAT (R47): LPLL_LOCK [6:6], PCLK_SRC [5:5], SPLL_LOCK [4:4], APLL_LOCK [3:3], HFRC_ON [2:2], XREF_OK [1:1], XO32_OK [0:0]
  ⟨0x20, 1, 0x0, 1, 0x0, 1, 0x0, 0x4, [⟨6, 6, .ro⟩, ⟨5, 5, .ro⟩, ⟨4, 4, .ro⟩, ⟨3, 3, .ro⟩, ⟨2, 2, .ro⟩, ⟨1, 1, .ro⟩, ⟨0, 0, .ro⟩]⟩,
  -- SYS_SPLL (R522): STEP [3:0]
  ⟨0x24, 1, 0x0, 1, 0x0, 1, 0x0, 0x8, [⟨3, 0, .ro⟩]⟩,
  -- SYS_APLL (R522): FAMILY [0:0]
  ⟨0x28, 1, 0x0, 1, 0x0, 1, 0x0, 0x0, [⟨0, 0, .lk⟩]⟩,
  -- SYS_PWR (R522): IDLE_MS [31:16], SHELF_XO32 [0:0]
  ⟨0x30, 1, 0x0, 1, 0x0, 1, 0x0, 0x0, [⟨31, 16, .rw⟩, ⟨0, 0, .rw⟩]⟩,
  -- SYS_WAKE_EN (R522): ALARM [10:10], TMR [9:9], PIN [8:8], HOST [7:7], CB [6:4], MIDI [3:0]
  ⟨0x34, 1, 0x0, 1, 0x0, 1, 0x0, 0x7FF, [⟨10, 10, .rw⟩, ⟨9, 9, .rw⟩, ⟨8, 8, .rw⟩, ⟨7, 7, .rw⟩, ⟨6, 4, .rw⟩, ⟨3, 0, .rw⟩]⟩,
  -- SYS_WAKE_SRC (R522): ALARM [10:10], TMR [9:9], PIN [8:8], HOST [7:7], CB [6:4], MIDI [3:0]
  ⟨0x38, 1, 0x0, 1, 0x0, 1, 0x0, 0x0, [⟨10, 10, .w1c⟩, ⟨9, 9, .w1c⟩, ⟨8, 8, .w1c⟩, ⟨7, 7, .w1c⟩, ⟨6, 4, .w1c⟩, ⟨3, 0, .w1c⟩]⟩,
  -- SYS_AON_SEC (R522): SEC [31:0]
  ⟨0x3C, 1, 0x0, 1, 0x0, 1, 0x0, 0x0, [⟨31, 0, .ro⟩]⟩,
  -- SYS_GATE (R522): OPEN [15:0]
  ⟨0x40, 1, 0x0, 1, 0x0, 1, 0x0, 0x0, [⟨15, 0, .ro⟩]⟩]

/-- The STG block. -/
def regsStg : List RegGroup := [
  -- STG_CTRL (R85): WHEN [5:4], ABORT [3:3], DISCARD [2:2], COMMIT [1:1], CHECK [0:0]
  ⟨0x10000, 1, 0x0, 1, 0x0, 1, 0x0, 0x0, [⟨5, 4, .rw⟩, ⟨3, 3, .wo⟩, ⟨2, 2, .wo⟩, ⟨1, 1, .wo⟩, ⟨0, 0, .wo⟩]⟩,
  -- STG_STATUS (R85): RULE [31:24], REJ [23:20], CSTATE [19:17], LATE [4:4], RESULT [3:2], PENDING [1:1], BUSY [0:0]
  ⟨0x10004, 1, 0x0, 1, 0x0, 1, 0x0, 0x0, [⟨31, 24, .ro⟩, ⟨23, 20, .ro⟩, ⟨19, 17, .ro⟩, ⟨4, 4, .w1c⟩, ⟨3, 2, .ro⟩, ⟨1, 1, .ro⟩, ⟨0, 0, .ro⟩]⟩,
  -- STG_AT (R85): TIME [31:0]
  ⟨0x10008, 1, 0x0, 1, 0x0, 1, 0x0, 0x0, [⟨31, 0, .rw⟩]⟩,
  -- STG_EPOCH (R85): EPOCH [31:0]
  ⟨0x1000C, 1, 0x0, 1, 0x0, 1, 0x0, 0x0, [⟨31, 0, .ro⟩]⟩,
  -- STG_PEEK_ADDR (R85): ADDR [31:0]
  ⟨0x10010, 1, 0x0, 1, 0x0, 1, 0x0, 0x0, [⟨31, 0, .rw⟩]⟩,
  -- STG_PEEK_DATA (R85): DATA [31:0]
  ⟨0x10014, 1, 0x0, 1, 0x0, 1, 0x0, 0x0, [⟨31, 0, .ro⟩]⟩,
  -- STG_FAIL_ADDR (R85): ADDR [31:0]
  ⟨0x10018, 1, 0x0, 1, 0x0, 1, 0x0, 0x0, [⟨31, 0, .ro⟩]⟩,
  -- STG_LAST (R85): TIME [31:0]
  ⟨0x1001C, 1, 0x0, 1, 0x0, 1, 0x0, 0x0, [⟨31, 0, .ro⟩]⟩,
  -- STG_CHAIN (R85): DEVID [31:24], RULE [7:0]
  ⟨0x10020, 1, 0x0, 1, 0x0, 1, 0x0, 0x0, [⟨31, 24, .ro⟩, ⟨7, 0, .ro⟩]⟩,
  -- STG_BOOT (R85): ATTEMPTS [27:24], FAIL1 [23:16], FAIL2 [15:8], CONF [2:2], SLOT [1:0]
  ⟨0x10024, 1, 0x0, 1, 0x0, 1, 0x0, 0x0, [⟨27, 24, .ro⟩, ⟨23, 16, .ro⟩, ⟨15, 8, .ro⟩, ⟨2, 2, .ro⟩, ⟨1, 0, .ro⟩]⟩,
  -- STG_IMGVER (R85): VALUE [31:0]
  ⟨0x10028, 1, 0x0, 1, 0x0, 1, 0x0, 0x0, [⟨31, 0, .ro⟩]⟩,
  -- STG_IMGDIG (R85): VALUE [31:0]
  ⟨0x10040, 8, 0x4, 1, 0x0, 1, 0x0, 0x0, [⟨31, 0, .ro⟩]⟩]

/-- The EVT block. -/
def regsEvt : List RegGroup := [
  -- EVT_RAW (R495): RAW [31:0]
  ⟨0x20000, 2, 0x4, 1, 0x0, 1, 0x0, 0x0, [⟨31, 0, .w1c⟩]⟩,
  -- EVT_MASK0 (R495): MASK [31:0]
  ⟨0x20008, 1, 0x0, 1, 0x0, 1, 0x0, 0xFFFFFFFF, [⟨31, 0, .rw⟩]⟩,
  -- EVT_MASK1 (R495): MASK [31:0]
  ⟨0x2000C, 1, 0x0, 1, 0x0, 1, 0x0, 0x7CBFFFFF, [⟨31, 0, .rw⟩]⟩,
  -- EVT_ROUTE (R495): ROUTE [31:0]
  ⟨0x20010, 4, 0x4, 1, 0x0, 1, 0x0, 0x0, [⟨31, 0, .rw⟩]⟩,
  -- EVT_CTRL (R495): HOLDOFF [15:0]
  ⟨0x20020, 1, 0x0, 1, 0x0, 1, 0x0, 0xA, [⟨15, 0, .rw⟩]⟩,
  -- EVT_PIN (R495): LOW [1:0]
  ⟨0x20024, 1, 0x0, 1, 0x0, 1, 0x0, 0x0, [⟨1, 0, .ro⟩]⟩,
  -- EVT_FATAL (R495): VALID [31:31], SRC [13:8], MODE [2:0]
  ⟨0x20028, 1, 0x0, 1, 0x0, 1, 0x0, 0x0, [⟨31, 31, .ro⟩, ⟨13, 8, .ro⟩, ⟨2, 0, .ro⟩]⟩,
  -- EVT_FTIME (R495): TIME [31:0]
  ⟨0x2002C, 1, 0x0, 1, 0x0, 1, 0x0, 0x0, [⟨31, 0, .ro⟩]⟩,
  -- EVT_DUMP (R495): RES [31:28], SLOT [27:26], ERASED [25:24], DSEQ [15:0]
  ⟨0x20030, 1, 0x0, 1, 0x0, 1, 0x0, 0x0, [⟨31, 28, .ro⟩, ⟨27, 26, .ro⟩, ⟨25, 24, .ro⟩, ⟨15, 0, .ro⟩]⟩,
  -- EVT_WDT (R495): RESTARTS [31:16]
  ⟨0x20034, 1, 0x0, 1, 0x0, 1, 0x0, 0x0, [⟨31, 16, .cnt⟩]⟩,
  -- EVT_COUNT (R495): SUPP [31:16], TOTAL [15:0]
  ⟨0x20100, 22, 0x4, 1, 0x0, 1, 0x0, 0x0, [⟨31, 16, .cnt⟩, ⟨15, 0, .cnt⟩]⟩]

/-- The NOTE block. -/
def regsNote : List RegGroup := [
  -- NOTE_STAT (R117): HWM [15:8], OCC [7:0]
  ⟨0x30000, 1, 0x0, 1, 0x0, 1, 0x0, 0x0, [⟨15, 8, .ro⟩, ⟨7, 0, .ro⟩]⟩,
  -- NOTE_HORIZON (R117): H [6:0]
  ⟨0x30004, 1, 0x0, 1, 0x0, 1, 0x0, 0x20, [⟨6, 0, .st⟩]⟩,
  -- NOTE_CNT0 (R117): DUP [31:24], OVFL [23:16], LATE [15:8]
  ⟨0x30008, 1, 0x0, 1, 0x0, 1, 0x0, 0x0, [⟨31, 24, .cnt⟩, ⟨23, 16, .cnt⟩, ⟨15, 8, .cnt⟩]⟩,
  -- NOTE_CNT1 (R117): REANCH [31:24], RANGE [23:16], UNSUP [15:8], DISC [7:0]
  ⟨0x3000C, 1, 0x0, 1, 0x0, 1, 0x0, 0x0, [⟨31, 24, .cnt⟩, ⟨23, 16, .cnt⟩, ⟨15, 8, .cnt⟩, ⟨7, 0, .cnt⟩]⟩,
  -- NOTE_SRC (R117): EN [31:31], ASENSE [26:26], JR [25:25], AT [24:24], OFS [19:0]
  ⟨0x30010, 6, 0x4, 1, 0x0, 1, 0x0, 0x800003E8, [⟨31, 31, .st⟩, ⟨26, 26, .st⟩, ⟨25, 25, .st⟩, ⟨24, 24, .st⟩, ⟨19, 0, .st⟩]⟩,
  -- NOTE_JR (R117): WIN [15:0]
  ⟨0x30040, 1, 0x0, 1, 0x0, 1, 0x0, 0x7D0, [⟨15, 0, .st⟩]⟩,
  -- NOTE_SYSEX (R117): MFR [31:16], DEVID [15:0]
  ⟨0x30044, 1, 0x0, 1, 0x0, 1, 0x0, 0x7D007F, [⟨31, 16, .st⟩, ⟨15, 0, .st⟩]⟩,
  -- NOTE_GATE (R117): EN [31:31], PART [28:24], KEY [22:16], VEL [15:0]
  ⟨0x30080, 16, 0x4, 1, 0x0, 1, 0x0, 0x3C8000, [⟨31, 31, .st⟩, ⟨28, 24, .st⟩, ⟨22, 16, .st⟩, ⟨15, 0, .st⟩]⟩,
  -- NOTE_PART_MAP (R117): EN [31:31], PORTS [28:24], GROUP [19:16], CHAN [15:0]
  ⟨0x30100, 32, 0x20, 1, 0x0, 1, 0x0, 0x0, [⟨31, 31, .st⟩, ⟨28, 24, .st⟩, ⟨19, 16, .st⟩, ⟨15, 0, .st⟩]⟩,
  -- NOTE_PART_ZONE (R117): VEL_HI [30:24], VEL_LO [22:16], KEY_HI [14:8], KEY_LO [6:0]
  ⟨0x30104, 32, 0x20, 1, 0x0, 1, 0x0, 0x7F007F00, [⟨30, 24, .st⟩, ⟨22, 16, .st⟩, ⟨14, 8, .st⟩, ⟨6, 0, .st⟩]⟩,
  -- NOTE_PART_TUNE (R117): FINE [31:16], TRANSPOSE [15:8], TABLE [5:0]
  ⟨0x30108, 32, 0x20, 1, 0x0, 1, 0x0, 0x3F, [⟨31, 16, .st⟩, ⟨15, 8, .st⟩, ⟨5, 0, .st⟩]⟩,
  -- NOTE_PART_MODE (R117): BEND [29:24], TIGHT [8:8], UNISON [7:4], VOICING [1:0]
  ⟨0x3010C, 32, 0x20, 1, 0x0, 1, 0x0, 0x2000010, [⟨29, 24, .st⟩, ⟨8, 8, .st⟩, ⟨7, 4, .st⟩, ⟨1, 0, .st⟩]⟩,
  -- NOTE_PART_ALLOC (R117): LIMIT [24:16], RESERVE [8:0]
  ⟨0x30110, 32, 0x20, 1, 0x0, 1, 0x0, 0x1000000, [⟨24, 16, .st⟩, ⟨8, 0, .st⟩]⟩,
  -- NOTE_PART_MPE (R117): LIVE [31:28], MCM_EN [24:24], MBR_BEND [21:16], MEMBERS [7:4], ZONE [1:0]
  ⟨0x30114, 32, 0x20, 1, 0x0, 1, 0x0, 0x13000F0, [⟨31, 28, .ro⟩, ⟨24, 24, .st⟩, ⟨21, 16, .st⟩, ⟨7, 4, .st⟩, ⟨1, 0, .st⟩]⟩,
  -- NOTE_PART_STEAL (R117): RETRIG [17:16], RESCUE [12:12], FADE [11:8], PROTECT [5:4], PRIO [3:0]
  ⟨0x30118, 32, 0x20, 1, 0x0, 1, 0x0, 0x300, [⟨17, 16, .st⟩, ⟨12, 12, .st⟩, ⟨11, 8, .st⟩, ⟨5, 4, .st⟩, ⟨3, 0, .st⟩]⟩,
  -- NOTE_PART_STATE (R117): SOST [25:25], SUST [24:24], PROGRAM [23:16], SOUNDING [8:0]
  ⟨0x3011C, 32, 0x20, 1, 0x0, 1, 0x0, 0x0, [⟨25, 25, .ro⟩, ⟨24, 24, .ro⟩, ⟨23, 16, .ro⟩, ⟨8, 0, .ro⟩]⟩,
  -- NOTE_TUNING (R117): PITCH [31:0]
  ⟨0x38000, 32, 0x200, 128, 0x4, 1, 0x0, 0x0, [⟨31, 0, .ro⟩]⟩]

/-- The ALLOC block. -/
def regsAlloc : List RegGroup := [
  -- ALLOC_CTRL (R168): SPREAD [0:0]
  ⟨0x40000, 1, 0x0, 1, 0x0, 1, 0x0, 0x0, [⟨0, 0, .st⟩]⟩,
  -- ALLOC_STAT (R168): NUM [24:16], QHWM [12:8], QOCC [4:0]
  ⟨0x40004, 1, 0x0, 1, 0x0, 1, 0x0, 0x0, [⟨24, 16, .ro⟩, ⟨12, 8, .ro⟩, ⟨4, 0, .ro⟩]⟩,
  -- ALLOC_CNT (R168): REFUSED [31:24], FORCED [23:16], SHORT [15:8], RESCUED [7:0]
  ⟨0x40008, 1, 0x0, 1, 0x0, 1, 0x0, 0x0, [⟨31, 24, .cnt⟩, ⟨23, 16, .cnt⟩, ⟨15, 8, .cnt⟩, ⟨7, 0, .cnt⟩]⟩,
  -- ALLOC_PARTING (R168): BUSY [31:0]
  ⟨0x4000C, 1, 0x0, 1, 0x0, 1, 0x0, 0x0, [⟨31, 0, .ro⟩]⟩,
  -- ALLOC_LAST (R168): REFUSED [31:31], STEAL [30:30], REUSE [29:29], PART [28:24], TAG [23:16], UNISON [10:8], VOICE [7:0]
  ⟨0x40010, 1, 0x0, 1, 0x0, 1, 0x0, 0x0, [⟨31, 31, .ro⟩, ⟨30, 30, .ro⟩, ⟨29, 29, .ro⟩, ⟨28, 24, .ro⟩, ⟨23, 16, .ro⟩, ⟨10, 8, .ro⟩, ⟨7, 0, .ro⟩]⟩,
  -- ALLOC_LASTSCORE (R168): SCORE [31:0]
  ⟨0x40014, 1, 0x0, 1, 0x0, 1, 0x0, 0x0, [⟨31, 0, .ro⟩]⟩,
  -- ALLOC_SUMSEL (R168): DEVID [15:8], CLASS [2:0]
  ⟨0x40018, 1, 0x0, 1, 0x0, 1, 0x0, 0x107, [⟨15, 8, .rw⟩, ⟨2, 0, .rw⟩]⟩,
  -- ALLOC_SUMDATA (R168): SCORE [31:0]
  ⟨0x4001C, 1, 0x0, 1, 0x0, 1, 0x0, 0x0, [⟨31, 0, .ro⟩]⟩,
  -- ALLOC_SUMCNT (R168): VALID [31:31], COUNT [8:0]
  ⟨0x40020, 1, 0x0, 1, 0x0, 1, 0x0, 0x0, [⟨31, 31, .ro⟩, ⟨8, 0, .ro⟩]⟩,
  -- ALLOC_PCOUNT (R168): COUNT [8:0]
  ⟨0x40100, 32, 0x4, 1, 0x0, 1, 0x0, 0x0, [⟨8, 0, .ro⟩]⟩,
  -- ALLOC_SCORE (R168): SCORE [31:0]
  ⟨0x40400, 256, 0x4, 1, 0x0, 1, 0x0, 0x0, [⟨31, 0, .ro⟩]⟩,
  -- ALLOC_NOTE (R168): TAG [31:16], PEND [15:15], UIDX [14:12], CHAN [11:8], KEY [6:0]
  ⟨0x40800, 256, 0x8, 1, 0x0, 1, 0x0, 0x0, [⟨31, 16, .ro⟩, ⟨15, 15, .ro⟩, ⟨14, 12, .ro⟩, ⟨11, 8, .ro⟩, ⟨6, 0, .ro⟩]⟩,
  -- ALLOC_OWNER (R168): PART [4:0]
  ⟨0x40804, 256, 0x8, 1, 0x0, 1, 0x0, 0x0, [⟨4, 0, .ro⟩]⟩]

/-- The VOICE block. -/
def regsVoice : List RegGroup := [
  -- VOICE_COM0 (R216): FBAL [31:16], FROUTE [0:0]
  ⟨0x50000, 256, 0x400, 1, 0x0, 1, 0x0, 0x80000000, [⟨31, 16, .st⟩, ⟨0, 0, .st⟩]⟩,
  -- VOICE_COM1 (R216): TIME [15:4], MODE [1:0]
  ⟨0x50004, 256, 0x400, 1, 0x0, 1, 0x0, 0x0, [⟨15, 4, .st⟩, ⟨1, 0, .st⟩]⟩,
  -- VOICE_COM2 (R216): UDETUNE [31:16], USPREAD [15:0]
  ⟨0x50008, 256, 0x400, 1, 0x0, 1, 0x0, 0x0, [⟨31, 16, .st⟩, ⟨15, 0, .st⟩]⟩,
  -- VOICE_COM3 (R216): CCD [30:24], CCC [22:16], CCB [14:8], CCA [6:0]
  ⟨0x5000C, 256, 0x400, 1, 0x0, 1, 0x0, 0x13121110, [⟨30, 24, .st⟩, ⟨22, 16, .st⟩, ⟨14, 8, .st⟩, ⟨6, 0, .st⟩]⟩,
  -- VOICE_COM4 (R216): SEED [31:16], SEEDFIX [0:0]
  ⟨0x50010, 256, 0x400, 1, 0x0, 1, 0x0, 0x10000, [⟨31, 16, .st⟩, ⟨0, 0, .st⟩]⟩,
  -- VOICE_OSC_CTRL (R216): COARSE [23:16], RESET [9:9], KEYTRK [8:8], XMSRC [7:6], SYNCSRC [5:4], SYNC [3:3], TYPE [2:0]
  ⟨0x50020, 256, 0x400, 4, 0x20, 1, 0x0, 0x300, [⟨23, 16, .st⟩, ⟨9, 9, .st⟩, ⟨8, 8, .st⟩, ⟨7, 6, .st⟩, ⟨5, 4, .st⟩, ⟨3, 3, .st⟩, ⟨2, 0, .st⟩]⟩,
  -- VOICE_OSC_PITCH (R216): FINE [31:16], START [15:0]
  ⟨0x50024, 256, 0x400, 4, 0x20, 1, 0x0, 0x0, [⟨31, 16, .st⟩, ⟨15, 0, .st⟩]⟩,
  -- VOICE_OSC_SHAPE (R216): SHAPE1 [31:16], SHAPE2 [15:0]
  ⟨0x50028, 256, 0x400, 4, 0x20, 1, 0x0, 0x80000000, [⟨31, 16, .st⟩, ⟨15, 0, .st⟩]⟩,
  -- VOICE_OSC_XM (R216): XMDEPTH [31:16], FB [15:0]
  ⟨0x5002C, 256, 0x400, 4, 0x20, 1, 0x0, 0x0, [⟨31, 16, .st⟩, ⟨15, 0, .st⟩]⟩,
  -- VOICE_OSC_OUT (R216): LEVEL [31:16], ROUTE [1:0]
  ⟨0x50030, 256, 0x400, 4, 0x20, 1, 0x0, 0x80000000, [⟨31, 16, .st⟩, ⟨1, 0, .st⟩]⟩,
  -- VOICE_OSC_BASE (R216): VALUE [31:0]
  ⟨0x50034, 256, 0x400, 4, 0x20, 1, 0x0, 0x0, [⟨31, 0, .st⟩]⟩,
  -- VOICE_OSC_LOOPS (R216): VALUE [31:0]
  ⟨0x50038, 256, 0x400, 4, 0x20, 1, 0x0, 0x0, [⟨31, 0, .st⟩]⟩,
  -- VOICE_OSC_LOOPE (R216): VALUE [31:0]
  ⟨0x5003C, 256, 0x400, 4, 0x20, 1, 0x0, 0x0, [⟨31, 0, .st⟩]⟩,
  -- VOICE_FLT_CTRL (R216): TYPE [2:0]
  ⟨0x500A0, 256, 0x400, 2, 0x10, 1, 0x0, 0x0, [⟨2, 0, .st⟩]⟩,
  -- VOICE_FLT_CUT (R216): CUT [31:0]
  ⟨0x500A4, 256, 0x400, 2, 0x10, 1, 0x0, 0x800000, [⟨31, 0, .st⟩]⟩,
  -- VOICE_FLT_RESO (R216): RESO [31:16], KEYTRK [15:0]
  ⟨0x500A8, 256, 0x400, 2, 0x10, 1, 0x0, 0x0, [⟨31, 16, .st⟩, ⟨15, 0, .st⟩]⟩,
  -- VOICE_FLT_DRV (R216): DRIVE [31:16], MORPH [15:0]
  ⟨0x500AC, 256, 0x400, 2, 0x10, 1, 0x0, 0x0, [⟨31, 16, .st⟩, ⟨15, 0, .st⟩]⟩,
  -- VOICE_AMP0 (R216): LEVEL [31:16], DRIVE [15:0]
  ⟨0x500C0, 256, 0x400, 1, 0x0, 1, 0x0, 0x80000000, [⟨31, 16, .st⟩, ⟨15, 0, .st⟩]⟩,
  -- VOICE_AMP1 (R216): PAN [31:16], VELAMT [15:0]
  ⟨0x500C4, 256, 0x400, 1, 0x0, 1, 0x0, 0x8000, [⟨31, 16, .st⟩, ⟨15, 0, .st⟩]⟩,
  -- VOICE_AMP2 (R216): EN3 [31:31], EN2 [23:23], EN1 [15:15], EN0 [7:7], BUS3 [29:24], BUS2 [21:16], BUS1 [13:8], BUS0 [5:0]
  ⟨0x500C8, 256, 0x400, 1, 0x0, 1, 0x0, 0x80, [⟨31, 31, .st⟩, ⟨23, 23, .st⟩, ⟨15, 15, .st⟩, ⟨7, 7, .st⟩, ⟨29, 24, .st⟩, ⟨21, 16, .st⟩, ⟨13, 8, .st⟩, ⟨5, 0, .st⟩]⟩,
  -- VOICE_AMP3 (R216): GAIN0 [31:16], GAIN1 [15:0]
  ⟨0x500CC, 256, 0x400, 1, 0x0, 1, 0x0, 0xFFFF0000, [⟨31, 16, .st⟩, ⟨15, 0, .st⟩]⟩,
  -- VOICE_AMP4 (R216): GAIN2 [31:16], GAIN3 [15:0]
  ⟨0x500D0, 256, 0x400, 1, 0x0, 1, 0x0, 0x0, [⟨31, 16, .st⟩, ⟨15, 0, .st⟩]⟩,
  -- VOICE_ENV_CTRL (R216): KEYTIME [31:24], VELSENS [23:16], LOOP_EN [11:11], LOOPST [10:8], SUS_EN [7:7], SUS [6:4], LAST [2:0]
  ⟨0x500E0, 256, 0x400, 4, 0x28, 1, 0x0, 0x0, [⟨31, 24, .st⟩, ⟨23, 16, .st⟩, ⟨11, 11, .st⟩, ⟨10, 8, .st⟩, ⟨7, 7, .st⟩, ⟨6, 4, .st⟩, ⟨2, 0, .st⟩]⟩,
  -- VOICE_ENV_SEG (R216): LEVEL [31:16], TIME [15:4], CURVE [3:0]
  ⟨0x500E4, 256, 0x400, 4, 0x28, 8, 0x4, 0x0, [⟨31, 16, .st⟩, ⟨15, 4, .st⟩, ⟨3, 0, .st⟩]⟩,
  -- VOICE_VLFO_A (R216): RATE [31:16], DIV [11:8], UNI [6:6], RETRIG [5:5], SYNC [4:4], WAVE [2:0]
  ⟨0x50180, 256, 0x400, 3, 0x8, 1, 0x0, 0x80000620, [⟨31, 16, .st⟩, ⟨11, 8, .st⟩, ⟨6, 6, .st⟩, ⟨5, 5, .st⟩, ⟨4, 4, .st⟩, ⟨2, 0, .st⟩]⟩,
  -- VOICE_VLFO_B (R216): START [31:16], FADEIN [11:0]
  ⟨0x50184, 256, 0x400, 3, 0x8, 1, 0x0, 0x0, [⟨31, 16, .st⟩, ⟨11, 0, .st⟩]⟩,
  -- VOICE_PLFO_A (R216): RATE [31:16], DIV [11:8], UNI [6:6], RETRIG [5:5], SYNC [4:4], WAVE [2:0]
  ⟨0x50198, 256, 0x400, 2, 0x8, 1, 0x0, 0x80000620, [⟨31, 16, .ro⟩, ⟨11, 8, .ro⟩, ⟨6, 6, .ro⟩, ⟨5, 5, .ro⟩, ⟨4, 4, .ro⟩, ⟨2, 0, .ro⟩]⟩,
  -- VOICE_PLFO_B (R216): START [31:16], FADEIN [11:0]
  ⟨0x5019C, 256, 0x400, 2, 0x8, 1, 0x0, 0x0, [⟨31, 16, .ro⟩, ⟨11, 0, .ro⟩]⟩,
  -- VOICE_CVRT_A (R216): EN [31:31], MODE [25:24], CH [19:16], SRC [5:0]
  ⟨0x501A8, 256, 0x400, 2, 0x8, 1, 0x0, 0x0, [⟨31, 31, .st⟩, ⟨25, 24, .st⟩, ⟨19, 16, .st⟩, ⟨5, 0, .st⟩]⟩,
  -- VOICE_CVRT_B (R216): DEPTH [31:16], OFFSET [15:0]
  ⟨0x501AC, 256, 0x400, 2, 0x8, 1, 0x0, 0x0, [⟨31, 16, .st⟩, ⟨15, 0, .st⟩]⟩,
  -- VOICE_MTX_A (R216): DEST [29:24], VIA [21:16], SRC [13:8], VIAMODE [1:0]
  ⟨0x501C0, 256, 0x400, 24, 0x8, 1, 0x0, 0x0, [⟨29, 24, .st⟩, ⟨21, 16, .st⟩, ⟨13, 8, .st⟩, ⟨1, 0, .st⟩]⟩,
  -- VOICE_MTX_B (R216): DEPTH [31:16]
  ⟨0x501C4, 256, 0x400, 24, 0x8, 1, 0x0, 0x0, [⟨31, 16, .st⟩]⟩,
  -- VOICE_MODAL_A (R216): MIX [31:16], IN [9:8], COUNT [5:0]
  ⟨0x50280, 256, 0x400, 1, 0x0, 1, 0x0, 0x0, [⟨31, 16, .st⟩, ⟨9, 8, .st⟩, ⟨5, 0, .st⟩]⟩,
  -- VOICE_MODAL_B (R216): INGAIN [31:16]
  ⟨0x50284, 256, 0x400, 1, 0x0, 1, 0x0, 0xFFFF0000, [⟨31, 16, .st⟩]⟩,
  -- VOICE_MOD_A (R216): OFFSET [31:16], DECAY [11:0]
  ⟨0x50290, 256, 0x400, 32, 0x8, 1, 0x0, 0x0, [⟨31, 16, .st⟩, ⟨11, 0, .st⟩]⟩,
  -- VOICE_MOD_B (R216): GAIN [31:16], PHASE [15:0]
  ⟨0x50294, 256, 0x400, 32, 0x8, 1, 0x0, 0x0, [⟨31, 16, .st⟩, ⟨15, 0, .st⟩]⟩,
  -- VOICE_STATE (R216): CLASS [31:29], END [28:28], SEG [27:25], REL [24:24], PATCH [9:0]
  ⟨0x503C0, 256, 0x400, 1, 0x0, 1, 0x0, 0x0, [⟨31, 29, .ro⟩, ⟨28, 28, .ro⟩, ⟨27, 25, .ro⟩, ⟨24, 24, .ro⟩, ⟨9, 0, .ro⟩]⟩,
  -- VOICE_PITCH (R216): PITCH [31:0]
  ⟨0x503C4, 256, 0x400, 1, 0x0, 1, 0x0, 0x0, [⟨31, 0, .ro⟩]⟩,
  -- VOICE_LEVEL (R216): LEVEL [31:0]
  ⟨0x503C8, 256, 0x400, 1, 0x0, 1, 0x0, 0x0, [⟨31, 0, .ro⟩]⟩,
  -- VOICE_FRONT (R216): SAMPLE [31:0]
  ⟨0x503CC, 256, 0x400, 1, 0x0, 1, 0x0, 0x0, [⟨31, 0, .ro⟩]⟩,
  -- VOICE_ENVL0 (R216): ENV1 [31:16], ENV0 [15:0]
  ⟨0x503D0, 256, 0x400, 1, 0x0, 1, 0x0, 0x0, [⟨31, 16, .ro⟩, ⟨15, 0, .ro⟩]⟩,
  -- VOICE_ENVL1 (R216): ENV3 [31:16], ENV2 [15:0]
  ⟨0x503D4, 256, 0x400, 1, 0x0, 1, 0x0, 0x0, [⟨31, 16, .ro⟩, ⟨15, 0, .ro⟩]⟩,
  -- VOICE_CYC (R216): PEAK [31:16], LAST [15:0]
  ⟨0x503D8, 256, 0x400, 1, 0x0, 1, 0x0, 0x0, [⟨31, 16, .ro⟩, ⟨15, 0, .ro⟩]⟩]

/-- The SPN block. -/
def regsSpn : List RegGroup := [
  -- SPN_CTRL (R239): OVTRAP [0:0]
  ⟨0x90000, 16, 0x1000, 1, 0x0, 1, 0x0, 0x0, [⟨0, 0, .rw⟩]⟩,
  -- SPN_STATUS (R239): ACTIVE [31:16], PARTING [15:14], TRAPPED [13:13], RUN [12:12], CUR [4:0]
  ⟨0x90004, 16, 0x1000, 1, 0x0, 1, 0x0, 0x1F, [⟨31, 16, .ro⟩, ⟨15, 14, .ro⟩, ⟨13, 13, .ro⟩, ⟨12, 12, .ro⟩, ⟨4, 0, .ro⟩]⟩,
  -- SPN_PROG (R239): ENTRY [26:16], COST [15:0]
  ⟨0x90008, 16, 0x1000, 1, 0x0, 1, 0x0, 0x0, [⟨26, 16, .ro⟩, ⟨15, 0, .ro⟩]⟩,
  -- SPN_BUDGET (R239): CYCLES [31:16], RESERVE [15:0]
  ⟨0x9000C, 16, 0x1000, 1, 0x0, 1, 0x0, 0x0, [⟨31, 16, .ro⟩, ⟨15, 0, .ro⟩]⟩,
  -- SPN_VBUDGET (R239): NCTX [20:16], VOICE [15:0]
  ⟨0x90010, 16, 0x1000, 1, 0x0, 1, 0x0, 0x0, [⟨20, 16, .ro⟩, ⟨15, 0, .ro⟩]⟩,
  -- SPN_ORDERS (R239): SUSP [20:16], PEND [15:0]
  ⟨0x90014, 16, 0x1000, 1, 0x0, 1, 0x0, 0x1F0000, [⟨20, 16, .ro⟩, ⟨15, 0, .ro⟩]⟩,
  -- SPN_LOAD (R239): PEAK [31:16], LAST [15:0]
  ⟨0x90018, 16, 0x1000, 1, 0x0, 1, 0x0, 0x0, [⟨31, 16, .ro⟩, ⟨15, 0, .ro⟩]⟩,
  -- SPN_RBCNT (R239): MERGED [31:16], ORDERS [15:0]
  ⟨0x9001C, 16, 0x1000, 1, 0x0, 1, 0x0, 0x0, [⟨31, 16, .cnt⟩, ⟨15, 0, .cnt⟩]⟩,
  -- SPN_OVCNT (R239): PAUSES [31:16], SHIFTS [15:0]
  ⟨0x90020, 16, 0x1000, 1, 0x0, 1, 0x0, 0x0, [⟨31, 16, .cnt⟩, ⟨15, 0, .cnt⟩]⟩,
  -- SPN_OVRUN (R239): STALLS [31:16], OVERRUNS [15:0]
  ⟨0x90024, 16, 0x1000, 1, 0x0, 1, 0x0, 0x0, [⟨31, 16, .cnt⟩, ⟨15, 0, .cnt⟩]⟩,
  -- SPN_PART (R239): BUSY [31:31], VOICE [23:16], REMAIN [15:0]
  ⟨0x90028, 16, 0x1000, 2, 0x4, 1, 0x0, 0x0, [⟨31, 31, .ro⟩, ⟨23, 16, .ro⟩, ⟨15, 0, .ro⟩]⟩,
  -- SPN_TRAP (R239): CAUSE [31:28], CTX [20:16], PC [10:0]
  ⟨0x90030, 16, 0x1000, 1, 0x0, 1, 0x0, 0x0, [⟨31, 28, .ro⟩, ⟨20, 16, .ro⟩, ⟨10, 0, .ro⟩]⟩,
  -- SPN_TRAPB (R239): WORD [31:0]
  ⟨0x90034, 16, 0x1000, 4, 0x4, 1, 0x0, 0x0, [⟨31, 0, .ro⟩]⟩]

/-- The MIX block. -/
def regsMix : List RegGroup := [
  -- MIX_RATE (R314): OSF [5:4], MULT [1:0]
  ⟨0xA0000, 1, 0x0, 1, 0x0, 1, 0x0, 0x1, [⟨5, 4, .lk⟩, ⟨1, 0, .lk⟩]⟩,
  -- MIX_CTRL (R314): DSPOL [2:2], DSEN [1:1], SYNC [0:0]
  ⟨0xA0004, 1, 0x0, 1, 0x0, 1, 0x0, 0x0, [⟨2, 2, .rw⟩, ⟨1, 1, .rw⟩, ⟨0, 0, .wo⟩]⟩,
  -- MIX_DOUT (R314): GD1 [31:24], GD0 [23:16], DOUT [6:0]
  ⟨0xA0008, 1, 0x0, 1, 0x0, 1, 0x0, 0x1, [⟨31, 24, .ro⟩, ⟨23, 16, .ro⟩, ⟨6, 0, .ro⟩]⟩,
  -- MIX_SYNCT (R314): TIME [31:0]
  ⟨0xA000C, 1, 0x0, 1, 0x0, 1, 0x0, 0x0, [⟨31, 0, .ro⟩]⟩,
  -- MIX_UNS (R314): UNS [31:0]
  ⟨0xA0010, 2, 0x4, 1, 0x0, 1, 0x0, 0x0, [⟨31, 0, .ro⟩]⟩,
  -- MIX_PDM_CFG (R314): EN [31:31], EDGE [23:16], RSEL [9:8], DIV [7:0]
  ⟨0xA0020, 1, 0x0, 1, 0x0, 1, 0x0, 0x120, [⟨31, 31, .st⟩, ⟨23, 16, .st⟩, ⟨9, 8, .st⟩, ⟨7, 0, .st⟩]⟩,
  -- MIX_PDM_STAT (R314): OVL [7:0]
  ⟨0xA0024, 1, 0x0, 1, 0x0, 1, 0x0, 0x0, [⟨7, 0, .w1c⟩]⟩,
  -- MIX_PDM_TIME (R314): TIME [31:0]
  ⟨0xA0028, 1, 0x0, 1, 0x0, 1, 0x0, 0x0, [⟨31, 0, .ro⟩]⟩,
  -- MIX_PDM_VAL (R314): VALUE [31:0]
  ⟨0xA0040, 8, 0x4, 1, 0x0, 1, 0x0, 0x0, [⟨31, 0, .ro⟩]⟩,
  -- MIX_DEC_CFG (R314): WIGN [31:31], ACTIVE [16:16], NTAPB [13:8], NTAPA [5:0]
  ⟨0xA0200, 2, 0x200, 1, 0x0, 1, 0x0, 0x1F1F, [⟨31, 31, .w1c⟩, ⟨16, 16, .st⟩, ⟨13, 8, .rw⟩, ⟨5, 0, .rw⟩]⟩,
  -- MIX_DEC_FILLA (R314): FILL [31:0]
  ⟨0xA0204, 2, 0x200, 1, 0x0, 1, 0x0, 0x0, [⟨31, 0, .ro⟩]⟩,
  -- MIX_DEC_FILLB (R314): FILL [31:0]
  ⟨0xA0208, 2, 0x200, 1, 0x0, 1, 0x0, 0x0, [⟨31, 0, .ro⟩]⟩,
  -- MIX_DEC_COEFA (R314): COEF [23:0]
  ⟨0xA0280, 2, 0x200, 32, 0x4, 1, 0x0, 0x0, [⟨23, 0, .rw⟩]⟩,
  -- MIX_DEC_COEFB (R314): COEF [23:0]
  ⟨0xA0300, 2, 0x200, 32, 0x4, 1, 0x0, 0x0, [⟨23, 0, .rw⟩]⟩,
  -- MIX_BUS_CFG (R314): EN [31:31], UP [30:30], STAGES [1:0]
  ⟨0xA1000, 64, 0x8, 1, 0x0, 1, 0x0, 0x80000002, [⟨31, 31, .st⟩, ⟨30, 30, .st⟩, ⟨1, 0, .st⟩]⟩,
  -- MIX_BUS_STATUS (R314): CLIP [31:16], UNS1 [12:8], UNS0 [4:0]
  ⟨0xA1004, 64, 0x8, 1, 0x0, 1, 0x0, 0x0, [⟨31, 16, .cnt⟩, ⟨12, 8, .ro⟩, ⟨4, 0, .ro⟩]⟩]

/-- The SAP block. -/
def regsSap : List RegGroup := [
  -- SAP_START (R337): GO [4:4], ARM [3:0]
  ⟨0xB0000, 1, 0x0, 1, 0x0, 1, 0x0, 0x0, [⟨4, 4, .wo⟩, ⟨3, 0, .rw⟩]⟩,
  -- SAP_CTRL (R337): EN [31:31], MASTER [30:30], INTERP [8:8]
  ⟨0xB1000, 4, 0x1000, 1, 0x0, 1, 0x0, 0x0, [⟨31, 31, .st⟩, ⟨30, 30, .st⟩, ⟨8, 8, .st⟩]⟩,
  -- SAP_FRAME (R337): BITS [26:16], SLOTS [13:8], OFFSET [4:0]
  ⟨0xB1004, 4, 0x1000, 1, 0x0, 1, 0x0, 0x400201, [⟨26, 16, .st⟩, ⟨13, 8, .st⟩, ⟨4, 0, .st⟩]⟩,
  -- SAP_FORMAT (R337): SW [29:28], DW [25:24], FSW [21:16], FSPOL [12:12], BCPOL [11:11], TRI [8:8]
  ⟨0xB1008, 4, 0x1000, 1, 0x0, 1, 0x0, 0x31001000, [⟨29, 28, .st⟩, ⟨25, 24, .st⟩, ⟨21, 16, .st⟩, ⟨12, 12, .st⟩, ⟨11, 11, .st⟩, ⟨8, 8, .st⟩]⟩,
  -- SAP_CLKDIV (R337): N [27:16], FR [15:0]
  ⟨0xB100C, 4, 0x1000, 1, 0x0, 1, 0x0, 0x200000, [⟨27, 16, .st⟩, ⟨15, 0, .st⟩]⟩,
  -- SAP_STATUS (R337): ARMED [2:2], LOST [1:1], RUN [0:0]
  ⟨0xB1010, 4, 0x1000, 1, 0x0, 1, 0x0, 0x0, [⟨2, 2, .ro⟩, ⟨1, 1, .ro⟩, ⟨0, 0, .ro⟩]⟩,
  -- SAP_FCNT (R337): VALUE [31:0]
  ⟨0xB1014, 4, 0x1000, 1, 0x0, 1, 0x0, 0x0, [⟨31, 0, .ro⟩]⟩,
  -- SAP_FSTAMP (R337): VALUE [31:0]
  ⟨0xB1018, 4, 0x1000, 1, 0x0, 1, 0x0, 0x0, [⟨31, 0, .ro⟩]⟩,
  -- SAP_CSTAMP (R337): VALUE [31:0]
  ⟨0xB101C, 4, 0x1000, 1, 0x0, 1, 0x0, 0x0, [⟨31, 0, .ro⟩]⟩,
  -- SAP_TXUND (R337): CH [31:0]
  ⟨0xB1020, 4, 0x1000, 1, 0x0, 1, 0x0, 0x0, [⟨31, 0, .w1c⟩]⟩,
  -- SAP_TXOVR (R337): CH [31:0]
  ⟨0xB1024, 4, 0x1000, 1, 0x0, 1, 0x0, 0x0, [⟨31, 0, .w1c⟩]⟩,
  -- SAP_RXUND (R337): CH [31:0]
  ⟨0xB1028, 4, 0x1000, 1, 0x0, 1, 0x0, 0x0, [⟨31, 0, .w1c⟩]⟩,
  -- SAP_RXOVR (R337): CH [31:0]
  ⟨0xB102C, 4, 0x1000, 1, 0x0, 1, 0x0, 0x0, [⟨31, 0, .w1c⟩]⟩,
  -- SAP_CNT (R337): UND [31:16], OVR [15:8], FERR [7:0]
  ⟨0xB1030, 4, 0x1000, 1, 0x0, 1, 0x0, 0x0, [⟨31, 16, .cnt⟩, ⟨15, 8, .cnt⟩, ⟨7, 0, .cnt⟩]⟩,
  -- SAP_VIN (R337): LENSEL [31:28], BASE [25:0]
  ⟨0xB1040, 4, 0x1000, 1, 0x0, 1, 0x0, 0x70000000, [⟨31, 28, .st⟩, ⟨25, 0, .st⟩]⟩,
  -- SAP_REC_CTRL (R337): ARM [31:31], SRC [8:8], MODE [4:4], PACK [1:0]
  ⟨0xB1044, 4, 0x1000, 1, 0x0, 1, 0x0, 0x0, [⟨31, 31, .st⟩, ⟨8, 8, .st⟩, ⟨4, 4, .st⟩, ⟨1, 0, .st⟩]⟩,
  -- SAP_REC_BASE (R337): VALUE [25:0]
  ⟨0xB1048, 4, 0x1000, 1, 0x0, 1, 0x0, 0x0, [⟨25, 0, .st⟩]⟩,
  -- SAP_REC_LEN (R337): VALUE [25:0]
  ⟨0xB104C, 4, 0x1000, 1, 0x0, 1, 0x0, 0x0, [⟨25, 0, .st⟩]⟩,
  -- SAP_REC_PTR (R337): VALUE [25:0]
  ⟨0xB1050, 4, 0x1000, 1, 0x0, 1, 0x0, 0x0, [⟨25, 0, .ro⟩]⟩,
  -- SAP_REC_STAT (R337): DONE [31:31], FRAMES [23:0]
  ⟨0xB1054, 4, 0x1000, 1, 0x0, 1, 0x0, 0x0, [⟨31, 31, .ro⟩, ⟨23, 0, .ro⟩]⟩,
  -- SAP_TXMAP (R337): EN [31:31], REC [30:30], SLOT [20:16], TYPE [9:8], INDEX [6:0]
  ⟨0xB1100, 4, 0x1000, 32, 0x4, 1, 0x0, 0x0, [⟨31, 31, .st⟩, ⟨30, 30, .st⟩, ⟨20, 16, .st⟩, ⟨9, 8, .st⟩, ⟨6, 0, .st⟩]⟩,
  -- SAP_RXMAP (R337): EN [31:31], REC [30:30], VIN [29:29], BUSEN [28:28], SLOT [20:16], BUS [5:0]
  ⟨0xB1180, 4, 0x1000, 32, 0x4, 1, 0x0, 0x0, [⟨31, 31, .st⟩, ⟨30, 30, .st⟩, ⟨29, 29, .st⟩, ⟨28, 28, .st⟩, ⟨20, 16, .st⟩, ⟨5, 0, .st⟩]⟩,
  -- SAP_TXMASK (R337): SLOTS [31:0]
  ⟨0xB1200, 4, 0x1000, 1, 0x0, 1, 0x0, 0x0, [⟨31, 0, .ro⟩]⟩,
  -- SAP_RXMASK (R337): SLOTS [31:0]
  ⟨0xB1204, 4, 0x1000, 1, 0x0, 1, 0x0, 0x0, [⟨31, 0, .ro⟩]⟩]

/-- The CVO block. -/
def regsCvo : List RegGroup := [
  -- CVO_CLK (R360): CVDIV [7:0]
  ⟨0xC0000, 1, 0x0, 1, 0x0, 1, 0x0, 0x1, [⟨7, 0, .st⟩]⟩,
  -- CVO_STAT (R360): LAG [31:16], OTF [5:4], OT [3:2], SKEW [0:0]
  ⟨0xC0004, 1, 0x0, 1, 0x0, 1, 0x0, 0x10000, [⟨31, 16, .ro⟩, ⟨5, 4, .w1c⟩, ⟨3, 2, .ro⟩, ⟨0, 0, .ro⟩]⟩,
  -- CVO_PDMCFG (R360): OFS [19:0]
  ⟨0xC0008, 1, 0x0, 1, 0x0, 1, 0x0, 0x3E8, [⟨19, 0, .st⟩]⟩,
  -- CVO_PDMMAP (R360): EN [31:31], PART [28:24], CC [22:16], HYST [15:8], EVR [3:0]
  ⟨0xC0080, 8, 0x4, 1, 0x0, 1, 0x0, 0x104, [⟨31, 31, .st⟩, ⟨28, 24, .st⟩, ⟨22, 16, .st⟩, ⟨15, 8, .st⟩, ⟨3, 0, .st⟩]⟩,
  -- CVO_CH_CFG (R360): EN [31:31], SRC [25:24], CURVE [16:16], INIT [15:0]
  ⟨0xC0100, 16, 0x10, 1, 0x0, 1, 0x0, 0x0, [⟨31, 31, .st⟩, ⟨25, 24, .st⟩, ⟨16, 16, .st⟩, ⟨15, 0, .st⟩]⟩,
  -- CVO_CH_TRIM (R360): GAIN [31:16], OFS [15:0]
  ⟨0xC0104, 16, 0x10, 1, 0x0, 1, 0x0, 0x80000000, [⟨31, 16, .st⟩, ⟨15, 0, .st⟩]⟩,
  -- CVO_CH_SET (R360): CODE [15:0]
  ⟨0xC0108, 16, 0x10, 1, 0x0, 1, 0x0, 0x0, [⟨15, 0, .wo⟩]⟩,
  -- CVO_CH_VAL (R360): IN [31:16], OUT [15:0]
  ⟨0xC010C, 16, 0x10, 1, 0x0, 1, 0x0, 0x0, [⟨31, 16, .ro⟩, ⟨15, 0, .ro⟩]⟩,
  -- CVO_AT_CFG (R360): P [25:20], GATE [19:10], SETTLE [9:0]
  ⟨0xC0400, 1, 0x0, 1, 0x0, 1, 0x0, 0x1119014, [⟨25, 20, .st⟩, ⟨19, 10, .st⟩, ⟨9, 0, .st⟩]⟩,
  -- CVO_AT_CTRL (R360): GO [4:4], CH [3:0]
  ⟨0xC0404, 1, 0x0, 1, 0x0, 1, 0x0, 0x0, [⟨4, 4, .wo⟩, ⟨3, 0, .rw⟩]⟩,
  -- CVO_AT_STAT (R360): BUSY [31:31], RES [30:28], CH [27:24], DRIFT [15:0]
  ⟨0xC0408, 1, 0x0, 1, 0x0, 1, 0x0, 0x0, [⟨31, 31, .ro⟩, ⟨30, 28, .ro⟩, ⟨27, 24, .ro⟩, ⟨15, 0, .ro⟩]⟩,
  -- CVO_ATJ (R360): EN [31:31], BOOT [30:30], TMR [23:20], SCHED [15:0]
  ⟨0xC0440, 16, 0x4, 1, 0x0, 1, 0x0, 0x0, [⟨31, 31, .st⟩, ⟨30, 30, .st⟩, ⟨23, 20, .st⟩, ⟨15, 0, .st⟩]⟩,
  -- CVO_ATR (R360): REF [30:24], CPS [15:0]
  ⟨0xC0480, 16, 0x4, 1, 0x0, 1, 0x0, 0x3C005355, [⟨30, 24, .st⟩, ⟨15, 0, .st⟩]⟩,
  -- CVO_ATL (R360): HI [31:16], LO [15:0]
  ⟨0xC04C0, 16, 0x4, 1, 0x0, 1, 0x0, 0xF0000000, [⟨31, 16, .st⟩, ⟨15, 0, .st⟩]⟩,
  -- CVO_CAL (R360): K [16:0]
  ⟨0xC1000, 16, 0x100, 33, 0x4, 1, 0x0, 0x0, [⟨16, 0, .rw⟩]⟩]

/-- The TMR block. -/
def regsTmr : List RegGroup := [
  -- TMR_CTRL (R361): STOP [31:16], START [15:0]
  ⟨0xD0000, 1, 0x0, 1, 0x0, 1, 0x0, 0x0, [⟨31, 16, .wo⟩, ⟨15, 0, .wo⟩]⟩,
  -- TMR_CFG (R361): IES [15:15], IEC [14:14], IEO [13:13], IEM [12:12], AUTO [10:10], POL [9:9], PRE [8:8], MODE [6:4], CLK [1:0]
  ⟨0xD0100, 16, 0x40, 1, 0x0, 1, 0x0, 0x100, [⟨15, 15, .st⟩, ⟨14, 14, .st⟩, ⟨13, 13, .st⟩, ⟨12, 12, .st⟩, ⟨10, 10, .st⟩, ⟨9, 9, .st⟩, ⟨8, 8, .st⟩, ⟨6, 4, .st⟩, ⟨1, 0, .st⟩]⟩,
  -- TMR_CAPCFG (R361): TOUT [31:16], PRESC [15:8], FILT [7:4], EDGE [1:0]
  ⟨0xD0104, 16, 0x40, 1, 0x0, 1, 0x0, 0x0, [⟨31, 16, .st⟩, ⟨15, 8, .st⟩, ⟨7, 4, .st⟩, ⟨1, 0, .st⟩]⟩,
  -- TMR_PHASE (R361): VALUE [31:0]
  ⟨0xD0108, 16, 0x40, 1, 0x0, 1, 0x0, 0x0, [⟨31, 0, .st⟩]⟩,
  -- TMR_PER (R361): VALUE [31:0]
  ⟨0xD010C, 16, 0x40, 1, 0x0, 1, 0x0, 0xFFFFFFFF, [⟨31, 0, .rw⟩]⟩,
  -- TMR_CMP (R361): VALUE [31:0]
  ⟨0xD0110, 16, 0x40, 1, 0x0, 1, 0x0, 0x0, [⟨31, 0, .rw⟩]⟩,
  -- TMR_CNT (R361): VALUE [31:0]
  ⟨0xD0114, 16, 0x40, 1, 0x0, 1, 0x0, 0x0, [⟨31, 0, .ro⟩]⟩,
  -- TMR_CAP (R361): VALUE [31:0]
  ⟨0xD0118, 16, 0x40, 1, 0x0, 1, 0x0, 0x0, [⟨31, 0, .ro⟩]⟩,
  -- TMR_CAPT (R361): VALUE [31:0]
  ⟨0xD011C, 16, 0x40, 1, 0x0, 1, 0x0, 0x0, [⟨31, 0, .ro⟩]⟩,
  -- TMR_STAT (R361): RUN [5:5], STUCK [4:4], OVER [3:3], NEW [2:2], OVF [1:1], MATCH [0:0]
  ⟨0xD0120, 16, 0x40, 1, 0x0, 1, 0x0, 0x0, [⟨5, 5, .ro⟩, ⟨4, 4, .w1c⟩, ⟨3, 3, .w1c⟩, ⟨2, 2, .ro⟩, ⟨1, 1, .w1c⟩, ⟨0, 0, .w1c⟩]⟩]

/-- The CBL block. -/
def regsCbl : List RegGroup := [
  -- CBL_STAT (R396): DEVID [31:24], DEPTH [23:16], REASON [11:8], STATE [3:0]
  ⟨0xE0000, 1, 0x0, 1, 0x0, 1, 0x0, 0x0, [⟨31, 24, .ro⟩, ⟨23, 16, .ro⟩, ⟨11, 8, .ro⟩, ⟨3, 0, .ro⟩]⟩,
  -- CBL_CHAIN (R396): LCHAIN [31:16], COUNT [7:0]
  ⟨0xE0004, 1, 0x0, 1, 0x0, 1, 0x0, 0x0, [⟨31, 16, .ro⟩, ⟨7, 0, .ro⟩]⟩,
  -- CBL_CENSUS (R396): GEN [31:16], SHIPCODE [7:0]
  ⟨0xE0008, 1, 0x0, 1, 0x0, 1, 0x0, 0x0, [⟨31, 16, .ro⟩, ⟨7, 0, .ro⟩]⟩,
  -- CBL_TIME (R396): ERR [31:16], RESID [15:0]
  ⟨0xE000C, 1, 0x0, 1, 0x0, 1, 0x0, 0x0, [⟨31, 16, .ro⟩, ⟨15, 0, .ro⟩]⟩,
  -- CBL_POL0 (R396): HEADWAIT [31:16], DMAX [15:8], SHIP [1:0]
  ⟨0xE0010, 1, 0x0, 1, 0x0, 1, 0x0, 0x1F40800, [⟨31, 16, .ro⟩, ⟨15, 8, .ro⟩, ⟨1, 0, .ro⟩]⟩,
  -- CBL_POL1 (R396): LOCKTO [31:16], LCHAIN [15:0]
  ⟨0xE0014, 1, 0x0, 1, 0x0, 1, 0x0, 0x7D00000, [⟨31, 16, .ro⟩, ⟨15, 0, .ro⟩]⟩,
  -- CBL_MSEL (R396): DEVID [7:0]
  ⟨0xE0018, 1, 0x0, 1, 0x0, 1, 0x0, 0x2, [⟨7, 0, .rw⟩]⟩,
  -- CBL_MSTAT (R396): VALID [31:31], STATE [27:24], REASON [23:20], DEPTH [15:8], PARENT [7:0]
  ⟨0xE001C, 1, 0x0, 1, 0x0, 1, 0x0, 0x0, [⟨31, 31, .ro⟩, ⟨27, 24, .ro⟩, ⟨23, 20, .ro⟩, ⟨15, 8, .ro⟩, ⟨7, 0, .ro⟩]⟩,
  -- CBL_MCMD (R396): CMD [10:8], DEVID [7:0]
  ⟨0xE0020, 1, 0x0, 1, 0x0, 1, 0x0, 0x0, [⟨10, 8, .wo⟩, ⟨7, 0, .wo⟩]⟩,
  -- CBL_P_CTRL (R396): EN [31:31], ASYM [15:0]
  ⟨0xE0100, 3, 0x20, 1, 0x0, 1, 0x0, 0x80000000, [⟨31, 31, .rw⟩, ⟨15, 0, .rw⟩]⟩,
  -- CBL_P_STAT (R396): LSTATE [31:28], LPV [27:24], PEER [23:16]
  ⟨0xE0104, 3, 0x20, 1, 0x0, 1, 0x0, 0x0, [⟨31, 28, .ro⟩, ⟨27, 24, .ro⟩, ⟨23, 16, .ro⟩]⟩,
  -- CBL_P_DELAY (R396): DELAY [23:0]
  ⟨0xE0108, 3, 0x20, 1, 0x0, 1, 0x0, 0x0, [⟨23, 0, .ro⟩]⟩,
  -- CBL_P_CNT0 (R396): CRCERR [31:16], REPLAY [15:0]
  ⟨0xE010C, 3, 0x20, 1, 0x0, 1, 0x0, 0x0, [⟨31, 16, .cnt⟩, ⟨15, 0, .cnt⟩]⟩,
  -- CBL_P_CNT1 (R396): SUMLATE [31:16], DUP [15:0]
  ⟨0xE0110, 3, 0x20, 1, 0x0, 1, 0x0, 0x0, [⟨31, 16, .cnt⟩, ⟨15, 0, .cnt⟩]⟩]

/-- The NET block. -/
def regsNet : List RegGroup := [
  -- NET_CTRL (R422): EN [31:31], SPEED [1:0]
  ⟨0xF0000, 1, 0x0, 1, 0x0, 1, 0x0, 0x2, [⟨31, 31, .rw⟩, ⟨1, 0, .rw⟩]⟩,
  -- NET_STAT (R422): LINK [0:0]
  ⟨0xF0004, 1, 0x0, 1, 0x0, 1, 0x0, 0x0, [⟨0, 0, .ro⟩]⟩,
  -- NET_MACL (R422): ADDR [31:0]
  ⟨0xF0008, 1, 0x0, 1, 0x0, 1, 0x0, 0x0, [⟨31, 0, .rw⟩]⟩,
  -- NET_MACH (R422): ADDR [15:0]
  ⟨0xF000C, 1, 0x0, 1, 0x0, 1, 0x0, 0x0, [⟨15, 0, .rw⟩]⟩,
  -- NET_CNT (R422): RXDROP [31:16], DELAYED [15:0]
  ⟨0xF0010, 1, 0x0, 1, 0x0, 1, 0x0, 0x0, [⟨31, 16, .cnt⟩, ⟨15, 0, .cnt⟩]⟩,
  -- NET_TSC (R422): ING [31:16], EGR [15:0]
  ⟨0xF0020, 3, 0x4, 1, 0x0, 1, 0x0, 0x0, [⟨31, 16, .rw⟩, ⟨15, 0, .rw⟩]⟩,
  -- NET_CBSA (R422): SLOPE [31:0]
  ⟨0xF0030, 1, 0x0, 1, 0x0, 1, 0x0, 0x0, [⟨31, 0, .rw⟩]⟩,
  -- NET_CBSB (R422): SLOPE [31:0]
  ⟨0xF0034, 1, 0x0, 1, 0x0, 1, 0x0, 0x0, [⟨31, 0, .rw⟩]⟩,
  -- NET_DOM_CFG (R422): EN [31:31], NUM [6:0]
  ⟨0xF0040, 2, 0x10, 1, 0x0, 1, 0x0, 0x0, [⟨31, 31, .rw⟩, ⟨6, 0, .rw⟩]⟩,
  -- NET_DOM_STAT (R422): STATE [31:30], LOGSYNC [7:0]
  ⟨0xF0044, 2, 0x10, 1, 0x0, 1, 0x0, 0x0, [⟨31, 30, .ro⟩, ⟨7, 0, .ro⟩]⟩,
  -- NET_DOM_ADJ (R422): ADJ [31:0]
  ⟨0xF0048, 2, 0x10, 1, 0x0, 1, 0x0, 0x0, [⟨31, 0, .ro⟩]⟩,
  -- NET_DOM_DIFF (R422): DIFF [31:0]
  ⟨0xF004C, 2, 0x10, 1, 0x0, 1, 0x0, 0x0, [⟨31, 0, .ro⟩]⟩,
  -- NET_VIN (R422): LENSEL [31:28], INTERP [27:27], BASE [25:0]
  ⟨0xF0060, 1, 0x0, 1, 0x0, 1, 0x0, 0x70000000, [⟨31, 28, .st⟩, ⟨27, 27, .st⟩, ⟨25, 0, .st⟩]⟩,
  -- NET_STREAM (R422): EN [31:31], NOSRP [30:30], DOM [29:29], CLASS [28:28], FORMAT [27:26], SPF [25:20], NCH [19:16], VID [11:0]
  ⟨0xF0100, 8, 0x80, 1, 0x0, 1, 0x0, 0x4610002, [⟨31, 31, .st⟩, ⟨30, 30, .st⟩, ⟨29, 29, .st⟩, ⟨28, 28, .st⟩, ⟨27, 26, .st⟩, ⟨25, 20, .st⟩, ⟨19, 16, .st⟩, ⟨11, 0, .st⟩]⟩,
  -- NET_STREAM_IDL (R422): ID [31:0]
  ⟨0xF0104, 8, 0x80, 1, 0x0, 1, 0x0, 0x0, [⟨31, 0, .st⟩]⟩,
  -- NET_STREAM_IDH (R422): ID [31:0]
  ⟨0xF0108, 8, 0x80, 1, 0x0, 1, 0x0, 0x0, [⟨31, 0, .st⟩]⟩,
  -- NET_STREAM_DSTL (R422): ADDR [31:0]
  ⟨0xF010C, 8, 0x80, 1, 0x0, 1, 0x0, 0x0, [⟨31, 0, .st⟩]⟩,
  -- NET_STREAM_DSTH (R422): ADDR [15:0]
  ⟨0xF0110, 8, 0x80, 1, 0x0, 1, 0x0, 0x0, [⟨15, 0, .st⟩]⟩,
  -- NET_STREAM_TIME (R422): PTOFS [31:10], LOFS [9:0]
  ⟨0xF0114, 8, 0x80, 1, 0x0, 1, 0x0, 0x1E848004, [⟨31, 10, .st⟩, ⟨9, 0, .st⟩]⟩,
  -- NET_STREAM_STAT (R422): TIMEOUT [3:3], SRPFAIL [2:2], READY [1:1], RUN [0:0]
  ⟨0xF0118, 8, 0x80, 1, 0x0, 1, 0x0, 0x0, [⟨3, 3, .w1c⟩, ⟨2, 2, .ro⟩, ⟨1, 1, .ro⟩, ⟨0, 0, .ro⟩]⟩,
  -- NET_STREAM_CNT (R422): FMT [31:24], DUP [23:16], GAP [15:8], LATE [7:4], EARLY [3:0]
  ⟨0xF011C, 8, 0x80, 1, 0x0, 1, 0x0, 0x0, [⟨31, 24, .cnt⟩, ⟨23, 16, .cnt⟩, ⟨15, 8, .cnt⟩, ⟨7, 4, .cnt⟩, ⟨3, 0, .cnt⟩]⟩,
  -- NET_STREAM_MAP (R422): EN [31:31], VIN [30:30], BUSEN [29:29], TYPE [9:8], INDEX [6:0]
  ⟨0xF0140, 8, 0x80, 16, 0x4, 1, 0x0, 0x0, [⟨31, 31, .st⟩, ⟨30, 30, .st⟩, ⟨29, 29, .st⟩, ⟨9, 8, .st⟩, ⟨6, 0, .st⟩]⟩]

/-- The UART block. -/
def regsUart : List RegGroup := [
  -- UART_HCFG (R439): CTSEN [16:16], TOUT [15:0]
  ⟨0x100000, 1, 0x0, 1, 0x0, 1, 0x0, 0x103E8, [⟨16, 16, .rw⟩, ⟨15, 0, .rw⟩]⟩,
  -- UART_HCNT (R439): CRC [31:16], TOUT [15:0]
  ⟨0x100004, 1, 0x0, 1, 0x0, 1, 0x0, 0x0, [⟨31, 16, .cnt⟩, ⟨15, 0, .cnt⟩]⟩,
  -- UART_CFG (R439): EN [31:31], DIV [15:0]
  ⟨0x100100, 5, 0x20, 1, 0x0, 1, 0x0, 0x80000000, [⟨31, 31, .rw⟩, ⟨15, 0, .rw⟩]⟩,
  -- UART_STAT (R439): RXLVL [15:8], DEAD [7:7], BRK [6:6], FERR [5:5], NOISE [4:4], OVR [3:3], TXBUSY [2:2], RTS [1:1]
  ⟨0x100104, 5, 0x20, 1, 0x0, 1, 0x0, 0x0, [⟨15, 8, .ro⟩, ⟨7, 7, .ro⟩, ⟨6, 6, .w1c⟩, ⟨5, 5, .w1c⟩, ⟨4, 4, .w1c⟩, ⟨3, 3, .w1c⟩, ⟨2, 2, .ro⟩, ⟨1, 1, .ro⟩]⟩,
  -- UART_CNT (R439): FERR [31:24], NOISE [23:16], OVR [15:8], BRK [7:0]
  ⟨0x100108, 5, 0x20, 1, 0x0, 1, 0x0, 0x0, [⟨31, 24, .cnt⟩, ⟨23, 16, .cnt⟩, ⟨15, 8, .cnt⟩, ⟨7, 0, .cnt⟩]⟩]

/-- The NVJ block. -/
def regsNvj : List RegGroup := [
  -- NVJ_FLASH (R464): MODE [31:30], ECCST [29:29], SECTORS [15:0]
  ⟨0x110000, 1, 0x0, 1, 0x0, 1, 0x0, 0x0, [⟨31, 30, .ro⟩, ⟨29, 29, .ro⟩, ⟨15, 0, .ro⟩]⟩,
  -- NVJ_FID (R464): ID [23:0]
  ⟨0x110004, 1, 0x0, 1, 0x0, 1, 0x0, 0x0, [⟨23, 0, .ro⟩]⟩,
  -- NVJ_REGION (R464): START [31:16], LENGTH [15:0]
  ⟨0x110008, 1, 0x0, 1, 0x0, 1, 0x0, 0x0, [⟨31, 16, .ro⟩, ⟨15, 0, .ro⟩]⟩,
  -- NVJ_STAT (R464): BUSY [31:31], PFAIL [30:30], RO [29:29], SETREJ [28:28], RULE [23:16], ORIGIN [1:0]
  ⟨0x11000C, 1, 0x0, 1, 0x0, 1, 0x0, 0x0, [⟨31, 31, .ro⟩, ⟨30, 30, .ro⟩, ⟨29, 29, .ro⟩, ⟨28, 28, .ro⟩, ⟨23, 16, .ro⟩, ⟨1, 0, .ro⟩]⟩,
  -- NVJ_LIVE (R464): VALUE [31:0]
  ⟨0x110010, 1, 0x0, 1, 0x0, 1, 0x0, 0x0, [⟨31, 0, .ro⟩]⟩,
  -- NVJ_LIMIT (R464): VALUE [31:0]
  ⟨0x110014, 1, 0x0, 1, 0x0, 1, 0x0, 0x0, [⟨31, 0, .ro⟩]⟩,
  -- NVJ_LOG (R464): SPAN [31:24], HEAD [21:11], TAIL [10:0]
  ⟨0x110018, 1, 0x0, 1, 0x0, 1, 0x0, 0x0, [⟨31, 24, .ro⟩, ⟨21, 11, .ro⟩, ⟨10, 0, .ro⟩]⟩,
  -- NVJ_SEQ (R464): VALUE [31:0]
  ⟨0x11001C, 1, 0x0, 1, 0x0, 1, 0x0, 0x0, [⟨31, 0, .ro⟩]⟩,
  -- NVJ_ECMAX (R464): VALUE [31:0]
  ⟨0x110020, 1, 0x0, 1, 0x0, 1, 0x0, 0x0, [⟨31, 0, .ro⟩]⟩,
  -- NVJ_ECMEAN (R464): VALUE [31:0]
  ⟨0x110024, 1, 0x0, 1, 0x0, 1, 0x0, 0x0, [⟨31, 0, .ro⟩]⟩,
  -- NVJ_SECT (R464): LOGSECT [31:16], RETIRED [15:0]
  ⟨0x110028, 1, 0x0, 1, 0x0, 1, 0x0, 0x0, [⟨31, 16, .ro⟩, ⟨15, 0, .ro⟩]⟩,
  -- NVJ_TOKENS (R464): VALUE [31:0]
  ⟨0x11002C, 1, 0x0, 1, 0x0, 1, 0x0, 0x0, [⟨31, 0, .ro⟩]⟩,
  -- NVJ_RATE (R464): VALUE [31:0]
  ⟨0x110030, 1, 0x0, 1, 0x0, 1, 0x0, 0x0, [⟨31, 0, .ro⟩]⟩,
  -- NVJ_LIFE (R464): VALUE [31:0]
  ⟨0x110034, 1, 0x0, 1, 0x0, 1, 0x0, 0x0, [⟨31, 0, .ro⟩]⟩,
  -- NVJ_CNT (R464): TORN [31:24], TXDROP [23:16], REFUSED [15:8], RETRY [7:0]
  ⟨0x110038, 1, 0x0, 1, 0x0, 1, 0x0, 0x0, [⟨31, 24, .cnt⟩, ⟨23, 16, .cnt⟩, ⟨15, 8, .cnt⟩, ⟨7, 0, .cnt⟩]⟩,
  -- NVJ_POL0 (R464): ENDUR [31:0]
  ⟨0x110040, 1, 0x0, 1, 0x0, 1, 0x0, 0x186A0, [⟨31, 0, .ro⟩]⟩,
  -- NVJ_POL1 (R464): SPAN [31:24], LOWPCT [23:16], WARNPCT [15:8], LIFE_Y [7:0]
  ⟨0x110044, 1, 0x0, 1, 0x0, 1, 0x0, 0x10500A14, [⟨31, 24, .ro⟩, ⟨23, 16, .ro⟩, ⟨15, 8, .ro⟩, ⟨7, 0, .ro⟩]⟩,
  -- NVJ_POL2 (R464): TPP_US [31:16], TSE_MS [15:0]
  ⟨0x110048, 1, 0x0, 1, 0x0, 1, 0x0, 0x1F407D0, [⟨31, 16, .ro⟩, ⟨15, 0, .ro⟩]⟩,
  -- NVJ_POL3 (R464): CBMAX [31:24], EVKEEP [15:0]
  ⟨0x11004C, 1, 0x0, 1, 0x0, 1, 0x0, 0x8000100, [⟨31, 24, .ro⟩, ⟨15, 0, .ro⟩]⟩,
  -- NVJ_LOGMASK (R464): MASK [31:0]
  ⟨0x110050, 2, 0x4, 1, 0x0, 1, 0x0, 0xFFFFFFFF, [⟨31, 0, .ro⟩]⟩]

/-- The AGE block. -/
def regsAge : List RegGroup := [
  -- AGE_CTRL (R481): CLEAR [2:2], CHECK [1:1], AUTO [0:0]
  ⟨0x120000, 1, 0x0, 1, 0x0, 1, 0x0, 0x1, [⟨2, 2, .wo⟩, ⟨1, 1, .wo⟩, ⟨0, 0, .rw⟩]⟩,
  -- AGE_STAT (R481): TC [6:6], TW [5:5], NEED [4:4], AVSERR [3:3], EXH [2:2], CLKSEQ [1:1], BUSY [0:0]
  ⟨0x120004, 1, 0x0, 1, 0x0, 1, 0x0, 0x0, [⟨6, 6, .ro⟩, ⟨5, 5, .ro⟩, ⟨4, 4, .w1c⟩, ⟨3, 3, .ro⟩, ⟨2, 2, .ro⟩, ⟨1, 1, .ro⟩, ⟨0, 0, .ro⟩]⟩,
  -- AGE_PLAN (R481): VOICES [24:16], STEP [3:0]
  ⟨0x120008, 1, 0x0, 1, 0x0, 1, 0x0, 0x8, [⟨24, 16, .ro⟩, ⟨3, 0, .ro⟩]⟩,
  -- AGE_VDD (R481): STATUS [31:16], SET [15:0]
  ⟨0x12000C, 1, 0x0, 1, 0x0, 1, 0x0, 0x2EE, [⟨31, 16, .ro⟩, ⟨15, 0, .ro⟩]⟩,
  -- AGE_SLACK (R481): T_W [31:16], SITE [15:8], S [7:0]
  ⟨0x120010, 1, 0x0, 1, 0x0, 1, 0x0, 0x0, [⟨31, 16, .ro⟩, ⟨15, 8, .ro⟩, ⟨7, 0, .ro⟩]⟩,
  -- AGE_SNS (R481): RING [31:16], M [15:0]
  ⟨0x120014, 5, 0x4, 1, 0x0, 1, 0x0, 0x0, [⟨31, 16, .ro⟩, ⟨15, 0, .ro⟩]⟩,
  -- AGE_TEMP (R481): NOW [15:0]
  ⟨0x120028, 1, 0x0, 1, 0x0, 1, 0x0, 0x0, [⟨15, 0, .ro⟩]⟩,
  -- AGE_TLIM (R481): TCRIT [31:16], TWARN [15:0]
  ⟨0x12002C, 1, 0x0, 1, 0x0, 1, 0x0, 0x0, [⟨31, 16, .rw⟩, ⟨15, 0, .rw⟩]⟩,
  -- AGE_XREF (R481): VALID [31:31], PPB [30:0]
  ⟨0x120030, 1, 0x0, 1, 0x0, 1, 0x0, 0x0, [⟨31, 31, .ro⟩, ⟨30, 0, .ro⟩]⟩,
  -- AGE_CNT (R481): REPLANS [31:16], LATE [15:0]
  ⟨0x120034, 1, 0x0, 1, 0x0, 1, 0x0, 0x0, [⟨31, 16, .cnt⟩, ⟨15, 0, .cnt⟩]⟩,
  -- AGE_CVINT (R481): HOURS [15:0]
  ⟨0x120040, 16, 0x4, 1, 0x0, 1, 0x0, 0x0, [⟨15, 0, .ro⟩]⟩]

/-- The MEM block. -/
def regsMem : List RegGroup := [
  -- MEM_STAT (R290): PASSES [31:16], FILLED [0:0]
  ⟨0x130000, 1, 0x0, 1, 0x0, 1, 0x0, 0x0, [⟨31, 16, .ro⟩, ⟨0, 0, .ro⟩]⟩,
  -- MEM_CNT (R290): CORR [31:16], VIOL [15:8], REFUSED [7:0]
  ⟨0x130004, 1, 0x0, 1, 0x0, 1, 0x0, 0x0, [⟨31, 16, .cnt⟩, ⟨15, 8, .cnt⟩, ⟨7, 0, .cnt⟩]⟩,
  -- MEM_ECCADDR (R290): UNCORR [31:31], OFFSET [25:0]
  ⟨0x130008, 1, 0x0, 1, 0x0, 1, 0x0, 0x0, [⟨31, 31, .ro⟩, ⟨25, 0, .ro⟩]⟩,
  -- MEM_VIOL (R290): REQ [31:29], WRITE [28:28], OFFSET [25:0]
  ⟨0x13000C, 1, 0x0, 1, 0x0, 1, 0x0, 0x0, [⟨31, 29, .ro⟩, ⟨28, 28, .ro⟩, ⟨25, 0, .ro⟩]⟩,
  -- MEM_SCRUB (R290): EN [31:31], INTERVAL [15:0]
  ⟨0x130010, 1, 0x0, 1, 0x0, 1, 0x0, 0x8000000F, [⟨31, 31, .rw⟩, ⟨15, 0, .rw⟩]⟩,
  -- MEM_HW (R290): LCS [17:16], CAUSE [7:4], WIPING [1:1], MAPPED [0:0]
  ⟨0x130014, 1, 0x0, 1, 0x0, 1, 0x0, 0x0, [⟨17, 16, .ro⟩, ⟨7, 4, .ro⟩, ⟨1, 1, .ro⟩, ⟨0, 0, .ro⟩]⟩,
  -- MEM_BANK (R290): REFUSED [19:19], IDLE [18:18], SHARE [16:16], CUR [10:8], OWNER [2:0]
  ⟨0x130100, 16, 0x4, 1, 0x0, 1, 0x0, 0x500, [⟨19, 19, .w1c⟩, ⟨18, 18, .ro⟩, ⟨16, 16, .rw⟩, ⟨10, 8, .ro⟩, ⟨2, 0, .rw⟩]⟩,
  -- MEM_WIN_A (R290): EN [31:31], BASE [25:0]
  ⟨0x131000, 256, 0x8, 1, 0x0, 1, 0x0, 0x0, [⟨31, 31, .st⟩, ⟨25, 0, .st⟩]⟩,
  -- MEM_WIN_B (R290): DMAX [31:16], LEN [15:0]
  ⟨0x131004, 256, 0x8, 1, 0x0, 1, 0x0, 0x1, [⟨31, 16, .st⟩, ⟨15, 0, .st⟩]⟩]

/-- The TIME block. -/
def regsTime : List RegGroup := [
  -- TIME_NOW (R421): TIME [31:0]
  ⟨0x140000, 1, 0x0, 1, 0x0, 1, 0x0, 0x0, [⟨31, 0, .ro⟩]⟩,
  -- TIME_CTRL (R421): ALARM_EN [8:8], SRC [5:4], REVERT [2:2], DOM [0:0]
  ⟨0x140004, 1, 0x0, 1, 0x0, 1, 0x0, 0x0, [⟨8, 8, .rw⟩, ⟨5, 4, .rw⟩, ⟨2, 2, .rw⟩, ⟨0, 0, .rw⟩]⟩,
  -- TIME_STAT (R421): STATE [31:28], STEPPED [8:8], ACTIVE [4:4], ALM [0:0]
  ⟨0x140008, 1, 0x0, 1, 0x0, 1, 0x0, 0x0, [⟨31, 28, .ro⟩, ⟨8, 8, .ro⟩, ⟨4, 4, .ro⟩, ⟨0, 0, .w1c⟩]⟩,
  -- TIME_ADJ (R421): ADJ [31:0]
  ⟨0x14000C, 1, 0x0, 1, 0x0, 1, 0x0, 0x0, [⟨31, 0, .ro⟩]⟩,
  -- TIME_CNTL (R421): LOW [31:0]
  ⟨0x140010, 1, 0x0, 1, 0x0, 1, 0x0, 0x0, [⟨31, 0, .ro⟩]⟩,
  -- TIME_CNTH (R421): HIGH [31:0]
  ⟨0x140014, 1, 0x0, 1, 0x0, 1, 0x0, 0x0, [⟨31, 0, .ro⟩]⟩,
  -- TIME_SNAP (R421): TIME [31:0]
  ⟨0x140018, 1, 0x0, 1, 0x0, 1, 0x0, 0x0, [⟨31, 0, .ro⟩]⟩,
  -- TIME_STEP (R421): DELTA [31:0]
  ⟨0x14001C, 1, 0x0, 1, 0x0, 1, 0x0, 0x0, [⟨31, 0, .ro⟩]⟩,
  -- TIME_ALARM (R421): TIME [31:0]
  ⟨0x140020, 1, 0x0, 1, 0x0, 1, 0x0, 0x0, [⟨31, 0, .rw⟩]⟩,
  -- TIME_EXTC (R421): TIME [31:0]
  ⟨0x140024, 1, 0x0, 1, 0x0, 1, 0x0, 0x0, [⟨31, 0, .ro⟩]⟩,
  -- TIME_EXTS (R421): SEC [31:0]
  ⟨0x140028, 1, 0x0, 1, 0x0, 1, 0x0, 0x0, [⟨31, 0, .ro⟩]⟩,
  -- TIME_EXTH (R421): SEQ [31:16], SECH [15:0]
  ⟨0x14002C, 1, 0x0, 1, 0x0, 1, 0x0, 0x0, [⟨31, 16, .ro⟩, ⟨15, 0, .ro⟩]⟩,
  -- TIME_APLL (R421): RESID [15:0]
  ⟨0x140030, 1, 0x0, 1, 0x0, 1, 0x0, 0x0, [⟨15, 0, .ro⟩]⟩]

/-- The groups that can hold the register at bus address `a` (R12): the block decode. -/
def regBlock (a : Nat) : List RegGroup :=
  match a / 0x10000 with
  | 0x0 => regsSys
  | 0x1 => regsStg
  | 0x2 => regsEvt
  | 0x3 => regsNote
  | 0x4 => regsAlloc
  | 0x5 | 0x6 | 0x7 | 0x8 => regsVoice
  | 0x9 => regsSpn
  | 0xA => regsMix
  | 0xB => regsSap
  | 0xC => regsCvo
  | 0xD => regsTmr
  | 0xE => regsCbl
  | 0xF => regsNet
  | 0x10 => regsUart
  | 0x11 => regsNvj
  | 0x12 => regsAge
  | 0x13 => regsMem
  | 0x14 => regsTime
  | _ => []

/-- The indices (i, j, k) of address `a` within group `g`, if `a` is a register of it. -/
def groupIdx (g : RegGroup) (a : Nat) : Option (Nat × Nat × Nat) :=
  if a < g.base then none else
    let o := a - g.base
    let i := if g.s1 = 0 then 0 else o / g.s1
    let o1 := o - i * g.s1
    let j := if g.s2 = 0 then 0 else o1 / g.s2
    let o2 := o1 - j * g.s2
    let k := if g.s3 = 0 then 0 else o2 / g.s3
    if i < g.n1 ∧ j < g.n2 ∧ k < g.n3 ∧ o2 = k * g.s3 then some (i, j, k) else none

/-- The group and indices of the register at `a` among `gs`. -/
def findReg : List RegGroup → Nat → Option (RegGroup × Nat × Nat × Nat)
  | [], _ => none
  | g :: gs, a =>
    match groupIdx g a with
    | some ix => some (g, ix)
    | none => findReg gs a

/-- The register at bus address `a`, if `a` names one (R11). -/
def regAt (a : Nat) : Option (RegGroup × Nat × Nat × Nat) := findReg (regBlock a) a

/-- The fields of the register at `a`; none where `a` holds no register. -/
def regFields (a : Nat) : List FieldDesc :=
  match regAt a with
  | some (g, _) => g.fields
  | none => []

/-- The part of a reset value that depends on the number of the register within its family. -/
def resetIdx (base i j k : Nat) : Nat :=
  match base with

  | 0x50020 => if j = 0 then 1 else 0  -- VOICE_OSC_CTRL

  | 0x500E0 => if j = 0 then 0x92 else 0  -- VOICE_ENV_CTRL

  | 0x500E4 => if j = 0 then (if k = 0 then 0xFFFF3E80 else if k = 1 then 0xC0007D00 else if k = 2 then 0x7D00 else 0) else 0  -- VOICE_ENV_SEG

  | 0xB1100 => j * 0x10000 + j  -- SAP_TXMAP

  | 0xB1180 => j * 0x10000  -- SAP_RXMAP

  | 0xC1000 => 2048 * j  -- CVO_CAL

  | 0xF0040 => i  -- NET_DOM_CFG

  | 0xF0140 => j  -- NET_STREAM_MAP

  | 0x100100 => if i = 4 then 8 else 0xC8  -- UART_CFG

  | 0x12002C => 0x17C0168  -- AGE_TLIM

  | 0x20010 => if i = 3 then 0x40051000 else 0  -- EVT_ROUTE

  | 0x38000 => j * 65536  -- NOTE_TUNING

  | _ => 0

/-- The reset value of the register at `a` (R10); 0 where `a` holds no register. -/
def resetWord (a : Nat) : BitVec 32 :=
  match regAt a with
  | some (g, i, j, k) => BitVec.ofNat 32 (g.rst + resetIdx g.base i j k)
  | none => 0

end Sys2Proof.Machine
end

