-- ==== Sys2Proof/Machine/RegNames.lean ====
section
/-! DEFINITION. The names of the registers and of their fields, as the chapters write them (R4): `rX` is the bus address of
register X, and X_F the place of its field F. Made from the register tables beside RegMap.lean. -/
namespace Sys2Proof.Machine

/-- A place in the register file: a register's bus address and the bits of one field. -/
structure Fld where
  addr : Nat
  hi : Nat
  lo : Nat
  deriving DecidableEq, Repr

def rSYS_ID : Nat := 0x0
def SYS_ID_ID : Fld := ⟨rSYS_ID , 31, 0⟩
def rSYS_MODE : Nat := 0x4
def SYS_MODE_ILL_CNT : Fld := ⟨rSYS_MODE , 23, 16⟩
def SYS_MODE_ILL_CLR : Fld := ⟨rSYS_MODE , 15, 15⟩
def SYS_MODE_PREV : Fld := ⟨rSYS_MODE , 14, 12⟩
def SYS_MODE_PEND : Fld := ⟨rSYS_MODE , 9, 9⟩
def SYS_MODE_DEPTH : Fld := ⟨rSYS_MODE , 8, 8⟩
def SYS_MODE_REQ : Fld := ⟨rSYS_MODE , 6, 4⟩
def SYS_MODE_CUR : Fld := ⟨rSYS_MODE , 2, 0⟩
def rSYS_RESET : Nat := 0x8
def SYS_RESET_KEY : Fld := ⟨rSYS_RESET , 31, 16⟩
def SYS_RESET_GO : Fld := ⟨rSYS_RESET , 0, 0⟩
def rSYS_RSTCAUSE : Nat := 0xC
def SYS_RSTCAUSE_BY_HOST : Fld := ⟨rSYS_RSTCAUSE , 10, 10⟩
def SYS_RSTCAUSE_BY_MIDI0 : Fld := ⟨rSYS_RSTCAUSE , 9, 9⟩
def SYS_RSTCAUSE_BY_WAKE : Fld := ⟨rSYS_RSTCAUSE , 8, 8⟩
def SYS_RSTCAUSE_CORE_POR : Fld := ⟨rSYS_RSTCAUSE , 4, 4⟩
def SYS_RSTCAUSE_SW : Fld := ⟨rSYS_RSTCAUSE , 3, 3⟩
def SYS_RSTCAUSE_PIN : Fld := ⟨rSYS_RSTCAUSE , 2, 2⟩
def SYS_RSTCAUSE_SHELF : Fld := ⟨rSYS_RSTCAUSE , 1, 1⟩
def SYS_RSTCAUSE_POR : Fld := ⟨rSYS_RSTCAUSE , 0, 0⟩
def rSYS_STRAP : Nat := 0x10
def SYS_STRAP_SVC : Fld := ⟨rSYS_STRAP , 3, 3⟩
def SYS_STRAP_HEAD : Fld := ⟨rSYS_STRAP , 2, 2⟩
def SYS_STRAP_BOOTSEL : Fld := ⟨rSYS_STRAP , 1, 0⟩
def rSYS_CLKSTAT : Nat := 0x20
def SYS_CLKSTAT_LPLL_LOCK : Fld := ⟨rSYS_CLKSTAT , 6, 6⟩
def SYS_CLKSTAT_PCLK_SRC : Fld := ⟨rSYS_CLKSTAT , 5, 5⟩
def SYS_CLKSTAT_SPLL_LOCK : Fld := ⟨rSYS_CLKSTAT , 4, 4⟩
def SYS_CLKSTAT_APLL_LOCK : Fld := ⟨rSYS_CLKSTAT , 3, 3⟩
def SYS_CLKSTAT_HFRC_ON : Fld := ⟨rSYS_CLKSTAT , 2, 2⟩
def SYS_CLKSTAT_XREF_OK : Fld := ⟨rSYS_CLKSTAT , 1, 1⟩
def SYS_CLKSTAT_XO32_OK : Fld := ⟨rSYS_CLKSTAT , 0, 0⟩
def rSYS_SPLL : Nat := 0x24
def SYS_SPLL_STEP : Fld := ⟨rSYS_SPLL , 3, 0⟩
def rSYS_APLL : Nat := 0x28
def SYS_APLL_FAMILY : Fld := ⟨rSYS_APLL , 0, 0⟩
def rSYS_PWR : Nat := 0x30
def SYS_PWR_IDLE_MS : Fld := ⟨rSYS_PWR , 31, 16⟩
def SYS_PWR_SHELF_XO32 : Fld := ⟨rSYS_PWR , 0, 0⟩
def rSYS_WAKE_EN : Nat := 0x34
def SYS_WAKE_EN_ALARM : Fld := ⟨rSYS_WAKE_EN , 10, 10⟩
def SYS_WAKE_EN_TMR : Fld := ⟨rSYS_WAKE_EN , 9, 9⟩
def SYS_WAKE_EN_PIN : Fld := ⟨rSYS_WAKE_EN , 8, 8⟩
def SYS_WAKE_EN_HOST : Fld := ⟨rSYS_WAKE_EN , 7, 7⟩
def SYS_WAKE_EN_CB : Fld := ⟨rSYS_WAKE_EN , 6, 4⟩
def SYS_WAKE_EN_MIDI : Fld := ⟨rSYS_WAKE_EN , 3, 0⟩
def rSYS_WAKE_SRC : Nat := 0x38
def SYS_WAKE_SRC_ALARM : Fld := ⟨rSYS_WAKE_SRC , 10, 10⟩
def SYS_WAKE_SRC_TMR : Fld := ⟨rSYS_WAKE_SRC , 9, 9⟩
def SYS_WAKE_SRC_PIN : Fld := ⟨rSYS_WAKE_SRC , 8, 8⟩
def SYS_WAKE_SRC_HOST : Fld := ⟨rSYS_WAKE_SRC , 7, 7⟩
def SYS_WAKE_SRC_CB : Fld := ⟨rSYS_WAKE_SRC , 6, 4⟩
def SYS_WAKE_SRC_MIDI : Fld := ⟨rSYS_WAKE_SRC , 3, 0⟩
def rSYS_AON_SEC : Nat := 0x3C
def SYS_AON_SEC_SEC : Fld := ⟨rSYS_AON_SEC , 31, 0⟩
def rSYS_GATE : Nat := 0x40
def SYS_GATE_OPEN : Fld := ⟨rSYS_GATE , 15, 0⟩
def rSTG_CTRL : Nat := 0x10000
def STG_CTRL_WHEN : Fld := ⟨rSTG_CTRL , 5, 4⟩
def STG_CTRL_ABORT : Fld := ⟨rSTG_CTRL , 3, 3⟩
def STG_CTRL_DISCARD : Fld := ⟨rSTG_CTRL , 2, 2⟩
def STG_CTRL_COMMIT : Fld := ⟨rSTG_CTRL , 1, 1⟩
def STG_CTRL_CHECK : Fld := ⟨rSTG_CTRL , 0, 0⟩
def rSTG_STATUS : Nat := 0x10004
def STG_STATUS_RULE : Fld := ⟨rSTG_STATUS , 31, 24⟩
def STG_STATUS_REJ : Fld := ⟨rSTG_STATUS , 23, 20⟩
def STG_STATUS_CSTATE : Fld := ⟨rSTG_STATUS , 19, 17⟩
def STG_STATUS_LATE : Fld := ⟨rSTG_STATUS , 4, 4⟩
def STG_STATUS_RESULT : Fld := ⟨rSTG_STATUS , 3, 2⟩
def STG_STATUS_PENDING : Fld := ⟨rSTG_STATUS , 1, 1⟩
def STG_STATUS_BUSY : Fld := ⟨rSTG_STATUS , 0, 0⟩
def rSTG_AT : Nat := 0x10008
def STG_AT_TIME : Fld := ⟨rSTG_AT , 31, 0⟩
def rSTG_EPOCH : Nat := 0x1000C
def STG_EPOCH_EPOCH : Fld := ⟨rSTG_EPOCH , 31, 0⟩
def rSTG_PEEK_ADDR : Nat := 0x10010
def STG_PEEK_ADDR_ADDR : Fld := ⟨rSTG_PEEK_ADDR , 31, 0⟩
def rSTG_PEEK_DATA : Nat := 0x10014
def STG_PEEK_DATA_DATA : Fld := ⟨rSTG_PEEK_DATA , 31, 0⟩
def rSTG_FAIL_ADDR : Nat := 0x10018
def STG_FAIL_ADDR_ADDR : Fld := ⟨rSTG_FAIL_ADDR , 31, 0⟩
def rSTG_LAST : Nat := 0x1001C
def STG_LAST_TIME : Fld := ⟨rSTG_LAST , 31, 0⟩
def rSTG_CHAIN : Nat := 0x10020
def STG_CHAIN_DEVID : Fld := ⟨rSTG_CHAIN , 31, 24⟩
def STG_CHAIN_RULE : Fld := ⟨rSTG_CHAIN , 7, 0⟩
def rSTG_BOOT : Nat := 0x10024
def STG_BOOT_ATTEMPTS : Fld := ⟨rSTG_BOOT , 27, 24⟩
def STG_BOOT_FAIL1 : Fld := ⟨rSTG_BOOT , 23, 16⟩
def STG_BOOT_FAIL2 : Fld := ⟨rSTG_BOOT , 15, 8⟩
def STG_BOOT_CONF : Fld := ⟨rSTG_BOOT , 2, 2⟩
def STG_BOOT_SLOT : Fld := ⟨rSTG_BOOT , 1, 0⟩
def rSTG_IMGVER : Nat := 0x10028
def STG_IMGVER_VALUE : Fld := ⟨rSTG_IMGVER , 31, 0⟩
def rSTG_IMGDIG (i : Nat) : Nat := 0x10040 + i * 0x4
def STG_IMGDIG_VALUE (i : Nat) : Fld := ⟨rSTG_IMGDIG i, 31, 0⟩
def rEVT_RAW (h : Nat) : Nat := 0x20000 + h * 0x4
def EVT_RAW_RAW (h : Nat) : Fld := ⟨rEVT_RAW h, 31, 0⟩
def rEVT_MASK0 : Nat := 0x20008
def EVT_MASK0_MASK : Fld := ⟨rEVT_MASK0 , 31, 0⟩
def rEVT_MASK1 : Nat := 0x2000C
def EVT_MASK1_MASK : Fld := ⟨rEVT_MASK1 , 31, 0⟩
def rEVT_ROUTE (m : Nat) : Nat := 0x20010 + m * 0x4
def EVT_ROUTE_ROUTE (m : Nat) : Fld := ⟨rEVT_ROUTE m, 31, 0⟩
def rEVT_CTRL : Nat := 0x20020
def EVT_CTRL_HOLDOFF : Fld := ⟨rEVT_CTRL , 15, 0⟩
def rEVT_PIN : Nat := 0x20024
def EVT_PIN_LOW : Fld := ⟨rEVT_PIN , 1, 0⟩
def rEVT_FATAL : Nat := 0x20028
def EVT_FATAL_VALID : Fld := ⟨rEVT_FATAL , 31, 31⟩
def EVT_FATAL_SRC : Fld := ⟨rEVT_FATAL , 13, 8⟩
def EVT_FATAL_MODE : Fld := ⟨rEVT_FATAL , 2, 0⟩
def rEVT_FTIME : Nat := 0x2002C
def EVT_FTIME_TIME : Fld := ⟨rEVT_FTIME , 31, 0⟩
def rEVT_DUMP : Nat := 0x20030
def EVT_DUMP_RES : Fld := ⟨rEVT_DUMP , 31, 28⟩
def EVT_DUMP_SLOT : Fld := ⟨rEVT_DUMP , 27, 26⟩
def EVT_DUMP_ERASED : Fld := ⟨rEVT_DUMP , 25, 24⟩
def EVT_DUMP_DSEQ : Fld := ⟨rEVT_DUMP , 15, 0⟩
def rEVT_WDT : Nat := 0x20034
def EVT_WDT_RESTARTS : Fld := ⟨rEVT_WDT , 31, 16⟩
def rEVT_COUNT (k : Nat) : Nat := 0x20100 + k * 0x4
def EVT_COUNT_SUPP (k : Nat) : Fld := ⟨rEVT_COUNT k, 31, 16⟩
def EVT_COUNT_TOTAL (k : Nat) : Fld := ⟨rEVT_COUNT k, 15, 0⟩
def rNOTE_STAT : Nat := 0x30000
def NOTE_STAT_HWM : Fld := ⟨rNOTE_STAT , 15, 8⟩
def NOTE_STAT_OCC : Fld := ⟨rNOTE_STAT , 7, 0⟩
def rNOTE_HORIZON : Nat := 0x30004
def NOTE_HORIZON_H : Fld := ⟨rNOTE_HORIZON , 6, 0⟩
def rNOTE_CNT0 : Nat := 0x30008
def NOTE_CNT0_DUP : Fld := ⟨rNOTE_CNT0 , 31, 24⟩
def NOTE_CNT0_OVFL : Fld := ⟨rNOTE_CNT0 , 23, 16⟩
def NOTE_CNT0_LATE : Fld := ⟨rNOTE_CNT0 , 15, 8⟩
def rNOTE_CNT1 : Nat := 0x3000C
def NOTE_CNT1_REANCH : Fld := ⟨rNOTE_CNT1 , 31, 24⟩
def NOTE_CNT1_RANGE : Fld := ⟨rNOTE_CNT1 , 23, 16⟩
def NOTE_CNT1_UNSUP : Fld := ⟨rNOTE_CNT1 , 15, 8⟩
def NOTE_CNT1_DISC : Fld := ⟨rNOTE_CNT1 , 7, 0⟩
def rNOTE_SRC (n : Nat) : Nat := 0x30010 + n * 0x4
def NOTE_SRC_EN (n : Nat) : Fld := ⟨rNOTE_SRC n, 31, 31⟩
def NOTE_SRC_ASENSE (n : Nat) : Fld := ⟨rNOTE_SRC n, 26, 26⟩
def NOTE_SRC_JR (n : Nat) : Fld := ⟨rNOTE_SRC n, 25, 25⟩
def NOTE_SRC_AT (n : Nat) : Fld := ⟨rNOTE_SRC n, 24, 24⟩
def NOTE_SRC_OFS (n : Nat) : Fld := ⟨rNOTE_SRC n, 19, 0⟩
def rNOTE_JR : Nat := 0x30040
def NOTE_JR_WIN : Fld := ⟨rNOTE_JR , 15, 0⟩
def rNOTE_SYSEX : Nat := 0x30044
def NOTE_SYSEX_MFR : Fld := ⟨rNOTE_SYSEX , 31, 16⟩
def NOTE_SYSEX_DEVID : Fld := ⟨rNOTE_SYSEX , 15, 0⟩
def rNOTE_GATE (k : Nat) : Nat := 0x30080 + k * 0x4
def NOTE_GATE_EN (k : Nat) : Fld := ⟨rNOTE_GATE k, 31, 31⟩
def NOTE_GATE_PART (k : Nat) : Fld := ⟨rNOTE_GATE k, 28, 24⟩
def NOTE_GATE_KEY (k : Nat) : Fld := ⟨rNOTE_GATE k, 22, 16⟩
def NOTE_GATE_VEL (k : Nat) : Fld := ⟨rNOTE_GATE k, 15, 0⟩
def rNOTE_PART_MAP (n : Nat) : Nat := 0x30100 + n * 0x20
def NOTE_PART_MAP_EN (n : Nat) : Fld := ⟨rNOTE_PART_MAP n, 31, 31⟩
def NOTE_PART_MAP_PORTS (n : Nat) : Fld := ⟨rNOTE_PART_MAP n, 28, 24⟩
def NOTE_PART_MAP_GROUP (n : Nat) : Fld := ⟨rNOTE_PART_MAP n, 19, 16⟩
def NOTE_PART_MAP_CHAN (n : Nat) : Fld := ⟨rNOTE_PART_MAP n, 15, 0⟩
def rNOTE_PART_ZONE (n : Nat) : Nat := 0x30104 + n * 0x20
def NOTE_PART_ZONE_VEL_HI (n : Nat) : Fld := ⟨rNOTE_PART_ZONE n, 30, 24⟩
def NOTE_PART_ZONE_VEL_LO (n : Nat) : Fld := ⟨rNOTE_PART_ZONE n, 22, 16⟩
def NOTE_PART_ZONE_KEY_HI (n : Nat) : Fld := ⟨rNOTE_PART_ZONE n, 14, 8⟩
def NOTE_PART_ZONE_KEY_LO (n : Nat) : Fld := ⟨rNOTE_PART_ZONE n, 6, 0⟩
def rNOTE_PART_TUNE (n : Nat) : Nat := 0x30108 + n * 0x20
def NOTE_PART_TUNE_FINE (n : Nat) : Fld := ⟨rNOTE_PART_TUNE n, 31, 16⟩
def NOTE_PART_TUNE_TRANSPOSE (n : Nat) : Fld := ⟨rNOTE_PART_TUNE n, 15, 8⟩
def NOTE_PART_TUNE_TABLE (n : Nat) : Fld := ⟨rNOTE_PART_TUNE n, 5, 0⟩
def rNOTE_PART_MODE (n : Nat) : Nat := 0x3010C + n * 0x20
def NOTE_PART_MODE_BEND (n : Nat) : Fld := ⟨rNOTE_PART_MODE n, 29, 24⟩
def NOTE_PART_MODE_TIGHT (n : Nat) : Fld := ⟨rNOTE_PART_MODE n, 8, 8⟩
def NOTE_PART_MODE_UNISON (n : Nat) : Fld := ⟨rNOTE_PART_MODE n, 7, 4⟩
def NOTE_PART_MODE_VOICING (n : Nat) : Fld := ⟨rNOTE_PART_MODE n, 1, 0⟩
def rNOTE_PART_ALLOC (n : Nat) : Nat := 0x30110 + n * 0x20
def NOTE_PART_ALLOC_LIMIT (n : Nat) : Fld := ⟨rNOTE_PART_ALLOC n, 24, 16⟩
def NOTE_PART_ALLOC_RESERVE (n : Nat) : Fld := ⟨rNOTE_PART_ALLOC n, 8, 0⟩
def rNOTE_PART_MPE (n : Nat) : Nat := 0x30114 + n * 0x20
def NOTE_PART_MPE_LIVE (n : Nat) : Fld := ⟨rNOTE_PART_MPE n, 31, 28⟩
def NOTE_PART_MPE_MCM_EN (n : Nat) : Fld := ⟨rNOTE_PART_MPE n, 24, 24⟩
def NOTE_PART_MPE_MBR_BEND (n : Nat) : Fld := ⟨rNOTE_PART_MPE n, 21, 16⟩
def NOTE_PART_MPE_MEMBERS (n : Nat) : Fld := ⟨rNOTE_PART_MPE n, 7, 4⟩
def NOTE_PART_MPE_ZONE (n : Nat) : Fld := ⟨rNOTE_PART_MPE n, 1, 0⟩
def rNOTE_PART_STEAL (n : Nat) : Nat := 0x30118 + n * 0x20
def NOTE_PART_STEAL_RETRIG (n : Nat) : Fld := ⟨rNOTE_PART_STEAL n, 17, 16⟩
def NOTE_PART_STEAL_RESCUE (n : Nat) : Fld := ⟨rNOTE_PART_STEAL n, 12, 12⟩
def NOTE_PART_STEAL_FADE (n : Nat) : Fld := ⟨rNOTE_PART_STEAL n, 11, 8⟩
def NOTE_PART_STEAL_PROTECT (n : Nat) : Fld := ⟨rNOTE_PART_STEAL n, 5, 4⟩
def NOTE_PART_STEAL_PRIO (n : Nat) : Fld := ⟨rNOTE_PART_STEAL n, 3, 0⟩
def rNOTE_PART_STATE (n : Nat) : Nat := 0x3011C + n * 0x20
def NOTE_PART_STATE_SOST (n : Nat) : Fld := ⟨rNOTE_PART_STATE n, 25, 25⟩
def NOTE_PART_STATE_SUST (n : Nat) : Fld := ⟨rNOTE_PART_STATE n, 24, 24⟩
def NOTE_PART_STATE_PROGRAM (n : Nat) : Fld := ⟨rNOTE_PART_STATE n, 23, 16⟩
def NOTE_PART_STATE_SOUNDING (n : Nat) : Fld := ⟨rNOTE_PART_STATE n, 8, 0⟩
def rNOTE_TUNING (t k : Nat) : Nat := 0x38000 + t * 0x200 + k * 0x4
def NOTE_TUNING_PITCH (t k : Nat) : Fld := ⟨rNOTE_TUNING t k, 31, 0⟩
def rALLOC_CTRL : Nat := 0x40000
def ALLOC_CTRL_SPREAD : Fld := ⟨rALLOC_CTRL , 0, 0⟩
def rALLOC_STAT : Nat := 0x40004
def ALLOC_STAT_NUM : Fld := ⟨rALLOC_STAT , 24, 16⟩
def ALLOC_STAT_QHWM : Fld := ⟨rALLOC_STAT , 12, 8⟩
def ALLOC_STAT_QOCC : Fld := ⟨rALLOC_STAT , 4, 0⟩
def rALLOC_CNT : Nat := 0x40008
def ALLOC_CNT_REFUSED : Fld := ⟨rALLOC_CNT , 31, 24⟩
def ALLOC_CNT_FORCED : Fld := ⟨rALLOC_CNT , 23, 16⟩
def ALLOC_CNT_SHORT : Fld := ⟨rALLOC_CNT , 15, 8⟩
def ALLOC_CNT_RESCUED : Fld := ⟨rALLOC_CNT , 7, 0⟩
def rALLOC_PARTING : Nat := 0x4000C
def ALLOC_PARTING_BUSY : Fld := ⟨rALLOC_PARTING , 31, 0⟩
def rALLOC_LAST : Nat := 0x40010
def ALLOC_LAST_REFUSED : Fld := ⟨rALLOC_LAST , 31, 31⟩
def ALLOC_LAST_STEAL : Fld := ⟨rALLOC_LAST , 30, 30⟩
def ALLOC_LAST_REUSE : Fld := ⟨rALLOC_LAST , 29, 29⟩
def ALLOC_LAST_PART : Fld := ⟨rALLOC_LAST , 28, 24⟩
def ALLOC_LAST_TAG : Fld := ⟨rALLOC_LAST , 23, 16⟩
def ALLOC_LAST_UNISON : Fld := ⟨rALLOC_LAST , 10, 8⟩
def ALLOC_LAST_VOICE : Fld := ⟨rALLOC_LAST , 7, 0⟩
def rALLOC_LASTSCORE : Nat := 0x40014
def ALLOC_LASTSCORE_SCORE : Fld := ⟨rALLOC_LASTSCORE , 31, 0⟩
def rALLOC_SUMSEL : Nat := 0x40018
def ALLOC_SUMSEL_DEVID : Fld := ⟨rALLOC_SUMSEL , 15, 8⟩
def ALLOC_SUMSEL_CLASS : Fld := ⟨rALLOC_SUMSEL , 2, 0⟩
def rALLOC_SUMDATA : Nat := 0x4001C
def ALLOC_SUMDATA_SCORE : Fld := ⟨rALLOC_SUMDATA , 31, 0⟩
def rALLOC_SUMCNT : Nat := 0x40020
def ALLOC_SUMCNT_VALID : Fld := ⟨rALLOC_SUMCNT , 31, 31⟩
def ALLOC_SUMCNT_COUNT : Fld := ⟨rALLOC_SUMCNT , 8, 0⟩
def rALLOC_PCOUNT (n : Nat) : Nat := 0x40100 + n * 0x4
def ALLOC_PCOUNT_COUNT (n : Nat) : Fld := ⟨rALLOC_PCOUNT n, 8, 0⟩
def rALLOC_SCORE (v : Nat) : Nat := 0x40400 + v * 0x4
def ALLOC_SCORE_SCORE (v : Nat) : Fld := ⟨rALLOC_SCORE v, 31, 0⟩
def rALLOC_NOTE (v : Nat) : Nat := 0x40800 + v * 0x8
def ALLOC_NOTE_TAG (v : Nat) : Fld := ⟨rALLOC_NOTE v, 31, 16⟩
def ALLOC_NOTE_PEND (v : Nat) : Fld := ⟨rALLOC_NOTE v, 15, 15⟩
def ALLOC_NOTE_UIDX (v : Nat) : Fld := ⟨rALLOC_NOTE v, 14, 12⟩
def ALLOC_NOTE_CHAN (v : Nat) : Fld := ⟨rALLOC_NOTE v, 11, 8⟩
def ALLOC_NOTE_KEY (v : Nat) : Fld := ⟨rALLOC_NOTE v, 6, 0⟩
def rALLOC_OWNER (v : Nat) : Nat := 0x40804 + v * 0x8
def ALLOC_OWNER_PART (v : Nat) : Fld := ⟨rALLOC_OWNER v, 4, 0⟩
def rVOICE_COM0 (v : Nat) : Nat := 0x50000 + v * 0x400
def VOICE_COM0_FBAL (v : Nat) : Fld := ⟨rVOICE_COM0 v, 31, 16⟩
def VOICE_COM0_FROUTE (v : Nat) : Fld := ⟨rVOICE_COM0 v, 0, 0⟩
def rVOICE_COM1 (v : Nat) : Nat := 0x50004 + v * 0x400
def VOICE_COM1_TIME (v : Nat) : Fld := ⟨rVOICE_COM1 v, 15, 4⟩
def VOICE_COM1_MODE (v : Nat) : Fld := ⟨rVOICE_COM1 v, 1, 0⟩
def rVOICE_COM2 (v : Nat) : Nat := 0x50008 + v * 0x400
def VOICE_COM2_UDETUNE (v : Nat) : Fld := ⟨rVOICE_COM2 v, 31, 16⟩
def VOICE_COM2_USPREAD (v : Nat) : Fld := ⟨rVOICE_COM2 v, 15, 0⟩
def rVOICE_COM3 (v : Nat) : Nat := 0x5000C + v * 0x400
def VOICE_COM3_CCD (v : Nat) : Fld := ⟨rVOICE_COM3 v, 30, 24⟩
def VOICE_COM3_CCC (v : Nat) : Fld := ⟨rVOICE_COM3 v, 22, 16⟩
def VOICE_COM3_CCB (v : Nat) : Fld := ⟨rVOICE_COM3 v, 14, 8⟩
def VOICE_COM3_CCA (v : Nat) : Fld := ⟨rVOICE_COM3 v, 6, 0⟩
def rVOICE_COM4 (v : Nat) : Nat := 0x50010 + v * 0x400
def VOICE_COM4_SEED (v : Nat) : Fld := ⟨rVOICE_COM4 v, 31, 16⟩
def VOICE_COM4_SEEDFIX (v : Nat) : Fld := ⟨rVOICE_COM4 v, 0, 0⟩
def rVOICE_OSC_CTRL (v k : Nat) : Nat := 0x50020 + v * 0x400 + k * 0x20
def VOICE_OSC_CTRL_COARSE (v k : Nat) : Fld := ⟨rVOICE_OSC_CTRL v k, 23, 16⟩
def VOICE_OSC_CTRL_RESET (v k : Nat) : Fld := ⟨rVOICE_OSC_CTRL v k, 9, 9⟩
def VOICE_OSC_CTRL_KEYTRK (v k : Nat) : Fld := ⟨rVOICE_OSC_CTRL v k, 8, 8⟩
def VOICE_OSC_CTRL_XMSRC (v k : Nat) : Fld := ⟨rVOICE_OSC_CTRL v k, 7, 6⟩
def VOICE_OSC_CTRL_SYNCSRC (v k : Nat) : Fld := ⟨rVOICE_OSC_CTRL v k, 5, 4⟩
def VOICE_OSC_CTRL_SYNC (v k : Nat) : Fld := ⟨rVOICE_OSC_CTRL v k, 3, 3⟩
def VOICE_OSC_CTRL_TYPE (v k : Nat) : Fld := ⟨rVOICE_OSC_CTRL v k, 2, 0⟩
def rVOICE_OSC_PITCH (v k : Nat) : Nat := 0x50024 + v * 0x400 + k * 0x20
def VOICE_OSC_PITCH_FINE (v k : Nat) : Fld := ⟨rVOICE_OSC_PITCH v k, 31, 16⟩
def VOICE_OSC_PITCH_START (v k : Nat) : Fld := ⟨rVOICE_OSC_PITCH v k, 15, 0⟩
def rVOICE_OSC_SHAPE (v k : Nat) : Nat := 0x50028 + v * 0x400 + k * 0x20
def VOICE_OSC_SHAPE_SHAPE1 (v k : Nat) : Fld := ⟨rVOICE_OSC_SHAPE v k, 31, 16⟩
def VOICE_OSC_SHAPE_SHAPE2 (v k : Nat) : Fld := ⟨rVOICE_OSC_SHAPE v k, 15, 0⟩
def rVOICE_OSC_XM (v k : Nat) : Nat := 0x5002C + v * 0x400 + k * 0x20
def VOICE_OSC_XM_XMDEPTH (v k : Nat) : Fld := ⟨rVOICE_OSC_XM v k, 31, 16⟩
def VOICE_OSC_XM_FB (v k : Nat) : Fld := ⟨rVOICE_OSC_XM v k, 15, 0⟩
def rVOICE_OSC_OUT (v k : Nat) : Nat := 0x50030 + v * 0x400 + k * 0x20
def VOICE_OSC_OUT_LEVEL (v k : Nat) : Fld := ⟨rVOICE_OSC_OUT v k, 31, 16⟩
def VOICE_OSC_OUT_ROUTE (v k : Nat) : Fld := ⟨rVOICE_OSC_OUT v k, 1, 0⟩
def rVOICE_OSC_BASE (v k : Nat) : Nat := 0x50034 + v * 0x400 + k * 0x20
def VOICE_OSC_BASE_VALUE (v k : Nat) : Fld := ⟨rVOICE_OSC_BASE v k, 31, 0⟩
def rVOICE_OSC_LOOPS (v k : Nat) : Nat := 0x50038 + v * 0x400 + k * 0x20
def VOICE_OSC_LOOPS_VALUE (v k : Nat) : Fld := ⟨rVOICE_OSC_LOOPS v k, 31, 0⟩
def rVOICE_OSC_LOOPE (v k : Nat) : Nat := 0x5003C + v * 0x400 + k * 0x20
def VOICE_OSC_LOOPE_VALUE (v k : Nat) : Fld := ⟨rVOICE_OSC_LOOPE v k, 31, 0⟩
def rVOICE_FLT_CTRL (v k : Nat) : Nat := 0x500A0 + v * 0x400 + k * 0x10
def VOICE_FLT_CTRL_TYPE (v k : Nat) : Fld := ⟨rVOICE_FLT_CTRL v k, 2, 0⟩
def rVOICE_FLT_CUT (v k : Nat) : Nat := 0x500A4 + v * 0x400 + k * 0x10
def VOICE_FLT_CUT_CUT (v k : Nat) : Fld := ⟨rVOICE_FLT_CUT v k, 31, 0⟩
def rVOICE_FLT_RESO (v k : Nat) : Nat := 0x500A8 + v * 0x400 + k * 0x10
def VOICE_FLT_RESO_RESO (v k : Nat) : Fld := ⟨rVOICE_FLT_RESO v k, 31, 16⟩
def VOICE_FLT_RESO_KEYTRK (v k : Nat) : Fld := ⟨rVOICE_FLT_RESO v k, 15, 0⟩
def rVOICE_FLT_DRV (v k : Nat) : Nat := 0x500AC + v * 0x400 + k * 0x10
def VOICE_FLT_DRV_DRIVE (v k : Nat) : Fld := ⟨rVOICE_FLT_DRV v k, 31, 16⟩
def VOICE_FLT_DRV_MORPH (v k : Nat) : Fld := ⟨rVOICE_FLT_DRV v k, 15, 0⟩
def rVOICE_AMP0 (v : Nat) : Nat := 0x500C0 + v * 0x400
def VOICE_AMP0_LEVEL (v : Nat) : Fld := ⟨rVOICE_AMP0 v, 31, 16⟩
def VOICE_AMP0_DRIVE (v : Nat) : Fld := ⟨rVOICE_AMP0 v, 15, 0⟩
def rVOICE_AMP1 (v : Nat) : Nat := 0x500C4 + v * 0x400
def VOICE_AMP1_PAN (v : Nat) : Fld := ⟨rVOICE_AMP1 v, 31, 16⟩
def VOICE_AMP1_VELAMT (v : Nat) : Fld := ⟨rVOICE_AMP1 v, 15, 0⟩
def rVOICE_AMP2 (v : Nat) : Nat := 0x500C8 + v * 0x400
def VOICE_AMP2_EN3 (v : Nat) : Fld := ⟨rVOICE_AMP2 v, 31, 31⟩
def VOICE_AMP2_EN2 (v : Nat) : Fld := ⟨rVOICE_AMP2 v, 23, 23⟩
def VOICE_AMP2_EN1 (v : Nat) : Fld := ⟨rVOICE_AMP2 v, 15, 15⟩
def VOICE_AMP2_EN0 (v : Nat) : Fld := ⟨rVOICE_AMP2 v, 7, 7⟩
def VOICE_AMP2_BUS3 (v : Nat) : Fld := ⟨rVOICE_AMP2 v, 29, 24⟩
def VOICE_AMP2_BUS2 (v : Nat) : Fld := ⟨rVOICE_AMP2 v, 21, 16⟩
def VOICE_AMP2_BUS1 (v : Nat) : Fld := ⟨rVOICE_AMP2 v, 13, 8⟩
def VOICE_AMP2_BUS0 (v : Nat) : Fld := ⟨rVOICE_AMP2 v, 5, 0⟩
def rVOICE_AMP3 (v : Nat) : Nat := 0x500CC + v * 0x400
def VOICE_AMP3_GAIN0 (v : Nat) : Fld := ⟨rVOICE_AMP3 v, 31, 16⟩
def VOICE_AMP3_GAIN1 (v : Nat) : Fld := ⟨rVOICE_AMP3 v, 15, 0⟩
def rVOICE_AMP4 (v : Nat) : Nat := 0x500D0 + v * 0x400
def VOICE_AMP4_GAIN2 (v : Nat) : Fld := ⟨rVOICE_AMP4 v, 31, 16⟩
def VOICE_AMP4_GAIN3 (v : Nat) : Fld := ⟨rVOICE_AMP4 v, 15, 0⟩
def rVOICE_ENV_CTRL (v k : Nat) : Nat := 0x500E0 + v * 0x400 + k * 0x28
def VOICE_ENV_CTRL_KEYTIME (v k : Nat) : Fld := ⟨rVOICE_ENV_CTRL v k, 31, 24⟩
def VOICE_ENV_CTRL_VELSENS (v k : Nat) : Fld := ⟨rVOICE_ENV_CTRL v k, 23, 16⟩
def VOICE_ENV_CTRL_LOOP_EN (v k : Nat) : Fld := ⟨rVOICE_ENV_CTRL v k, 11, 11⟩
def VOICE_ENV_CTRL_LOOPST (v k : Nat) : Fld := ⟨rVOICE_ENV_CTRL v k, 10, 8⟩
def VOICE_ENV_CTRL_SUS_EN (v k : Nat) : Fld := ⟨rVOICE_ENV_CTRL v k, 7, 7⟩
def VOICE_ENV_CTRL_SUS (v k : Nat) : Fld := ⟨rVOICE_ENV_CTRL v k, 6, 4⟩
def VOICE_ENV_CTRL_LAST (v k : Nat) : Fld := ⟨rVOICE_ENV_CTRL v k, 2, 0⟩
def rVOICE_ENV_SEG (v k j : Nat) : Nat := 0x500E4 + v * 0x400 + k * 0x28 + j * 0x4
def VOICE_ENV_SEG_LEVEL (v k j : Nat) : Fld := ⟨rVOICE_ENV_SEG v k j, 31, 16⟩
def VOICE_ENV_SEG_TIME (v k j : Nat) : Fld := ⟨rVOICE_ENV_SEG v k j, 15, 4⟩
def VOICE_ENV_SEG_CURVE (v k j : Nat) : Fld := ⟨rVOICE_ENV_SEG v k j, 3, 0⟩
def rVOICE_VLFO_A (v k : Nat) : Nat := 0x50180 + v * 0x400 + k * 0x8
def VOICE_VLFO_A_RATE (v k : Nat) : Fld := ⟨rVOICE_VLFO_A v k, 31, 16⟩
def VOICE_VLFO_A_DIV (v k : Nat) : Fld := ⟨rVOICE_VLFO_A v k, 11, 8⟩
def VOICE_VLFO_A_UNI (v k : Nat) : Fld := ⟨rVOICE_VLFO_A v k, 6, 6⟩
def VOICE_VLFO_A_RETRIG (v k : Nat) : Fld := ⟨rVOICE_VLFO_A v k, 5, 5⟩
def VOICE_VLFO_A_SYNC (v k : Nat) : Fld := ⟨rVOICE_VLFO_A v k, 4, 4⟩
def VOICE_VLFO_A_WAVE (v k : Nat) : Fld := ⟨rVOICE_VLFO_A v k, 2, 0⟩
def rVOICE_VLFO_B (v k : Nat) : Nat := 0x50184 + v * 0x400 + k * 0x8
def VOICE_VLFO_B_START (v k : Nat) : Fld := ⟨rVOICE_VLFO_B v k, 31, 16⟩
def VOICE_VLFO_B_FADEIN (v k : Nat) : Fld := ⟨rVOICE_VLFO_B v k, 11, 0⟩
def rVOICE_PLFO_A (v k : Nat) : Nat := 0x50198 + v * 0x400 + k * 0x8
def VOICE_PLFO_A_RATE (v k : Nat) : Fld := ⟨rVOICE_PLFO_A v k, 31, 16⟩
def VOICE_PLFO_A_DIV (v k : Nat) : Fld := ⟨rVOICE_PLFO_A v k, 11, 8⟩
def VOICE_PLFO_A_UNI (v k : Nat) : Fld := ⟨rVOICE_PLFO_A v k, 6, 6⟩
def VOICE_PLFO_A_RETRIG (v k : Nat) : Fld := ⟨rVOICE_PLFO_A v k, 5, 5⟩
def VOICE_PLFO_A_SYNC (v k : Nat) : Fld := ⟨rVOICE_PLFO_A v k, 4, 4⟩
def VOICE_PLFO_A_WAVE (v k : Nat) : Fld := ⟨rVOICE_PLFO_A v k, 2, 0⟩
def rVOICE_PLFO_B (v k : Nat) : Nat := 0x5019C + v * 0x400 + k * 0x8
def VOICE_PLFO_B_START (v k : Nat) : Fld := ⟨rVOICE_PLFO_B v k, 31, 16⟩
def VOICE_PLFO_B_FADEIN (v k : Nat) : Fld := ⟨rVOICE_PLFO_B v k, 11, 0⟩
def rVOICE_CVRT_A (v k : Nat) : Nat := 0x501A8 + v * 0x400 + k * 0x8
def VOICE_CVRT_A_EN (v k : Nat) : Fld := ⟨rVOICE_CVRT_A v k, 31, 31⟩
def VOICE_CVRT_A_MODE (v k : Nat) : Fld := ⟨rVOICE_CVRT_A v k, 25, 24⟩
def VOICE_CVRT_A_CH (v k : Nat) : Fld := ⟨rVOICE_CVRT_A v k, 19, 16⟩
def VOICE_CVRT_A_SRC (v k : Nat) : Fld := ⟨rVOICE_CVRT_A v k, 5, 0⟩
def rVOICE_CVRT_B (v k : Nat) : Nat := 0x501AC + v * 0x400 + k * 0x8
def VOICE_CVRT_B_DEPTH (v k : Nat) : Fld := ⟨rVOICE_CVRT_B v k, 31, 16⟩
def VOICE_CVRT_B_OFFSET (v k : Nat) : Fld := ⟨rVOICE_CVRT_B v k, 15, 0⟩
def rVOICE_MTX_A (v m : Nat) : Nat := 0x501C0 + v * 0x400 + m * 0x8
def VOICE_MTX_A_DEST (v m : Nat) : Fld := ⟨rVOICE_MTX_A v m, 29, 24⟩
def VOICE_MTX_A_VIA (v m : Nat) : Fld := ⟨rVOICE_MTX_A v m, 21, 16⟩
def VOICE_MTX_A_SRC (v m : Nat) : Fld := ⟨rVOICE_MTX_A v m, 13, 8⟩
def VOICE_MTX_A_VIAMODE (v m : Nat) : Fld := ⟨rVOICE_MTX_A v m, 1, 0⟩
def rVOICE_MTX_B (v m : Nat) : Nat := 0x501C4 + v * 0x400 + m * 0x8
def VOICE_MTX_B_DEPTH (v m : Nat) : Fld := ⟨rVOICE_MTX_B v m, 31, 16⟩
def rVOICE_MODAL_A (v : Nat) : Nat := 0x50280 + v * 0x400
def VOICE_MODAL_A_MIX (v : Nat) : Fld := ⟨rVOICE_MODAL_A v, 31, 16⟩
def VOICE_MODAL_A_IN (v : Nat) : Fld := ⟨rVOICE_MODAL_A v, 9, 8⟩
def VOICE_MODAL_A_COUNT (v : Nat) : Fld := ⟨rVOICE_MODAL_A v, 5, 0⟩
def rVOICE_MODAL_B (v : Nat) : Nat := 0x50284 + v * 0x400
def VOICE_MODAL_B_INGAIN (v : Nat) : Fld := ⟨rVOICE_MODAL_B v, 31, 16⟩
def rVOICE_MOD_A (v i : Nat) : Nat := 0x50290 + v * 0x400 + i * 0x8
def VOICE_MOD_A_OFFSET (v i : Nat) : Fld := ⟨rVOICE_MOD_A v i, 31, 16⟩
def VOICE_MOD_A_DECAY (v i : Nat) : Fld := ⟨rVOICE_MOD_A v i, 11, 0⟩
def rVOICE_MOD_B (v i : Nat) : Nat := 0x50294 + v * 0x400 + i * 0x8
def VOICE_MOD_B_GAIN (v i : Nat) : Fld := ⟨rVOICE_MOD_B v i, 31, 16⟩
def VOICE_MOD_B_PHASE (v i : Nat) : Fld := ⟨rVOICE_MOD_B v i, 15, 0⟩
def rVOICE_STATE (v : Nat) : Nat := 0x503C0 + v * 0x400
def VOICE_STATE_CLASS (v : Nat) : Fld := ⟨rVOICE_STATE v, 31, 29⟩
def VOICE_STATE_END (v : Nat) : Fld := ⟨rVOICE_STATE v, 28, 28⟩
def VOICE_STATE_SEG (v : Nat) : Fld := ⟨rVOICE_STATE v, 27, 25⟩
def VOICE_STATE_REL (v : Nat) : Fld := ⟨rVOICE_STATE v, 24, 24⟩
def VOICE_STATE_PATCH (v : Nat) : Fld := ⟨rVOICE_STATE v, 9, 0⟩
def rVOICE_PITCH (v : Nat) : Nat := 0x503C4 + v * 0x400
def VOICE_PITCH_PITCH (v : Nat) : Fld := ⟨rVOICE_PITCH v, 31, 0⟩
def rVOICE_LEVEL (v : Nat) : Nat := 0x503C8 + v * 0x400
def VOICE_LEVEL_LEVEL (v : Nat) : Fld := ⟨rVOICE_LEVEL v, 31, 0⟩
def rVOICE_FRONT (v : Nat) : Nat := 0x503CC + v * 0x400
def VOICE_FRONT_SAMPLE (v : Nat) : Fld := ⟨rVOICE_FRONT v, 31, 0⟩
def rVOICE_ENVL0 (v : Nat) : Nat := 0x503D0 + v * 0x400
def VOICE_ENVL0_ENV1 (v : Nat) : Fld := ⟨rVOICE_ENVL0 v, 31, 16⟩
def VOICE_ENVL0_ENV0 (v : Nat) : Fld := ⟨rVOICE_ENVL0 v, 15, 0⟩
def rVOICE_ENVL1 (v : Nat) : Nat := 0x503D4 + v * 0x400
def VOICE_ENVL1_ENV3 (v : Nat) : Fld := ⟨rVOICE_ENVL1 v, 31, 16⟩
def VOICE_ENVL1_ENV2 (v : Nat) : Fld := ⟨rVOICE_ENVL1 v, 15, 0⟩
def rVOICE_CYC (v : Nat) : Nat := 0x503D8 + v * 0x400
def VOICE_CYC_PEAK (v : Nat) : Fld := ⟨rVOICE_CYC v, 31, 16⟩
def VOICE_CYC_LAST (v : Nat) : Fld := ⟨rVOICE_CYC v, 15, 0⟩
def rSPN_CTRL (n : Nat) : Nat := 0x90000 + n * 0x1000
def SPN_CTRL_OVTRAP (n : Nat) : Fld := ⟨rSPN_CTRL n, 0, 0⟩
def rSPN_STATUS (n : Nat) : Nat := 0x90004 + n * 0x1000
def SPN_STATUS_ACTIVE (n : Nat) : Fld := ⟨rSPN_STATUS n, 31, 16⟩
def SPN_STATUS_PARTING (n : Nat) : Fld := ⟨rSPN_STATUS n, 15, 14⟩
def SPN_STATUS_TRAPPED (n : Nat) : Fld := ⟨rSPN_STATUS n, 13, 13⟩
def SPN_STATUS_RUN (n : Nat) : Fld := ⟨rSPN_STATUS n, 12, 12⟩
def SPN_STATUS_CUR (n : Nat) : Fld := ⟨rSPN_STATUS n, 4, 0⟩
def rSPN_PROG (n : Nat) : Nat := 0x90008 + n * 0x1000
def SPN_PROG_ENTRY (n : Nat) : Fld := ⟨rSPN_PROG n, 26, 16⟩
def SPN_PROG_COST (n : Nat) : Fld := ⟨rSPN_PROG n, 15, 0⟩
def rSPN_BUDGET (n : Nat) : Nat := 0x9000C + n * 0x1000
def SPN_BUDGET_CYCLES (n : Nat) : Fld := ⟨rSPN_BUDGET n, 31, 16⟩
def SPN_BUDGET_RESERVE (n : Nat) : Fld := ⟨rSPN_BUDGET n, 15, 0⟩
def rSPN_VBUDGET (n : Nat) : Nat := 0x90010 + n * 0x1000
def SPN_VBUDGET_NCTX (n : Nat) : Fld := ⟨rSPN_VBUDGET n, 20, 16⟩
def SPN_VBUDGET_VOICE (n : Nat) : Fld := ⟨rSPN_VBUDGET n, 15, 0⟩
def rSPN_ORDERS (n : Nat) : Nat := 0x90014 + n * 0x1000
def SPN_ORDERS_SUSP (n : Nat) : Fld := ⟨rSPN_ORDERS n, 20, 16⟩
def SPN_ORDERS_PEND (n : Nat) : Fld := ⟨rSPN_ORDERS n, 15, 0⟩
def rSPN_LOAD (n : Nat) : Nat := 0x90018 + n * 0x1000
def SPN_LOAD_PEAK (n : Nat) : Fld := ⟨rSPN_LOAD n, 31, 16⟩
def SPN_LOAD_LAST (n : Nat) : Fld := ⟨rSPN_LOAD n, 15, 0⟩
def rSPN_RBCNT (n : Nat) : Nat := 0x9001C + n * 0x1000
def SPN_RBCNT_MERGED (n : Nat) : Fld := ⟨rSPN_RBCNT n, 31, 16⟩
def SPN_RBCNT_ORDERS (n : Nat) : Fld := ⟨rSPN_RBCNT n, 15, 0⟩
def rSPN_OVCNT (n : Nat) : Nat := 0x90020 + n * 0x1000
def SPN_OVCNT_PAUSES (n : Nat) : Fld := ⟨rSPN_OVCNT n, 31, 16⟩
def SPN_OVCNT_SHIFTS (n : Nat) : Fld := ⟨rSPN_OVCNT n, 15, 0⟩
def rSPN_OVRUN (n : Nat) : Nat := 0x90024 + n * 0x1000
def SPN_OVRUN_STALLS (n : Nat) : Fld := ⟨rSPN_OVRUN n, 31, 16⟩
def SPN_OVRUN_OVERRUNS (n : Nat) : Fld := ⟨rSPN_OVRUN n, 15, 0⟩
def rSPN_PART (n k : Nat) : Nat := 0x90028 + n * 0x1000 + k * 0x4
def SPN_PART_BUSY (n k : Nat) : Fld := ⟨rSPN_PART n k, 31, 31⟩
def SPN_PART_VOICE (n k : Nat) : Fld := ⟨rSPN_PART n k, 23, 16⟩
def SPN_PART_REMAIN (n k : Nat) : Fld := ⟨rSPN_PART n k, 15, 0⟩
def rSPN_TRAP (n : Nat) : Nat := 0x90030 + n * 0x1000
def SPN_TRAP_CAUSE (n : Nat) : Fld := ⟨rSPN_TRAP n, 31, 28⟩
def SPN_TRAP_CTX (n : Nat) : Fld := ⟨rSPN_TRAP n, 20, 16⟩
def SPN_TRAP_PC (n : Nat) : Fld := ⟨rSPN_TRAP n, 10, 0⟩
def rSPN_TRAPB (n k : Nat) : Nat := 0x90034 + n * 0x1000 + k * 0x4
def SPN_TRAPB_WORD (n k : Nat) : Fld := ⟨rSPN_TRAPB n k, 31, 0⟩
def rMIX_RATE : Nat := 0xA0000
def MIX_RATE_OSF : Fld := ⟨rMIX_RATE , 5, 4⟩
def MIX_RATE_MULT : Fld := ⟨rMIX_RATE , 1, 0⟩
def rMIX_CTRL : Nat := 0xA0004
def MIX_CTRL_DSPOL : Fld := ⟨rMIX_CTRL , 2, 2⟩
def MIX_CTRL_DSEN : Fld := ⟨rMIX_CTRL , 1, 1⟩
def MIX_CTRL_SYNC : Fld := ⟨rMIX_CTRL , 0, 0⟩
def rMIX_DOUT : Nat := 0xA0008
def MIX_DOUT_GD1 : Fld := ⟨rMIX_DOUT , 31, 24⟩
def MIX_DOUT_GD0 : Fld := ⟨rMIX_DOUT , 23, 16⟩
def MIX_DOUT_DOUT : Fld := ⟨rMIX_DOUT , 6, 0⟩
def rMIX_SYNCT : Nat := 0xA000C
def MIX_SYNCT_TIME : Fld := ⟨rMIX_SYNCT , 31, 0⟩
def rMIX_UNS (h : Nat) : Nat := 0xA0010 + h * 0x4
def MIX_UNS_UNS (h : Nat) : Fld := ⟨rMIX_UNS h, 31, 0⟩
def rMIX_PDM_CFG : Nat := 0xA0020
def MIX_PDM_CFG_EN : Fld := ⟨rMIX_PDM_CFG , 31, 31⟩
def MIX_PDM_CFG_EDGE : Fld := ⟨rMIX_PDM_CFG , 23, 16⟩
def MIX_PDM_CFG_RSEL : Fld := ⟨rMIX_PDM_CFG , 9, 8⟩
def MIX_PDM_CFG_DIV : Fld := ⟨rMIX_PDM_CFG , 7, 0⟩
def rMIX_PDM_STAT : Nat := 0xA0024
def MIX_PDM_STAT_OVL : Fld := ⟨rMIX_PDM_STAT , 7, 0⟩
def rMIX_PDM_TIME : Nat := 0xA0028
def MIX_PDM_TIME_TIME : Fld := ⟨rMIX_PDM_TIME , 31, 0⟩
def rMIX_PDM_VAL (k : Nat) : Nat := 0xA0040 + k * 0x4
def MIX_PDM_VAL_VALUE (k : Nat) : Fld := ⟨rMIX_PDM_VAL k, 31, 0⟩
def rMIX_DEC_CFG (n : Nat) : Nat := 0xA0200 + n * 0x200
def MIX_DEC_CFG_WIGN (n : Nat) : Fld := ⟨rMIX_DEC_CFG n, 31, 31⟩
def MIX_DEC_CFG_ACTIVE (n : Nat) : Fld := ⟨rMIX_DEC_CFG n, 16, 16⟩
def MIX_DEC_CFG_NTAPB (n : Nat) : Fld := ⟨rMIX_DEC_CFG n, 13, 8⟩
def MIX_DEC_CFG_NTAPA (n : Nat) : Fld := ⟨rMIX_DEC_CFG n, 5, 0⟩
def rMIX_DEC_FILLA (n : Nat) : Nat := 0xA0204 + n * 0x200
def MIX_DEC_FILLA_FILL (n : Nat) : Fld := ⟨rMIX_DEC_FILLA n, 31, 0⟩
def rMIX_DEC_FILLB (n : Nat) : Nat := 0xA0208 + n * 0x200
def MIX_DEC_FILLB_FILL (n : Nat) : Fld := ⟨rMIX_DEC_FILLB n, 31, 0⟩
def rMIX_DEC_COEFA (n i : Nat) : Nat := 0xA0280 + n * 0x200 + i * 0x4
def MIX_DEC_COEFA_COEF (n i : Nat) : Fld := ⟨rMIX_DEC_COEFA n i, 23, 0⟩
def rMIX_DEC_COEFB (n i : Nat) : Nat := 0xA0300 + n * 0x200 + i * 0x4
def MIX_DEC_COEFB_COEF (n i : Nat) : Fld := ⟨rMIX_DEC_COEFB n i, 23, 0⟩
def rMIX_BUS_CFG (b : Nat) : Nat := 0xA1000 + b * 0x8
def MIX_BUS_CFG_EN (b : Nat) : Fld := ⟨rMIX_BUS_CFG b, 31, 31⟩
def MIX_BUS_CFG_UP (b : Nat) : Fld := ⟨rMIX_BUS_CFG b, 30, 30⟩
def MIX_BUS_CFG_STAGES (b : Nat) : Fld := ⟨rMIX_BUS_CFG b, 1, 0⟩
def rMIX_BUS_STATUS (b : Nat) : Nat := 0xA1004 + b * 0x8
def MIX_BUS_STATUS_CLIP (b : Nat) : Fld := ⟨rMIX_BUS_STATUS b, 31, 16⟩
def MIX_BUS_STATUS_UNS1 (b : Nat) : Fld := ⟨rMIX_BUS_STATUS b, 12, 8⟩
def MIX_BUS_STATUS_UNS0 (b : Nat) : Fld := ⟨rMIX_BUS_STATUS b, 4, 0⟩
def rSAP_START : Nat := 0xB0000
def SAP_START_GO : Fld := ⟨rSAP_START , 4, 4⟩
def SAP_START_ARM : Fld := ⟨rSAP_START , 3, 0⟩
def rSAP_CTRL (n : Nat) : Nat := 0xB1000 + n * 0x1000
def SAP_CTRL_EN (n : Nat) : Fld := ⟨rSAP_CTRL n, 31, 31⟩
def SAP_CTRL_MASTER (n : Nat) : Fld := ⟨rSAP_CTRL n, 30, 30⟩
def SAP_CTRL_INTERP (n : Nat) : Fld := ⟨rSAP_CTRL n, 8, 8⟩
def rSAP_FRAME (n : Nat) : Nat := 0xB1004 + n * 0x1000
def SAP_FRAME_BITS (n : Nat) : Fld := ⟨rSAP_FRAME n, 26, 16⟩
def SAP_FRAME_SLOTS (n : Nat) : Fld := ⟨rSAP_FRAME n, 13, 8⟩
def SAP_FRAME_OFFSET (n : Nat) : Fld := ⟨rSAP_FRAME n, 4, 0⟩
def rSAP_FORMAT (n : Nat) : Nat := 0xB1008 + n * 0x1000
def SAP_FORMAT_SW (n : Nat) : Fld := ⟨rSAP_FORMAT n, 29, 28⟩
def SAP_FORMAT_DW (n : Nat) : Fld := ⟨rSAP_FORMAT n, 25, 24⟩
def SAP_FORMAT_FSW (n : Nat) : Fld := ⟨rSAP_FORMAT n, 21, 16⟩
def SAP_FORMAT_FSPOL (n : Nat) : Fld := ⟨rSAP_FORMAT n, 12, 12⟩
def SAP_FORMAT_BCPOL (n : Nat) : Fld := ⟨rSAP_FORMAT n, 11, 11⟩
def SAP_FORMAT_TRI (n : Nat) : Fld := ⟨rSAP_FORMAT n, 8, 8⟩
def rSAP_CLKDIV (n : Nat) : Nat := 0xB100C + n * 0x1000
def SAP_CLKDIV_N (n : Nat) : Fld := ⟨rSAP_CLKDIV n, 27, 16⟩
def SAP_CLKDIV_FR (n : Nat) : Fld := ⟨rSAP_CLKDIV n, 15, 0⟩
def rSAP_STATUS (n : Nat) : Nat := 0xB1010 + n * 0x1000
def SAP_STATUS_ARMED (n : Nat) : Fld := ⟨rSAP_STATUS n, 2, 2⟩
def SAP_STATUS_LOST (n : Nat) : Fld := ⟨rSAP_STATUS n, 1, 1⟩
def SAP_STATUS_RUN (n : Nat) : Fld := ⟨rSAP_STATUS n, 0, 0⟩
def rSAP_FCNT (n : Nat) : Nat := 0xB1014 + n * 0x1000
def SAP_FCNT_VALUE (n : Nat) : Fld := ⟨rSAP_FCNT n, 31, 0⟩
def rSAP_FSTAMP (n : Nat) : Nat := 0xB1018 + n * 0x1000
def SAP_FSTAMP_VALUE (n : Nat) : Fld := ⟨rSAP_FSTAMP n, 31, 0⟩
def rSAP_CSTAMP (n : Nat) : Nat := 0xB101C + n * 0x1000
def SAP_CSTAMP_VALUE (n : Nat) : Fld := ⟨rSAP_CSTAMP n, 31, 0⟩
def rSAP_TXUND (n : Nat) : Nat := 0xB1020 + n * 0x1000
def SAP_TXUND_CH (n : Nat) : Fld := ⟨rSAP_TXUND n, 31, 0⟩
def rSAP_TXOVR (n : Nat) : Nat := 0xB1024 + n * 0x1000
def SAP_TXOVR_CH (n : Nat) : Fld := ⟨rSAP_TXOVR n, 31, 0⟩
def rSAP_RXUND (n : Nat) : Nat := 0xB1028 + n * 0x1000
def SAP_RXUND_CH (n : Nat) : Fld := ⟨rSAP_RXUND n, 31, 0⟩
def rSAP_RXOVR (n : Nat) : Nat := 0xB102C + n * 0x1000
def SAP_RXOVR_CH (n : Nat) : Fld := ⟨rSAP_RXOVR n, 31, 0⟩
def rSAP_CNT (n : Nat) : Nat := 0xB1030 + n * 0x1000
def SAP_CNT_UND (n : Nat) : Fld := ⟨rSAP_CNT n, 31, 16⟩
def SAP_CNT_OVR (n : Nat) : Fld := ⟨rSAP_CNT n, 15, 8⟩
def SAP_CNT_FERR (n : Nat) : Fld := ⟨rSAP_CNT n, 7, 0⟩
def rSAP_VIN (n : Nat) : Nat := 0xB1040 + n * 0x1000
def SAP_VIN_LENSEL (n : Nat) : Fld := ⟨rSAP_VIN n, 31, 28⟩
def SAP_VIN_BASE (n : Nat) : Fld := ⟨rSAP_VIN n, 25, 0⟩
def rSAP_REC_CTRL (n : Nat) : Nat := 0xB1044 + n * 0x1000
def SAP_REC_CTRL_ARM (n : Nat) : Fld := ⟨rSAP_REC_CTRL n, 31, 31⟩
def SAP_REC_CTRL_SRC (n : Nat) : Fld := ⟨rSAP_REC_CTRL n, 8, 8⟩
def SAP_REC_CTRL_MODE (n : Nat) : Fld := ⟨rSAP_REC_CTRL n, 4, 4⟩
def SAP_REC_CTRL_PACK (n : Nat) : Fld := ⟨rSAP_REC_CTRL n, 1, 0⟩
def rSAP_REC_BASE (n : Nat) : Nat := 0xB1048 + n * 0x1000
def SAP_REC_BASE_VALUE (n : Nat) : Fld := ⟨rSAP_REC_BASE n, 25, 0⟩
def rSAP_REC_LEN (n : Nat) : Nat := 0xB104C + n * 0x1000
def SAP_REC_LEN_VALUE (n : Nat) : Fld := ⟨rSAP_REC_LEN n, 25, 0⟩
def rSAP_REC_PTR (n : Nat) : Nat := 0xB1050 + n * 0x1000
def SAP_REC_PTR_VALUE (n : Nat) : Fld := ⟨rSAP_REC_PTR n, 25, 0⟩
def rSAP_REC_STAT (n : Nat) : Nat := 0xB1054 + n * 0x1000
def SAP_REC_STAT_DONE (n : Nat) : Fld := ⟨rSAP_REC_STAT n, 31, 31⟩
def SAP_REC_STAT_FRAMES (n : Nat) : Fld := ⟨rSAP_REC_STAT n, 23, 0⟩
def rSAP_TXMAP (n c : Nat) : Nat := 0xB1100 + n * 0x1000 + c * 0x4
def SAP_TXMAP_EN (n c : Nat) : Fld := ⟨rSAP_TXMAP n c, 31, 31⟩
def SAP_TXMAP_REC (n c : Nat) : Fld := ⟨rSAP_TXMAP n c, 30, 30⟩
def SAP_TXMAP_SLOT (n c : Nat) : Fld := ⟨rSAP_TXMAP n c, 20, 16⟩
def SAP_TXMAP_TYPE (n c : Nat) : Fld := ⟨rSAP_TXMAP n c, 9, 8⟩
def SAP_TXMAP_INDEX (n c : Nat) : Fld := ⟨rSAP_TXMAP n c, 6, 0⟩
def rSAP_RXMAP (n c : Nat) : Nat := 0xB1180 + n * 0x1000 + c * 0x4
def SAP_RXMAP_EN (n c : Nat) : Fld := ⟨rSAP_RXMAP n c, 31, 31⟩
def SAP_RXMAP_REC (n c : Nat) : Fld := ⟨rSAP_RXMAP n c, 30, 30⟩
def SAP_RXMAP_VIN (n c : Nat) : Fld := ⟨rSAP_RXMAP n c, 29, 29⟩
def SAP_RXMAP_BUSEN (n c : Nat) : Fld := ⟨rSAP_RXMAP n c, 28, 28⟩
def SAP_RXMAP_SLOT (n c : Nat) : Fld := ⟨rSAP_RXMAP n c, 20, 16⟩
def SAP_RXMAP_BUS (n c : Nat) : Fld := ⟨rSAP_RXMAP n c, 5, 0⟩
def rSAP_TXMASK (n : Nat) : Nat := 0xB1200 + n * 0x1000
def SAP_TXMASK_SLOTS (n : Nat) : Fld := ⟨rSAP_TXMASK n, 31, 0⟩
def rSAP_RXMASK (n : Nat) : Nat := 0xB1204 + n * 0x1000
def SAP_RXMASK_SLOTS (n : Nat) : Fld := ⟨rSAP_RXMASK n, 31, 0⟩
def rCVO_CLK : Nat := 0xC0000
def CVO_CLK_CVDIV : Fld := ⟨rCVO_CLK , 7, 0⟩
def rCVO_STAT : Nat := 0xC0004
def CVO_STAT_LAG : Fld := ⟨rCVO_STAT , 31, 16⟩
def CVO_STAT_OTF : Fld := ⟨rCVO_STAT , 5, 4⟩
def CVO_STAT_OT : Fld := ⟨rCVO_STAT , 3, 2⟩
def CVO_STAT_SKEW : Fld := ⟨rCVO_STAT , 0, 0⟩
def rCVO_PDMCFG : Nat := 0xC0008
def CVO_PDMCFG_OFS : Fld := ⟨rCVO_PDMCFG , 19, 0⟩
def rCVO_PDMMAP (k : Nat) : Nat := 0xC0080 + k * 0x4
def CVO_PDMMAP_EN (k : Nat) : Fld := ⟨rCVO_PDMMAP k, 31, 31⟩
def CVO_PDMMAP_PART (k : Nat) : Fld := ⟨rCVO_PDMMAP k, 28, 24⟩
def CVO_PDMMAP_CC (k : Nat) : Fld := ⟨rCVO_PDMMAP k, 22, 16⟩
def CVO_PDMMAP_HYST (k : Nat) : Fld := ⟨rCVO_PDMMAP k, 15, 8⟩
def CVO_PDMMAP_EVR (k : Nat) : Fld := ⟨rCVO_PDMMAP k, 3, 0⟩
def rCVO_CH_CFG (n : Nat) : Nat := 0xC0100 + n * 0x10
def CVO_CH_CFG_EN (n : Nat) : Fld := ⟨rCVO_CH_CFG n, 31, 31⟩
def CVO_CH_CFG_SRC (n : Nat) : Fld := ⟨rCVO_CH_CFG n, 25, 24⟩
def CVO_CH_CFG_CURVE (n : Nat) : Fld := ⟨rCVO_CH_CFG n, 16, 16⟩
def CVO_CH_CFG_INIT (n : Nat) : Fld := ⟨rCVO_CH_CFG n, 15, 0⟩
def rCVO_CH_TRIM (n : Nat) : Nat := 0xC0104 + n * 0x10
def CVO_CH_TRIM_GAIN (n : Nat) : Fld := ⟨rCVO_CH_TRIM n, 31, 16⟩
def CVO_CH_TRIM_OFS (n : Nat) : Fld := ⟨rCVO_CH_TRIM n, 15, 0⟩
def rCVO_CH_SET (n : Nat) : Nat := 0xC0108 + n * 0x10
def CVO_CH_SET_CODE (n : Nat) : Fld := ⟨rCVO_CH_SET n, 15, 0⟩
def rCVO_CH_VAL (n : Nat) : Nat := 0xC010C + n * 0x10
def CVO_CH_VAL_IN (n : Nat) : Fld := ⟨rCVO_CH_VAL n, 31, 16⟩
def CVO_CH_VAL_OUT (n : Nat) : Fld := ⟨rCVO_CH_VAL n, 15, 0⟩
def rCVO_AT_CFG : Nat := 0xC0400
def CVO_AT_CFG_P : Fld := ⟨rCVO_AT_CFG , 25, 20⟩
def CVO_AT_CFG_GATE : Fld := ⟨rCVO_AT_CFG , 19, 10⟩
def CVO_AT_CFG_SETTLE : Fld := ⟨rCVO_AT_CFG , 9, 0⟩
def rCVO_AT_CTRL : Nat := 0xC0404
def CVO_AT_CTRL_GO : Fld := ⟨rCVO_AT_CTRL , 4, 4⟩
def CVO_AT_CTRL_CH : Fld := ⟨rCVO_AT_CTRL , 3, 0⟩
def rCVO_AT_STAT : Nat := 0xC0408
def CVO_AT_STAT_BUSY : Fld := ⟨rCVO_AT_STAT , 31, 31⟩
def CVO_AT_STAT_RES : Fld := ⟨rCVO_AT_STAT , 30, 28⟩
def CVO_AT_STAT_CH : Fld := ⟨rCVO_AT_STAT , 27, 24⟩
def CVO_AT_STAT_DRIFT : Fld := ⟨rCVO_AT_STAT , 15, 0⟩
def rCVO_ATJ (n : Nat) : Nat := 0xC0440 + n * 0x4
def CVO_ATJ_EN (n : Nat) : Fld := ⟨rCVO_ATJ n, 31, 31⟩
def CVO_ATJ_BOOT (n : Nat) : Fld := ⟨rCVO_ATJ n, 30, 30⟩
def CVO_ATJ_TMR (n : Nat) : Fld := ⟨rCVO_ATJ n, 23, 20⟩
def CVO_ATJ_SCHED (n : Nat) : Fld := ⟨rCVO_ATJ n, 15, 0⟩
def rCVO_ATR (n : Nat) : Nat := 0xC0480 + n * 0x4
def CVO_ATR_REF (n : Nat) : Fld := ⟨rCVO_ATR n, 30, 24⟩
def CVO_ATR_CPS (n : Nat) : Fld := ⟨rCVO_ATR n, 15, 0⟩
def rCVO_ATL (n : Nat) : Nat := 0xC04C0 + n * 0x4
def CVO_ATL_HI (n : Nat) : Fld := ⟨rCVO_ATL n, 31, 16⟩
def CVO_ATL_LO (n : Nat) : Fld := ⟨rCVO_ATL n, 15, 0⟩
def rCVO_CAL (n j : Nat) : Nat := 0xC1000 + n * 0x100 + j * 0x4
def CVO_CAL_K (n j : Nat) : Fld := ⟨rCVO_CAL n j, 16, 0⟩
def rTMR_CTRL : Nat := 0xD0000
def TMR_CTRL_STOP : Fld := ⟨rTMR_CTRL , 31, 16⟩
def TMR_CTRL_START : Fld := ⟨rTMR_CTRL , 15, 0⟩
def rTMR_CFG (n : Nat) : Nat := 0xD0100 + n * 0x40
def TMR_CFG_IES (n : Nat) : Fld := ⟨rTMR_CFG n, 15, 15⟩
def TMR_CFG_IEC (n : Nat) : Fld := ⟨rTMR_CFG n, 14, 14⟩
def TMR_CFG_IEO (n : Nat) : Fld := ⟨rTMR_CFG n, 13, 13⟩
def TMR_CFG_IEM (n : Nat) : Fld := ⟨rTMR_CFG n, 12, 12⟩
def TMR_CFG_AUTO (n : Nat) : Fld := ⟨rTMR_CFG n, 10, 10⟩
def TMR_CFG_POL (n : Nat) : Fld := ⟨rTMR_CFG n, 9, 9⟩
def TMR_CFG_PRE (n : Nat) : Fld := ⟨rTMR_CFG n, 8, 8⟩
def TMR_CFG_MODE (n : Nat) : Fld := ⟨rTMR_CFG n, 6, 4⟩
def TMR_CFG_CLK (n : Nat) : Fld := ⟨rTMR_CFG n, 1, 0⟩
def rTMR_CAPCFG (n : Nat) : Nat := 0xD0104 + n * 0x40
def TMR_CAPCFG_TOUT (n : Nat) : Fld := ⟨rTMR_CAPCFG n, 31, 16⟩
def TMR_CAPCFG_PRESC (n : Nat) : Fld := ⟨rTMR_CAPCFG n, 15, 8⟩
def TMR_CAPCFG_FILT (n : Nat) : Fld := ⟨rTMR_CAPCFG n, 7, 4⟩
def TMR_CAPCFG_EDGE (n : Nat) : Fld := ⟨rTMR_CAPCFG n, 1, 0⟩
def rTMR_PHASE (n : Nat) : Nat := 0xD0108 + n * 0x40
def TMR_PHASE_VALUE (n : Nat) : Fld := ⟨rTMR_PHASE n, 31, 0⟩
def rTMR_PER (n : Nat) : Nat := 0xD010C + n * 0x40
def TMR_PER_VALUE (n : Nat) : Fld := ⟨rTMR_PER n, 31, 0⟩
def rTMR_CMP (n : Nat) : Nat := 0xD0110 + n * 0x40
def TMR_CMP_VALUE (n : Nat) : Fld := ⟨rTMR_CMP n, 31, 0⟩
def rTMR_CNT (n : Nat) : Nat := 0xD0114 + n * 0x40
def TMR_CNT_VALUE (n : Nat) : Fld := ⟨rTMR_CNT n, 31, 0⟩
def rTMR_CAP (n : Nat) : Nat := 0xD0118 + n * 0x40
def TMR_CAP_VALUE (n : Nat) : Fld := ⟨rTMR_CAP n, 31, 0⟩
def rTMR_CAPT (n : Nat) : Nat := 0xD011C + n * 0x40
def TMR_CAPT_VALUE (n : Nat) : Fld := ⟨rTMR_CAPT n, 31, 0⟩
def rTMR_STAT (n : Nat) : Nat := 0xD0120 + n * 0x40
def TMR_STAT_RUN (n : Nat) : Fld := ⟨rTMR_STAT n, 5, 5⟩
def TMR_STAT_STUCK (n : Nat) : Fld := ⟨rTMR_STAT n, 4, 4⟩
def TMR_STAT_OVER (n : Nat) : Fld := ⟨rTMR_STAT n, 3, 3⟩
def TMR_STAT_NEW (n : Nat) : Fld := ⟨rTMR_STAT n, 2, 2⟩
def TMR_STAT_OVF (n : Nat) : Fld := ⟨rTMR_STAT n, 1, 1⟩
def TMR_STAT_MATCH (n : Nat) : Fld := ⟨rTMR_STAT n, 0, 0⟩
def rCBL_STAT : Nat := 0xE0000
def CBL_STAT_DEVID : Fld := ⟨rCBL_STAT , 31, 24⟩
def CBL_STAT_DEPTH : Fld := ⟨rCBL_STAT , 23, 16⟩
def CBL_STAT_REASON : Fld := ⟨rCBL_STAT , 11, 8⟩
def CBL_STAT_STATE : Fld := ⟨rCBL_STAT , 3, 0⟩
def rCBL_CHAIN : Nat := 0xE0004
def CBL_CHAIN_LCHAIN : Fld := ⟨rCBL_CHAIN , 31, 16⟩
def CBL_CHAIN_COUNT : Fld := ⟨rCBL_CHAIN , 7, 0⟩
def rCBL_CENSUS : Nat := 0xE0008
def CBL_CENSUS_GEN : Fld := ⟨rCBL_CENSUS , 31, 16⟩
def CBL_CENSUS_SHIPCODE : Fld := ⟨rCBL_CENSUS , 7, 0⟩
def rCBL_TIME : Nat := 0xE000C
def CBL_TIME_ERR : Fld := ⟨rCBL_TIME , 31, 16⟩
def CBL_TIME_RESID : Fld := ⟨rCBL_TIME , 15, 0⟩
def rCBL_POL0 : Nat := 0xE0010
def CBL_POL0_HEADWAIT : Fld := ⟨rCBL_POL0 , 31, 16⟩
def CBL_POL0_DMAX : Fld := ⟨rCBL_POL0 , 15, 8⟩
def CBL_POL0_SHIP : Fld := ⟨rCBL_POL0 , 1, 0⟩
def rCBL_POL1 : Nat := 0xE0014
def CBL_POL1_LOCKTO : Fld := ⟨rCBL_POL1 , 31, 16⟩
def CBL_POL1_LCHAIN : Fld := ⟨rCBL_POL1 , 15, 0⟩
def rCBL_MSEL : Nat := 0xE0018
def CBL_MSEL_DEVID : Fld := ⟨rCBL_MSEL , 7, 0⟩
def rCBL_MSTAT : Nat := 0xE001C
def CBL_MSTAT_VALID : Fld := ⟨rCBL_MSTAT , 31, 31⟩
def CBL_MSTAT_STATE : Fld := ⟨rCBL_MSTAT , 27, 24⟩
def CBL_MSTAT_REASON : Fld := ⟨rCBL_MSTAT , 23, 20⟩
def CBL_MSTAT_DEPTH : Fld := ⟨rCBL_MSTAT , 15, 8⟩
def CBL_MSTAT_PARENT : Fld := ⟨rCBL_MSTAT , 7, 0⟩
def rCBL_MCMD : Nat := 0xE0020
def CBL_MCMD_CMD : Fld := ⟨rCBL_MCMD , 10, 8⟩
def CBL_MCMD_DEVID : Fld := ⟨rCBL_MCMD , 7, 0⟩
def rCBL_P_CTRL (n : Nat) : Nat := 0xE0100 + n * 0x20
def CBL_P_CTRL_EN (n : Nat) : Fld := ⟨rCBL_P_CTRL n, 31, 31⟩
def CBL_P_CTRL_ASYM (n : Nat) : Fld := ⟨rCBL_P_CTRL n, 15, 0⟩
def rCBL_P_STAT (n : Nat) : Nat := 0xE0104 + n * 0x20
def CBL_P_STAT_LSTATE (n : Nat) : Fld := ⟨rCBL_P_STAT n, 31, 28⟩
def CBL_P_STAT_LPV (n : Nat) : Fld := ⟨rCBL_P_STAT n, 27, 24⟩
def CBL_P_STAT_PEER (n : Nat) : Fld := ⟨rCBL_P_STAT n, 23, 16⟩
def rCBL_P_DELAY (n : Nat) : Nat := 0xE0108 + n * 0x20
def CBL_P_DELAY_DELAY (n : Nat) : Fld := ⟨rCBL_P_DELAY n, 23, 0⟩
def rCBL_P_CNT0 (n : Nat) : Nat := 0xE010C + n * 0x20
def CBL_P_CNT0_CRCERR (n : Nat) : Fld := ⟨rCBL_P_CNT0 n, 31, 16⟩
def CBL_P_CNT0_REPLAY (n : Nat) : Fld := ⟨rCBL_P_CNT0 n, 15, 0⟩
def rCBL_P_CNT1 (n : Nat) : Nat := 0xE0110 + n * 0x20
def CBL_P_CNT1_SUMLATE (n : Nat) : Fld := ⟨rCBL_P_CNT1 n, 31, 16⟩
def CBL_P_CNT1_DUP (n : Nat) : Fld := ⟨rCBL_P_CNT1 n, 15, 0⟩
def rNET_CTRL : Nat := 0xF0000
def NET_CTRL_EN : Fld := ⟨rNET_CTRL , 31, 31⟩
def NET_CTRL_SPEED : Fld := ⟨rNET_CTRL , 1, 0⟩
def rNET_STAT : Nat := 0xF0004
def NET_STAT_LINK : Fld := ⟨rNET_STAT , 0, 0⟩
def rNET_MACL : Nat := 0xF0008
def NET_MACL_ADDR : Fld := ⟨rNET_MACL , 31, 0⟩
def rNET_MACH : Nat := 0xF000C
def NET_MACH_ADDR : Fld := ⟨rNET_MACH , 15, 0⟩
def rNET_CNT : Nat := 0xF0010
def NET_CNT_RXDROP : Fld := ⟨rNET_CNT , 31, 16⟩
def NET_CNT_DELAYED : Fld := ⟨rNET_CNT , 15, 0⟩
def rNET_TSC (g : Nat) : Nat := 0xF0020 + g * 0x4
def NET_TSC_ING (g : Nat) : Fld := ⟨rNET_TSC g, 31, 16⟩
def NET_TSC_EGR (g : Nat) : Fld := ⟨rNET_TSC g, 15, 0⟩
def rNET_CBSA : Nat := 0xF0030
def NET_CBSA_SLOPE : Fld := ⟨rNET_CBSA , 31, 0⟩
def rNET_CBSB : Nat := 0xF0034
def NET_CBSB_SLOPE : Fld := ⟨rNET_CBSB , 31, 0⟩
def rNET_DOM_CFG (k : Nat) : Nat := 0xF0040 + k * 0x10
def NET_DOM_CFG_EN (k : Nat) : Fld := ⟨rNET_DOM_CFG k, 31, 31⟩
def NET_DOM_CFG_NUM (k : Nat) : Fld := ⟨rNET_DOM_CFG k, 6, 0⟩
def rNET_DOM_STAT (k : Nat) : Nat := 0xF0044 + k * 0x10
def NET_DOM_STAT_STATE (k : Nat) : Fld := ⟨rNET_DOM_STAT k, 31, 30⟩
def NET_DOM_STAT_LOGSYNC (k : Nat) : Fld := ⟨rNET_DOM_STAT k, 7, 0⟩
def rNET_DOM_ADJ (k : Nat) : Nat := 0xF0048 + k * 0x10
def NET_DOM_ADJ_ADJ (k : Nat) : Fld := ⟨rNET_DOM_ADJ k, 31, 0⟩
def rNET_DOM_DIFF (k : Nat) : Nat := 0xF004C + k * 0x10
def NET_DOM_DIFF_DIFF (k : Nat) : Fld := ⟨rNET_DOM_DIFF k, 31, 0⟩
def rNET_VIN : Nat := 0xF0060
def NET_VIN_LENSEL : Fld := ⟨rNET_VIN , 31, 28⟩
def NET_VIN_INTERP : Fld := ⟨rNET_VIN , 27, 27⟩
def NET_VIN_BASE : Fld := ⟨rNET_VIN , 25, 0⟩
def rNET_STREAM (n : Nat) : Nat := 0xF0100 + n * 0x80
def NET_STREAM_EN (n : Nat) : Fld := ⟨rNET_STREAM n, 31, 31⟩
def NET_STREAM_NOSRP (n : Nat) : Fld := ⟨rNET_STREAM n, 30, 30⟩
def NET_STREAM_DOM (n : Nat) : Fld := ⟨rNET_STREAM n, 29, 29⟩
def NET_STREAM_CLASS (n : Nat) : Fld := ⟨rNET_STREAM n, 28, 28⟩
def NET_STREAM_FORMAT (n : Nat) : Fld := ⟨rNET_STREAM n, 27, 26⟩
def NET_STREAM_SPF (n : Nat) : Fld := ⟨rNET_STREAM n, 25, 20⟩
def NET_STREAM_NCH (n : Nat) : Fld := ⟨rNET_STREAM n, 19, 16⟩
def NET_STREAM_VID (n : Nat) : Fld := ⟨rNET_STREAM n, 11, 0⟩
def rNET_STREAM_IDL (n : Nat) : Nat := 0xF0104 + n * 0x80
def NET_STREAM_IDL_ID (n : Nat) : Fld := ⟨rNET_STREAM_IDL n, 31, 0⟩
def rNET_STREAM_IDH (n : Nat) : Nat := 0xF0108 + n * 0x80
def NET_STREAM_IDH_ID (n : Nat) : Fld := ⟨rNET_STREAM_IDH n, 31, 0⟩
def rNET_STREAM_DSTL (n : Nat) : Nat := 0xF010C + n * 0x80
def NET_STREAM_DSTL_ADDR (n : Nat) : Fld := ⟨rNET_STREAM_DSTL n, 31, 0⟩
def rNET_STREAM_DSTH (n : Nat) : Nat := 0xF0110 + n * 0x80
def NET_STREAM_DSTH_ADDR (n : Nat) : Fld := ⟨rNET_STREAM_DSTH n, 15, 0⟩
def rNET_STREAM_TIME (n : Nat) : Nat := 0xF0114 + n * 0x80
def NET_STREAM_TIME_PTOFS (n : Nat) : Fld := ⟨rNET_STREAM_TIME n, 31, 10⟩
def NET_STREAM_TIME_LOFS (n : Nat) : Fld := ⟨rNET_STREAM_TIME n, 9, 0⟩
def rNET_STREAM_STAT (n : Nat) : Nat := 0xF0118 + n * 0x80
def NET_STREAM_STAT_TIMEOUT (n : Nat) : Fld := ⟨rNET_STREAM_STAT n, 3, 3⟩
def NET_STREAM_STAT_SRPFAIL (n : Nat) : Fld := ⟨rNET_STREAM_STAT n, 2, 2⟩
def NET_STREAM_STAT_READY (n : Nat) : Fld := ⟨rNET_STREAM_STAT n, 1, 1⟩
def NET_STREAM_STAT_RUN (n : Nat) : Fld := ⟨rNET_STREAM_STAT n, 0, 0⟩
def rNET_STREAM_CNT (n : Nat) : Nat := 0xF011C + n * 0x80
def NET_STREAM_CNT_FMT (n : Nat) : Fld := ⟨rNET_STREAM_CNT n, 31, 24⟩
def NET_STREAM_CNT_DUP (n : Nat) : Fld := ⟨rNET_STREAM_CNT n, 23, 16⟩
def NET_STREAM_CNT_GAP (n : Nat) : Fld := ⟨rNET_STREAM_CNT n, 15, 8⟩
def NET_STREAM_CNT_LATE (n : Nat) : Fld := ⟨rNET_STREAM_CNT n, 7, 4⟩
def NET_STREAM_CNT_EARLY (n : Nat) : Fld := ⟨rNET_STREAM_CNT n, 3, 0⟩
def rNET_STREAM_MAP (n c : Nat) : Nat := 0xF0140 + n * 0x80 + c * 0x4
def NET_STREAM_MAP_EN (n c : Nat) : Fld := ⟨rNET_STREAM_MAP n c, 31, 31⟩
def NET_STREAM_MAP_VIN (n c : Nat) : Fld := ⟨rNET_STREAM_MAP n c, 30, 30⟩
def NET_STREAM_MAP_BUSEN (n c : Nat) : Fld := ⟨rNET_STREAM_MAP n c, 29, 29⟩
def NET_STREAM_MAP_TYPE (n c : Nat) : Fld := ⟨rNET_STREAM_MAP n c, 9, 8⟩
def NET_STREAM_MAP_INDEX (n c : Nat) : Fld := ⟨rNET_STREAM_MAP n c, 6, 0⟩
def rUART_HCFG : Nat := 0x100000
def UART_HCFG_CTSEN : Fld := ⟨rUART_HCFG , 16, 16⟩
def UART_HCFG_TOUT : Fld := ⟨rUART_HCFG , 15, 0⟩
def rUART_HCNT : Nat := 0x100004
def UART_HCNT_CRC : Fld := ⟨rUART_HCNT , 31, 16⟩
def UART_HCNT_TOUT : Fld := ⟨rUART_HCNT , 15, 0⟩
def rUART_CFG (n : Nat) : Nat := 0x100100 + n * 0x20
def UART_CFG_EN (n : Nat) : Fld := ⟨rUART_CFG n, 31, 31⟩
def UART_CFG_DIV (n : Nat) : Fld := ⟨rUART_CFG n, 15, 0⟩
def rUART_STAT (n : Nat) : Nat := 0x100104 + n * 0x20
def UART_STAT_RXLVL (n : Nat) : Fld := ⟨rUART_STAT n, 15, 8⟩
def UART_STAT_DEAD (n : Nat) : Fld := ⟨rUART_STAT n, 7, 7⟩
def UART_STAT_BRK (n : Nat) : Fld := ⟨rUART_STAT n, 6, 6⟩
def UART_STAT_FERR (n : Nat) : Fld := ⟨rUART_STAT n, 5, 5⟩
def UART_STAT_NOISE (n : Nat) : Fld := ⟨rUART_STAT n, 4, 4⟩
def UART_STAT_OVR (n : Nat) : Fld := ⟨rUART_STAT n, 3, 3⟩
def UART_STAT_TXBUSY (n : Nat) : Fld := ⟨rUART_STAT n, 2, 2⟩
def UART_STAT_RTS (n : Nat) : Fld := ⟨rUART_STAT n, 1, 1⟩
def rUART_CNT (n : Nat) : Nat := 0x100108 + n * 0x20
def UART_CNT_FERR (n : Nat) : Fld := ⟨rUART_CNT n, 31, 24⟩
def UART_CNT_NOISE (n : Nat) : Fld := ⟨rUART_CNT n, 23, 16⟩
def UART_CNT_OVR (n : Nat) : Fld := ⟨rUART_CNT n, 15, 8⟩
def UART_CNT_BRK (n : Nat) : Fld := ⟨rUART_CNT n, 7, 0⟩
def rNVJ_FLASH : Nat := 0x110000
def NVJ_FLASH_MODE : Fld := ⟨rNVJ_FLASH , 31, 30⟩
def NVJ_FLASH_ECCST : Fld := ⟨rNVJ_FLASH , 29, 29⟩
def NVJ_FLASH_SECTORS : Fld := ⟨rNVJ_FLASH , 15, 0⟩
def rNVJ_FID : Nat := 0x110004
def NVJ_FID_ID : Fld := ⟨rNVJ_FID , 23, 0⟩
def rNVJ_REGION : Nat := 0x110008
def NVJ_REGION_START : Fld := ⟨rNVJ_REGION , 31, 16⟩
def NVJ_REGION_LENGTH : Fld := ⟨rNVJ_REGION , 15, 0⟩
def rNVJ_STAT : Nat := 0x11000C
def NVJ_STAT_BUSY : Fld := ⟨rNVJ_STAT , 31, 31⟩
def NVJ_STAT_PFAIL : Fld := ⟨rNVJ_STAT , 30, 30⟩
def NVJ_STAT_RO : Fld := ⟨rNVJ_STAT , 29, 29⟩
def NVJ_STAT_SETREJ : Fld := ⟨rNVJ_STAT , 28, 28⟩
def NVJ_STAT_RULE : Fld := ⟨rNVJ_STAT , 23, 16⟩
def NVJ_STAT_ORIGIN : Fld := ⟨rNVJ_STAT , 1, 0⟩
def rNVJ_LIVE : Nat := 0x110010
def NVJ_LIVE_VALUE : Fld := ⟨rNVJ_LIVE , 31, 0⟩
def rNVJ_LIMIT : Nat := 0x110014
def NVJ_LIMIT_VALUE : Fld := ⟨rNVJ_LIMIT , 31, 0⟩
def rNVJ_LOG : Nat := 0x110018
def NVJ_LOG_SPAN : Fld := ⟨rNVJ_LOG , 31, 24⟩
def NVJ_LOG_HEAD : Fld := ⟨rNVJ_LOG , 21, 11⟩
def NVJ_LOG_TAIL : Fld := ⟨rNVJ_LOG , 10, 0⟩
def rNVJ_SEQ : Nat := 0x11001C
def NVJ_SEQ_VALUE : Fld := ⟨rNVJ_SEQ , 31, 0⟩
def rNVJ_ECMAX : Nat := 0x110020
def NVJ_ECMAX_VALUE : Fld := ⟨rNVJ_ECMAX , 31, 0⟩
def rNVJ_ECMEAN : Nat := 0x110024
def NVJ_ECMEAN_VALUE : Fld := ⟨rNVJ_ECMEAN , 31, 0⟩
def rNVJ_SECT : Nat := 0x110028
def NVJ_SECT_LOGSECT : Fld := ⟨rNVJ_SECT , 31, 16⟩
def NVJ_SECT_RETIRED : Fld := ⟨rNVJ_SECT , 15, 0⟩
def rNVJ_TOKENS : Nat := 0x11002C
def NVJ_TOKENS_VALUE : Fld := ⟨rNVJ_TOKENS , 31, 0⟩
def rNVJ_RATE : Nat := 0x110030
def NVJ_RATE_VALUE : Fld := ⟨rNVJ_RATE , 31, 0⟩
def rNVJ_LIFE : Nat := 0x110034
def NVJ_LIFE_VALUE : Fld := ⟨rNVJ_LIFE , 31, 0⟩
def rNVJ_CNT : Nat := 0x110038
def NVJ_CNT_TORN : Fld := ⟨rNVJ_CNT , 31, 24⟩
def NVJ_CNT_TXDROP : Fld := ⟨rNVJ_CNT , 23, 16⟩
def NVJ_CNT_REFUSED : Fld := ⟨rNVJ_CNT , 15, 8⟩
def NVJ_CNT_RETRY : Fld := ⟨rNVJ_CNT , 7, 0⟩
def rNVJ_POL0 : Nat := 0x110040
def NVJ_POL0_ENDUR : Fld := ⟨rNVJ_POL0 , 31, 0⟩
def rNVJ_POL1 : Nat := 0x110044
def NVJ_POL1_SPAN : Fld := ⟨rNVJ_POL1 , 31, 24⟩
def NVJ_POL1_LOWPCT : Fld := ⟨rNVJ_POL1 , 23, 16⟩
def NVJ_POL1_WARNPCT : Fld := ⟨rNVJ_POL1 , 15, 8⟩
def NVJ_POL1_LIFE_Y : Fld := ⟨rNVJ_POL1 , 7, 0⟩
def rNVJ_POL2 : Nat := 0x110048
def NVJ_POL2_TPP_US : Fld := ⟨rNVJ_POL2 , 31, 16⟩
def NVJ_POL2_TSE_MS : Fld := ⟨rNVJ_POL2 , 15, 0⟩
def rNVJ_POL3 : Nat := 0x11004C
def NVJ_POL3_CBMAX : Fld := ⟨rNVJ_POL3 , 31, 24⟩
def NVJ_POL3_EVKEEP : Fld := ⟨rNVJ_POL3 , 15, 0⟩
def rNVJ_LOGMASK (h : Nat) : Nat := 0x110050 + h * 0x4
def NVJ_LOGMASK_MASK (h : Nat) : Fld := ⟨rNVJ_LOGMASK h, 31, 0⟩
def rAGE_CTRL : Nat := 0x120000
def AGE_CTRL_CLEAR : Fld := ⟨rAGE_CTRL , 2, 2⟩
def AGE_CTRL_CHECK : Fld := ⟨rAGE_CTRL , 1, 1⟩
def AGE_CTRL_AUTO : Fld := ⟨rAGE_CTRL , 0, 0⟩
def rAGE_STAT : Nat := 0x120004
def AGE_STAT_TC : Fld := ⟨rAGE_STAT , 6, 6⟩
def AGE_STAT_TW : Fld := ⟨rAGE_STAT , 5, 5⟩
def AGE_STAT_NEED : Fld := ⟨rAGE_STAT , 4, 4⟩
def AGE_STAT_AVSERR : Fld := ⟨rAGE_STAT , 3, 3⟩
def AGE_STAT_EXH : Fld := ⟨rAGE_STAT , 2, 2⟩
def AGE_STAT_CLKSEQ : Fld := ⟨rAGE_STAT , 1, 1⟩
def AGE_STAT_BUSY : Fld := ⟨rAGE_STAT , 0, 0⟩
def rAGE_PLAN : Nat := 0x120008
def AGE_PLAN_VOICES : Fld := ⟨rAGE_PLAN , 24, 16⟩
def AGE_PLAN_STEP : Fld := ⟨rAGE_PLAN , 3, 0⟩
def rAGE_VDD : Nat := 0x12000C
def AGE_VDD_STATUS : Fld := ⟨rAGE_VDD , 31, 16⟩
def AGE_VDD_SET : Fld := ⟨rAGE_VDD , 15, 0⟩
def rAGE_SLACK : Nat := 0x120010
def AGE_SLACK_T_W : Fld := ⟨rAGE_SLACK , 31, 16⟩
def AGE_SLACK_SITE : Fld := ⟨rAGE_SLACK , 15, 8⟩
def AGE_SLACK_S : Fld := ⟨rAGE_SLACK , 7, 0⟩
def rAGE_SNS (k : Nat) : Nat := 0x120014 + k * 0x4
def AGE_SNS_RING (k : Nat) : Fld := ⟨rAGE_SNS k, 31, 16⟩
def AGE_SNS_M (k : Nat) : Fld := ⟨rAGE_SNS k, 15, 0⟩
def rAGE_TEMP : Nat := 0x120028
def AGE_TEMP_NOW : Fld := ⟨rAGE_TEMP , 15, 0⟩
def rAGE_TLIM : Nat := 0x12002C
def AGE_TLIM_TCRIT : Fld := ⟨rAGE_TLIM , 31, 16⟩
def AGE_TLIM_TWARN : Fld := ⟨rAGE_TLIM , 15, 0⟩
def rAGE_XREF : Nat := 0x120030
def AGE_XREF_VALID : Fld := ⟨rAGE_XREF , 31, 31⟩
def AGE_XREF_PPB : Fld := ⟨rAGE_XREF , 30, 0⟩
def rAGE_CNT : Nat := 0x120034
def AGE_CNT_REPLANS : Fld := ⟨rAGE_CNT , 31, 16⟩
def AGE_CNT_LATE : Fld := ⟨rAGE_CNT , 15, 0⟩
def rAGE_CVINT (n : Nat) : Nat := 0x120040 + n * 0x4
def AGE_CVINT_HOURS (n : Nat) : Fld := ⟨rAGE_CVINT n, 15, 0⟩
def rMEM_STAT : Nat := 0x130000
def MEM_STAT_PASSES : Fld := ⟨rMEM_STAT , 31, 16⟩
def MEM_STAT_FILLED : Fld := ⟨rMEM_STAT , 0, 0⟩
def rMEM_CNT : Nat := 0x130004
def MEM_CNT_CORR : Fld := ⟨rMEM_CNT , 31, 16⟩
def MEM_CNT_VIOL : Fld := ⟨rMEM_CNT , 15, 8⟩
def MEM_CNT_REFUSED : Fld := ⟨rMEM_CNT , 7, 0⟩
def rMEM_ECCADDR : Nat := 0x130008
def MEM_ECCADDR_UNCORR : Fld := ⟨rMEM_ECCADDR , 31, 31⟩
def MEM_ECCADDR_OFFSET : Fld := ⟨rMEM_ECCADDR , 25, 0⟩
def rMEM_VIOL : Nat := 0x13000C
def MEM_VIOL_REQ : Fld := ⟨rMEM_VIOL , 31, 29⟩
def MEM_VIOL_WRITE : Fld := ⟨rMEM_VIOL , 28, 28⟩
def MEM_VIOL_OFFSET : Fld := ⟨rMEM_VIOL , 25, 0⟩
def rMEM_SCRUB : Nat := 0x130010
def MEM_SCRUB_EN : Fld := ⟨rMEM_SCRUB , 31, 31⟩
def MEM_SCRUB_INTERVAL : Fld := ⟨rMEM_SCRUB , 15, 0⟩
def rMEM_HW : Nat := 0x130014
def MEM_HW_LCS : Fld := ⟨rMEM_HW , 17, 16⟩
def MEM_HW_CAUSE : Fld := ⟨rMEM_HW , 7, 4⟩
def MEM_HW_WIPING : Fld := ⟨rMEM_HW , 1, 1⟩
def MEM_HW_MAPPED : Fld := ⟨rMEM_HW , 0, 0⟩
def rMEM_BANK (k : Nat) : Nat := 0x130100 + k * 0x4
def MEM_BANK_REFUSED (k : Nat) : Fld := ⟨rMEM_BANK k, 19, 19⟩
def MEM_BANK_IDLE (k : Nat) : Fld := ⟨rMEM_BANK k, 18, 18⟩
def MEM_BANK_SHARE (k : Nat) : Fld := ⟨rMEM_BANK k, 16, 16⟩
def MEM_BANK_CUR (k : Nat) : Fld := ⟨rMEM_BANK k, 10, 8⟩
def MEM_BANK_OWNER (k : Nat) : Fld := ⟨rMEM_BANK k, 2, 0⟩
def rMEM_WIN_A (n : Nat) : Nat := 0x131000 + n * 0x8
def MEM_WIN_A_EN (n : Nat) : Fld := ⟨rMEM_WIN_A n, 31, 31⟩
def MEM_WIN_A_BASE (n : Nat) : Fld := ⟨rMEM_WIN_A n, 25, 0⟩
def rMEM_WIN_B (n : Nat) : Nat := 0x131004 + n * 0x8
def MEM_WIN_B_DMAX (n : Nat) : Fld := ⟨rMEM_WIN_B n, 31, 16⟩
def MEM_WIN_B_LEN (n : Nat) : Fld := ⟨rMEM_WIN_B n, 15, 0⟩
def rTIME_NOW : Nat := 0x140000
def TIME_NOW_TIME : Fld := ⟨rTIME_NOW , 31, 0⟩
def rTIME_CTRL : Nat := 0x140004
def TIME_CTRL_ALARM_EN : Fld := ⟨rTIME_CTRL , 8, 8⟩
def TIME_CTRL_SRC : Fld := ⟨rTIME_CTRL , 5, 4⟩
def TIME_CTRL_REVERT : Fld := ⟨rTIME_CTRL , 2, 2⟩
def TIME_CTRL_DOM : Fld := ⟨rTIME_CTRL , 0, 0⟩
def rTIME_STAT : Nat := 0x140008
def TIME_STAT_STATE : Fld := ⟨rTIME_STAT , 31, 28⟩
def TIME_STAT_STEPPED : Fld := ⟨rTIME_STAT , 8, 8⟩
def TIME_STAT_ACTIVE : Fld := ⟨rTIME_STAT , 4, 4⟩
def TIME_STAT_ALM : Fld := ⟨rTIME_STAT , 0, 0⟩
def rTIME_ADJ : Nat := 0x14000C
def TIME_ADJ_ADJ : Fld := ⟨rTIME_ADJ , 31, 0⟩
def rTIME_CNTL : Nat := 0x140010
def TIME_CNTL_LOW : Fld := ⟨rTIME_CNTL , 31, 0⟩
def rTIME_CNTH : Nat := 0x140014
def TIME_CNTH_HIGH : Fld := ⟨rTIME_CNTH , 31, 0⟩
def rTIME_SNAP : Nat := 0x140018
def TIME_SNAP_TIME : Fld := ⟨rTIME_SNAP , 31, 0⟩
def rTIME_STEP : Nat := 0x14001C
def TIME_STEP_DELTA : Fld := ⟨rTIME_STEP , 31, 0⟩
def rTIME_ALARM : Nat := 0x140020
def TIME_ALARM_TIME : Fld := ⟨rTIME_ALARM , 31, 0⟩
def rTIME_EXTC : Nat := 0x140024
def TIME_EXTC_TIME : Fld := ⟨rTIME_EXTC , 31, 0⟩
def rTIME_EXTS : Nat := 0x140028
def TIME_EXTS_SEC : Fld := ⟨rTIME_EXTS , 31, 0⟩
def rTIME_EXTH : Nat := 0x14002C
def TIME_EXTH_SEQ : Fld := ⟨rTIME_EXTH , 31, 16⟩
def TIME_EXTH_SECH : Fld := ⟨rTIME_EXTH , 15, 0⟩
def rTIME_APLL : Nat := 0x140030
def TIME_APLL_RESID : Fld := ⟨rTIME_APLL , 15, 0⟩

end Sys2Proof.Machine
end

