-- ==== Sys2Proof/Machine/Tbl.lean ====
section
/-! DEFINITION. Sparse tables: the one form in which State holds memories, the register file and every group of like
things. A table is a list of (key, value) pairs with strictly rising keys and no pair whose value is what an unlisted
key reads as, so that equal contents are equal data. -/
namespace Sys2Proof.Machine

/-- A sparse table: (key, value) pairs. -/
abbrev Tbl (α : Type) := List (Nat × α)

/-- The listed value at key `k`, if there is one. -/
def tfind {α : Type} : Tbl α → Nat → Option α
  | [], _ => none
  | (j, v) :: t, k => if j = k then some v else tfind t k

/-- The value at key `k`: the listed one, or `d` where the key is not listed. -/
def tget {α : Type} (d : α) (t : Tbl α) (k : Nat) : α := (tfind t k).getD d

/-- The table without key `k`. -/
def tdel {α : Type} : Tbl α → Nat → Tbl α
  | [], _ => []
  | (j, v) :: t, k => if j = k then tdel t k else (j, v) :: tdel t k

/-- The table with key `k` listed at value `v`, keys kept in rising order. -/
def tins {α : Type} : Tbl α → Nat → α → Tbl α
  | [], k, v => [(k, v)]
  | (j, w) :: t, k, v =>
    if j = k then (k, v) :: t else if k < j then (k, v) :: (j, w) :: t else (j, w) :: tins t k v

/-- Write `v` at key `k`; writing the value `d` an unlisted key reads as removes the entry. -/
def tput {α : Type} [DecidableEq α] (d : α) (t : Tbl α) (k : Nat) (v : α) : Tbl α :=
  if v = d then tdel t k else tins t k v

/-- Every key of the table is above `lo`, and the keys rise strictly. -/
def tsorted {α : Type} : Option Nat → Tbl α → Bool
  | _, [] => true
  | none, (j, _) :: t => tsorted (some j) t
  | some lo, (j, _) :: t => decide (lo < j) && tsorted (some j) t

/-- No listed value is the one an unlisted key reads as. -/
def tnodef {α : Type} [DecidableEq α] (d : Nat → α) (t : Tbl α) : Bool :=
  t.all fun p => decide (p.2 ≠ d p.1)

/-- The canonical form of a table whose unlisted keys read `d`. -/
def twf {α : Type} [DecidableEq α] (d : Nat → α) (t : Tbl α) : Bool := tsorted none t && tnodef d t

end Sys2Proof.Machine
end

