-- ==== Sys2Proof/Machine/StAudio.lean ====
section
/-! DEFINITION. The state of the audio side: decimation, PDM, serial ports and recorders, CV outputs, auto-tune, timers.
Plain data; each structure names the rules that give the machine its fields. -/
namespace Sys2Proof.Machine

/-- Decimation and the PDM path (R294 to R313): stage histories by bus and stage, newest first; delay lines by bus;
outputs by content sample and bus; direct inputs by voice sample and bus; banks in force; the OS grid (R300) with the
output index of its base; a registered sync with the sample count it still waits; PDM integrators and combs. -/
structure Mix where
  hist : Tbl (List Word)
  delay : Tbl (List Word)
  outs : Tbl Word
  direct : Tbl (BitVec 40)
  act : Tbl Nat
  osBase : Word
  oBase : Nat
  syncWait : Option Nat
  pdm : Tbl (List Int)
  pdmReads : Tbl Nat
  pdmLast : Tbl Int
  pdmSeen : List Nat
  settled : Bool
  raw : Tbl Word
  deriving DecidableEq, Repr

/-- A serial port (R315 to R336): framing or not, the earliest sample at which a start that waits may happen, whether a
slave's first frame is still to come, recording, the index of frame 0 and the frames so far, the queues by channel, the
last delivered sample by channel, the next index to deliver, the stamps of the present frame, whether an underrun or an
overrun has been counted in it, and what SDOUT sent in its slots (nothing: high-impedance). -/
structure Port where
  run : Bool
  startWait : Option Word
  first : Bool
  recRun : Bool
  o0 : Nat
  frames : Nat
  txq : Tbl (List (Nat × Word))
  rxq : Tbl (List (Nat × Word))
  prev : Tbl Word
  lastO : Nat
  fst : Word
  cst : Word
  und : Bool
  ovr : Bool
  sdout : List (Option Word)
  deriving DecidableEq, Repr

/-- The CV outputs (R338 to R345): queue of each channel, speculative origin of the ticks, channels still driving INIT,
gate edges waiting for the output point (timer, sample, onset, level), and the timers whose gate was high at the last
committed sample. -/
structure Cv where
  queue : Tbl (List (Word × Nat))
  origin : Word
  initing : List Nat
  edges : List (Nat × Word × Nat × Bool)
  voiceHi : Tbl Nat
  deriving DecidableEq, Repr

/-- The steps of an auto-tune run (R356). -/
inductive TunePhase where
  | idle | settle | gate | apply | release
  deriving DecidableEq, Repr

/-- The auto-tune service (R356 to R359): the step of the present run, its channel, whether GO began it, the present
point, captures of the gate (first, last, count), measured pitches so far, the new curve, runs due, and the VS for
which no voice has routed to each channel. -/
structure Tune where
  phase : TunePhase
  ch : Nat
  byGo : Bool
  point : Nat
  first : Word
  last : Word
  caps : Nat
  stuck : Bool
  pitches : List Int
  curve : List Nat
  due : List (Nat × Bool)
  quiet : Tbl Nat
  deriving DecidableEq, Repr

/-- A timer (R347 to R354): period and compare in use, whether its pin is active, ticks left of a trigger pulse, counted
edges, whether the last captured edge left the input active, and whether it takes its first tick next. -/
structure Tmr where
  run : Bool
  cnt : Word
  per : Word
  cmp : Word
  perNew : Bool
  cmpNew : Bool
  pin : Bool
  pulse : Nat
  edges : Nat
  lastOn : Bool
  held : Bool
  deriving DecidableEq, Repr

end Sys2Proof.Machine
end

