-- ==== Sys2Proof/Machine/StEngine.lean ====
section
/-! DEFINITION. The state of the engine: modes and power, time, event unit, intake and pipeline, commit unit, spindle
contexts, voices, allocator. Plain data; each structure names the rules that give the machine its fields. -/
namespace Sys2Proof.Machine

/-- The six modes of R19. -/
inductive Mode where
  | blank | chuck | run | rest | shelf | service
  deriving DecidableEq, Repr

/-- Where a SHELF entry or exit stands (R43, R44). -/
inductive ShelfPhase where
  | no | entering | off | waking
  deriving DecidableEq, Repr

/-- The steps of CHUCK in the order of R66; `sections k` is about to load section k of the table. -/
inductive BootStep where
  | clocks | probe | ptable | slot | header | clear | sections (k : Nat) | check | journal | ageing | margin | start
  deriving DecidableEq, Repr

/-- A boot in progress (R62 to R66, R288): the next step, whether it began with a power-on, the slot tried (1 A, 2 B),
whether the other slot has been tried, and how often Heartwood was wiped since the header step. -/
structure Boot where
  step : BootStep
  por : Bool
  slot : Nat
  fellBack : Bool
  wipes : Nat
  deriving DecidableEq, Repr

/-- Modes, straps, SHELF and the always-on domain (R19 to R47); `shelfXo` keeps SYS_PWR.SHELF_XO32 through SHELF (R448);
`rom` names the spindles whose memories hold the ROM copy of Bowl (R223), each with the words that the host has written since. -/
structure Pwr where
  mode : Mode
  prev : Mode
  cold : Bool
  pend : Option Mode
  zeroFill : Bool
  por : Bool
  resetLow : Bool
  sampled : Bool
  shelf : ShelfPhase
  wakePin : Bool
  wakeHost : Bool
  wakeMidi : Bool
  latch : Option Nat
  pwrEn : Bool
  frozen : Bool
  fatalStep : Nat
  boot : Option Boot
  shelfXo : Bool
  rom : List (Nat × List Nat)
  deriving DecidableEq, Repr

/-- The time base (R397 to R405) and the fractional counts behind the idle step: counter c, OFF in units of 2^-40 ns,
chain time kept on XO32 in REST-COLD with its fraction in 1/32768 ns, the phase of XO32 against PCLK, XO32 edges of
the present second, whether the first lock of R401 has been, and the domain of a step that waits for its VS boundary. -/
structure Time where
  c : Nat
  off : Nat
  cold : Option (Nat × Nat)
  half : Bool
  tick : Nat
  xo : Nat
  aonXo : Nat
  lockedOnce : Bool
  pendStep : Option Nat
  deriving DecidableEq, Repr

/-- The event unit (R482 to R494): sources in hold-off, level sources asserted, raises the firmware has not journalled, whether
a fatal source came after the freeze, whether the watchdog has expired in the fatal sequence, the outcome of its dump, whether bank 15 holds the RAM copy of a dump, the
values of c and chain time latched at the freeze, and the dump slot in erasure with its erased sectors. -/
structure Evt where
  hold : List Nat
  level : List Nat
  fw : List (Nat × Word)
  later : Bool
  wdt : Bool
  res : Nat
  dumpValid : Bool
  latchC : Nat
  latchT : Word
  erase : Option (Nat × Nat)
  deriving DecidableEq, Repr

/-- One parsed message in a source's holding stage (R113): the event it stands for, its group and channel, its arrival
at the first start edge and at completion (R106), a supplied stamp if it has one, and the first part not yet served.
`raw` is the pitch-bend value before the conversion of R96, or the pitch of a rescued note (R167); `wide` tells a 32-bit value.
`keys` are the keys of a tuning message with their pitches (R97), `attr` there telling a real-time form. `tag` is the
source index at the member for an event from the link, the timer for a gate, the tag of a rescued note. -/
structure Msg where
  kind : Nat
  group : Nat
  chan : Nat
  key : Nat
  attr : Bool
  value : Word
  index : Nat
  raw : Nat
  wide : Bool
  start : Word
  done : Word
  stamp : Option Word
  nextPart : Nat
  part : Option Nat
  dev : Nat
  tag : Nat
  keys : List (Nat × Word)
  deriving DecidableEq, Repr

/-- The state of one MIDI byte-stream parser (R89, R91). -/
structure Parser where
  running : Nat
  status : Nat
  data : List Nat
  start : Word
  sysex : Option (List Byte)
  armed : Bool
  deriving DecidableEq, Repr

/-- Held bank select and parameter number of one channel of one port and group (R95). -/
structure ChanSt where
  bankM : Nat
  bankL : Nat
  pM : Nat
  pL : Nat
  nrpn : Bool
  deriving DecidableEq, Repr

/-- One entry of the history of R523: what it sets (0 bend range, 1 member bend range, 2 live member count, 3 a
tuning-table key), for which part or table, which channel or key, from which stamp, to which value. -/
structure Hist where
  what : Nat
  part : Nat
  chan : Nat
  stamp : Word
  value : Nat
  deriving DecidableEq, Repr

/-- One entry of the in-flight pipeline (R112, R114) with what intake and the allocator resolved for it: sample and
onset (R119), the note pitch (R99), whether it is applied, queued at the allocator, refused; its contexts, note tag,
unison count, whether the note-on starts a note (R257), and whether it was shifted (R143). -/
structure PipeEnt where
  ev : EvRec
  sample : Word
  phi : Nat
  pitch : Int
  applied : Bool
  queued : Bool
  refused : Bool
  voices : List Nat
  tag : Nat
  u : Nat
  starts : Bool
  deriving DecidableEq, Repr

/-- The tempo tracker of a part (R202): clock count, samples of the last two clocks applied, how many have been applied (2
for more), the beat position it is frozen at as a fraction, and whether the next clock releases the freeze. -/
structure Beat where
  k : Int
  sk : Word
  sk1 : Word
  n : Nat
  frozen : Option (Int × Nat)
  cont : Bool
  deriving DecidableEq, Repr

/-- Intake: parsers, holding stages, pipeline, last 256 events, history, and the state derived from events. -/
structure Note where
  parsers : Tbl Parser
  chans : Tbl ChanSt
  wait : Tbl (List Msg)
  pipe : List PipeEnt
  last : List EvRec
  seq : Nat
  hist : List Hist
  base : Tbl Nat
  beats : Tbl Beat
  jrAnchor : Option (Nat × Word)
  jrPend : Option Nat
  sx : Tbl (List Byte)
  patchHeld : List (Nat × Word × List Byte)
  patchAct : Tbl Nat
  patchBase : Nat
  patchSlots : Nat
  patchDir : List (Nat × Nat)
  deriving DecidableEq, Repr

/-- An applied commit whose sample may still be rendered again: its sample and chain time, the values it replaced (R523),
and its writes to VOICE registers (R176). -/
structure PastCommit where
  sample : Word
  time : Word
  old : List (Nat × Word)
  voice : List (Nat × Word)
  deriving DecidableEq, Repr

/-- The commit unit (R70 to R84): the snapshot under check and the one last checked, the commit buffer with its sample,
the commits applied of late, oldest first, registers that wait for their own stage with the sample of
their commit (R79), and the votes of a chain commit. -/
structure Stg where
  snap : List (Nat × Word)
  checking : Bool
  thenCommit : Bool
  dirty : Bool
  since : List Nat
  buffer : Option (List (Nat × Word))
  sample : Word
  applyT : Word
  past : List PastCommit
  atC : List (Nat × Word × Word)
  goGot : Bool
  epochT : Word
  prepared : Bool
  census0 : List Nat
  votes : List Nat
  noVote : Bool
  confirmSec : Nat
  confirmed : Bool
  fatalSeen : Bool
  deriving DecidableEq, Repr

/-- The architectural registers of a context (R242). -/
structure Regs where
  d : Tbl Word
  a : Tbl (BitVec 72)
  i : Tbl (BitVec 16)
  m : Tbl (BitVec 16)
  wb : Tbl (BitVec 16)
  wl : Tbl (BitVec 16)
  rp : Tbl Word
  lc : BitVec 11
  ls : BitVec 11
  le : BitVec 11
  sr : Word
  pc : BitVec 11
  stack : List (BitVec 11)
  deriving DecidableEq, Repr

/-- Which register a result in flight lands in (R263). `nzcv` takes the four flags of its value's low bits, `gov` and
`nov` set their sticky bit, `z` takes bit 0 of its value. -/
inductive Dst where
  | d (n : Nat) | i (n : Nat) | m (n : Nat) | wb (n : Nat) | wl (n : Nat) | lc | rp (n : Nat) | sr | nzcv | gov | nov | z
  deriving DecidableEq, Repr

/-- A result in flight: the issue cycle from which it is seen, the order of issue, where it lands, its value. -/
structure Flight where
  due : Nat
  dst : Dst
  val : Word
  deriving DecidableEq, Repr

/-- One logged event of a context (R130): its record, onset, and what EVPOP delivers beside it (R257). -/
structure LogEnt where
  ev : EvRec
  sample : Word
  phi : Nat
  pitch : Int
  tag : Nat
  uidx : Nat
  u : Nat
  starts : Bool
  slot : Nat
  deriving DecidableEq, Repr

/-- The note of a voice context as its frontier sample leaves it (R148, R149, R168). -/
structure Voice where
  cls : Nat
  tag : Nat
  part : Nat
  chan : Nat
  key : Nat
  uidx : Nat
  u : Nat
  pitch : Int
  vel : Nat
  relVel : Nat
  onStamp : Word
  onSample : Word
  sost : Bool
  offSeen : Bool
  noteVals : Tbl Word
  glideFrom : Int
  glideAt : Word
  glidePhi : Nat
  glideLen : Nat
  fadeAt : Option (Word × Nat)
  quiet : Nat
  slot : Nat
  bowl : Tbl Int
  deriving DecidableEq, Repr

/-- What the send unit stores for one sample of a context (R138): the output pair, the send map, the four send gains,
the CV entries and gate levels with onsets it holds (R142, R211), and the stamp of the note-on behind it (R212). -/
structure Send where
  l : Word
  r : Word
  map : Word
  g : List Word
  cv : List (Nat × Nat)
  gate : List (Nat × Bool × Nat)
  level : Word
  cls : Nat
  stamp : Word
  deriving DecidableEq, Repr

/-- A checkpoint (R127): the sample it stands before, registers, X and Y slice, the voice, the write pointers. -/
structure Ckpt where
  sample : Word
  regs : Regs
  x : Tbl Byte
  y : Tbl Byte
  blk : Tbl Word
  voice : Voice
  deriving DecidableEq, Repr

/-- A rollback of a context (R132): the earliest stale sample and the frontier it had. -/
structure Roll where
  stale : Word
  front : Word
  deriving DecidableEq, Repr

/-- A spindle context: live registers and execution state of the sample being rendered, log, checkpoints, send ring, frontier
samples rendered in this VS, the sample from which its last note left it free. `acc` keeps what RND1 and RND4 still see of an accumulator: until which issue cycle, which one, its former value. -/
structure Ctx where
  regs : Regs
  cyc : Nat
  flight : List Flight
  acc : List (Nat × Nat × BitVec 72)
  evq : List (List Word)
  next : Word
  active : Bool
  p0 : Tbl Word
  appended : List Nat
  rep : Option Nat
  delay : Option (Nat × BitVec 11)
  lastStock : Option Nat
  log : List LogEnt
  ckpts : List Ckpt
  roll : Option Roll
  sends : Tbl Send
  paused : Bool
  adv : Nat
  freed : Option Word
  deriving DecidableEq, Repr

/-- A parting context's fade (R158, R160): whether it is busy, the voice it fades, the sample its fade began at, the
next gain index position j, M, and for a shortened fade the index it started from; the samples it has rendered. -/
structure Part where
  busy : Bool
  voice : Nat
  began : Word
  j : Nat
  m : Nat
  short : Option Nat
  stealAt : Word
  deriving DecidableEq, Repr

/-- One operation of a bundle under construction, slot by slot (R240). -/
inductive Op where
  | nop (s : Slot)
  | mem (op : Nat) (f : MemF)
  | mac (op : Nat) (f : MacF)
  | alu (op : Nat) (f : AluF) (bad : Nat)
  deriving DecidableEq, Repr

/-- A spindle (R217 to R239): running and suspended context, the operations of the bundle now issuing, its two parting
contexts, whether it runs the ROM copy of Bowl, cycles clocked in this VS, the cycles at which patch buffers were used in it, rollback cycles used in it. -/
structure Spn where
  cur : Option Nat
  susp : Option Nat
  bundle : List Op
  part0 : Part
  part1 : Part
  rom : Bool
  cycles : Nat
  used : List Nat
  rollUsed : Nat
  deriving DecidableEq, Repr

/-- A class summary of a device (R162, R164). -/
structure Summ where
  score : Word
  count : Nat
  deriving DecidableEq, Repr

/-- A note of the head's table (R166). -/
structure NoteTab where
  tag : Nat
  part : Nat
  chan : Nat
  key : Nat
  target : Nat
  u : Nat
  sustained : Bool
  lost : Bool
  vel : Nat
  pitch : Int
  stamp : Word
  deriving DecidableEq, Repr

/-- The allocator (R147 to R168): queued requests by arrival sequence, next tag, key stacks of mono and legato parts, the
pending voices with the tag and the part of the note that took them,
the tag of the last note-on allocated (R162), and at the head the summaries, the targetings not yet acknowledged and the note table. -/
structure Alloc where
  queue : List Nat
  tag : Nat
  keyStacks : Tbl (List Nat)
  pend : Tbl (Nat × Nat)
  summ : Tbl Summ
  summTag : Tbl Nat
  targeted : List (Nat × Nat × Nat)
  notes : List NoteTab
  lastSent : List Summ
  lastTag : Nat
  deriving DecidableEq, Repr

/-- The sample engine (R118 to R146): commit point, samples since the anchor, the anchor (R403), speculative bus sums by
sample and bus, rollback orders on their way to a spindle (spindle, context, sample, arrival sequence of the event), and
the last committed sample with a bus value other than 0 (R28). -/
structure Eng where
  c : Word
  crel : Int
  s0 : Word
  tau0 : Word
  on : Bool
  bus : Tbl (BitVec 40)
  transit : List (Nat × Nat × Word × Nat)
  loud : Option Word
  deriving DecidableEq, Repr

end Sys2Proof.Machine
end

