-- ==== Sys2Proof/Machine/StService.lean ====
section
/-! DEFINITION. The state of the link, network, host ports, journal, steady rest, fuses and pins. Plain data; each
structure names the rules that give the machine its fields. -/
namespace Sys2Proof.Machine

/-- A Ceireb frame without its CRC (R370): TYPE, DST, SRC, SEQ and payload. -/
structure LFrame where
  ty : Nat
  dst : Nat
  src : Nat
  seq : Nat
  pay : List Byte
  deriving DecidableEq, Repr

/-- A Ceireb port (R366 to R374, R383, R391): next expected and next sent SEQ, whether a NAK is out, frames not yet
acknowledged (oldest first), consecutive resends from one SEQ and that SEQ, credit, the ordered sets sent last, last sum
of each bus and its sample, sums held by sample and bus, the samples that have sums, consecutive late samples, position of
the loss fade, devices behind the port, TS sets received, whether a beacon has gone out, whether it is joined, the reason
it is isolated for. -/
structure LPort where
  rx : Nat
  tx : Nat
  nakOut : Bool
  replay : List LFrame
  resends : Nat
  resendSeq : Nat
  credit : Nat
  acks : List (Nat × Nat)
  lastSum : Tbl (BitVec 40)
  lastS : Word
  sums : Tbl (BitVec 40)
  got : List Word
  late : Nat
  fade : Option Nat
  behind : List Nat
  ts : Nat × Nat
  beacon : Bool
  joined : Bool
  isol : Nat
  deriving DecidableEq, Repr

/-- The head's record of a census member (R365, R386, R396); `shipped` tells that it has been sent the head's image. -/
structure Member where
  id : Nat
  depth : Nat
  parent : Nat
  state : Nat
  reason : Nat
  path : List Bool
  port : Nat
  err : Nat
  epoch : Word
  digest : List Byte
  admitted : Bool
  shipped : Bool
  deriving DecidableEq, Repr

/-- The chain (R362 to R394): whether the role is still open, the position table and census of the head, a member's
path, lock count, admission, entries held back while the pipeline is full, fades, the shipments of the head (member,
0 for the header or the section's number, byte in it), the image a member receives with the count of its bytes, and the
register requests forwarded for the host (tag, member). -/
structure Cbl where
  ports : Tbl LPort
  roleOpen : Bool
  orphan : Bool
  path : List Bool
  census : List Member
  table : List (List Bool × Nat)
  synced : Bool
  locks : Nat
  locked : Bool
  sAdm : Option Word
  admEpoch : Word
  admGen : Nat
  adm : List DnEntry
  held : List DnEntry
  admitted : Bool
  fade : Option Nat
  ship : List (Nat × Nat × Nat)
  img : Tbl Byte
  imgEnd : Nat
  reqs : List (Nat × Nat)
  reqTag : Nat
  deriving DecidableEq, Repr

/-- One tracked time domain (R408, R409): Syncs in a row within 1 us, domain time at a value of c, grandmaster, whether
it ever had a held difference. -/
structure Dom where
  good : Nat
  time : Int
  atC : Nat
  gm : Nat
  hasDiff : Bool
  deriving DecidableEq, Repr

/-- A stream (R414 to R420): sequence number, next output index of a talker, the talker's frame held, the last accepted
sequence number, time and length of the last frame, and the samples of the listener buffer by index and channel. -/
structure Stream where
  seq : Nat
  nextO : Nat
  started : Bool
  lastSeq : Option Nat
  lastPt : Word
  lastLen : Nat
  buf : Tbl Word
  prev : Tbl Word
  sent : List (Nat × Word × List Word)
  deriving DecidableEq, Repr

/-- Network (R406 to R420): domains, active domain, streams, VLANs joined, peer capability and delay. -/
structure Net where
  doms : Tbl Dom
  active : Option Nat
  streams : Tbl Stream
  vlans : List Nat
  capable : Bool
  peerNs : Int
  deriving DecidableEq, Repr

/-- A UART (R423 to R432): received bytes with their start and done times, bytes to send, a divider that waits, whether the
line is in a low period after a break, whether HOST_RTS_N is high, the character sent last. -/
structure Uart where
  rxq : List (Byte × Word × Word)
  txq : List Byte
  divWait : Option Nat
  lowPeriod : Bool
  rts : Bool
  tx : Option Byte
  deriving DecidableEq, Repr

/-- A host command whose answer waits (R394, R435, R463): its tag, opcode and member (0 for this device), the accesses
still to forward (whether a write, address, value), the words got so far, the highest status so far, and how many repeats
of it wait too (R115). -/
structure HostWait where
  tag : Nat
  op : Nat
  dev : Nat
  todo : List (Bool × Nat × Word)
  got : List Word
  st : Nat
  again : Nat
  deriving DecidableEq, Repr

/-- The Swilum parser and executor (R115, R433 to R435): partial frame, a complete frame waiting to execute with the
times of its bytes, the cache of responses, the command that waits. -/
structure HostP where
  part : List (Byte × Word × Word)
  frame : Option (List (Byte × Word × Word))
  cache : List (Nat × List Byte)
  wait : Option HostWait
  deriving DecidableEq, Repr

/-- A record queued for the journal (R444): type, key, transaction, payload, and whether the host command that wrote it
waits for its read-back (R463). -/
structure QRec where
  ty : Nat
  key : Nat
  txid : Nat
  pay : List Byte
  host : Bool
  deriving DecidableEq, Repr

/-- A record known to be in the log: its header fields, sector and payload. -/
structure JRec where
  ty : Nat
  key : Nat
  txid : Nat
  seq : Nat
  sect : Nat
  pay : List Byte
  deriving DecidableEq, Repr

/-- A log sector (R442): erase count if known, sequence if in the log, retired, erased and ready. -/
structure Sect where
  ecnt : Option Nat
  sseq : Option Nat
  retired : Bool
  deriving DecidableEq, Repr

/-- The journal engine (R440 to R463): region, sectors, head and its fill, next SEQ, records of the log oldest first,
queue, open transactions with first SEQ and count, superblock position, whether the next write takes a new sector,
token remainder, erase times of the last 30 days in powered seconds, powered seconds, the service counters (boots, RUN
seconds, SHELF seconds, fatal events, dumps) and the events not yet logged (extended seconds, source, count). -/
structure Nvj where
  ready : Bool
  base : Nat
  len : Nat
  sects : Tbl Sect
  head : Nat
  fill : Nat
  seq : Nat
  recs : List JRec
  queue : List QRec
  open_ : List (Nat × Nat × Nat)
  txid : Nat
  sbSeq : Nat
  sbSlotA : Nat
  sbSlotB : Nat
  sbInB : Bool
  eca : Nat
  ecb : Nat
  tail : Nat
  tailSeq : Nat
  fresh : Bool
  tokAcc : Nat
  erases : List Nat
  powered : Nat
  lowRaised : Bool
  refusedRaised : Bool
  wearRaised : Bool
  endRaised : Bool
  counters : List Nat
  evlog : List (Nat × Nat × Nat)
  deriving DecidableEq, Repr

/-- The steady rest (R465 to R480): policy, T_w, the last measurement, what is due, a voltage step of the ladder waiting
for its confirmation, a clock step in progress with its stage, drift counts, the last decision slack in 1/64 ps. -/
structure Age where
  minSlack : Nat
  vmax : Nat
  fstart : Nat
  fmin : Nat
  kt : Int
  pmb : Nat
  vsettle : Nat
  checkh : Nat
  driftHi : Nat
  driftLo : Nat
  tw : Option Int
  twAt : Int
  due : Bool
  lateCounted : Bool
  stepping : Bool
  changed : Bool
  clk : Option (Nat × Nat × Nat)
  lowDrift : Tbl Nat
  planned : Nat
  trend : List (List Byte)
  vExp : Int
  s64 : Int
  deriving DecidableEq, Repr

/-- The one-time-programmable fuses (R58, R285, R438). -/
structure Fuses where
  hash : Tbl (List Byte)
  revoked : List Nat
  minVer : Nat
  lcs : Nat
  lcChanges : Nat
  deriving DecidableEq, Repr

/-- Levels on input pins that the state has to remember (R286, R453, R508), and outputs driven inert (R20). -/
structure Pins where
  tamperLow : Bool
  pfailLow : Bool
  inert : Bool
  otInert : List Nat
  deriving DecidableEq, Repr

end Sys2Proof.Machine
end

