-- ==== Sys2Proof/Machine/State.lean ====
section
/-! DEFINITION. State: the queue of waiting commands and the device, every register and every piece of machine state the
spec gives it, as plain data; the reasons a step can stop; and the machine right after reset. -/
namespace Sys2Proof.Machine

/-- The device: the register file (`live`, by bus address, unlisted registers at their reset values), staging copies
written since the last commit or discard (R70, R176), memories by bus address, flash by byte offset, the counter of
free values, the Stock offset the scrubber reads next (R279), and the state of each block. -/
structure Dev where
  live : Tbl Word
  staged : Tbl Word
  mem : Tbl Byte
  flash : Tbl Byte
  free : Nat
  scrubAt : Nat
  pwr : Pwr
  time : Time
  evt : Evt
  note : Note
  stg : Stg
  eng : Eng
  voices : Tbl Voice
  ctxs : Tbl Ctx
  spns : Tbl Spn
  alloc : Alloc
  mix : Mix
  ports : Tbl Port
  cv : Cv
  tune : Tune
  tmrs : Tbl Tmr
  cbl : Cbl
  net : Net
  uarts : Tbl Uart
  host : HostP
  nvj : Nvj
  age : Age
  fuses : Fuses
  pins : Pins
  deriving DecidableEq, Repr

/-- The state: the commands that wait, first in first out, and the device. -/
structure State where
  pending : List Instr
  dev : Dev
  deriving DecidableEq, Repr

/-- Why a step stops with a fault. No command of this block does so; the constructor is there for the type's sake. -/
inductive Fault where
  /-- Raised by nobody: the spec gives every command an effect. Safe. -/
  | none
  deriving DecidableEq, Repr

/-- Why a step has no meaning for a command. -/
inductive Refusal where
  /-- Raised by an arm of exec whose command has no meaning yet, by its mnemonic. Safe: no claim is made about it. -/
  | notModelled (mnemonic : String)
  deriving DecidableEq, Repr

/-- Registers of a context after the memory clear or zero-fill: all zero (R244). -/
def Regs.zero : Regs :=
  { d := [], a := [], i := [], m := [], wb := [], wl := [], rp := [], lc := 0, ls := 0, le := 0, sr := 0, pc := 0,
    stack := [] }

/-- A free context's voice: no note (R148, R168). -/
def Voice.free : Voice :=
  { cls := 7, tag := 0, part := 0, chan := 0, key := 0, uidx := 0, u := 1, pitch := 0, vel := 0, relVel := 0,
    onStamp := 0, onSample := 0, sost := false, offSeen := false, noteVals := [], glideFrom := 0, glideAt := 0,
    glidePhi := 0, glideLen := 0, fadeAt := none, quiet := 0, slot := 0, bowl := [] }

/-- A context with nothing to render. -/
def Ctx.idle : Ctx :=
  { regs := Regs.zero, cyc := 0, flight := [], acc := [], evq := [], next := 0, active := false, p0 := [],
    appended := [], rep := none, delay := none, lastStock := none, log := [], ckpts := [], roll := none, sends := [],
    paused := false, adv := 0, freed := none }

/-- A tempo tracker that has had no message since RUN was entered. -/
def Beat.start : Beat := { k := 0, sk := 0, sk1 := 0, n := 0, frozen := none, cont := false }

/-- A parting context that fades nothing. -/
def Part.idle : Part := { busy := false, voice := 0, began := 0, j := 0, m := 1, short := none, stealAt := 0 }

/-- A spindle at reset: no context runs (R239). -/
def Spn.idle : Spn :=
  { cur := none, susp := none, bundle := [], part0 := Part.idle, part1 := Part.idle, rom := true, cycles := 0,
    used := [], rollUsed := 0 }

/-- A byte-stream parser with no status in force. -/
def Parser.idle : Parser :=
  { running := 0, status := 0, data := [], start := 0, sysex := none, armed := false }

/-- A channel with bank 0 held and no parameter number selected. -/
def ChanSt.idle : ChanSt := { bankM := 0, bankL := 0, pM := 127, pL := 127, nrpn := false }

/-- A port that is stopped. -/
def Port.idle : Port :=
  { run := false, startWait := none, first := false, recRun := false, o0 := 0, frames := 0, txq := [], rxq := [],
    prev := [], lastO := 0, fst := 0, cst := 0, und := false, ovr := false, sdout := [] }

/-- A timer that is stopped. -/
def Tmr.idle : Tmr :=
  { run := false, cnt := 0, per := 0xFFFFFFFF, cmp := 0, perNew := false, cmpNew := false, pin := false, pulse := 0,
    edges := 0, lastOn := false, held := false }

/-- A link port at electrical idle. -/
def LPort.idle : LPort :=
  { rx := 0, tx := 0, nakOut := false, replay := [], resends := 0, resendSeq := 0, credit := 96, acks := [],
    lastSum := [], lastS := 0, sums := [], got := [], late := 0, fade := none, behind := [], ts := (0, 0),
    beacon := false, joined := false, isol := 0 }

/-- A domain never heard of. -/
def Dom.idle : Dom := { good := 0, time := 0, atC := 0, gm := 0, hasDiff := false }

/-- A stream not running. -/
def Stream.idle : Stream :=
  { seq := 0, nextO := 0, started := false, lastSeq := none, lastPt := 0, lastLen := 0, buf := [], prev := [],
    sent := [] }

/-- A UART with empty queues. -/
def Uart.idle : Uart :=
  { rxq := [], txq := [], divWait := none, lowPeriod := false, rts := false, tx := none }

/-- A log sector of which nothing is known. -/
def Sect.unknown : Sect := { ecnt := none, sseq := none, retired := false }

/-- No summary. -/
def Summ.none : Summ := { score := 0, count := 0 }

/-- The device right after a power-on with VAON absent before it and open strap balls: BLANK, every register at its
reset value, memories zero-filled, no command waiting. What the spec leaves open here is in log entries 3 to 6. -/
def Dev.reset : Dev :=
  { live := [], staged := [], mem := [], flash := [], free := 0, scrubAt := 0,
    pwr := { mode := .blank, prev := .blank, cold := false, pend := none, zeroFill := true, por := true,
             resetLow := false, sampled := true, shelf := .no, wakePin := true, wakeHost := true, wakeMidi := true,
             latch := none, pwrEn := true, frozen := false, fatalStep := 0, boot := none, shelfXo := false, rom := [] },
    time := { c := 0, off := 0, cold := none, half := false, tick := 0, xo := 0, aonXo := 0, lockedOnce := false,
              pendStep := none },
    evt := { hold := [], level := [], fw := [], later := false, wdt := false, res := 0, dumpValid := false, latchC := 0,
             latchT := 0, erase := none },
    note := { parsers := [], chans := [], wait := [], pipe := [], last := [], seq := 0, hist := [], base := [], beats := [],
              jrAnchor := none, jrPend := none, sx := [], patchHeld := [],
              patchAct := [], patchBase := 0, patchSlots := 0, patchDir := [] },
    stg := { snap := [], checking := false, thenCommit := false, dirty := false, since := [], buffer := none, sample := 0,
             applyT := 0, past := [], atC := [], goGot := false, epochT := 0,
             prepared := false, census0 := [], votes := [], noVote := false, confirmSec := 0xFFFF,
             confirmed := false, fatalSeen := false },
    eng := { c := 0, crel := 0, s0 := 0, tau0 := 0, on := false, bus := [], transit := [], loud := none },
    voices := [], ctxs := [], spns := [],
    alloc := { queue := [], tag := 1, keyStacks := [], pend := [], summ := [], summTag := [], targeted := [], notes := [],
               lastSent := [], lastTag := 0 },
    mix := { hist := [], delay := [], outs := [], direct := [], act := [], osBase := 0, oBase := 0, syncWait := none,
             pdm := [], pdmReads := [], pdmLast := [], pdmSeen := [], settled := false, raw := [] },
    ports := [],
    cv := { queue := [], origin := 0, initing := [], edges := [], voiceHi := [] },
    tune := { phase := .idle, ch := 0, byGo := false, point := 0, first := 0, last := 0, caps := 0, stuck := false,
              pitches := [], curve := [], due := [], quiet := [] },
    tmrs := [],
    cbl := { ports := [], roleOpen := false, orphan := false, path := [], census := [], table := [], synced := false,
             locks := 0, locked := false, sAdm := none, admEpoch := 0, admGen := 0, adm := [], held := [], admitted := false, fade := none,
             ship := [], img := [], imgEnd := 0, reqs := [], reqTag := 0 },
    net := { doms := [], active := none, streams := [], vlans := [], capable := true, peerNs := 0 },
    uarts := [],
    host := { part := [], frame := none, cache := [], wait := none },
    nvj := { ready := false, base := 0, len := 0, sects := [], head := 0, fill := 0, seq := 0, recs := [], queue := [],
             open_ := [], txid := 0, sbSeq := 0, sbSlotA := 0, sbSlotB := 0, sbInB := false, eca := 0, ecb := 0,
             tail := 0, tailSeq := 0, fresh := true, tokAcc := 0, erases := [], powered := 0,
             lowRaised := false, refusedRaised := false, wearRaised := false, endRaised := false,
             counters := [0, 0, 0, 0, 0], evlog := [] },
    age := { minSlack := 40, vmax := 900, fstart := 8, fmin := 0, kt := 4, pmb := 0x40, vsettle := 200, checkh := 24,
             driftHi := 32, driftLo := 8, tw := none, twAt := 0, due := false, lateCounted := false,
             stepping := false, changed := false, clk := none, lowDrift := [],
             planned := 8, trend := [], vExp := -10, s64 := 0 },
    fuses := { hash := [], revoked := [], minVer := 0, lcs := 0, lcChanges := 0 },
    pins := { tamperLow := false, pfailLow := false, inert := true, otInert := [] } }

/-- The machine right after reset, its queue empty. -/
def State.reset : State := { pending := [], dev := Dev.reset }

end Sys2Proof.Machine
end

