-- ==== Sys2Proof/Machine/Ops.lean ====
section
/-! DEFINITION. The named operations over the register file, memories, time and the event unit that every meaning uses:
fields by their names (R4, R5), saturating counters (R520), the chain-time reading (R397), the sample grid (R119, R403),
byte-wise memory with its little-endian words (R16), raising an event source (R482 to R487), and the clock status of a
mode (R522). -/
namespace Sys2Proof.Machine

/-- A meaning's answer: the device after the command, the rest of the queue untouched. -/
def done (s : State) (d : Dev) : Host.Outcome State Fault Refusal := .next { s with dev := d }

/-- Repeat `f` over a list of indices. -/
def each {α : Type} (l : List α) (f : α → Dev → Dev) (d : Dev) : Dev := l.foldl (fun d x => f x d) d

/-- Bits `hi` to `lo` of `w`, as a number (R5). -/
def fieldOf (w : Word) (hi lo : Nat) : Nat := w.toNat / 2 ^ lo % 2 ^ (hi + 1 - lo)

/-- `w` with bits `hi` to `lo` replaced by `v` modulo the field's width. -/
def setField (w : Word) (hi lo v : Nat) : Word :=
  let m : Word := w32 ((2 ^ (hi + 1 - lo) - 1) * 2 ^ lo)
  (w &&& ~~~m) ||| (w32 (v % 2 ^ (hi + 1 - lo) * 2 ^ lo))

/-- The signed value of an `n`-bit number. -/
def signed (n v : Nat) : Int := if v % 2 ^ n < 2 ^ (n - 1) then ((v % 2 ^ n : Nat) : Int) else (v % 2 ^ n : Nat) - 2 ^ n

/-- The register at bus address `a`, as last set or at its reset value. -/
def Dev.reg (d : Dev) (a : Nat) : Word := (tfind d.live a).getD (resetWord a)

/-- Set the register at `a`. -/
def Dev.setReg (d : Dev) (a : Nat) (w : Word) : Dev := { d with live := tput (resetWord a) d.live a w }

/-- The value of a named field. -/
def Dev.fg (d : Dev) (f : Fld) : Nat := fieldOf (d.reg f.addr) f.hi f.lo

/-- Set a named field. -/
def Dev.fp (d : Dev) (f : Fld) (v : Nat) : Dev := d.setReg f.addr (setField (d.reg f.addr) f.hi f.lo v)

/-- A one-bit field as a truth value. -/
def Dev.on (d : Dev) (f : Fld) : Bool := d.fg f != 0

/-- The signed value of a field. -/
def Dev.fs (d : Dev) (f : Fld) : Int := signed (f.hi + 1 - f.lo) (d.fg f)

/-- Add `n` to a counter field, stopping at its largest value. -/
def Dev.count (d : Dev) (f : Fld) (n : Nat := 1) : Dev :=
  d.fp f (min (d.fg f + n) (2 ^ (f.hi + 1 - f.lo) - 1))

/-- Set bit `k` of a register. -/
def Dev.setBit (d : Dev) (a k : Nat) : Dev := d.setReg a (d.reg a ||| w32 (2 ^ k))

/-- Clear bit `k` of a register. -/
def Dev.clrBit (d : Dev) (a k : Nat) : Dev := d.setReg a (d.reg a &&& ~~~(w32 (2 ^ k)))

/-- Bit `k` of a word. -/
def bitOf (w : Word) (k : Nat) : Bool := w.getLsbD k

/-- One of the free values of the model: the next one, and the device with the counter moved on. -/
def Dev.fresh (d : Dev) : Word × Dev := (Config.freeWord d.free, { d with free := d.free + 1 })

/-! ### Modes -/

/-- The code of a mode (R19). -/
def Mode.code : Mode → Nat
  | .blank => 0 | .chuck => 1 | .run => 2 | .rest => 3 | .shelf => 4 | .service => 5

/-- Registers can be accessed: not in SHELF, and not while RESET_N is low (R19, R21). -/
def Dev.hears (d : Dev) : Bool := d.pwr.mode != .shelf && !d.pwr.resetLow

/-- What a register access does, where registers can be accessed. -/
def Dev.heard (d : Dev) (f : Dev → Dev) : Dev := if d.hears then f d else d

/-- The engine runs: RUN and not frozen (R19, R486). -/
def Dev.running (d : Dev) : Bool := d.pwr.mode == .run && !d.pwr.frozen && d.eng.on

/-- The service firmware and its queues work: RUN or REST, not frozen. -/
def Dev.alive (d : Dev) : Bool := (d.pwr.mode == .run || d.pwr.mode == .rest) && !d.pwr.frozen

/-! ### Chain time (R397, R119, R403) -/

/-- The rate correction in force. -/
def Dev.adj (d : Dev) : Int := (d.reg rTIME_ADJ).toInt

/-- The chain time that counter value `c` reads as (R397). -/
def Dev.timeOf (d : Dev) (c : Nat) : Word :=
  w32i (((d.time.off : Int) + 4 * (c : Int) * (2 ^ 40 + d.adj)) / 2 ^ 40)

/-- Present chain time: from c, or as kept on XO32 in REST-COLD (R399). -/
def Dev.now (d : Dev) : Word :=
  match d.time.cold with
  | some (ns, _) => w32 ns
  | none => d.timeOf d.time.c

/-- Add `n` units of 2^-40 ns to OFF, modulo 2^72. -/
def Dev.addOff (d : Dev) (n : Int) : Dev :=
  { d with time := { d.time with off := (((d.time.off : Int) + n) % 2 ^ 72).toNat } }

/-- A new rate correction at the present counter value, clamped, with OFF compensated (R397, R398). -/
def Dev.setAdj (d : Dev) (a : Int) : Dev :=
  let a' := max (-0x8000000) (min 0x8000000 a)
  (d.addOff (4 * (d.time.c : Int) * (d.adj - a'))).setReg rTIME_ADJ (w32i a')

/-- The base rate of the audio family in Hz (R297). -/
def Dev.baseRate (d : Dev) : Nat := if d.on SYS_APLL_FAMILY then 44100 else 48000

/-- The voice rate in Hz (R297). -/
def Dev.voiceRate (d : Dev) : Nat := d.baseRate * 2 ^ d.fg MIX_RATE_MULT

/-- The oversampling factor F (R297). -/
def Dev.osf (d : Dev) : Nat := 2 ^ d.fg MIX_RATE_OSF

/-- Round half up of `n / k`. -/
def roundDiv (n : Int) (k : Nat) : Int := (2 * n + (k : Int)) / (2 * (k : Int))

/-- tau(s): the chain time at which sample s becomes the commit point (R118, R403). -/
def Dev.tau (d : Dev) (s : Word) : Word :=
  d.eng.tau0 + w32i (roundDiv ((d.eng.crel + later s d.eng.c) * 1000000000) d.voiceRate)

/-- The sample a stamp belongs to, with its onset in 1/256 of a VS (R119). -/
def Dev.sampleOf (d : Dev) (t : Word) : Word × Nat :=
  let r : Int := d.voiceRate
  let base : Int := d.eng.crel * 1000000000 / r
  let off : Int := base + later t (d.eng.tau0 + w32i base)
  let rel := off * r / 1000000000
  (d.eng.c + w32i (rel - d.eng.crel), ((256 * (off * r - rel * 1000000000)) / 1000000000).toNat)

/-- The output point O (R120). -/
def Dev.outPoint (d : Dev) : Word := d.eng.c - w32 (d.fg MIX_DOUT_DOUT)

/-- H of the render horizon for a part (R120). -/
def Dev.horizon (d : Dev) (p : Nat) : Nat := if d.on (NOTE_PART_MODE_TIGHT p) then 8 else d.fg NOTE_HORIZON_H

/-- The frontier of a part: C + H_p (R120). -/
def Dev.frontier (d : Dev) (p : Nat) : Word := d.eng.c + w32 (d.horizon p)

/-- Extended seconds at chain time `t`, from the anchor of R413. -/
def Dev.extSecAt (d : Dev) (t : Word) : Nat :=
  let a : Nat := d.fg TIME_EXTH_SECH * 2 ^ 32 + d.fg TIME_EXTS_SEC
  ((a : Int) + later t (d.reg rTIME_EXTC) / 1000000000).toNat

/-- Extended seconds at the present chain time. -/
def Dev.extSec (d : Dev) : Nat := d.extSecAt d.now

/-- A number as `n` little-endian bytes (R16). -/
def leBytes : Nat → Nat → List Byte
  | 0, _ => []
  | n + 1, v => BitVec.ofNat 8 v :: leBytes n (v / 256)

/-- The number that little-endian bytes spell. -/
def leNat : List Byte → Nat
  | [] => 0
  | b :: bs => b.toNat + 256 * leNat bs

/-- TIME_STAT.STATE and ACTIVE (R400, R409, R412): a member follows the link; with SRC = 1 a head is acquiring, locked or
in holdover. -/
def Dev.showTime (d : Dev) : Dev :=
  let st : Nat :=
    if d.fg CBL_STAT_STATE ≥ 2 then 4
    else if d.fg TIME_CTRL_SRC ≠ 1 then 0
    else match d.net.active with
      | none => 1
      | some k => if d.fg (NET_DOM_STAT_STATE k) = 2 then 2 else 3
  (d.fp TIME_STAT_STATE st).fp TIME_STAT_ACTIVE (d.net.active.getD 0)

/-- Every stream stops. -/
def Dev.stopStreams (d : Dev) : Dev :=
  each (List.range 8) (fun n d => d.fp (NET_STREAM_STAT_RUN n) 0) { d with net := { d.net with streams := [] } }

/-! ### Memories -/

/-- Where a byte of a voice slice that a VOICE register maps has its home in the register file (R171). -/
def sliceHome (a : Nat) : Option Nat :=
  if 0x4000000 ≤ a ∧ a < 0x4400000 then
    let o := (a - 0x4000000) % 0x40000
    let n := (a - 0x4000000) / 0x40000
    if o < 0x8000 ∧ o % 0x800 < 0x3C0 then
      let va := 0x50000 + (16 * n + o / 0x800) * 0x400 + o % 0x800 / 4 * 4
      if regFields va = [] then none else some va
    else none
  else none

/-- One byte of memory by bus address. -/
def Dev.rb (d : Dev) (a : Nat) : Byte :=
  match sliceHome a with
  | some va => BitVec.ofNat 8 ((d.reg va).toNat / 256 ^ (a % 4))
  | none => tget 0 d.mem a

/-- Store one byte of memory by bus address. -/
def Dev.wb (d : Dev) (a : Nat) (b : Byte) : Dev :=
  match sliceHome a with
  | some va => d.setReg va (setField (d.reg va) (8 * (a % 4) + 7) (8 * (a % 4)) b.toNat)
  | none => { d with mem := tput 0 d.mem a b }

/-- `n` bytes of memory from `a` upward. -/
def Dev.rbs (d : Dev) (a n : Nat) : List Byte := (List.range n).map fun i => d.rb (a + i)

/-- Store bytes from `a` upward. -/
def Dev.wbs (d : Dev) (a : Nat) : List Byte → Dev
  | [] => d
  | b :: bs => (d.wb a b).wbs (a + 1) bs

/-- The little-endian word at `a`. -/
def Dev.rw32 (d : Dev) (a : Nat) : Word := w32 (leNat (d.rbs a 4))

/-- Store a little-endian word at `a`. -/
def Dev.ww32 (d : Dev) (a : Nat) (w : Word) : Dev := d.wbs a (leBytes 4 w.toNat)

/-- Bus addresses of the memories (R12, R13). -/
def stockBase : Nat := 0x1000000
def stockSize : Nat := 0x3000000
def xBase (n : Nat) : Nat := 0x4000000 + n * 0x40000
def yBase (n : Nat) : Nat := xBase n + 0x10000
def pBase (n : Nat) : Nat := xBase n + 0x20000
def hwBase : Nat := 0x5000000

/-- `n` bytes of flash from byte offset `a`; an erased byte reads 0xFF. -/
def Dev.fbs (d : Dev) (a n : Nat) : List Byte := (List.range n).map fun i => tget 0xFF d.flash (a + i)

/-- Program bytes of flash: a program only clears bits (R61). -/
def Dev.fprog (d : Dev) (a : Nat) : List Byte → Dev
  | [] => d
  | b :: bs => Dev.fprog { d with flash := tput 0xFF d.flash a (tget 0xFF d.flash a &&& b) } (a + 1) bs

/-- Erase flash sector `k`, 64 KiB. -/
def Dev.ferase (d : Dev) (k : Nat) : Dev :=
  { d with flash := d.flash.filter fun p => p.1 / 0x10000 != k }

/-! ### Tables of the device -/

def Dev.voice (d : Dev) (v : Nat) : Voice := tget Voice.free d.voices v
def Dev.setVoice (d : Dev) (v : Nat) (x : Voice) : Dev := { d with voices := tput Voice.free d.voices v x }
/-- Context i = 18 n + j of R493: j below 16 a voice context, 16 and 17 parting contexts. -/
def Dev.ctx (d : Dev) (i : Nat) : Ctx := tget Ctx.idle d.ctxs i
def Dev.setCtx (d : Dev) (i : Nat) (x : Ctx) : Dev := { d with ctxs := tput Ctx.idle d.ctxs i x }
def Dev.spn (d : Dev) (n : Nat) : Spn := tget Spn.idle d.spns n
def Dev.setSpn (d : Dev) (n : Nat) (x : Spn) : Dev := { d with spns := tput Spn.idle d.spns n x }
def Dev.port (d : Dev) (n : Nat) : Port := tget Port.idle d.ports n
def Dev.setPort (d : Dev) (n : Nat) (x : Port) : Dev := { d with ports := tput Port.idle d.ports n x }
def Dev.tmr (d : Dev) (n : Nat) : Tmr := tget Tmr.idle d.tmrs n
def Dev.setTmr (d : Dev) (n : Nat) (x : Tmr) : Dev := { d with tmrs := tput Tmr.idle d.tmrs n x }
def Dev.uart (d : Dev) (n : Nat) : Uart := tget Uart.idle d.uarts n
def Dev.setUart (d : Dev) (n : Nat) (x : Uart) : Dev := { d with uarts := tput Uart.idle d.uarts n x }
def Dev.lport (d : Dev) (p : Nat) : LPort := tget LPort.idle d.cbl.ports p
def Dev.setLport (d : Dev) (p : Nat) (x : LPort) : Dev :=
  { d with cbl := { d.cbl with ports := tput LPort.idle d.cbl.ports p x } }

/-- Context index of voice v (R147). -/
def ctxOf (v : Nat) : Nat := 18 * (v / 16) + v % 16

/-- Contexts that spindle n offers (R147). -/
def Dev.offered (d : Dev) (n : Nat) : Nat :=
  let k := d.fg ALLOC_STAT_NUM
  k / 16 + if n < k % 16 then 1 else 0

/-- Voice v is present: its context is offered (R147). -/
def Dev.present (d : Dev) (v : Nat) : Bool := decide (v < 256) && decide (v % 16 < d.offered (v / 16))

/-- The present voices, in ascending number. -/
def Dev.presentVoices (d : Dev) : List Nat := (List.range 256).filter d.present

/-- A clock step that has begun removes the context of voice v (R472): the step's stage, its SPCLK step, its voice count. -/
def Dev.removed (d : Dev) (v : Nat) : Bool :=
  match d.age.clk with
  | some (st, _, k) => st != 0 && !decide (v % 16 < k / 16 + if v / 16 < k % 16 then 1 else 0)
  | none => false

/-- The note-on for which voice v is pending: its tag, 0 for none, and its part (R155). -/
def Dev.pendOf (d : Dev) (v : Nat) : Nat × Nat := tget (0, 0) d.alloc.pend v

/-- Mark voice v pending for a tag and a part, or with tag 0 not pending. -/
def Dev.setPend (d : Dev) (v tag part : Nat) : Dev :=
  { d with alloc := { d.alloc with pend := tput (0, 0) d.alloc.pend v (if tag = 0 then (0, 0) else (tag, part)) } }.fp
    (ALLOC_NOTE_PEND v) (if tag = 0 then 0 else 1)

/-- The enabled parts, in ascending number. -/
def Dev.parts (d : Dev) : List Nat := (List.range 32).filter fun p => d.on (NOTE_PART_MAP_EN p)

/-- The device is a headstock (or standalone), by CBL_STAT.STATE (R396). -/
def Dev.isHead (d : Dev) : Bool := d.fg CBL_STAT_STATE == 1

/-- The device is a chain member in any state. -/
def Dev.isMember (d : Dev) : Bool := decide (2 ≤ d.fg CBL_STAT_STATE)

/-- The census has members. -/
def Dev.hasMembers (d : Dev) : Bool := !d.cbl.census.isEmpty

/-- Depth of a member in the chain, 0 on the head (R365). -/
def Dev.depth (d : Dev) : Nat := d.fg CBL_STAT_DEPTH

/-! ### Holding stages of the sources (R113) -/

/-- A message of a service or gate for one part, with a supplied stamp (R86). -/
def Msg.ofPart (kind part chan key value index : Nat) (stamp : Word) : Msg :=
  { kind := kind, group := 0, chan := chan, key := key, attr := false, value := w32 value, index := index, raw := 0,
    wide := true, start := stamp, done := stamp, stamp := some stamp, nextPart := 0, part := some part, dev := 0,
    tag := 0, keys := [] }

/-- The messages that wait in source `src`. -/
def Dev.waiting (d : Dev) (src : Nat) : List Msg := tget [] d.note.wait src

/-- Set the messages that wait in source `src`. -/
def Dev.setWaiting (d : Dev) (src : Nat) (l : List Msg) : Dev :=
  { d with note := { d.note with wait := tput [] d.note.wait src l } }

/-- Put a message at the end of the holding stage of source `src`. -/
def Dev.post (d : Dev) (src : Nat) (m : Msg) : Dev := d.setWaiting src (d.waiting src ++ [m])

/-! ### Values by stamp (R523) -/

/-- The value of register `a` that governs an event stamped `t`: a commit not yet applied governs from its sample on; an
applied one leaves the old value to earlier stamps until its sample passes C. -/
def Dev.regAtStamp (d : Dev) (a : Nat) (t : Word) : Word :=
  let old := ((d.stg.past.filter fun p => decide (later p.sample d.eng.c ≥ 0) && decide (later t p.time < 0)).filterMap
    fun p => tfind p.old a).head?
  let new := match d.stg.buffer with
    | some b => if later t d.stg.applyT ≥ 0 then tfind b a else none
    | none => none
  new.getD (old.getD (d.reg a))

/-- The value of register `a` in the rendering of sample `n` (R79): also for a sample rendered again after a commit. -/
def Dev.regAtSample (d : Dev) (a : Nat) (n : Word) : Word :=
  let old := ((d.stg.past.filter fun p => decide (later n p.sample < 0)).filterMap fun p => tfind p.old a).head?
  let new := match d.stg.buffer with
    | some b => if later n d.stg.sample ≥ 0 then tfind b a else none
    | none => none
  new.getD (old.getD (d.reg a))

/-- A named field as it governs an event stamped `t`. -/
def Dev.fgAt (d : Dev) (f : Fld) (t : Word) : Nat := fieldOf (d.regAtStamp f.addr t) f.hi f.lo

/-- An allocator setting: that of a commit accepted but not yet applied governs the note-ons that enter after it (R80). -/
def Dev.fgAlloc (d : Dev) (f : Fld) : Nat :=
  match d.stg.buffer with
  | some b =>
    match tfind b f.addr with
    | some w => fieldOf w f.hi f.lo
    | none => d.fg f
  | none => d.fg f

/-! ### The event unit (R482 to R489) -/

/-- The counter of a counted source (R485). -/
def countIdx (k : Nat) : Option Nat :=
  if k ≤ 11 then some k
  else match k with
    | 16 => some 12 | 27 => some 13 | 28 => some 14 | 29 => some 15 | 30 => some 16 | 31 => some 17
    | 51 => some 18 | 53 => some 19 | 55 => some 20 | 60 => some 21 | _ => none

/-- The fatal sources (R486). -/
def fatalSource (k : Nat) : Bool := k == 54 || k == 56 || k == 57

/-- Set bit k of EVT_RAW (R482). -/
def Dev.setRaw (d : Dev) (k : Nat) : Dev := d.setBit (rEVT_RAW (k / 32)) (k % 32)

/-- Bit k of EVT_RAW. -/
def Dev.raw (d : Dev) (k : Nat) : Bool := bitOf (d.reg (rEVT_RAW (k / 32))) (k % 32)

/-- Steps 1 of R486 and R487: the first fatal source in RUN or REST stops every engine, makes outputs inert and is
recorded; bank 15 passes to owner 7 (R491). -/
def Dev.freeze (d : Dev) (k : Nat) : Dev :=
  let t := d.now
  let d := { d with
    pwr := { d.pwr with frozen := true, fatalStep := 1 },
    evt := { d.evt with wdt := k == 57, latchC := d.time.c, latchT := t },
    stg := { d.stg with fatalSeen := true },
    pins := { d.pins with inert := true } }
  let d := ((((d.fp EVT_FATAL_VALID 1).fp EVT_FATAL_SRC k).fp EVT_FATAL_MODE d.pwr.mode.code).setReg rEVT_FTIME t).fp EVT_DUMP_RES 1
  (d.fp (MEM_BANK_CUR 15) 7).fp (MEM_BANK_OWNER 15) 7

/-- RAW and the counters of source k at a raise (R482, R485): a hold-off or a set bit withholds a counted source. -/
def Dev.markRaise (k : Nat) (d : Dev) : Dev :=
  match countIdx k with
  | some i =>
    let d := d.count (EVT_COUNT_TOTAL i)
    if d.raw k || d.evt.hold.contains k then d.count (EVT_COUNT_SUPP i) else d.setRaw k
  | none => d.setRaw k

/-- Raise source k (R482, R485, R486 to R488): its RAW bit and counters, the firmware's note of it, and the freeze of a
fatal source. -/
def Dev.raise (k : Nat) (d : Dev) : Dev :=
  let d := { d with evt := { d.evt with fw := d.evt.fw ++ [(k, w32 d.extSec)] } }
  let d := d.markRaise k
  if fatalSource k && (d.pwr.mode == .run || d.pwr.mode == .rest) then
    if d.pwr.frozen then { d with evt := { d.evt with later := true } } else d.freeze k
  else d

/-- IRQp_N is driven low (R484): never in BLANK, CHUCK and SERVICE. -/
def Dev.irqLow (d : Dev) (p : Nat) : Bool :=
  (d.pwr.mode == .run || d.pwr.mode == .rest) &&
  (List.range 64).any fun k =>
    d.raw k && !bitOf (d.reg (if k < 32 then rEVT_MASK0 else rEVT_MASK1)) (k % 32) &&
    decide (fieldOf (d.reg (rEVT_ROUTE (k / 16))) (2 * (k % 16) + 1) (2 * (k % 16)) / 2 ^ p % 2 = 1)

/-! ### Clock status (R522, R32, R33) -/

/-- SYS_CLKSTAT for the present mode: XREF_OK and XO32_OK keep what their own events set, but XREF_OK reads 0 in
REST-COLD. `apll` tells whether APLL has locked. -/
def Dev.setClocks (d : Dev) (xref hfrc spll apll lpll : Bool) : Dev :=
  let b : Bool → Nat := fun x => if x then 1 else 0
  (((((d.fp SYS_CLKSTAT_XREF_OK (b xref)).fp SYS_CLKSTAT_HFRC_ON (b hfrc)).fp SYS_CLKSTAT_SPLL_LOCK (b spll)).fp
    SYS_CLKSTAT_PCLK_SRC (b spll)).fp SYS_CLKSTAT_APLL_LOCK (b apll)).fp SYS_CLKSTAT_LPLL_LOCK (b lpll)

/-- Enter mode `m`: the previous mode is kept, and clocks and outputs follow (R20, R32, R33, R46, R522). -/
def Dev.enter (m : Mode) (d : Dev) : Dev :=
  let d := { d with pwr := { d.pwr with prev := d.pwr.mode, mode := m },
                    pins := { d.pins with inert := !(m == Mode.run || m == Mode.rest) } }
  let x := d.on SYS_CLKSTAT_XREF_OK
  let l := d.on SYS_CLKSTAT_LPLL_LOCK
  let sp := d.on SYS_CLKSTAT_SPLL_LOCK
  match m with
  | .blank => d.setClocks x true false false false
  | .chuck => d.setClocks x true sp false l
  | .run => d.setClocks x false true true true
  | .rest => if d.pwr.cold then d.setClocks false false false false false else d.setClocks x true false true true
  | .shelf => d.setClocks false false false false false
  | .service => d.setClocks x true true false true

/-- LCLK runs, so that c counts (R33). -/
def Dev.lclk (d : Dev) : Bool := d.on SYS_CLKSTAT_LPLL_LOCK

/-- PCLK runs (R33): in every mode but SHELF and idle REST-COLD. -/
def Dev.pclk (d : Dev) : Bool := !(d.pwr.mode == .shelf) && (!(d.pwr.mode == .rest && d.pwr.cold) || d.pwr.frozen)

end Sys2Proof.Machine
end

