-- ==== Sys2Proof/Machine/Crypto.lean ====
section
/-! DEFINITION. The codes that the chapters name by their standards: CRC-32C (R370), CRC-16/CCITT (R433), SHA-256 and
ECDSA P-256 (R53, R58). What the standards say and the chapters do not is log entry 14. -/
namespace Sys2Proof.Machine

/-- `n` steps of a reflected CRC-32 with polynomial 0x1EDC_6F41 (R370). -/
def crc32Step : Nat → Nat → Nat
  | 0, c => c
  | n + 1, c => crc32Step n (if c % 2 = 1 then (c / 2) ^^^ 0x82F63B78 else c / 2)

/-- CRC-32C over a list of bytes (R370). -/
def crc32c (l : List Byte) : Nat := (l.foldl (fun c b => crc32Step 8 (c ^^^ b.toNat)) 0xFFFFFFFF) ^^^ 0xFFFFFFFF

/-- `n` steps of CRC-16 with polynomial 0x1021, not reflected (R433). -/
def crc16Step : Nat → Nat → Nat
  | 0, c => c
  | n + 1, c => crc16Step n (if c ≥ 0x8000 then (2 * c % 0x10000) ^^^ 0x1021 else 2 * c)

/-- CRC-16/CCITT over a list of bytes (R433). -/
def crc16 (l : List Byte) : Nat := l.foldl (fun c b => crc16Step 8 (c ^^^ (b.toNat * 256))) 0xFFFF

/-- A number as `n` big-endian bytes. -/
def beBytes (n v : Nat) : List Byte := (leBytes n v).reverse

/-- The number that big-endian bytes spell. -/
def beNat (l : List Byte) : Nat := l.foldl (fun a b => a * 256 + b.toNat) 0

/-! ### SHA-256 -/

def shaK0 : List Nat := [
  0x428a2f98, 0x71374491, 0xb5c0fbcf, 0xe9b5dba5, 0x3956c25b, 0x59f111f1, 0x923f82a4, 0xab1c5ed5,
  0xd807aa98, 0x12835b01, 0x243185be, 0x550c7dc3, 0x72be5d74, 0x80deb1fe, 0x9bdc06a7, 0xc19bf174,
  0xe49b69c1, 0xefbe4786, 0x0fc19dc6, 0x240ca1cc, 0x2de92c6f, 0x4a7484aa, 0x5cb0a9dc, 0x76f988da,
  0x983e5152, 0xa831c66d, 0xb00327c8, 0xbf597fc7, 0xc6e00bf3, 0xd5a79147, 0x06ca6351, 0x14292967]
def shaK1 : List Nat := [
  0x27b70a85, 0x2e1b2138, 0x4d2c6dfc, 0x53380d13, 0x650a7354, 0x766a0abb, 0x81c2c92e, 0x92722c85,
  0xa2bfe8a1, 0xa81a664b, 0xc24b8b70, 0xc76c51a3, 0xd192e819, 0xd6990624, 0xf40e3585, 0x106aa070,
  0x19a4c116, 0x1e376c08, 0x2748774c, 0x34b0bcb5, 0x391c0cb3, 0x4ed8aa4a, 0x5b9cca4f, 0x682e6ff3,
  0x748f82ee, 0x78a5636f, 0x84c87814, 0x8cc70208, 0x90befffa, 0xa4506ceb, 0xbef9a3f7, 0xc67178f2]
/-- The 64 round constants. -/
def shaK : List Nat := shaK0 ++ shaK1

/-- The initial hash value. -/
def shaH : List Word := [0x6a09e667, 0xbb67ae85, 0x3c6ef372, 0xa54ff53a, 0x510e527f, 0x9b05688c, 0x1f83d9ab, 0x5be0cd19]

def shaS0 (x : Word) : Word := x.rotateRight 7 ^^^ x.rotateRight 18 ^^^ (x >>> 3)
def shaS1 (x : Word) : Word := x.rotateRight 17 ^^^ x.rotateRight 19 ^^^ (x >>> 10)
def shaE0 (x : Word) : Word := x.rotateRight 2 ^^^ x.rotateRight 13 ^^^ x.rotateRight 22
def shaE1 (x : Word) : Word := x.rotateRight 6 ^^^ x.rotateRight 11 ^^^ x.rotateRight 25

/-- The message schedule grown by `n` words from its last sixteen, newest first. -/
def shaSched : Nat → List Word → List Word
  | 0, w => w
  | n + 1, w => shaSched n ((shaS1 (w.getD 1 0) + w.getD 6 0 + shaS0 (w.getD 14 0) + w.getD 15 0) :: w)

/-- One round on the eight working words. -/
def shaRound (v : List Word) (kw : Nat × Word) : List Word :=
  match v with
  | [a, b, c, d, e, f, g, h] =>
    let t1 := h + shaE1 e + ((e &&& f) ^^^ (~~~e &&& g)) + w32 kw.1 + kw.2
    let t2 := shaE0 a + ((a &&& b) ^^^ (a &&& c) ^^^ (b &&& c))
    [t1 + t2, a, b, c, d + t1, e, f, g]
  | _ => v

/-- One 64-byte block. -/
def shaBlock (h : List Word) (b : List Byte) : List Word :=
  let w0 := (List.range 16).map fun i => w32 (beNat ((b.drop (4 * i)).take 4))
  let w := (shaSched 48 w0.reverse).reverse
  let v := (shaK.zip w).foldl shaRound h
  (h.zip v).map fun p => p.1 + p.2

/-- Blocks of a padded message, `n` of them at most. -/
def shaBlocks : Nat → List Word → List Byte → List Word
  | 0, h, _ => h
  | n + 1, h, m => if m.isEmpty then h else shaBlocks n (shaBlock h (m.take 64)) (m.drop 64)

/-- SHA-256 of a list of bytes: 32 bytes. -/
def sha256 (m : List Byte) : List Byte :=
  let n := m.length
  let z := (119 - n % 64) % 64
  let p := m ++ (0x80 : Byte) :: (List.replicate z 0 ++ beBytes 8 (8 * n))
  (shaBlocks (n / 64 + 2) shaH p).flatMap fun w => beBytes 4 w.toNat

/-! ### ECDSA on the curve P-256 -/

def p256P : Nat := 0xFFFFFFFF00000001000000000000000000000000FFFFFFFFFFFFFFFFFFFFFFFF
def p256N : Nat := 0xFFFFFFFF00000000FFFFFFFFFFFFFFFFBCE6FAADA7179E84F3B9CAC2FC632551
def p256B : Nat := 0x5AC635D8AA3A93E7B3EBBD55769886BC651D06B0CC53B0F63BCE3C3E27D2604B
def p256Gx : Nat := 0x6B17D1F2E12C4247F8BCE6E563A440F277037D812DEB33A0F4A13945D898C296
def p256Gy : Nat := 0x4FE342E2FE1A7F9B8EE7EB4A7C0F9E162BCE33576B315ECECBB6406837BF51F5

/-- b^e modulo m, over `n` bits of e. -/
def powMod : Nat → Nat → Nat → Nat → Nat
  | 0, _, _, m => 1 % m
  | n + 1, b, e, m =>
    let r := powMod n (b * b % m) (e / 2) m
    if e % 2 = 1 then r * b % m else r

/-- The inverse modulo a prime. -/
def invMod (a m : Nat) : Nat := powMod 256 (a % m) (m - 2) m

/-- The sum of two points, none for the point at infinity. -/
def ecAdd (p q : Option (Nat × Nat)) : Option (Nat × Nat) :=
  match p, q with
  | none, q => q
  | p, none => p
  | some (x1, y1), some (x2, y2) =>
    if x1 = x2 ∧ (y1 + y2) % p256P = 0 then none
    else
      let l := if x1 = x2 then (3 * x1 * x1 + p256P - 3) * invMod (2 * y1) p256P % p256P
        else (y2 + p256P - y1) * invMod (x2 + p256P - x1) p256P % p256P
      let x3 := (l * l + 2 * p256P - x1 - x2) % p256P
      some (x3, (l * (x1 + p256P - x3) + p256P - y1) % p256P)

/-- A multiple of a point, over `n` bits of k. -/
def ecMul : Nat → Nat → Option (Nat × Nat) → Option (Nat × Nat)
  | 0, _, _ => none
  | n + 1, k, p =>
    let r := ecMul n (k / 2) (ecAdd p p)
    if k % 2 = 1 then ecAdd r p else r

/-- SIG over a message under PUBKEY (R53): X then Y, r then s, each 32 bytes big-endian. -/
def ecdsaOk (pub sig msg : List Byte) : Bool :=
  let x := beNat (pub.take 32)
  let y := beNat ((pub.drop 32).take 32)
  let r := beNat (sig.take 32)
  let s := beNat ((sig.drop 32).take 32)
  if p256P ≤ x ∨ p256P ≤ y ∨ y * y % p256P ≠ (x * x * x + (p256P - 3) * x + p256B) % p256P then false
  else if r = 0 ∨ s = 0 ∨ p256N ≤ r ∨ p256N ≤ s then false
  else
    let e := beNat (sha256 msg)
    let w := invMod s p256N
    match ecAdd (ecMul 256 (e * w % p256N) (some (p256Gx, p256Gy))) (ecMul 256 (r * w % p256N) (some (x, y))) with
    | none => false
    | some (px, _) => decide (px % p256N = r)

end Sys2Proof.Machine
end

