-- ==== Sys2Proof/Machine/HostTx.lean ====
section
/-! DEFINITION. Answers of the host port: Swilum response frames, the tag cache (R115, R433 to R436). -/
namespace Sys2Proof.Machine

/-- A Swilum frame (R433). -/
def swilum (tag op devid : Nat) (pay : List Byte) : List Byte :=
  let body := leBytes 2 pay.length ++ [BitVec.ofNat 8 tag, BitVec.ofNat 8 op, BitVec.ofNat 8 devid] ++ pay
  (0xA5 : Byte) :: (body ++ leBytes 2 (crc16 body))

/-- Put bytes into the transmit queue of UART n, with TXBUSY (R430, R439). -/
def Dev.txPush (d : Dev) (n : Nat) (l : List Byte) : Dev :=
  let u := d.uart n
  (d.setUart n { u with txq := u.txq ++ l }).fp (UART_STAT_TXBUSY n) 1

/-- Answer a host command (R435) as device `dev`: one response frame, kept for a repeat of its tag; source 61 for opcodes
0x20 up. -/
def Dev.respondAs (d : Dev) (dev tag op status : Nat) (pay : List Byte) : Dev :=
  let f := swilum tag (op % 128 + 128) dev (BitVec.ofNat 8 status :: pay)
  let d := d.txPush 4 f
  let h := d.host
  let d := if tag = 0 then d else
    let c := h.cache.filter (·.1 != tag) ++ [(tag, f)]
    { d with host := { h with cache := c.drop (c.length - 16) } }
  if op ≥ 0x20 then d.raise 61 else d

/-- Answer a host command as this device. -/
def Dev.respond (d : Dev) (tag op status : Nat) (pay : List Byte) : Dev := d.respondAs (d.fg CBL_STAT_DEVID) tag op status pay

/-- The answer of the command that waits, from device `dev`, and its repeats (R115). -/
def Dev.respondWait (d : Dev) (dev status : Nat) (pay : List Byte) : Dev :=
  match d.host.wait with
  | none => d
  | some w =>
    let d := { d with host := { d.host with wait := none } }.respondAs dev w.tag w.op status pay
    match d.host.cache.getLast? with
    | some (t, f) => if t = w.tag then each (List.range w.again) (fun _ d => d.txPush 4 f) d else d
    | none => d

end Sys2Proof.Machine
end

