-- ==== Sys2Proof/Machine/Journal.lean ====
section
/-! DEFINITION. The journal engine on its flash region (chapter 16): records, transactions, live records, the log,
superblocks, wear and budget, replay, power failure. -/
namespace Sys2Proof.Machine

/-! ### Records (R444 to R448) -/

/-- Bytes a record takes in the log, padding included (R444). -/
def jsize (pay : List Byte) : Nat := (16 + pay.length + 15) / 16 * 16

/-- The header of a record with its CRC (R444). -/
def jheader (ty key txid seq : Nat) (pay : List Byte) : List Byte :=
  let h := leBytes 2 ty ++ leBytes 2 pay.length ++ leBytes 4 seq ++ leBytes 2 key ++ leBytes 2 txid
  h ++ leBytes 4 (crc32c (h ++ pay))

/-- SEQ values compare by their signed 32-bit difference (R444). -/
def seqCmp (a b : Nat) : Int := later (w32 a) (w32 b)

/-- Appended types: AT_RUN, EVENT_LOG, and the trend, crystal and wear records (R448, R476). -/
def jappended (ty : Nat) : Bool := ty == 0x31 || ty == 0x51 || ty == 0x41 || ty == 0x42 || ty == 0x43

/-- A record belongs to no transaction, or to a valid one (R446). -/
def jvalid (l : List JRec) (r : JRec) : Bool :=
  r.txid == 0 || l.any fun c =>
    c.ty == 1 && c.txid == r.txid &&
    let n := leNat (c.pay.take 2)
    let f := leNat ((c.pay.drop 4).take 4)
    let mine := l.filter fun x => x.ty != 1 && x.txid == c.txid && decide (seqCmp x.seq f ≥ 0) && decide (seqCmp x.seq c.seq < 0)
    mine.length == n && decide (seqCmp r.seq f ≥ 0) && decide (seqCmp r.seq c.seq < 0)

/-- A DELETE record of this type and key (R447). -/
def jdeletes (x : JRec) (ty key : Nat) : Bool :=
  x.ty == 2 && leNat (x.pay.take 2) == ty && leNat ((x.pay.drop 2).take 2) == key

/-- Record r is live in a log (R447): of a keyed type the newest of its key with no later DELETE; of an appended type
one of the newest `keep`. -/
def jlive (keep : Nat) (l : List JRec) (r : JRec) : Bool :=
  r.ty != 1 && r.ty != 2 && jvalid l r &&
  if jappended r.ty then
    decide ((l.filter fun x => x.ty == r.ty && decide (seqCmp x.seq r.seq > 0) && jvalid l x).length < keep)
  else !(l.any fun x => ((x.ty == r.ty && x.key == r.key) || jdeletes x r.ty r.key) && decide (seqCmp x.seq r.seq > 0) && jvalid l x)

/-- EVKEEP in force. -/
def Dev.jkeep (d : Dev) : Nat := d.fg NVJ_POL3_EVKEEP

/-- The live records of the log. -/
def Dev.jlives (d : Dev) : List JRec := d.nvj.recs.filter (jlive d.jkeep d.nvj.recs)

/-- The live record of a type and key. -/
def Dev.jfind (d : Dev) (ty key : Nat) : Option JRec :=
  d.jlives.foldl (fun a r => if r.ty = ty ∧ r.key = key then some r else a) none

/-- The total size of some records. -/
def jtotal (l : List JRec) : Nat := l.foldl (fun n r => n + jsize r.pay) 0

/-! ### Sectors (R440 to R442, R456) -/

/-- Byte address of sector k of the region. -/
def Dev.jaddr (d : Dev) (k : Nat) : Nat := (d.nvj.base + k) * 0x10000

def Dev.sect (d : Dev) (k : Nat) : Sect := tget Sect.unknown d.nvj.sects k
def Dev.setSect (d : Dev) (k : Nat) (x : Sect) : Dev :=
  { d with nvj := { d.nvj with sects := tput Sect.unknown d.nvj.sects k x } }

/-- The log sectors of the region (R440). -/
def Dev.logSects (d : Dev) : List Nat := (List.range (min d.nvj.len 1026)).filter (2 ≤ ·)

/-- Sector k is in the log (R442). -/
def Dev.inLog (d : Dev) (k : Nat) : Bool :=
  let x := d.sect k
  !x.retired && match x.sseq with
  | some q => decide (seqCmp q d.nvj.tailSeq ≥ 0)
  | none => false

/-- Sector k is free (R442). -/
def Dev.sectFree (d : Dev) (k : Nat) : Bool :=
  let x := d.sect k
  !x.retired && x.ecnt.isSome && x.sseq.isNone

/-- Sector k waits for an erase: released or unknown (R442). -/
def Dev.sectDirty (d : Dev) (k : Nat) : Bool := !(d.sect k).retired && !d.inLog k && !d.sectFree k

/-- How many sectors the log has. -/
def Dev.logCount (d : Dev) : Nat := (d.logSects.filter d.inLog).length

/-- SPAN and L_max (R458). -/
def Dev.span (d : Dev) : Nat := d.fg NVJ_POL1_SPAN
def Dev.jlimit (d : Dev) : Nat := (d.span - 4) * 65472

/-- Log sectors that are not retired. -/
def Dev.jcount (d : Dev) : Nat := (d.logSects.filter fun k => !(d.sect k).retired).length

/-- B, the write budget in erases per day (R457). -/
def Dev.budget (d : Dev) : Nat := d.jcount * d.fg NVJ_POL0_ENDUR * 9 / (10 * (d.fg NVJ_POL1_LIFE_Y * 1461 / 4))

/-- The highest known erase count of the region; an unknown sector counts as having it (R442). -/
def Dev.ecmax (d : Dev) : Nat := d.logSects.foldl (fun m k => max m ((d.sect k).ecnt.getD 0)) 0

/-- The remaining life in days of R461: the mean rate is over at most the last 30 days of powered time. -/
def Dev.jlife (d : Dev) : Nat :=
  if d.nvj.powered < 86400 then 0xFFFFFFFF else
    let t := min d.nvj.powered (30 * 86400)
    let n := (d.nvj.erases.filter fun e => decide (d.nvj.powered < e + 30 * 86400)).length
    let sum := (d.logSects.filter fun k => !(d.sect k).retired).foldl (fun a k =>
      a + (d.fg NVJ_POL0_ENDUR - (d.sect k).ecnt.getD d.ecmax)) 0
    if n * 86400 ≤ t then sum else sum * t / (n * 86400)

/-- The registers that show the engine's state (R464). -/
def Dev.jshow (d : Dev) : Dev :=
  let n := d.jcount
  let total := d.logSects.foldl (fun a k => a + ((d.sect k).ecnt.getD d.ecmax)) 0
  let d := (d.fp NVJ_STAT_BUSY (if d.nvj.queue.isEmpty then 0 else 1)).setReg rNVJ_LIVE (w32 (jtotal d.jlives))
  let d := (d.setReg rNVJ_LIMIT (w32 d.jlimit)).setReg rNVJ_SEQ (w32 d.nvj.seq)
  let d := ((d.fp NVJ_LOG_SPAN d.logCount).fp NVJ_LOG_HEAD d.nvj.head).fp NVJ_LOG_TAIL d.nvj.tail
  let d := (d.setReg rNVJ_ECMAX (w32 d.ecmax)).setReg rNVJ_ECMEAN (w32 (total / max 1 d.logSects.length))
  let d := (d.fp NVJ_SECT_LOGSECT n).fp NVJ_SECT_RETIRED (d.logSects.length - n)
  (d.setReg rNVJ_RATE (w32 d.budget)).setReg rNVJ_LIFE (w32 d.jlife)

/-- Source 39 at the crossings of R461. -/
def Dev.jwear (d : Dev) : Dev :=
  let low := decide (d.jlife ≠ 0xFFFFFFFF) &&
    decide (d.jlife * 400 < d.fg NVJ_POL1_WARNPCT * d.fg NVJ_POL1_LIFE_Y * 1461)
  let worn := d.logSects.any fun k => decide (d.fg NVJ_POL0_ENDUR ≤ (d.sect k).ecnt.getD 0)
  let a := low && !d.nvj.wearRaised
  let b := worn && !d.nvj.endRaised
  let d := { d with nvj := { d.nvj with wearRaised := low, endRaised := worn } }
  let d := if a then d.raise 39 else d
  if b then d.raise 39 else d

/-- One erase spends one token and is remembered for 30 days of powered time (R457, R461). -/
def Dev.jspend (d : Dev) : Dev :=
  { d.setReg rNVJ_TOKENS (d.reg rNVJ_TOKENS - 1) with
    nvj := { d.nvj with erases := (d.nvj.erases.filter fun e => decide (d.nvj.powered < e + 30 * 86400)) ++ [d.nvj.powered] } }

/-- A powered second: tokens accrue at B per 86,400 s up to 7 B (R457). -/
def Dev.jsecond (d : Dev) : Dev :=
  let b := d.budget
  let acc := d.nvj.tokAcc + b
  let t := min (d.fg NVJ_TOKENS_VALUE + acc / 86400) (7 * b)
  let d := { d.setReg rNVJ_TOKENS (w32 t) with nvj := { d.nvj with tokAcc := acc % 86400, powered := d.nvj.powered + 1 } }
  d.jwear.setReg rNVJ_LIFE (w32 d.jlife)

/-! ### Superblocks (R443) -/

/-- The bytes of a superblock with sequence `q` (R443). -/
def Dev.superBytes (d : Dev) (q : Nat) : List Byte :=
  let ret := (List.range 1024).foldl (fun a k => a + if (d.sect (k + 2)).retired then 2 ^ k else 0) 0
  let b := leBytes 4 0x4E564A53 ++ leBytes 4 q ++ leBytes 2 d.nvj.tail ++ leBytes 2 d.nvj.len ++
    leBytes 4 d.nvj.tailSeq ++ leBytes 4 (d.fg NVJ_TOKENS_VALUE) ++ leBytes 4 d.nvj.eca ++ leBytes 4 d.nvj.ecb ++
    leBytes 4 d.nvj.txid ++ leBytes 128 ret ++ leBytes 92 0
  b ++ leBytes 4 (crc32c b)

/-- Write a superblock into the next slot of the sector whose turn it is, erased first when its slots are used up; none
where that erase finds no token (R443, R457). -/
def Dev.superWrite (d : Dev) : Option Dev :=
  let b := d.nvj.sbInB
  let slot := if b then d.nvj.sbSlotB else d.nvj.sbSlotA
  let k := if b then 1 else 0
  if slot ≥ 256 ∧ d.fg NVJ_TOKENS_VALUE = 0 then none
  else
    let d := if slot < 256 then d else
      let d := (d.ferase (d.nvj.base + k)).jspend
      { d with nvj := if b then { d.nvj with ecb := d.nvj.ecb + 1 } else { d.nvj with eca := d.nvj.eca + 1 } }
    let slot := if slot < 256 then slot else 0
    let q := (d.nvj.sbSeq + 1) % 2 ^ 32
    let d := d.fprog (d.jaddr k + 256 * slot) (d.superBytes q)
    some { d with nvj := if b then { d.nvj with sbSeq := q, sbSlotB := slot + 1, sbInB := false }
                         else { d.nvj with sbSeq := q, sbSlotA := slot + 1, sbInB := true } }

/-! ### Writing (R445, R452, R456, R458) -/

/-- Take a new head: the free sector of lowest erase count, its SSEQ one more than the former head's (R456). -/
def Dev.newHead (d : Dev) : Option Dev :=
  let best := (d.logSects.filter d.sectFree).foldl (fun (a : Option Nat) k =>
    match a with
    | none => some k
    | some j => if (d.sect k).ecnt.getD 0 < (d.sect j).ecnt.getD 0 then some k else a) none
  best.map fun k =>
    let q := (((d.sect d.nvj.head).sseq.getD 0) + 1) % 2 ^ 32
    let d := d.fprog (d.jaddr k + 0x10) (leBytes 4 q ++ leBytes 4 (crc32c (leBytes 4 q)))
    let d := d.setSect k { d.sect k with sseq := some q }
    { d with nvj := { d.nvj with head := k, fill := 0x40, fresh := false } }

/-- Room for a record in the head, taking a new one where it does not fit (R445). -/
def Dev.jroom (d : Dev) (pay : List Byte) : Option Dev :=
  if d.nvj.fresh ∨ d.nvj.fill + jsize pay > 0x10000 then d.newHead else some d

/-- Program one record at the head: payload first, header last (R445). -/
def Dev.jput (d : Dev) (ty key txid : Nat) (pay : List Byte) : Option Dev :=
  (d.jroom pay).map fun d =>
    let a := d.jaddr d.nvj.head + d.nvj.fill
    let q := d.nvj.seq
    let d := (d.fprog (a + 16) pay).fprog a (jheader ty key txid q pay)
    let r : JRec := { ty := ty, key := key, txid := txid, seq := q, sect := d.nvj.head, pay := pay }
    { d with nvj := { d.nvj with recs := d.nvj.recs ++ [r], fill := d.nvj.fill + jsize pay, seq := (q + 1) % 2 ^ 32 } }

/-- Copy records to the head, each as a new record outside transactions (R458). -/
def Dev.jcopy : List JRec → Dev → Option Dev
  | [], d => some d
  | r :: l, d => (d.jput r.ty r.key 0 r.pay).bind (Dev.jcopy l)

/-- The sector of the log after the tail, in ascending SSEQ. -/
def Dev.nextTail (d : Dev) : Option Nat :=
  (d.logSects.filter fun k => d.inLog k && k != d.nvj.tail).foldl (fun (a : Option Nat) k =>
    match a with
    | none => some k
    | some j => if seqCmp ((d.sect k).sseq.getD 0) ((d.sect j).sseq.getD 0) < 0 then some k else a) none

/-- Release the tail: its live records copied, then a superblock with the next tail (R458); none where it cannot. -/
def Dev.compact (d : Dev) : Option Dev :=
  let k := d.nvj.tail
  (Dev.jcopy (d.jlives.filter fun r => r.sect == k) d).bind fun d =>
    match d.nextTail with
    | none => none
    | some j =>
      { d with nvj := { d.nvj with tail := j, tailSeq := (d.sect j).sseq.getD 0,
                                   recs := d.nvj.recs.filter fun r => r.sect != k } }.superWrite

/-- Compaction while the log has SPAN − 2 sectors or more, `n` tails at most (R458). -/
def Dev.compactAll : Nat → Dev → Dev
  | 0, d => d
  | n + 1, d =>
    if d.logCount + 2 < d.span then d
    else match d.compact with
      | some d => Dev.compactAll n d
      | none => d

/-- The journal becomes read-only (R460). -/
def Dev.jreadOnly (d : Dev) : Dev := (((d.fp NVJ_STAT_RO 1).raise 38).raise 39).raise 37

/-- Retire log sector k (R460): its live records are copied out, a superblock holds its bit, source 38; with fewer than
SPAN + 4 sectors left the journal is read-only. -/
def Dev.retireSect (d : Dev) (k : Nat) : Dev :=
  let lives := d.jlives.filter fun r => r.sect == k
  let d := d.setSect k { d.sect k with retired := true }
  let d := if k = d.nvj.head then { d with nvj := { d.nvj with fresh := true } } else d
  let d := match Dev.jcopy lives d with
    | some d => { d with nvj := { d.nvj with recs := d.nvj.recs.filter fun r => r.sect != k } }
    | none => d
  let d := if k = d.nvj.tail then
      match d.nextTail with
      | some j => { d with nvj := { d.nvj with tail := j, tailSeq := (d.sect j).sseq.getD 0 } }
      | none => d
    else d
  let d := (d.superWrite.getD d).raise 38
  if d.jcount < d.span + 4 then d.jreadOnly else d

/-- The engine may begin a program or an erase (R453, R455, R460): records are held in REST and, after a fatal source,
until SERVICE. -/
def Dev.jworks (d : Dev) : Bool :=
  d.nvj.ready && !d.pwr.frozen && (d.pwr.mode == .run || d.pwr.mode == .service || d.pwr.mode == .chuck) &&
  !d.on NVJ_STAT_PFAIL && !d.on NVJ_STAT_RO

/-- Source 37 when L first reaches LOWPCT % of its limit (R459). -/
def Dev.jlow (d : Dev) : Dev :=
  if !d.nvj.lowRaised && decide (d.fg NVJ_POL1_LOWPCT * d.jlimit ≤ 100 * jtotal d.jlives) then
    { d with nvj := { d.nvj with lowRaised := true } }.raise 37
  else d

/-- A record of a transaction is counted in it, and its COMMIT closes it (R446). -/
def Dev.jtx (d : Dev) (ty txid seq : Nat) : Dev :=
  if txid = 0 then d
  else if ty = 1 then { d with nvj := { d.nvj with open_ := d.nvj.open_.filter fun t => t.1 != txid } }
  else { d with nvj := { d.nvj with open_ := d.nvj.open_.map fun t =>
    if t.1 = txid then (txid, if t.2.2 = 0 then seq else t.2.1, t.2.2 + 1) else t } }

/-- The payload of a queued record: a COMMIT's count and first SEQ are known when it is written (R446). -/
def Dev.jpayload (d : Dev) (q : QRec) : List Byte :=
  if q.ty ≠ 1 then q.pay
  else
    let t := (d.nvj.open_.find? fun t => t.1 == q.txid).getD (q.txid, 0, 0)
    leBytes 2 t.2.2 ++ leBytes 2 0 ++ leBytes 4 t.2.1

/-- The record stands in flash and has passed its read-back: it leaves the queue, a host command that waited for it is
answered with source 36 (R445, R463). -/
def Dev.jwritten (d : Dev) (q : QRec) (seq : Nat) : Dev :=
  let d := (d.jtx q.ty q.txid seq)
  let d := { d with nvj := { d.nvj with queue := d.nvj.queue.drop 1, refusedRaised := false } }
  let d := if q.host then (d.raise 36).respondWait (d.fg CBL_STAT_DEVID) 0 ((0 : Byte) :: leBytes 4 seq) else d
  (d.jlow.compactAll 4).jshow

/-- RECORD_WRITE (R445): the oldest queued record. A read-back that fails leaves the header erased, retires the sector,
and the record is written again in a new one. -/
def recordWrite (env : FlashEnv) (d : Dev) : Dev :=
  match d.nvj.queue with
  | [] => d
  | q :: _ =>
    if !d.jworks then d else
      let pay := d.jpayload q
      let slow := decide (d.fg NVJ_POL2_TPP_US < env.time) ||
        (d.on NVJ_FLASH_ECCST && decide (d.fg NVJ_POL3_CBMAX < env.corrected))
      if env.ok then
        match d.jput q.ty q.key q.txid pay with
        | none => d
        | some d1 =>
          let d2 := d1.jwritten q d.nvj.seq
          if slow then (d2.retireSect d1.nvj.head).jshow else d2
      else
        match d.jroom pay with
        | none => d
        | some d1 =>
          let d1 := d1.fprog (d1.jaddr d1.nvj.head + d1.nvj.fill + 16) pay
          let d2 := (d1.retireSect d1.nvj.head).count NVJ_CNT_RETRY
          if d2.on NVJ_STAT_RO then d2.jshow else
            match d2.jput q.ty q.key q.txid pay with
            | none => d2.jshow
            | some d3 => d3.jwritten q d2.nvj.seq

/-- SECTOR_ERASE (R456, R457, R460): the first released or unknown sector, where a token is left; the erase part of its
header follows, or the sector is retired. -/
def sectorErase (env : FlashEnv) (d : Dev) : Dev :=
  match d.logSects.find? d.sectDirty with
  | none => d
  | some k =>
    if !d.jworks || d.fg NVJ_TOKENS_VALUE = 0 then d else
      let e := ((d.sect k).ecnt.getD d.ecmax) + 1
      let d := (d.ferase (d.nvj.base + k)).jspend
      let d := d.setSect k { ecnt := some e, sseq := none, retired := false }
      if env.ok && decide (env.time ≤ d.fg NVJ_POL2_TSE_MS) then
        let h := leBytes 4 0x4A4C4F47 ++ leBytes 4 e
        ((d.fprog (d.jaddr k) (h ++ leBytes 4 (crc32c h))).jwear).jshow
      else ((d.retireSect k).jwear).jshow

/-- SUPERBLOCK_SAVE (R443): every 24 h of RUN; a superblock sector that fails makes the journal read-only (R460). -/
def superblockSave (env : FlashEnv) (d : Dev) : Dev :=
  if !d.jworks || d.pwr.mode != .run then d
  else
    let d := (d.superWrite.getD d)
    (if env.ok && decide (env.time ≤ d.fg NVJ_POL2_TPP_US) then d else d.jreadOnly).jshow

/-! ### Queueing (R446, R459, R463) -/

/-- The records that will stand once the queue is written, for the limit of R459. -/
def Dev.jplanned (d : Dev) : List JRec :=
  d.nvj.recs ++ (d.nvj.queue.zipIdx.map fun p =>
    ({ ty := p.1.ty, key := p.1.key, txid := 0, seq := (d.nvj.seq + p.2) % 2 ^ 32, sect := 0, pay := p.1.pay } : JRec))

/-- A refused write (R459): counted, with source 37 at the first after a successful one, and at each that finds the 16 KiB
buffer full. -/
def Dev.jrefuse (d : Dev) : Dev :=
  let d := d.count NVJ_CNT_REFUSED
  if d.nvj.refusedRaised then d else { d with nvj := { d.nvj with refusedRaised := true } }.raise 37

/-- Queue a record (R459, R460, R463): its result, and the device. -/
def Dev.jpost (d : Dev) (ty key txid : Nat) (pay : List Byte) (host : Bool) : Nat × Dev :=
  if d.on NVJ_STAT_RO then (3, d)
  else
    let l := d.jplanned
    let r : JRec := { ty := ty, key := key, txid := 0, seq := (d.nvj.seq + d.nvj.queue.length) % 2 ^ 32, sect := 0, pay := pay }
    let old := l.filter fun x => x.ty == ty && x.key == key && jlive d.jkeep l x
    let smaller := !jappended ty && old.any fun x => decide (jsize pay ≤ jsize x.pay)
    let lives := (l ++ [r]).filter (jlive d.jkeep (l ++ [r]))
    let blocked := decide (d.span ≤ d.logCount) && !(d.logSects.any d.sectFree) && d.fg NVJ_TOKENS_VALUE == 0
    let held := d.nvj.queue.foldl (fun n q => n + jsize q.pay) 0
    if ty ≠ 1 ∧ ty ≠ 2 ∧ !smaller ∧ d.jlimit < jtotal lives then (2, d.jrefuse)
    else if blocked ∧ 16384 < held + jsize pay then (2, { d with nvj := { d.nvj with refusedRaised := false } }.jrefuse)
    else
      let q : QRec := { ty := ty, key := key, txid := txid, pay := pay, host := host }
      (0, { d with nvj := { d.nvj with queue := d.nvj.queue ++ [q] } }.jshow)

/-- A service writes a record; a refused one comes again at its next occasion (R459). Before replay there is no journal. -/
def Dev.journal (d : Dev) (ty key : Nat) (pay : List Byte) : Dev :=
  if d.nvj.ready then (d.jpost ty key 0 pay false).2 else d

/-- Open a transaction (R446): its TXID, none with 4 open. -/
def Dev.txOpen (d : Dev) : Option (Nat × Dev) :=
  if d.nvj.open_.length ≥ 4 then none
  else
    let t := d.nvj.txid % 65535 + 1
    some (t, { d with nvj := { d.nvj with txid := t, open_ := d.nvj.open_ ++ [(t, 0, 0)] } })

/-- The transaction is open and its COMMIT is not queued yet. -/
def Dev.txIsOpen (d : Dev) (t : Nat) : Bool :=
  d.nvj.open_.any (fun x => x.1 == t) && !d.nvj.queue.any fun q => q.ty == 1 && q.txid == t

/-- A service writes records as one transaction (R448): none of them where it cannot be opened. -/
def Dev.journalTx (d : Dev) (l : List (Nat × Nat × List Byte)) : Dev :=
  if !d.nvj.ready then d
  else match d.txOpen with
    | none => d
    | some (t, d) =>
      let d := each l (fun r d => (d.jpost r.1 r.2.1 t r.2.2 false).2) d
      (d.jpost 1 0 t [] false).2

/-- Open transactions are abandoned (R455). -/
def Dev.jabandon (d : Dev) : Dev :=
  let d := d.count NVJ_CNT_TXDROP d.nvj.open_.length
  { d with nvj := { d.nvj with queue := d.nvj.queue.filter (fun q => !d.nvj.open_.any fun t => t.1 == q.txid), open_ := [] } }

/-! ### Format and replay (R450 to R452) -/

/-- Format (R451): unknown sectors erased, a first head with SSEQ 1, a first superblock, 7 days of tokens. -/
def Dev.jformat (d : Dev) : Dev :=
  let m := d.ecmax
  let d := each (d.logSects.filter fun k => (d.sect k).ecnt.isNone && !(d.sect k).retired) (fun k d =>
    let h := leBytes 4 0x4A4C4F47 ++ leBytes 4 (m + 1)
    (((d.ferase (d.nvj.base + k)).setSect k { ecnt := some (m + 1), sseq := none, retired := false }).fprog (d.jaddr k)
      (h ++ leBytes 4 (crc32c h)))) d
  let d := { d with nvj := { d.nvj with head := 0, fresh := true, sbSeq := 0, sbSlotA := 0, sbSlotB := 0, sbInB := false,
                                        txid := 0, ready := true } }
  let d := (d.newHead.getD d)
  let d := { d with nvj := { d.nvj with tail := d.nvj.head, tailSeq := 1, seq := if d.nvj.recs.isEmpty then 1 else d.nvj.seq } }
  let d := d.setReg rNVJ_TOKENS (w32 (7 * d.budget))
  ((d.superWrite.getD d).fp NVJ_STAT_ORIGIN 2).jshow

/-- The records of sector k from byte `pos` on, up to the first header that is erased or bad, and whether it was bad
(R450). -/
def Dev.jread (d : Dev) (k : Nat) : Nat → Nat → List JRec × Bool
  | 0, _ => ([], false)
  | n + 1, pos =>
    let h := d.fbs (d.jaddr k + pos) 16
    if pos + 16 > 0x10000 ∨ h.all (· == 0xFF) then ([], false)
    else
      let len := leNat ((h.drop 2).take 2)
      if len > 1008 ∨ pos + 16 + len > 0x10000 then ([], true)
      else
        let pay := d.fbs (d.jaddr k + pos + 16) len
        if crc32c (h.take 12 ++ pay) ≠ leNat (h.drop 12) then ([], true)
        else
          let r : JRec := { ty := leNat (h.take 2), key := leNat ((h.drop 8).take 2), txid := leNat ((h.drop 10).take 2),
                            seq := leNat ((h.drop 4).take 4), sect := k, pay := pay }
          let rest := d.jread k n (pos + jsize pay)
          (r :: rest.1, rest.2)

/-- What the header of sector k says (R441, R442); a sequence part that is neither erased nor valid leaves the sector
unknown. -/
def Dev.readSect (d : Dev) (k : Nat) : Sect :=
  let h := d.fbs (d.jaddr k) 0x18
  let e := (h.drop 4).take 4
  let q := (h.drop 0x10).take 4
  let eok := leNat (h.take 4) == 0x4A4C4F47 && crc32c (h.take 8) == leNat ((h.drop 8).take 4)
  let erased := (h.drop 0x10).all (· == 0xFF)
  let qok := crc32c q == leNat (h.drop 0x14)
  if eok && (erased || qok) then
    { ecnt := some (leNat e), sseq := if erased then none else some (leNat q), retired := false }
  else Sect.unknown

/-- The valid slots of superblock sector k with their index. -/
def Dev.superSlots (d : Dev) (k : Nat) : List (Nat × List Byte) :=
  ((List.range 256).map fun i => (i, d.fbs (d.jaddr k + 256 * i) 256)).filter fun p =>
    leNat (p.2.take 4) == 0x4E564A53 && crc32c (p.2.take 252) == leNat (p.2.drop 252)

/-- The next erased slot of superblock sector k. -/
def Dev.superNext (d : Dev) (k : Nat) : Nat :=
  (List.range 256).foldl (fun a i => if (d.fbs (d.jaddr k + 256 * i) 256).all (· == 0xFF) then a else i + 1) 0

/-- The newest valid superblock slot of both sectors, and whether it lies in the second (R443, R450). -/
def Dev.newestSuper (d : Dev) : Option (Bool × List Byte) :=
  let slots := (d.superSlots 0).map (fun p => (false, p.2)) ++ (d.superSlots 1).map fun p => (true, p.2)
  slots.foldl (fun (a : Option (Bool × List Byte)) p =>
    match a with
    | none => some p
    | some b => if seqCmp (leNat ((p.2.drop 4).take 4)) (leNat ((b.2.drop 4).take 4)) > 0 then some p else a) none

/-- The sectors of the log in the order of their sequence. -/
def Dev.logOrder (d : Dev) : List Nat :=
  (d.logSects.filter d.inLog).foldl (fun (l : List Nat) k =>
    let (a, b) := l.span fun j => decide (seqCmp ((d.sect j).sseq.getD 0) ((d.sect k).sseq.getD 0) < 0)
    a ++ k :: b) []

/-- The highest SEQ of records. -/
def lastSeq (recs : List JRec) : Option Nat :=
  recs.foldl (fun (a : Option Nat) r =>
    match a with
    | none => some r.seq
    | some q => if seqCmp r.seq q > 0 then some r.seq else a) none

/-- What a superblock slot says (R443). -/
def Dev.fromSuper (d : Dev) (inB : Bool) (sb : List Byte) : Dev :=
  let at_ := fun o n => leNat ((sb.drop o).take n)
  let ret := at_ 0x20 128
  let d := each d.logSects (fun k d => d.setSect k { d.sect k with retired := ret / 2 ^ (k - 2) % 2 == 1 }) d
  let d := { d with nvj := { d.nvj with
    sbSeq := at_ 4 4, tail := at_ 8 2, tailSeq := at_ 0x0C 4, eca := at_ 0x14 4, ecb := at_ 0x18 4,
    txid := at_ 0x1C 4, sbInB := !inB, sbSlotA := d.superNext 0, sbSlotB := d.superNext 1 } }
  d.setReg rNVJ_TOKENS (w32 (at_ 0x10 4))

/-- Read the log's records, count torn ones and dropped transactions, go on behind the last (R450). -/
def Dev.readLog (d : Dev) : Dev :=
  let log := d.logOrder
  let got := log.map fun k => d.jread k 4093 0x40
  let recs := got.flatMap (·.1)
  let d := d.count NVJ_CNT_TORN (got.filter (·.2)).length
  let dropped := ((recs.filter fun r => r.ty != 1 && !jvalid recs r).map (·.txid)).eraseDups
  let d := d.count NVJ_CNT_TXDROP dropped.length
  let next := ((lastSeq recs).map fun q => (q + 1) % 2 ^ 32).getD 1
  let d := { d with nvj := { d.nvj with recs := recs, head := log.getLast?.getD 0, fresh := true, ready := true,
                                        seq := next } }
  (d.fp NVJ_STAT_ORIGIN 1).jshow

/-- Both superblock sectors are erased (R451). -/
def Dev.superBlank (d : Dev) : Bool := [0, 1].all fun k => (d.fbs (d.jaddr k) 0x10000).all (· == 0xFF)

/-- The region with its sectors' headers read, nothing known of its records. -/
def Dev.jregion (d : Dev) (base len : Nat) : Dev :=
  let d := { d with nvj := { d.nvj with base := base, len := len, sects := [], recs := [], queue := [], open_ := [], tailSeq := 0 } }
  each d.logSects (fun k d => d.setSect k (d.readSect k)) d

/-- Steps 1 to 3 of R450: superblocks, headers, records; none where the boot fails with code 0x0D (R451). Applying the
live records is the boot's. -/
def Dev.jreplay (d : Dev) (base len : Nat) : Option Dev :=
  let d := d.jregion base len
  if d.superBlank then some { d with nvj := { d.nvj with eca := 0, ecb := 0 } }.jformat
  else match d.newestSuper with
    | none => none
    | some (inB, sb) => if leNat ((sb.drop 0x0A).take 2) ≠ len then none else some (d.fromSuper inB sb).readLog

/-! ### Power failure (R453, R454) -/

/-- POWER_FAIL (R453). -/
def powerFail (d : Dev) : Dev :=
  { ((d.raise 40).fp NVJ_STAT_PFAIL 1) with pins := { d.pins with pfailLow := true } }

/-- POWER_FAIL_CLEAR (R454): the held records go into a new sector. -/
def powerFailClear (d : Dev) : Dev :=
  if !d.on NVJ_STAT_PFAIL then d
  else { d.fp NVJ_STAT_PFAIL 0 with pins := { d.pins with pfailLow := false }, nvj := { d.nvj with fresh := true } }

/-! ### Records of the service firmware (R448) -/

/-- The COUNTERS record. -/
def Dev.writeCounters (d : Dev) : Dev := d.journal 0x50 0 (d.nvj.counters.flatMap fun v => leBytes 4 v)

/-- Add to service counter i: boots, RUN seconds, SHELF seconds, fatal events, dumps written. -/
def Dev.addCounter (d : Dev) (i n : Nat) : Dev :=
  { d with nvj := { d.nvj with counters := d.nvj.counters.zipIdx.map fun p => if p.2 = i then (p.1 + n) % 2 ^ 32 else p.1 } }

/-- COUNTERS_RECORD: after an hour of RUN (R448). -/
def countersRecord (d : Dev) : Dev :=
  if d.pwr.mode == .run && !d.pwr.frozen then (d.addCounter 1 3600).writeCounters else d

/-- Take the firmware's notes of raised sources into EVENT_LOG entries: those LOGMASK names, one entry for a source and
second (R448). -/
def Dev.noteEvents (d : Dev) : Dev :=
  let l := d.evt.fw.foldl (fun (l : List (Nat × Nat × Nat)) e =>
    if !bitOf (d.reg (rNVJ_LOGMASK (e.1 / 32))) (e.1 % 32) then l
    else if l.any fun x => x.1 == e.2.toNat && x.2.1 == e.1 then
      l.map fun x => if x.1 = e.2.toNat ∧ x.2.1 = e.1 then (x.1, x.2.1, min (x.2.2 + 1) 0xFFFF) else x
    else l ++ [(e.2.toNat, e.1, 1)]) d.nvj.evlog
  { d with evt := { d.evt with fw := [] }, nvj := { d.nvj with evlog := l } }

/-- EVENT_LOG_RECORD: up to 64 entries (R448). -/
def eventLogRecord (d : Dev) : Dev :=
  if !d.nvj.ready || d.pwr.mode != .run || d.pwr.frozen then d else
    let d := d.noteEvents
    let l := d.nvj.evlog.take 64
    if l.isEmpty then d else
      let pay := l.flatMap fun x => leBytes 4 x.1 ++ [BitVec.ofNat 8 x.2.1, 0] ++ leBytes 2 x.2.2
      let r := d.jpost 0x51 0 0 pay false
      if r.1 = 0 then { r.2 with nvj := { r.2.nvj with evlog := r.2.nvj.evlog.drop 64 } } else r.2

/-! ### Meanings -/

def execRecordWrite (env : FlashEnv) (s : State) : Host.Outcome State Fault Refusal := done s (recordWrite env s.dev)
def execSectorErase (env : FlashEnv) (s : State) : Host.Outcome State Fault Refusal := done s (sectorErase env s.dev)
def execSuperblockSave (env : FlashEnv) (s : State) : Host.Outcome State Fault Refusal := done s (superblockSave env s.dev)
def execPowerFail (s : State) : Host.Outcome State Fault Refusal := done s (powerFail s.dev)
def execPowerFailClear (s : State) : Host.Outcome State Fault Refusal := done s (powerFailClear s.dev)
def execCountersRecord (s : State) : Host.Outcome State Fault Refusal := done s (countersRecord s.dev)
def execEventLogRecord (s : State) : Host.Outcome State Fault Refusal := done s (eventLogRecord s.dev)

end Sys2Proof.Machine
end

