-- ==== Sys2Proof/Machine/Flags.lean ====
section
/-! DEFINITION. The integer arithmetic of the CTRL/ALU slot and every flag it computes (R253 to R255), and the exact
results of the MAC slot with their overflow rules (R250 to R252). All of it is arithmetic on exact integers, narrowed at
the end. -/
namespace Sys2Proof.Machine

/-- A result of the ALU: the value written, the four flags F = 1 sets, and whether the value was clamped. -/
structure AluRes where
  val : Word
  z : Bool
  n : Bool
  c : Bool
  v : Bool
  clamped : Bool
  deriving DecidableEq, Repr

/-- The exact value lies outside the signed 32-bit range. -/
def leaves32 (x : Int) : Bool := decide (x < -2147483648) || decide (2147483647 < x)

/-- The nearest end of the signed 32-bit range. -/
def clamp32s (x : Int) : Int := max (-2147483648) (min 2147483647 x)

/-- An exact result under S (R254): clamped with S = 1, modulo 2^32 with S = 0; C and V as they stood before any clamp. -/
def narrow (s : Bool) (x : Int) (c v : Bool) : AluRes :=
  let w := if s then w32i (clamp32s x) else w32i x
  { val := w, z := w == 0, n := bitOf w 31, c := c, v := v, clamped := s && leaves32 x }

/-- A result with C and V cleared (R254). -/
def plain (w : Word) : AluRes := { val := w, z := w == 0, n := bitOf w 31, c := false, v := false, clamped := false }

/-- RA + RB: C is the carry, V the signed overflow. -/
def aluAdd (s : Bool) (a b : Word) : AluRes :=
  narrow s (a.toInt + b.toInt) (decide (2 ^ 32 ≤ a.toNat + b.toNat)) (leaves32 (a.toInt + b.toInt))

/-- RA − RB: C is 1 when no borrow occurred. -/
def aluSub (s : Bool) (a b : Word) : AluRes :=
  narrow s (a.toInt - b.toInt) (decide (b.toNat ≤ a.toNat)) (leaves32 (a.toInt - b.toInt))

/-- Round half up of x / 2^32 (R252). -/
def round32 (x : Int) : Int := (x + 2 ^ 31) / 2 ^ 32

/-- The ALU operation of code 0x01 to 0x0F on two operands (R253, R254). Shifts use RB[4:0]. -/
def aluOp (op : Nat) (s : Bool) (a b : Word) : AluRes :=
  let k := b.toNat % 32
  match op with
  | 0x01 => aluAdd s a b
  | 0x02 => aluSub s a b
  | 0x03 => plain (a &&& b)
  | 0x04 => plain (a ||| b)
  | 0x05 => plain (a ^^^ b)
  | 0x06 => narrow s (a.toInt * 2 ^ k) false false
  | 0x07 => plain (a.sshiftRight k)
  | 0x08 => plain (a >>> k)
  | 0x09 => plain (if a.toInt ≤ b.toInt then a else b)
  | 0x0A => plain (if a.toInt ≤ b.toInt then b else a)
  | 0x0B => narrow s (a.toInt.natAbs : Int) false false
  | 0x0C => aluSub s 0 a
  | 0x0D => plain (w32i (a.toInt * b.toInt))
  | 0x0E => narrow s (round32 (2 * (a.toInt * b.toInt))) false false
  | _ => aluSub false a b

/-- The flags of a result as the low four bits of SR: Z, N, C, V (R243). -/
def AluRes.flags (r : AluRes) : Word :=
  (if r.z then 1 else 0) ||| (if r.n then 2 else 0) ||| (if r.c then 4 else 0) ||| (if r.v then 8 else 0)

/-- The condition field of BR on SR (R255); 15 is illegal and never asked. -/
def condHolds (sr : Word) (code : Nat) : Bool :=
  let z := bitOf sr 0
  let n := bitOf sr 1
  let c := bitOf sr 2
  let v := bitOf sr 3
  match code with
  | 0 => true
  | 1 => z
  | 2 => !z
  | 3 => n
  | 4 => !n
  | 5 => v
  | 6 => !v
  | 7 => c
  | 8 => !c
  | 9 => !z && (n == v)
  | 10 => n == v
  | 11 => n != v
  | 12 => z || (n != v)
  | 13 => bitOf sr 5
  | _ => bitOf sr 6

/-! ### The MAC slot -/

/-- An exact accumulator result under S (R251): the value written, and whether GOV sets. -/
def narrowAcc (s : Bool) (x : Int) : BitVec 72 × Bool :=
  let out := decide (x < -(2 ^ 71)) || decide (2 ^ 71 ≤ x)
  (BitVec.ofInt 72 (if s then max (-(2 ^ 71)) (min (2 ^ 71 - 1) x) else x), out)

/-- The exact value that ACC names for a term t (R249). -/
def accValue (acc : Nat) (a t : Int) : Int :=
  match acc with
  | 0 => t
  | 1 => a + t
  | 2 => a - t
  | _ => -t

/-- RND1 and RND4 of one accumulator (R252): the word written, and whether NOV sets. -/
def rndAcc (s : Bool) (a : BitVec 72) : Word × Bool :=
  let r := round32 a.toInt
  (w32i (if s then clamp32s r else r), leaves32 r)

/-- The 72-bit value shifted by a signed amount (R249, R251). -/
def shiftAcc (a : BitVec 72) (k : Int) : Int := if k ≥ 0 then a.toInt * 2 ^ k.toNat else a.toInt / 2 ^ (-k).toNat

/-- A real term (R250). -/
def realTerm (a b : Word) : Int := 2 * (a.toInt * b.toInt)

/-- A complex term: real and imaginary parts (R250); `cj` conjugates the second operand. -/
def cplxTerm (cj : Bool) (ar ai br bi : Word) : Int × Int :=
  let b := if cj then -bi.toInt else bi.toInt
  (2 * (ar.toInt * br.toInt - ai.toInt * b), 2 * (ar.toInt * b + ai.toInt * br.toInt))

end Sys2Proof.Machine
end

