-- ==== Sys2Proof/Machine/Operands.lean ====
section
/-! DEFINITION. The operand forms of a bundle: slot words (R240, R245, R249, R253), what makes an encoding illegal
(R265), the eight addressing modes of a memory slot (R246 to R248), the context view (R220), and the window checks of
R266. -/
namespace Sys2Proof.Machine

/-! ### Slot words -/

/-- Bits [15:12] of a CTRL/ALU slot: RB, or the class of MVT and MVF. -/
def aluRb (f : AluF) : Nat := f.low.toNat / 4096

/-- Bits [13:12]: the ring of RLD and RAPP. -/
def aluRing (f : AluF) : Nat := f.low.toNat / 4096 % 4

/-- The 32 bits of a slot as program memory holds them. -/
def Op.word : Op → Word
  | .nop _ => 0
  | .mem op f => w32 (op * 2 ^ 28 + f.size.toNat * 2 ^ 26 + f.reg.toNat * 2 ^ 22 + f.ireg.toNat * 2 ^ 19
      + f.mode.toNat * 2 ^ 16 + f.mreg.toNat * 2 ^ 13 + f.wreg.toNat * 2 ^ 11 + f.ofs.toNat)
  | .mac op f => w32 (op * 2 ^ 27 + f.acc.toNat * 2 ^ 25 + f.s.toNat * 2 ^ 24 + f.cj.toNat * 2 ^ 23
      + f.ra.toNat * 2 ^ 19 + f.rb.toNat * 2 ^ 15 + f.rd.toNat * 2 ^ 11 + f.an.toNat * 2 ^ 9 + f.imm.toNat)
  | .alu op f _ => w32 (op * 2 ^ 26 + f.s.toNat * 2 ^ 25 + f.f.toNat * 2 ^ 24 + f.rd.toNat * 2 ^ 20
      + f.ra.toNat * 2 ^ 16 + f.low.toNat)

/-- The slot that an operation occupies, 0 XMEM, 1 YMEM, 2 MAC, 3 CTRL/ALU (R240). -/
def Op.slot : Op → Nat
  | .nop .xmem => 0
  | .nop .ymem => 1
  | .nop .mac => 2
  | .nop .ctrl => 3
  | .mem _ f => if f.y then 1 else 0
  | .mac _ _ => 2
  | .alu _ _ _ => 3

/-- The bundle word [32k + 31 : 32k] (R240). -/
def bundleWord (ops : List Op) (k : Nat) : Word :=
  match ops.find? fun o => o.slot == k with
  | some o => o.word
  | none => 0

/-! ### Encodings (R265) -/

/-- Access size in bytes. -/
def memBytes (f : MemF) : Nat := 4 * 2 ^ f.size.toNat

/-- A memory slot's fields: SIZE is not 3; REG aligned, and 0 for MOD; each modifier field only in its modes (R245). -/
def memLegal (op : Nat) (f : MemF) : Bool :=
  let m := f.mode.toNat
  decide (f.size.toNat < 3) &&
  (if op = 3 then f.reg == 0 else f.reg.toNat % 2 ^ f.size.toNat == 0) &&
  (f.mreg == 0 || [2, 3, 4, 6].contains m) && (f.wreg == 0 || [4, 5].contains m) && (f.ofs == 0 || m == 7)

/-- A MAC slot's fields (R249): unused ones 0, registers aligned as their operands require. -/
def macLegal (op : Nat) (f : MacF) : Bool :=
  let mul := decide (1 ≤ op) && decide (op ≤ 5)
  (mul || f.acc == 0) && (op != 0x0B || !f.s) && (op == 3 || op == 4 || !f.cj) &&
  (mul || op == 0x0A || f.ra == 0) && (mul || f.rb == 0) && (op == 8 || op == 9 || f.rd == 0) &&
  (match op with
   | 1 | 8 | 0x0A | 0x0C => true
   | 3 => decide (f.an.toNat < 2)
   | _ => f.an == 0) &&
  (match op with
   | 0x0B => decide (f.imm.toNat < 16)
   | 0x0C => decide (f.imm.toNat < 64)
   | _ => f.imm == 0) &&
  (match op with
   | 2 => f.ra.toNat % 4 == 0 && f.rb.toNat % 4 == 0
   | 3 => f.ra.toNat % 2 == 0 && f.rb.toNat % 2 == 0
   | 4 => f.ra.toNat % 4 == 0 && f.rb.toNat % 4 == 0
   | 5 => f.ra.toNat % 4 == 0
   | 9 => f.rd.toNat % 4 == 0
   | _ => true)

/-- S = 1 is honoured by these operations only (R254). -/
def satOp (op : Nat) : Bool := [0x01, 0x02, 0x06, 0x0B, 0x0C, 0x0E, 0x13, 0x14].contains op

/-- An index lies within its class (R253). -/
def classLegal (cls idx : Nat) : Bool :=
  match cls with
  | 0 | 1 => decide (idx < 8)
  | 2 | 3 | 6 => decide (idx < 4)
  | 4 | 5 => idx == 0
  | _ => false

/-- A CTRL/ALU slot's fields (R253, R254). -/
def aluLegal (op : Nat) (f : AluF) : Bool :=
  let low := f.low.toNat
  let rd := f.rd.toNat
  let ra := f.ra.toNat
  (!f.s || satOp op) && (!f.f || decide (op < 0x18)) &&
  (match op with
   | 0x01 | 0x02 | 0x03 | 0x04 | 0x05 | 0x06 | 0x07 | 0x08 | 0x09 | 0x0A | 0x0D | 0x0E => low % 4096 == 0
   | 0x0B | 0x0C | 0x10 => low == 0
   | 0x0F => rd == 0 && low % 4096 == 0
   | 0x11 | 0x12 => ra == 0
   | 0x13 => true
   | 0x14 | 0x15 | 0x16 => decide (low < 32)
   | 0x18 => classLegal (low / 4096) rd && low % 4096 == 0
   | 0x19 => classLegal (low / 4096) ra && low % 4096 == 0
   | 0x1A => ra == 0 && decide (low < 16)
   | 0x1B => rd % 4 == 0 && ra == 0 && low == 0
   | 0x1C => rd % 2 == 0 && decide (low < 4096)
   | 0x1D => decide (low < 16384) && low % 4096 == 0
   | 0x1E => rd == 0 && decide (low < 16384) && low % 4096 == 0
   | 0x20 => rd != 15 && ra == 0 && decide (low < 2048)
   | 0x21 => rd == 0 && ra == 0 && decide (low < 2048)
   | 0x22 => rd == 0 && ra == 0 && low == 0
   | 0x24 => rd == 0 && ra == 0 && decide (low < 1024)
   | 0x25 => rd == 0 && low == 0
   | 0x26 => rd == 0 && low % 64 != 0 && low / 64 % 16 == 0
   | 0x27 => rd == 0 && decide (low < 64) && low != 0
   | 0x28 => rd == 0 && ra % 4 == 0 && low % 4096 == 0 && low / 4096 % 4 == 0
   | _ => false)

/-- The encoding of one operation is legal. -/
def Op.legal : Op → Bool
  | .nop _ => true
  | .mem op f => memLegal op f
  | .mac op f => macLegal op f
  | .alu op f _ => aluLegal op f

/-- D registers that an operation writes. -/
def Op.writesD : Op → List Nat
  | .nop _ => []
  | .mem op f => if op = 1 then (List.range (2 ^ f.size.toNat)).map (f.reg.toNat + ·) else []
  | .mac op f =>
    match op with
    | 8 => [f.rd.toNat]
    | 9 => (List.range 4).map (f.rd.toNat + ·)
    | _ => []
  | .alu op f _ =>
    let rd := f.rd.toNat
    if op = 0x0F then []
    else if op ≤ 0x16 then [rd]
    else if op = 0x19 ∨ op = 0x1A ∨ op = 0x1D then [rd]
    else if op = 0x1B then [rd, rd + 1, rd + 2, rd + 3]
    else if op = 0x1C then [rd, rd + 1]
    else []

/-- I registers that an operation writes. -/
def Op.writesI : Op → List Nat
  | .mem _ f => if f.mode.toNat = 0 ∨ f.mode.toNat = 7 then [] else [f.ireg.toNat]
  | .alu 0x18 f _ => if aluRb f = 0 then [f.rd.toNat] else []
  | _ => []

/-- No number occurs twice. -/
def noRepeat : List Nat → Bool
  | [] => true
  | x :: xs => !xs.contains x && noRepeat xs

/-- The operation is a control operation, 0x20 upward. -/
def Op.control : Op → Bool
  | .alu op _ _ => decide (0x20 ≤ op)
  | _ => false

/-- The operation is a Stock operation. -/
def Op.stock : Op → Bool
  | .alu op _ _ => op == 0x1C || op == 0x1D || op == 0x1E
  | _ => false

/-- The encodings of a bundle are legal, and no two slots write one D or I register (R265). -/
def bundleLegal (ops : List Op) : Bool :=
  ops.all Op.legal && noRepeat (ops.flatMap Op.writesD) && noRepeat (ops.flatMap Op.writesI)

/-! ### Registers of a context -/

def Regs.rd (r : Regs) (n : Nat) : Word := tget 0 r.d (n % 16)
def Regs.ra (r : Regs) (n : Nat) : BitVec 72 := tget 0 r.a n
def Regs.ri (r : Regs) (n : Nat) : BitVec 16 := tget 0 r.i n
def Regs.rm (r : Regs) (n : Nat) : BitVec 16 := tget 0 r.m n
def Regs.rwb (r : Regs) (n : Nat) : BitVec 16 := tget 0 r.wb n
def Regs.rwl (r : Regs) (n : Nat) : BitVec 16 := tget 0 r.wl n
def Regs.rrp (r : Regs) (n : Nat) : Word := tget 0 r.rp n
def Regs.setD (r : Regs) (n : Nat) (w : Word) : Regs := { r with d := tput 0 r.d (n % 16) w }
def Regs.setA (r : Regs) (n : Nat) (w : BitVec 72) : Regs := { r with a := tput 0 r.a n w }
def Regs.setI (r : Regs) (n : Nat) (w : BitVec 16) : Regs := { r with i := tput 0 r.i n w }
def Regs.setRp (r : Regs) (n : Nat) (w : Word) : Regs := { r with rp := tput 0 r.rp n w }

/-! ### Addresses (R246 to R248) -/

/-- A 16-bit number with the order of its bits 15 to 2 reversed. -/
def rev14 (v : Nat) : Nat := (List.range 14).foldl (fun a i => a + v / 2 ^ i % 2 * 2 ^ (13 - i)) 0

/-- The address a memory slot uses. -/
def memAddr (r : Regs) (f : MemF) : Nat :=
  let i := (r.ri f.ireg.toNat).toNat
  if f.mode.toNat = 7 then (((i : Int) + 4 * f.ofs.toInt) % 65536).toNat else i

/-- The address register after the access; `free` stands for a circular step in a window of length 0, for which the
spec states no result. -/
def memNext (r : Regs) (f : MemF) (free : BitVec 16) : BitVec 16 :=
  let i := r.ri f.ireg.toNat
  let m := r.rm f.mreg.toNat
  let circ : Int → BitVec 16 := fun step =>
    let b : Int := (r.rwb f.wreg.toNat).toNat
    let l : Int := (r.rwl f.wreg.toNat).toNat
    if l = 0 then free else BitVec.ofInt 16 (b + ((i.toNat : Int) - b + step) % l)
  match f.mode.toNat with
  | 1 => i + BitVec.ofNat 16 (memBytes f)
  | 2 => i + m
  | 3 => i - m
  | 4 => circ m.toInt
  | 5 => circ ((memBytes f) : Int)
  | 6 => BitVec.ofNat 16 (rev14 ((rev14 (i.toNat / 4) + rev14 (m.toNat / 4)) % 2 ^ 14) * 4 + i.toNat % 4)
  | _ => i

/-- The update would need a window of length 0. -/
def memOpen (r : Regs) (f : MemF) : Bool :=
  (f.mode == 4 || f.mode == 5) && r.rwl f.wreg.toNat == 0

/-- An access in mode 4 or 5 obeys R247. -/
def circOk (r : Regs) (f : MemF) : Bool :=
  let b := (r.rwb f.wreg.toNat).toNat
  let l := (r.rwl f.wreg.toNat).toNat
  let a := memAddr r f
  let z := (memBytes f)
  b % z == 0 && l % z == 0 && b != 0 && l != 0 && decide (b ≤ a) && decide (a < b + l)

/-- The context view allows an access of the slot's size at `a` (R220). -/
def viewOk (y wr : Bool) (a size : Nat) : Bool :=
  let e := a + size
  decide (e ≤ 0x800) || (!wr && decide (0x9000 ≤ a) && decide (e ≤ 0xF000)) ||
    (decide (0xF000 ≤ a) && decide (e ≤ 0x10000) && (!y || !wr))

/-- Offset of the X or Y slice of context c (R219). -/
def sliceOffset (c : Nat) : Nat := if c < 16 then c * 0x800 else 0x8000 + (c - 16) * 0x800

/-- The bus address that context c of spindle n reaches at context address `a` (R220). -/
def viewAddr (n c : Nat) (y : Bool) (a : Nat) : Nat :=
  (if y then yBase n else xBase n) + if a < 0x800 then sliceOffset c + a else a

/-- A memory access of a slot breaks R266. -/
def memViolates (r : Regs) (op : Nat) (f : MemF) : Bool :=
  (op == 1 || op == 2) &&
  (memAddr r f % (memBytes f) != 0 || !viewOk f.y (op == 2) (memAddr r f) (memBytes f) ||
    ((f.mode == 4 || f.mode == 5) && !circOk r f))

/-! ### Stock (R258, R280, R281) -/

/-- The window that a ring pointer names. -/
def rpWin (w : Word) : Nat := fieldOf w 31 24
def rpPos (w : Word) : Nat := fieldOf w 15 0

/-- Entries that window `w` stores: LEN + 16 (R280). -/
def Dev.winL (d : Dev) (w : Nat) : Nat := d.fg (MEM_WIN_B_LEN w) + 16

/-- The window is configured: EN is 1 and its storage lies within the bank that holds BASE (R281). -/
def Dev.winOk (d : Dev) (w : Nat) : Bool :=
  let b := d.fg (MEM_WIN_A_BASE w)
  d.on (MEM_WIN_A_EN w) && decide (b < stockSize) && decide (b % 0x300000 + 4 * d.winL w ≤ 0x300000)

/-- Stock byte offset of entry `p` of window `w`. -/
def Dev.winEntry (d : Dev) (w p : Nat) : Nat := d.fg (MEM_WIN_A_BASE w) + 4 * p

/-- The Stock byte offset that SLD reads: D[RA] + 8 IMM, as an exact sum (R258). -/
def sldAddr (r : Regs) (f : AluF) : Int :=
  ((r.rd f.ra.toNat).toNat : Int) + 8 * signed 12 (f.low.toNat % 4096)

/-- A Stock operation breaks R266; `appended` lists the ring pointers with a RAPP in this sample. -/
def Dev.stockViolates (d : Dev) (r : Regs) (appended : List Nat) (op : Nat) (f : AluF) : Bool :=
  if op = 0x1C then
    let a := sldAddr r f
    decide (a % 8 ≠ 0) || decide (a < 0) || decide ((stockSize : Int) ≤ a)
  else if op = 0x1D ∨ op = 0x1E then
    let w := rpWin (r.rrp (aluRing f))
    let dl := (r.rd f.ra.toNat).toNat
    !d.winOk w || (op == 0x1D && (dl == 0 || decide (d.winL w ≤ dl))) || (op == 0x1E && appended.contains (aluRing f))
  else false

end Sys2Proof.Machine
end

