-- ==== Sys2Proof/Machine/Memory.lean ====
section
/-! DEFINITION. Stock banks, their owners and foreign accesses, error correction and scrubbing, Heartwood (chapter 9). -/
namespace Sys2Proof.Machine

/-- The bank of a Stock byte offset (R268). -/
def bankOf (off : Nat) : Nat := off / 0x300000

/-- The owner of bank `k` now (R270). -/
def Dev.bankCur (d : Dev) (k : Nat) : Nat := d.fg (MEM_BANK_CUR k)

/-- Record a violation of R271: source 55, its counter, and the access. -/
def Dev.violation (d : Dev) (req : Nat) (wr : Bool) (off : Nat) : Dev :=
  ((((d.count MEM_CNT_VIOL).fp MEM_VIOL_REQ req).fp MEM_VIOL_WRITE (if wr then 1 else 0)).fp MEM_VIOL_OFFSET off).raise 55

/-- What a read does that finds `bad` bits in error in the 64-bit word at `off` (R276, R277). -/
def Dev.ecc (d : Dev) (off bad : Nat) : Dev :=
  if bad = 0 then d
  else
    let d := d.fp MEM_ECCADDR_OFFSET (off / 8 * 8)
    if bad = 1 then ((d.fp MEM_ECCADDR_UNCORR 0).count MEM_CNT_CORR).raise 53
    else (d.fp MEM_ECCADDR_UNCORR 1).raise 54

/-- `n` bytes of Stock from `off` as a read with `bad` bits in error returns them (R276, R277). -/
def Dev.stockBytes (d : Dev) (off n bad : Nat) : List Byte :=
  if 2 ≤ bad then List.replicate n 0 else d.rbs (stockBase + off) n

/-- A read by the spindle fabric (R271): the stored value where it owns the bank or SHARE is 1, else 0 and a violation. -/
def Dev.fabricRead (d : Dev) (off n bad : Nat) : Nat × Dev :=
  let k := bankOf off
  if d.bankCur k = 0 ∨ d.on (MEM_BANK_SHARE k) then (leNat (d.stockBytes off n bad), d.ecc off bad)
  else (0, d.violation 0 false off)

/-- Write fewer than 8 bytes of a word as its owner: the read part obeys R276 and R277 (R278). -/
def Dev.rmwWrite (d : Dev) (off bad : Nat) (bs : List Byte) : Dev :=
  let d' := if 2 ≤ bad then d.wbs (stockBase + off / 8 * 8) (List.replicate 8 0) else d
  (d'.wbs (stockBase + off) bs).ecc off bad

/-- A word written by the spindle fabric: foreign writes are discarded as violations (R271). -/
def Dev.fabricWrite (d : Dev) (off bad : Nat) (w : Word) : Dev :=
  if d.bankCur (bankOf off) = 0 then d.rmwWrite off bad (leBytes 4 w.toNat) else d.violation 0 true off

/-- One byte written by the recorder of port n, owner code n + 1 (R271, R336). -/
def Dev.recWriteByte (d : Dev) (n off : Nat) (b : Byte) : Dev :=
  if d.bankCur (bankOf off) = n + 1 ∧ off < stockSize then d.wb (stockBase + off) b else d.violation (n + 1) true off

/-! ### Handover (R272 to R275) -/

/-- Two half-open ranges meet. -/
def meets (a n b m : Nat) : Bool := decide (a < b + m) && decide (b < a + n) && n != 0 && m != 0

/-- LEN of the voice-input ring of port n in entries (R328). -/
def Dev.vinLen (d : Dev) (n : Nat) : Nat :=
  let l := d.fg (SAP_VIN_LENSEL n)
  if l = 0 then 2 ^ 16 else 2 ^ l

/-- The recorder of port n runs into bank k (R329, R336). -/
def Dev.recInto (d : Dev) (n k : Nat) : Bool :=
  ((d.port n).recRun && bankOf (d.fg (SAP_REC_PTR_VALUE n)) == k) ||
  ((List.range 32).any fun c => d.on (SAP_RXMAP_EN n c) && d.on (SAP_RXMAP_VIN n c) &&
    meets (d.fg (SAP_VIN_BASE n) + 8 * c * d.vinLen n) (8 * d.vinLen n) (k * 0x300000) 0x300000)

/-- Bank k is idle for its owner (R274). -/
def Dev.bankIdle (d : Dev) (k : Nat) : Bool :=
  match d.bankCur k with
  | 0 => (List.range 256).all fun n => !d.on (MEM_WIN_A_EN n) ||
      !meets (d.fg (MEM_WIN_A_BASE n)) (4 * d.winL n) (k * 0x300000) 0x300000
  | 1 => !d.recInto 0 k
  | 2 => !d.recInto 1 k
  | 3 => !d.recInto 2 k
  | 4 => !d.recInto 3 k
  | 7 => d.nvj.queue.isEmpty
  | _ => true

/-- Give bank k to `o`: CUR and OWNER together (R273). -/
def Dev.giveBank (d : Dev) (k o : Nat) : Dev := (d.fp (MEM_BANK_CUR k) o).fp (MEM_BANK_OWNER k) o

/-- BANK_HANDOVER: a write of OWNER (R272, R273). In CHUCK it is only recorded. -/
def bankHandover (k owner : Nat) (d : Dev) : Dev :=
  if 16 ≤ k ∨ 8 ≤ owner ∨ owner = 5 then d
  else if d.pwr.mode = .chuck then d.fp (MEM_BANK_OWNER k) owner
  else if owner = d.bankCur k then d
  else if d.bankIdle k then d.giveBank k owner
  else (d.fp (MEM_BANK_REFUSED k) 1).count MEM_CNT_REFUSED

/-! ### The scrubber (R279) -/

/-- SCRUB_READ: the next word in ascending order, with `bad` bits in error. -/
def scrubRead (bad : Nat) (d : Dev) : Dev :=
  if d.on MEM_SCRUB_EN && !d.pwr.frozen && (d.pwr.mode == .run || (d.pwr.mode == .rest && !d.pwr.cold)) then
    let off := d.scrubAt
    let next := off + 8
    let d := if next < stockSize then { d with scrubAt := next } else { d with scrubAt := 0 }.count MEM_STAT_PASSES
    d.ecc off bad
  else d

/-! ### Heartwood (R285 to R288) -/

/-- Bytes 0x0000 to 0x00BF as the fuses give them (R285). -/
def Dev.fuseBytes (d : Dev) : List Byte :=
  ((List.range 16).map fun i => Config.deviceUid i) ++
  leBytes 4 (d.fuses.lcs + 256 * d.fuses.lcChanges) ++ leBytes 4 d.fuses.minVer ++
  leBytes 4 (d.fuses.revoked.foldl (fun a k => a ||| 2 ^ k) 0) ++ leBytes 4 0 ++
  ((List.range 4).flatMap fun k => (tget [] d.fuses.hash k ++ List.replicate 32 0).take 32) ++ List.replicate 32 0

/-- Fill bytes 0x0000 to 0x00BF from the fuses, and show the life-cycle state (R285). -/
def Dev.fillHeartwood (d : Dev) : Dev := (d.wbs hwBase d.fuseBytes).fp MEM_HW_LCS d.fuses.lcs

/-- Zero-fill all of Heartwood. -/
def Dev.clearHeartwood (d : Dev) : Dev :=
  { d with mem := d.mem.filter fun p => !(decide (hwBase ≤ p.1) && decide (p.1 < hwBase + 0x10000)) }

/-- Heartwood has its power: not in SHELF (R287). -/
def Dev.hwPowered (d : Dev) : Bool := !(d.pwr.mode == .shelf)

/-- Wipe Heartwood with a cause of R286; the refill is HEARTWOOD_REFILL. In CHUCK after the header step the boot counts
it (R288). -/
def Dev.wipe (d : Dev) (cause : Nat) : Dev :=
  let d := d.clearHeartwood
  let d := (d.fp MEM_HW_CAUSE cause).fp MEM_HW_WIPING 1
  match d.pwr.boot with
  | some b =>
    match b.step with
    | .clocks | .probe | .ptable | .slot | .header => d
    | _ => { d with pwr := { d.pwr with boot := some { b with wipes := b.wipes + 1 } } }
  | none => d

/-- TAMPER (R286). -/
def tamper (d : Dev) : Dev :=
  let d := { d with pins := { d.pins with tamperLow := true } }
  if d.hwPowered then (d.wipe 1).raise 58 else d

/-- VOLTAGE_GLITCH (R286, R517). -/
def voltageGlitch (d : Dev) : Dev := if d.hwPowered then (d.wipe 2).raise 58 else d

/-- CLOCK_GLITCH (R286, R517). -/
def clockGlitch (d : Dev) : Dev := if d.hwPowered then (d.wipe 3).raise 58 else d

/-- HEARTWOOD_REFILL (R286): withheld while TAMPER_N stays low. -/
def heartwoodRefill (tamperHigh : Bool) (d : Dev) : Dev :=
  let d := { d with pins := { d.pins with tamperLow := !tamperHigh } }
  if tamperHigh && d.on MEM_HW_WIPING then (d.fillHeartwood).fp MEM_HW_WIPING 0 else d

/-! ### Meanings -/

def execBankHandover (k owner : Nat) (s : State) : Host.Outcome State Fault Refusal := done s (s.dev.heard (bankHandover k owner))
def execScrubRead (bad : Nat) (s : State) : Host.Outcome State Fault Refusal := done s (scrubRead bad s.dev)
def execTamper (s : State) : Host.Outcome State Fault Refusal := done s (tamper s.dev)
def execVoltageGlitch (s : State) : Host.Outcome State Fault Refusal := done s (voltageGlitch s.dev)
def execClockGlitch (s : State) : Host.Outcome State Fault Refusal := done s (clockGlitch s.dev)
def execHeartwoodRefill (tamperHigh : Bool) (s : State) : Host.Outcome State Fault Refusal :=
  done s (heartwoodRefill tamperHigh s.dev)

end Sys2Proof.Machine
end

