-- ==== Sys2Proof/Machine/Mix.lean ====
section
/-! DEFINITION. Mix buses, decimation, sync and the PDM control path (chapter 10). -/
namespace Sys2Proof.Machine

/-! ### Bus sums (R138, R292, R293) -/

/-- Key of bus `b` at sample `s` in the tables by sample and bus. -/
def busKey (s : Word) (b : Nat) : Nat := s.toNat * 64 + b

/-- Clamp to a signed 32-bit value (R294, R299). -/
def clamp32 (v : Int) : Int := max (-2147483648) (min 2147483647 v)

/-- The contribution of one side of one send: (x G) >> 23 as a 40-bit number (R293). -/
def contrib (x : Word) (g : Word) : BitVec 40 :=
  BitVec.ofInt 40 (x.toInt * (min (g.toNat % 2 ^ 24) 0x800000 : Nat) / 2 ^ 23)

/-- Add `x` to the speculative sum of bus `b` at sample `s`, modulo 2^40 (R138). -/
def Dev.addBus (d : Dev) (s : Word) (b : Nat) (x : BitVec 40) : Dev :=
  { d with eng := { d.eng with bus := tput 0 d.eng.bus (busKey s b) (tget 0 d.eng.bus (busKey s b) + x) } }

/-- Add or take away what a stored send contributes at sample `s` (R138, R293): each active send to its bus pair. -/
def Dev.addSend (d : Dev) (s : Word) (x : Send) (sign : Bool) : Dev :=
  each (List.range 4) (fun k d =>
    if bitOf x.map (8 * k + 7) then
      let b := fieldOf x.map (8 * k + 5) (8 * k) / 2 * 2
      let g := x.g.getD k 0
      let l := contrib x.l g
      let r := contrib x.r g
      (d.addBus s b (if sign then l else -l)).addBus s (b + 1) (if sign then r else -r)
    else d) d

/-! ### The decimation cascade (R297 to R304) -/

/-- K, the number of stages (R297). -/
def Dev.stages (d : Dev) : Nat := d.fg MIX_RATE_OSF

/-- Stages a bus passes (R298). -/
def Dev.busStages (d : Dev) (b : Nat) : Nat := min (d.fg (MIX_BUS_CFG_STAGES b)) d.stages

/-- Tap count of bank `bank` (0 A, 1 B) of stage k + 1 (R302). -/
def Dev.ntap (d : Dev) (k bank : Nat) : Nat :=
  if bank = 0 then d.fg (MIX_DEC_CFG_NTAPA k) else d.fg (MIX_DEC_CFG_NTAPB k)

/-- The bank in force of stage k + 1 (R304). -/
def Dev.bank (d : Dev) (k : Nat) : Nat := tget 0 d.mix.act k

/-- Coefficient i of a bank, signed Q1.23. -/
def Dev.coef (d : Dev) (k bank i : Nat) : Int :=
  if bank = 0 then d.fs (MIX_DEC_COEFA_COEF k i) else d.fs (MIX_DEC_COEFB_COEF k i)

/-- Division by 2^n with ties to even (R299, R318). -/
def convergent (v : Int) (n : Nat) : Int :=
  let q := v / 2 ^ n
  let r := v % 2 ^ n
  if 2 * r < 2 ^ n then q else if 2 * r > 2 ^ n then q + 1 else if q % 2 = 0 then q else q + 1

/-- The symmetric FIR of stage k + 1 over a history, newest first, before its clamp (R299). -/
def Dev.fir (d : Dev) (k : Nat) (h : List Word) : Int :=
  let bank := d.bank k
  let n := d.ntap k bank
  convergent ((List.range n).foldl (fun (a : Int) i => a + d.coef k bank (min i (n - 1 - i)) * (h.getD i 0).toInt) 0) 23

/-- Group delay of stage k + 1 in VS (R301). -/
def Dev.stageDelay (d : Dev) (k : Nat) : Nat := (d.ntap k (d.bank k) - 1) / 2 * 2 ^ k

/-- Recompute MIX_DOUT for the banks in force, and with it the CV lag (R121, R301, R341, R342). -/
def Dev.setDout (d : Dev) : Dev :=
  let k := d.stages
  let g0 := if k ≥ 1 then d.stageDelay 0 else 0
  let g1 := if k ≥ 2 then d.stageDelay 1 else 0
  let o := g0 + g1 + d.osf
  let div := max 1 (d.fg CVO_CLK_CVDIV)
  let lag := min (div * ((o + div - 1) / div)) (31 * div)
  ((((d.fp MIX_DOUT_GD0 g0).fp MIX_DOUT_GD1 g1).fp MIX_DOUT_DOUT o).fp CVO_STAT_LAG lag).fp CVO_STAT_SKEW
    (if lag = o then 0 else 1)

/-- The history of bus b before stage k + 1, newest first. -/
def Dev.busHist (d : Dev) (b k : Nat) : List Word := tget [] d.mix.hist (2 * b + k)

/-- Take a sample into the history of bus b before stage k + 1: the last 63 are kept (R299). -/
def Dev.pushHist (d : Dev) (b k : Nat) (x : Word) : Dev :=
  { d with mix := { d.mix with hist := tput [] d.mix.hist (2 * b + k) ((x :: d.busHist b k).take 63) } }

/-- The settling counter of bus b, stage k + 1 (R307). -/
def unsFld (b k : Nat) : Fld := if k = 0 then MIX_BUS_STATUS_UNS0 b else MIX_BUS_STATUS_UNS1 b

/-- Show in MIX_UNS whether bus b is unsettled (R307). -/
def Dev.showUns (d : Dev) (b : Nat) : Dev :=
  if d.fg (unsFld b 0) + d.fg (unsFld b 1) = 0 then d.clrBit (rMIX_UNS (b / 32)) (b % 32)
  else d.setBit (rMIX_UNS (b / 32)) (b % 32)

/-- Load the settling counters of bus b for the stages it uses (R307). -/
def Dev.loadUns (d : Dev) (b : Nat) : Dev :=
  (each (List.range (d.busStages b)) (fun k d => d.fp (unsFld b k) ((d.ntap k (d.bank k) - 1) / 2)) d).showUns b

/-- One output of stage k + 1 for bus b at sample `s` (R299, R304, R307): the value clamped and counted, the counter
decremented; the last counter to reach 0 marks the bus settled for R308. -/
def Dev.stageOut (d : Dev) (b k : Nat) : Word × Dev :=
  let v := d.fir k (d.busHist b k)
  let d := if clamp32 v = v then d else d.count (MIX_BUS_STATUS_CLIP b)
  let u := d.fg (unsFld b k)
  let d := d.fp (unsFld b k) (u - 1)
  let last := u = 1 ∧ d.fg (unsFld b (1 - k)) = 0
  let d := if last then { d with mix := { d.mix with settled := true } } else d
  (w32i (clamp32 v), d.showUns b)

/-- Take the bank named by the live ACTIVE into force at the first output of stage k + 1 on or after the commit's sample,
and load that counter in every bus that uses the stage (R304, R307). -/
def Dev.takeBank (d : Dev) (k : Nat) : Dev :=
  let a := d.fg (MIX_DEC_CFG_ACTIVE k)
  if d.bank k = a then d else
    let d := { d with mix := { d.mix with act := tput 0 d.mix.act k a } }
    let d := each ((List.range 64).filter fun b => decide (k < d.busStages b)) (fun b d =>
      (d.fp (unsFld b k) ((d.ntap k a - 1) / 2)).showUns b) d
    d.setDout

/-- The bus's extra delay when it uses fewer stages than K, in bus samples (R301). -/
def Dev.extraDelay (d : Dev) (b : Nat) : Nat :=
  let e := d.busStages b
  ((if e < 1 ∧ 1 ≤ d.stages then d.stageDelay 0 else 0) + (if e < 2 ∧ 2 ≤ d.stages then d.stageDelay 1 else 0)
    + (d.osf - 2 ^ e)) / 2 ^ e

/-- A finished bus output: through the extra delay, then kept under the sample of the bus grid that it represents
(R301, R309; log entry 24). -/
def Dev.busOut (d : Dev) (b : Nat) (s : Word) (x : Word) : Dev :=
  let n := d.extraDelay b
  let q := tget [] d.mix.delay b ++ [x]
  let y := if q.length > n then q.headD 0 else 0
  let q := if q.length > n then q.drop (q.length - n) else q
  let p := 2 ^ d.busStages b
  let c := s - w32 (d.fg MIX_DOUT_DOUT) + w32 p
  let rel := later c d.mix.osBase
  let lab := c - w32i (rel % (p : Int))
  { d with mix := { d.mix with delay := tput [] d.mix.delay b q, outs := tput 0 d.mix.outs (busKey lab b) y } }

/-- Feed one committed sample of bus b at voice sample `s` through the stages it uses (R299, R300). -/
def Dev.decimate (d : Dev) (b : Nat) (s : Word) (x : Word) : Dev :=
  let rel := later s d.mix.osBase
  match d.busStages b with
  | 0 => d.busOut b s x
  | e + 1 =>
    let d := d.pushHist b 0 x
    if rel % 2 ≠ 1 then d else
      let r := d.stageOut b 0
      if e = 0 then r.2.busOut b s r.1 else
        let d := r.2.pushHist b 1 r.1
        if rel % 4 ≠ 3 then d else
          let r := d.stageOut b 1
          r.2.busOut b s r.1

/-- A bus with EN = 0: its history stays zero and it delivers 0 (R296). -/
def Dev.busOff (d : Dev) (b : Nat) : Dev :=
  { d with mix := { d.mix with hist := tput [] (tput [] d.mix.hist (2 * b) []) (2 * b + 1) [],
                               delay := tput [] d.mix.delay b [] } }

/-- The committed 40-bit value of bus b for sample `s` (steps 1 to 3 of R294): speculative sum, partial sums of the
downstream links, inputs routed to the bus. -/
def Dev.busSum (d : Dev) (s : Word) (b : Nat) (down : Tbl (BitVec 40)) : BitVec 40 :=
  tget 0 d.eng.bus (busKey s b) + tget 0 down b + tget 0 d.mix.direct (busKey s b)

/-- Step 4 of R294 and the cascade for bus b at sample `s`, where a member commits what it holds for its depth first
(R381), and `fade` is the gain of a member that lost its head (R393). -/
def Dev.commitBus (d : Dev) (s : Word) (down : Tbl (BitVec 40)) (fade : Option Nat) (b : Nat) : Dev :=
  let v0 := (d.busSum s b down).toInt
  let v := match fade with
    | some g => v0 * (g : Int) / 2 ^ 23
    | none => v0
  let d := if clamp32 v = v then d else d.count (MIX_BUS_STATUS_CLIP b)
  let x := w32i (clamp32 v)
  let s' := s - w32 d.depth
  let x' := if d.depth = 0 then x else tget 0 d.mix.raw (busKey s' b)
  let d := if d.depth = 0 then d else
    { d with mix := { d.mix with raw := tput 0 (tput 0 d.mix.raw (busKey s' b) 0) (busKey s b) x } }
  if d.on (MIX_BUS_CFG_EN b) then d.decimate b s' x' else d.busOff b

/-- Sums and inputs of a sample that has passed C are gone. -/
def Dev.dropBus (d : Dev) (s : Word) : Dev :=
  let keep := fun (p : Nat × BitVec 40) => p.1 / 64 != s.toNat
  { d with eng := { d.eng with bus := d.eng.bus.filter keep },
           mix := { d.mix with direct := d.mix.direct.filter keep } }

/-- The first samples of each stage period at C: banks named by a commit come into force (R304). -/
def Dev.takeBanks (d : Dev) : Dev := each (List.range d.stages) (fun k d => d.takeBank k) d

/-- BUS_SAMPLE_COMMIT and DECIMATOR_OUTPUT for sample `s` (R294, R295, R300): every bus that is not sent upstream. -/
def Dev.commitBuses (d : Dev) (s : Word) (down : Tbl (BitVec 40)) (fade : Option Nat) : Dev :=
  (each ((List.range 64).filter fun b => !(d.isMember && d.on (MIX_BUS_CFG_UP b)))
    (fun b d => d.commitBus s down fade b) d.takeBanks).dropBus s

/-- The output index of content sample `s` for a receiver whose frames last `step` VS (R321). -/
def Dev.idxAt (d : Dev) (s : Word) (step : Nat) : Nat :=
  ((d.mix.oBase : Int) + later s d.mix.osBase / (step : Int)).toNat

/-- s(o) for frames of `step` VS (R321). -/
def Dev.sampleAt (d : Dev) (o step : Nat) : Word := d.mix.osBase + w32i (((o : Int) - d.mix.oBase) * step)

/-- The output of bus b for content sample `s`; 0 where there is none (R296). -/
def Dev.busOutAt (d : Dev) (b : Nat) (s : Word) : Word := tget 0 d.mix.outs (busKey s b)

/-- Outputs whose content sample has passed the output point by more than 512 samples are dropped. -/
def Dev.pruneOuts (d : Dev) : Dev :=
  { d with mix := { d.mix with outs := d.mix.outs.filter fun p => decide (later (w32 (p.1 / 64)) d.eng.c > -1024) } }

/-! ### Sync and settling (R305 to R308) -/

/-- Register a sync request (R305): the sync sample is at least 1 VS later; requests before it act as one (R306). -/
def Dev.requestSync (d : Dev) : Dev :=
  if d.mix.syncWait.isSome then d else { d with mix := { d.mix with syncWait := some 1 } }

/-- DSYNC: an edge of the polarity DSPOL names requests a sync while DSEN is 1 (R305). -/
def dsync (rising : Bool) (d : Dev) : Dev :=
  if d.on MIX_CTRL_DSEN && (rising == !(d.on MIX_CTRL_DSPOL)) then d.requestSync else d

/-- The sync sample is at C: on the OS grid, and the request has waited its VS (R305). -/
def Dev.syncDue (d : Dev) : Bool :=
  d.running && d.mix.syncWait == some 0 && decide (later d.eng.c d.mix.osBase % (d.osf : Int) = 0)

/-- The three actions of R305 at s_y = C, and its record; with F = 1 only the record. CV ticks count from here (R340). -/
def Dev.syncNow (d : Dev) : Dev :=
  let s := d.eng.c
  let d := (d.setReg rMIX_SYNCT (d.tau s))
  let d := { d with mix := { d.mix with syncWait := none }, cv := { d.cv with origin := s } }
  if d.osf = 1 then d else
    let d := d.takeBanks
    each ((List.range 64).filter fun b => d.on (MIX_BUS_CFG_EN b)) (fun b d => (d.busOff b).loadUns b) d

/-- SYNC_SAMPLE (R305). -/
def syncSample (d : Dev) : Dev := if d.syncDue then d.syncNow else d

/-- DECIMATOR_SETTLED (R308): source 52 once for the output at which counters reached 0. -/
def decimatorSettled (d : Dev) : Dev :=
  if d.mix.settled then { d with mix := { d.mix with settled := false } }.raise 52 else d

/-- MIX_SYNC: a write of MIX_CTRL; SYNC = 1 requests a sync beside the RW fields (R305, R314). -/
def mixSync (v : Word) (d : Dev) : Dev :=
  let d := (d.fp MIX_CTRL_DSPOL (fieldOf v 2 2)).fp MIX_CTRL_DSEN (fieldOf v 1 1)
  if bitOf v 0 then d.requestSync else d

/-! ### Coefficient banks (R302, R303) -/

/-- A bank is closed to writes: RUN or REST, and the live ACTIVE or that of a pending commit names it (R303). -/
def Dev.bankLocked (d : Dev) (k bank : Nat) : Bool :=
  (d.pwr.mode == .run || d.pwr.mode == .rest) &&
  (d.fg (MIX_DEC_CFG_ACTIVE k) == bank ||
    match d.stg.buffer with
    | some b =>
      match tfind b (rMIX_DEC_CFG k) with
      | some w => fieldOf w 16 16 == bank
      | none => false
    | none => false)

/-- An NTAP value the table allows. -/
def ntapOk (n : Nat) : Bool := decide (n % 2 = 1) && decide (15 ≤ n) && decide (n ≤ 63)

/-- A write to NTAP of a bank (R302, R303): the FILL bits clear where the value changes. -/
def Dev.writeNtap (d : Dev) (k bank n : Nat) : Dev :=
  if !ntapOk n || n == d.ntap k bank then d
  else if d.bankLocked k bank then d.fp (MIX_DEC_CFG_WIGN k) 1
  else if bank = 0 then (d.fp (MIX_DEC_CFG_NTAPA k) n).setReg (rMIX_DEC_FILLA k) 0
  else (d.fp (MIX_DEC_CFG_NTAPB k) n).setReg (rMIX_DEC_FILLB k) 0

/-- A write of coefficient i of a bank (R302, R303). -/
def Dev.writeCoef (d : Dev) (k bank i : Nat) (v : Word) : Dev :=
  if d.bankLocked k bank then d.fp (MIX_DEC_CFG_WIGN k) 1
  else if bank = 0 then (d.fp (MIX_DEC_COEFA_COEF k i) v.toNat).setBit (rMIX_DEC_FILLA k) i
  else (d.fp (MIX_DEC_COEFB_COEF k i) v.toNat).setBit (rMIX_DEC_FILLB k) i

/-- COEFFICIENT_WRITE: a write of a decimator's NTAP or coefficients (R302, R303). Other addresses are not its own. -/
def coefficientWrite (addr value : Word) (d : Dev) : Dev :=
  let a := addr.toNat / 4 * 4
  each (List.range 2) (fun k d =>
    if a = rMIX_DEC_CFG k then
      let d := if bitOf value 31 then d.fp (MIX_DEC_CFG_WIGN k) 0 else d
      (d.writeNtap k 0 (fieldOf value 5 0)).writeNtap k 1 (fieldOf value 13 8)
    else if rMIX_DEC_COEFA k 0 ≤ a ∧ a < rMIX_DEC_COEFA k 0 + 128 then d.writeCoef k 0 ((a - rMIX_DEC_COEFA k 0) / 4) value
    else if rMIX_DEC_COEFB k 0 ≤ a ∧ a < rMIX_DEC_COEFB k 0 + 128 then d.writeCoef k 1 ((a - rMIX_DEC_COEFB k 0) / 4) value
    else d) d

/-- The bank of stage k + 1 is complete (R302). -/
def Dev.bankFull (d : Dev) (k bank ntap : Nat) : Bool :=
  let f := if bank = 0 then d.reg (rMIX_DEC_FILLA k) else d.reg (rMIX_DEC_FILLB k)
  ntapOk ntap && (List.range ((ntap - 1) / 2 + 1)).all fun i => bitOf f i

/-! ### The PDM path (R310 to R313, R346) -/

/-- A 36-bit wrapping sum. -/
def wrap36 (v : Int) : Int := signed 36 (v % 2 ^ 36).toNat

/-- Four integrators over one bit (R311). -/
def cicIn (st : List Int) (bit : Bool) : List Int :=
  let i0 := wrap36 (st.getD 0 0 + if bit then 1 else -1)
  let i1 := wrap36 (st.getD 1 0 + i0)
  let i2 := wrap36 (st.getD 2 0 + i1)
  let i3 := wrap36 (st.getD 3 0 + i2)
  [i0, i1, i2, i3] ++ st.drop 4

/-- Four combs at a control sample (R311): the output and the state. -/
def cicOut (st : List Int) : Int × List Int :=
  let x0 := st.getD 3 0
  let x1 := wrap36 (x0 - st.getD 4 0)
  let x2 := wrap36 (x1 - st.getD 5 0)
  let x3 := wrap36 (x2 - st.getD 6 0)
  let x4 := wrap36 (x3 - st.getD 7 0)
  (x4, st.take 4 ++ [x0, x1, x2, x3])

/-- PDM_CLK in periods of 10^-9 s as a ratio: ns of `n` periods is n × 10^9 × DIV / APLL, to the nearest (R310). -/
def Dev.pdmNs (d : Dev) (n8 : Nat) : Int :=
  let apll := if d.on SYS_APLL_FAMILY then 90316800 else 98304000
  roundDiv ((n8 * 1000000000 * d.fg MIX_PDM_CFG_DIV : Nat) : Int) (8 * apll)

/-- The PDM path runs: EN in RUN or REST-WARM (R310). -/
def Dev.pdmOn (d : Dev) : Bool :=
  d.on MIX_PDM_CFG_EN && !d.pwr.frozen && (d.pwr.mode == .run || (d.pwr.mode == .rest && !d.pwr.cold))

/-- The controller event of R346 for a control sample of channel k, read every 2^EVR-th time. -/
def Dev.pdmEvent (d : Dev) (k : Nat) (v : Int) (stamp : Word) : Dev :=
  if !d.on (CVO_PDMMAP_EN k) then { d with mix := { d.mix with pdmSeen := d.mix.pdmSeen.filter (· != k) } } else
    let n := tget 0 d.mix.pdmReads k
    let first := !d.mix.pdmSeen.contains k
    let d := { d with mix := { d.mix with
      pdmReads := tput 0 d.mix.pdmReads k ((n + 1) % 2 ^ d.fg (CVO_PDMMAP_EVR k)),
      pdmSeen := if first then k :: d.mix.pdmSeen else d.mix.pdmSeen } }
    let moved := decide (((v - tget 0 d.mix.pdmLast k).natAbs : Int) ≥ (d.fg (CVO_PDMMAP_HYST k) * 2 ^ 24 : Nat))
    if (n = 0 ∨ first) ∧ (first ∨ moved) then
      let d := { d with mix := { d.mix with pdmLast := tput 0 d.mix.pdmLast k v } }
      d.post 8 (Msg.ofPart 0x10 (d.fg (CVO_PDMMAP_PART k)) 0 0 (w32i v ^^^ 0x80000000).toNat (d.fg (CVO_PDMMAP_CC k))
        (stamp + w32 (d.fg CVO_PDMCFG_OFS * 1000)))
    else d

/-- PDM_CONTROL_SAMPLE (R311 to R313, R346): channel k's bits of one control period, then its comb sample. -/
def pdmControlSample (k : Nat) (bits : List Bool) (d : Dev) : Dev :=
  if !d.pdmOn || decide (8 ≤ k) then d else
    let r := cicOut (bits.foldl cicIn (tget [] d.mix.pdm k))
    let e : Int := 31 - 4 * (5 + (d.fg MIX_PDM_CFG_RSEL : Int))
    let v := if e ≥ 0 then r.1 * 2 ^ e.toNat else r.1 / 2 ^ (-e).toNat
    let c := clamp32 v
    let ratio := 2 ^ (5 + d.fg MIX_PDM_CFG_RSEL)
    let stamp := d.now - w32i (d.pdmNs (16 * (ratio - 1)))
    let d := { d with mix := { d.mix with pdm := tput [] d.mix.pdm k r.2 } }
    let d := d.setReg (rMIX_PDM_VAL k) (w32i c)
    let d := if k = 0 then d.setReg rMIX_PDM_TIME stamp else d
    let d := if c = v then d else (d.setBit rMIX_PDM_STAT k).raise 51
    let st := if k = 0 then stamp else d.reg rMIX_PDM_TIME + w32i (d.pdmNs (k * ratio))
    d.pdmEvent k c st

/-! ### Meanings -/

def execDsync (rising : Bool) (s : State) : Host.Outcome State Fault Refusal := done s (dsync rising s.dev)
def execMixSync (v : Word) (s : State) : Host.Outcome State Fault Refusal := done s (s.dev.heard (mixSync v))
def execSyncSample (s : State) : Host.Outcome State Fault Refusal := done s (syncSample s.dev)
def execDecimatorSettled (s : State) : Host.Outcome State Fault Refusal := done s (decimatorSettled s.dev)
def execCoefficientWrite (addr value : Word) (s : State) : Host.Outcome State Fault Refusal :=
  done s (s.dev.heard (coefficientWrite addr value))
def execPdmControlSample (k : Nat) (bits : List Bool) (s : State) : Host.Outcome State Fault Refusal :=
  done s (pdmControlSample k bits s.dev)

end Sys2Proof.Machine
end

