-- ==== Sys2Proof/Machine/Engine.lean ====
section
/-! DEFINITION. Contexts and what happens to them: the order of events (R88), the state classes of a voice and how events
change them (R95, R100, R148), the event log (R130), checkpoints (R127 to R129), the send ring (R138), the steal (R158 to
R160), and the start and end of a rendered sample (R174, R229, R244, R262). -/
namespace Sys2Proof.Machine

/-! ### The order of events (R87, R88) -/

/-- Signed 16-bit difference of two arrival sequences. -/
def seqLater (a b : Nat) : Int := signed 16 ((a + 0x10000 - b % 0x10000) % 0x10000)

/-- Record `a` is applied before record `b` at one sample (R88): stamp, then the source (the device of origin in a chain),
then the sequence. -/
def Dev.recBefore (d : Dev) (a b : EvRec) : Bool :=
  let x := later a.stamp b.stamp
  if x < 0 then true else if x > 0 then false
  else
    let (p, q) := if d.isMember || d.hasMembers then (a.devid, b.devid) else (a.src, b.src)
    if p < q then true else if q < p then false else decide (seqLater a.seq b.seq < 0)

/-- An event at sample s with record a is applied before one at sample t with record b. -/
def Dev.evBefore (d : Dev) (s : Word) (a : EvRec) (t : Word) (b : EvRec) : Bool :=
  if later s t < 0 then true else if later s t > 0 then false else d.recBefore a b

/-! ### Channel values (R95, R102, R206) -/

/-- What of a channel's values a key of `Note.base` names: 0 to 127 a controller, 128 channel pressure, 129 bend, 130
program and 131 bank (channel 0 of the part), 133 sample of the last program change, 134 and on the tempo tracker. -/
def chanKey (part chan what : Nat) : Nat := (part * 16 + chan) * 256 + what

/-- The value an applied entry gives to `what` of (part, chan), if it gives one. -/
def chanEffect (part chan what : Nat) (e : PipeEnt) : Option Nat :=
  if !e.applied || e.ev.part != part then none
  else match e.ev.kind with
    | 0x10 => if e.ev.chan = chan ∧ e.ev.index = what then some e.ev.value.toNat else none
    | 0x11 => if e.ev.chan = chan ∧ what = 128 then some e.ev.value.toNat else none
    | 0x12 => if e.ev.chan = chan ∧ what = 129 then some e.ev.value.toNat else none
    | 0x13 =>
      if what = 130 then some e.ev.index
      else if what = 131 then some (e.ev.value.toNat % 2 ^ 14)
      else if what = 133 then some e.sample.toNat else none
    | 0x18 =>
      if e.ev.chan = chan ∧ ((1 ≤ what ∧ what ≤ 95) ∨ what = 128 ∨ what = 129) then some 0 else none
    | _ => none

/-- The value of `what` of (part, chan) just before an event (s, r): the last applied entry before it, else what had
passed C. -/
def Dev.chanAt (d : Dev) (part chan what : Nat) (s : Word) (r : EvRec) : Nat :=
  (d.note.pipe.foldl (fun (acc : Option (PipeEnt × Nat)) e =>
    match chanEffect part chan what e with
    | none => acc
    | some v =>
      if !d.evBefore e.sample e.ev s r then acc
      else match acc with
        | none => some (e, v)
        | some (f, w) => if d.evBefore f.sample f.ev e.sample e.ev then some (e, v) else some (f, w)) none).elim
    (tget 0 d.note.base (chanKey part chan what)) (·.2)

/-- A record that stands after every event of its sample. -/
def recLast (s : Word) : EvRec :=
  { stamp := s + 0x7FFFFFFF, kind := 0, attr := false, key := 0, part := 0, late := false, chan := 0, src := 15, value := 0,
    seq := 0, devid := 255, index := 0 }

/-- The value of `what` of (part, chan) at sample s, all its events applied. -/
def Dev.chanNow (d : Dev) (part chan what : Nat) (s : Word) : Nat :=
  d.chanAt part chan what (s + 1) { recLast s with stamp := d.tau s }

/-! ### Live ranges and zones (R95, R103 to R105, R523) -/

/-- The latest entry of the history for (what, part, chan) at or before stamp t. -/
def Dev.histAt (d : Dev) (what part chan : Nat) (t : Word) : Option Nat :=
  (d.note.hist.foldl (fun (a : Option Hist) h =>
    if h.what == what && h.part == part && h.chan == chan && decide (later t h.stamp ≥ 0) then
      match a with
      | none => some h
      | some g => if later h.stamp g.stamp ≥ 0 then some h else a
    else a) none).map (·.value)

/-- The bend range of a channel of a part for stamp t (R95, R523). -/
def Dev.bendRange (d : Dev) (p c : Nat) (t : Word) : Nat := (d.histAt 0 p c t).getD (d.fgAt (NOTE_PART_MODE_BEND p) t)

/-- The member bend range of a zone for stamp t (R104). -/
def Dev.memberRange (d : Dev) (p : Nat) (t : Word) : Nat := (d.histAt 1 p 0 t).getD (d.fgAt (NOTE_PART_MPE_MBR_BEND p) t)

/-- The live member count of a zone for stamp t (R105). -/
def Dev.liveCount (d : Dev) (p : Nat) (t : Word) : Nat := (d.histAt 2 p 0 t).getD (d.fgAt (NOTE_PART_MPE_MEMBERS p) t)

/-- The part is an MPE part for stamp t; a live count of 0 turns the zone off (R103, R105). -/
def Dev.mpeOn (d : Dev) (p : Nat) (t : Word) : Bool := d.fgAt (NOTE_PART_MPE_ZONE p) t != 0 && d.liveCount p t != 0

/-- The master channel of the part's zone (R103), channels counted from 0. -/
def Dev.master (d : Dev) (p : Nat) (t : Word) : Nat := if d.fgAt (NOTE_PART_MPE_ZONE p) t = 2 then 15 else 0

/-- Channel c is a member channel of the part's zone for stamp t (R103). -/
def Dev.isMemberChan (d : Dev) (p c : Nat) (t : Word) : Bool :=
  d.mpeOn p t && (if d.fgAt (NOTE_PART_MPE_ZONE p) t = 2 then decide (15 - d.liveCount p t ≤ c) && decide (c ≤ 14)
    else decide (1 ≤ c) && decide (c ≤ d.liveCount p t))

/-- The channel whose controllers govern channel c of part p at stamp t: in an MPE part the zone's master for a member
channel (R104). -/
def Dev.ctrlChan (d : Dev) (p c : Nat) (t : Word) : Nat := if d.isMemberChan p c t then d.master p t else c

/-- A pedal value at or above the threshold is down (R95). -/
def pedalDown (v : Nat) : Bool := decide (0x80000000 ≤ v)

/-! ### The note of a voice (R95, R100, R148, R157, R168) -/

/-- Codes of the state classes (R148). -/
def clsFree : Nat := 7
def clsParting : Nat := 6
def clsReleased : Nat := 5
def clsSustained : Nat := 4
def clsHeld : Nat := 3

/-- The glide offset of a voice at sample n (R180): the start offset running linearly to 0. -/
def Voice.glideOffset (v : Voice) (n : Word) : Int :=
  let j := later n v.glideAt
  let den := 256 * v.glideLen
  let x := max 0 (256 * j + 256 - (v.glidePhi : Int))
  if v.glideLen = 0 ∨ (den : Int) ≤ x then 0 else bq 1 (v.glideFrom * ((den : Int) - x)) den

/-- The voice's parameter register at offset `o` of its window (R171). -/
def Dev.vreg (d : Dev) (v o : Nat) : Word := d.reg (0x50000 + v * 0x400 + o)

/-- A duration of a time code scaled by num / den, in samples (R180, R194). -/
def timeScaled (t rate num den : Nat) : Nat :=
  if t = 0 then 1 else max 1 ((exp2Fix (t : Int) 200 * rate * num + 10000 * one128 * den) / (20000 * one128 * den))

/-- Glide of a reused voice from its present pitch to a new one (R180), by the COM1 settings of its window. -/
def Dev.startGlide (d : Dev) (w : Nat) (e : LogEnt) (v : Voice) : Voice :=
  let com1 := d.vreg w 0x4
  let mode := fieldOf com1 1 0
  let t := fieldOf com1 15 4
  let old := v.pitch + v.glideOffset (e.sample - 1)
  let diff := old - e.pitch
  if mode = 0 ∨ (mode = 3 ∧ v.cls ≠ clsHeld) then { v with pitch := e.pitch, glideFrom := 0, glideLen := 0 }
  else
    let n := if mode = 2 then timeScaled t d.voiceRate diff.natAbs 786432 else timeCode t d.voiceRate 0 1
    { v with pitch := e.pitch, glideFrom := diff, glideAt := e.sample, glidePhi := e.phi, glideLen := n }

/-- The note-off of a voice takes effect: sustained while a pedal holds it, else released (R95, R148). -/
def Dev.releaseVoice (d : Dev) (e : LogEnt) (rel : Nat) (v : Voice) : Voice :=
  let down := pedalDown (d.chanAt v.part (d.ctrlChan v.part v.chan e.ev.stamp) 64 e.sample e.ev)
  { v with offSeen := true, relVel := rel, cls := if down || v.sost then clsSustained else clsReleased }

/-- The voice of window `w` after a logged event of its sample (R95, R99, R100, R104, R125, R157, R180). -/
def Dev.stepVoice (d : Dev) (w : Nat) (e : LogEnt) (v : Voice) : Voice :=
  match e.ev.kind with
  | 0x01 =>
    if e.starts then
      { Voice.free with
        cls := clsHeld, tag := e.tag, part := e.ev.part, chan := e.ev.chan, key := e.ev.key, uidx := e.uidx, u := e.u,
        pitch := e.pitch, vel := e.ev.value.toNat / 65536, onStamp := e.ev.stamp, onSample := e.sample,
        slot := e.slot, bowl := v.bowl }
    else
      { d.startGlide w e v with
        cls := clsHeld, tag := e.tag, chan := e.ev.chan, key := e.ev.key, offSeen := false,
        vel := e.ev.value.toNat / 65536, onStamp := e.ev.stamp, sost := false }
  | 0x02 =>
    if e.slot ≠ 0 then { d.startGlide w e v with key := e.slot - 1 }
    else if v.cls = clsHeld then d.releaseVoice e (e.ev.value.toNat / 65536) v else v
  | 0x10 =>
    if e.ev.index = 64 then
      if !pedalDown e.ev.value.toNat && v.cls == clsSustained && !v.sost then { v with cls := clsReleased } else v
    else if e.ev.index = 66 then
      if pedalDown e.ev.value.toNat then if v.cls = clsHeld then { v with sost := true } else v
      else
        let v := { v with sost := false }
        if v.cls == clsSustained && !pedalDown (d.chanAt v.part (d.ctrlChan v.part v.chan e.ev.stamp) 64 e.sample e.ev) then
          { v with cls := clsReleased } else v
    else v
  | 0x16 => if v.cls = clsHeld then d.releaseVoice e 0x8000 v else v
  | 0x17 =>
    if v.cls = clsFree ∨ v.cls = clsParting then v else { v with cls := clsParting, fadeAt := some (e.sample, 0) }
  | 0x18 =>
    let v := { v with sost := false }
    if v.cls = clsSustained then { v with cls := clsReleased } else v
  | 0x03 => { v with noteVals := tput 0 v.noteVals 200 e.ev.value }
  | 0x04 => { v with noteVals := tput 0 v.noteVals 201 e.ev.value }
  | 0x05 => { v with noteVals := tput 0 v.noteVals (300 + e.ev.index) e.ev.value }
  | 0x06 => { v with noteVals := tput 0 v.noteVals (600 + e.ev.index) e.ev.value }
  | 0x07 => if e.ev.index % 2 = 1 then { v with noteVals := [] } else v
  | 0x15 => { v with pitch := e.pitch }
  | _ => v

/-! ### Contexts -/

/-- The voice number of voice context i = 18 n + j. -/
def voiceOf (i : Nat) : Nat := 16 * (i / 18) + i % 18

/-- Where the note of context i is kept: voices by number, the notes of parting contexts from 256 on. -/
def noteKey (i : Nat) : Nat := if i % 18 < 16 then voiceOf i else 256 + 2 * (i / 18) + (i % 18 - 16)

/-- The note of context i. -/
def Dev.noteOf (d : Dev) (i : Nat) : Voice := d.voice (noteKey i)
def Dev.setNote (d : Dev) (i : Nat) (v : Voice) : Dev := d.setVoice (noteKey i) v

/-- Bus address of the X slice of context i, and of its Y slice (R219). -/
def ctxX (i : Nat) : Nat := xBase (i / 18) + sliceOffset (i % 18)
def ctxY (i : Nat) : Nat := yBase (i / 18) + sliceOffset (i % 18)

/-- END of context i, its status word's bit 0 (R170). -/
def Dev.ended (d : Dev) (i : Nat) : Bool := bitOf (d.rw32 (ctxX i + 0x7F8)) 0

/-- The level word of context i (R170). -/
def Dev.levelWord (d : Dev) (i : Nat) : Word := d.rw32 (ctxX i + 0x7FC)

/-- What a table lists in [base, base + n), keyed from 0. -/
def cut {α : Type} (t : Tbl α) (base n : Nat) : Tbl α :=
  (t.filter fun p => decide (base ≤ p.1) && decide (p.1 < base + n)).map fun p => (p.1 - base, p.2)

/-- Replace what a table lists in [base, base + n) by what `c` lists below n. -/
def paste {α : Type} [DecidableEq α] (dft : Nat → α) (t : Tbl α) (base n : Nat) (c : Tbl α) : Tbl α :=
  (c.filter fun p => decide (p.1 < n)).foldl (fun t p => tput (dft (base + p.1)) t (base + p.1) p.2)
    (t.filter fun p => !(decide (base ≤ p.1) && decide (p.1 < base + n)))

/-- Copy the slices of one context onto another's (R158). -/
def Dev.copySlices (d : Dev) (src dst : Nat) : Dev :=
  each (List.range 0x800) (fun o d => (d.wb (ctxX dst + o) (d.rb (ctxX src + o))).wb (ctxY dst + o) (d.rb (ctxY src + o))) d

/-- Put an entry into a log, in the order of R88. -/
def Dev.insLog (d : Dev) (e : LogEnt) : List LogEnt → List LogEnt
  | [] => [e]
  | f :: fs => if d.evBefore e.sample e.ev f.sample f.ev then e :: f :: fs else f :: d.insLog e fs

/-! ### Checkpoints (R127, R128) -/

/-- The largest multiple of 16 at or before s. -/
def floor16 (s : Word) : Word := w32 (s.toNat / 16 * 16)

/-- The checkpoint of context i before sample s. -/
def Dev.takeCkpt (d : Dev) (i : Nat) (s : Word) : Ckpt :=
  { sample := s, regs := (d.ctx i).regs, x := cut d.mem (ctxX i) 0x800, y := cut d.mem (ctxY i) 0x800,
    blk := if i % 18 < 16 then cut d.live (0x50000 + voiceOf i * 0x400) 0x3C0 else [], voice := d.noteOf i }

/-- Save a checkpoint of context i, in place of any of the same sample (R127). -/
def Dev.saveCkpt (d : Dev) (i : Nat) (s : Word) : Dev :=
  let c := d.ctx i
  d.setCtx i { c with ckpts := (c.ckpts.filter fun k => k.sample != s) ++ [d.takeCkpt i s] }

/-- The checkpoint of context i at the largest multiple of 16 at or before s. -/
def Dev.ckptFor (d : Dev) (i : Nat) (s : Word) : Option Ckpt :=
  ((d.ctx i).ckpts.filter fun k => decide (later s k.sample ≥ 0)).foldl (fun a k =>
    match a with
    | none => some k
    | some b => if later k.sample b.sample > 0 then some k else some b) none

/-- Restore context i from a checkpoint; those after it are invalid (R132). -/
def Dev.restore (d : Dev) (i : Nat) (k : Ckpt) : Dev :=
  let d := { d with mem := paste (fun _ => 0) (paste (fun _ => 0) d.mem (ctxX i) 0x800 k.x) (ctxY i) 0x800 k.y }
  let d := if i % 18 < 16 then { d with live := paste resetWord d.live (0x50000 + voiceOf i * 0x400) 0x3C0 k.blk } else d
  let c := d.ctx i
  (d.setCtx i { c with
    regs := k.regs, flight := [], acc := [], cyc := 0, rep := none, delay := none,
    next := k.sample, freed := none, ckpts := c.ckpts.filter fun q => (decide (later q.sample k.sample ≤ 0)) }).setNote i k.voice

/-- The note that context i holds just before an event (s, r): from the checkpoint at or before s, through the logged
events before it (R126). -/
def Dev.noteBefore (d : Dev) (i : Nat) (s : Word) (r : EvRec) : Voice :=
  let c := d.ctx i
  let (v0, from_) := match d.ckptFor i s with
    | some k => (k.voice, some k.sample)
    | none => if c.log.isEmpty then (d.noteOf i, none) else (Voice.free, none)
  let gone := fun (t : Word) => match c.freed with
    | some f => decide (later t f ≥ 0)
    | none => false
  let v := c.log.foldl (fun v e =>
    let inside := match from_ with
      | some f => decide (later e.sample f ≥ 0)
      | none => true
    if inside && d.evBefore e.sample e.ev s r then d.stepVoice (voiceOf i) e (if gone e.sample then Voice.free else v) else v) v0
  let lastStart := (c.log.filter fun e => e.starts && d.evBefore e.sample e.ev s r).getLast?
  match c.freed with
  | some f =>
    let restarted := match lastStart with
      | some e => decide (later e.sample f ≥ 0)
      | none => false
    if decide (later s f ≥ 0) && !restarted then Voice.free else v
  | none => v

/-! ### The send ring (R138, R293) -/

/-- The stored send of context i for sample s. -/
def Dev.sendAt (d : Dev) (i : Nat) (s : Word) : Option Send := tfind (d.ctx i).sends s.toNat

/-- Take away what context i contributed at sample s, and forget it; a sample that has passed C stays as it is. -/
def Dev.dropSend (d : Dev) (i : Nat) (s : Word) : Dev :=
  match d.sendAt i s with
  | none => d
  | some x =>
    let d := if later s d.eng.c ≥ 0 then d.addSend s x false else d
    let c := d.ctx i
    d.setCtx i { c with sends := tdel c.sends s.toNat }

/-- Replace the contribution of context i at sample s (R138). -/
def Dev.putSend (d : Dev) (i : Nat) (s : Word) (x : Send) : Dev :=
  let d := d.dropSend i s
  let d := if later s d.eng.c ≥ 0 then d.addSend s x true else d
  let c := d.ctx i
  d.setCtx i { c with sends := tins c.sends s.toNat x }

/-- Drop every contribution of context i from sample s on. -/
def Dev.dropSendsFrom (d : Dev) (i : Nat) (s : Word) : Dev :=
  each (((d.ctx i).sends.map fun p => w32 p.1).filter fun t => decide (later t s ≥ 0)) (fun t d => d.dropSend i t) d

/-- The send with its gains multiplied by a fade gain (R158, R293). -/
def Send.faded (x : Send) (g : Nat) : Send :=
  { x with g := x.g.map fun w => w32 (min (w.toNat % 2 ^ 24) 0x800000 * g / 2 ^ 23) }

/-! ### Scores and the status registers of a voice (R149 to R151, R168, R215) -/

/-- The voice number of a note-holding context is protected under PROTECT of its part (R151). -/
def Dev.protectedVoice (d : Dev) (v : Nat) : Bool :=
  let x := d.voice v
  let peers := (d.presentVoices.map d.voice).filter fun y => y.part == x.part && y.tag != 0
  let held := peers.filter fun y => y.cls == clsHeld
  (x.cls == clsHeld || x.cls == clsSustained) &&
  match d.fgAlloc (NOTE_PART_STEAL_PROTECT x.part) with
  | 0 => false
  | 1 => (peers.filter fun y => y.cls != clsFree && y.tag != x.tag && decide (later y.onStamp x.onStamp > 0)).isEmpty
  | 2 => x.cls == clsHeld && held.all fun y => decide (x.pitch ≤ y.pitch)
  | _ => x.cls == clsHeld && held.all fun y => decide (y.pitch ≤ x.pitch)

/-- Voice contexts of spindle n that are present and not free. -/
def Dev.busyOn (d : Dev) (n : Nat) : Nat :=
  ((List.range 16).filter fun j => d.present (16 * n + j) && (d.voice (16 * n + j)).cls != clsFree).length

/-- The steal score of voice v from its frontier state (R149); 0 for an absent context. -/
def Dev.scoreOf (d : Dev) (v : Nat) : Word :=
  if !d.present v then 0 else
    let x := d.voice v
    if x.cls = clsFree then
      let n := d.busyOn (v / 16)
      w32 (7 * 2 ^ 29 + (if d.fgAlloc ALLOC_CTRL_SPREAD ≠ 0 then 16 - n else n) * 2 ^ 23)
    else
      let lvl := (d.levelWord (ctxOf v)).toInt.natAbs / 2 ^ 19 % 4096
      let age := min 0xFFF ((later ((d.ctx (ctxOf v)).next - 1) x.onSample).toNat / 256)
      let prot := if d.protectedVoice v then 2 ^ 28 else 0
      w32 (x.cls * 2 ^ 29 + prot + (15 - d.fgAlloc (NOTE_PART_STEAL_PRIO x.part)) * 2 ^ 24 + (4095 - lvl) * 4096 + age)

/-- SCORE_UPDATE of voice v (R150). -/
def Dev.updateScore (d : Dev) (v : Nat) : Dev := d.setReg (rALLOC_SCORE v) (d.scoreOf v)

/-- Show the frontier state of voice v in its VOICE window (R148, R215); `peak` keeps PEAK. -/
def Dev.showVoice (d : Dev) (v cyc : Nat) : Dev :=
  let x := d.voice v
  let i := ctxOf v
  let c := d.ctx i
  let peak := max cyc (d.fg (VOICE_CYC_PEAK v))
  (((((((d.fp (VOICE_STATE_CLASS v) x.cls).fp (VOICE_STATE_END v) (if d.ended i then 1 else 0)).fp
    (VOICE_STATE_PATCH v) x.slot).setReg (rVOICE_LEVEL v) (d.levelWord i)).setReg (rVOICE_FRONT v) (c.next - 1)).fp
    (VOICE_CYC_LAST v) cyc).fp (VOICE_CYC_PEAK v) peak).fp (SPN_STATUS_ACTIVE (v / 16))
    (let a := d.fg (SPN_STATUS_ACTIVE (v / 16))
     if x.cls = clsFree then a &&& (0xFFFF - 2 ^ (v % 16)) else a ||| 2 ^ (v % 16))

/-! ### Fades and the parting contexts (R158 to R160) -/

/-- M of the steal fade of part p (R158): round half up of (FADE + 1) × voice rate / 4,000. -/
def Dev.fadeLen (d : Dev) (p : Nat) : Nat :=
  (((d.fg (NOTE_PART_STEAL_FADE p) + 1) * d.voiceRate) * 2 + 4000) / 8000

/-- The gain index at position j of a fade of M samples (R158). -/
def fadeIdx (j m : Nat) : Nat := min 1024 (1024 * (j + 1) / max 1 m)

/-- The fade of parting context k of spindle n. -/
def Dev.partK (d : Dev) (n k : Nat) : Part := if k = 0 then (d.spn n).part0 else (d.spn n).part1

/-- Set a parting context's fade, and show it in SPNn_PARTk, SPNn_STATUS and ALLOC_PARTING. -/
def Dev.setPartK (d : Dev) (n k : Nat) (p : Part) : Dev :=
  let s := d.spn n
  let d := d.setSpn n (if k = 0 then { s with part0 := p } else { s with part1 := p })
  let left := match p.short with
    | some _ => 16 - p.j
    | none => p.m - p.j
  let d := ((d.fp (SPN_PART_BUSY n k) (if p.busy then 1 else 0)).fp (SPN_PART_VOICE n k) p.voice).fp (SPN_PART_REMAIN n k)
    (if p.busy then left else 0)
  let set := fun (v b : Nat) => if p.busy then v ||| 2 ^ b else v &&& (0xFFFFFFFF - 2 ^ b)
  (d.fp (SPN_STATUS_PARTING n) (set (d.fg (SPN_STATUS_PARTING n)) k)).setReg rALLOC_PARTING
    (w32 (set (d.reg rALLOC_PARTING).toNat (2 * n + k)))

/-- The gain of the next sample of a parting fade (R158, R160), which a fade taken over from class parting continues at the
index it had reached. -/
def Part.gain (p : Part) : Nat :=
  match p.short with
  | some i => fadeT (i + (1024 - i) * (p.j + 1) / 16)
  | none => fadeT (fadeIdx p.j p.m)

/-- Free a parting context; its contributions from sample s on are taken back where a rollback undoes its steal (R129). -/
def Dev.freePart (d : Dev) (n k : Nat) (undo : Option Word) : Dev :=
  let i := 18 * n + 16 + k
  let d := match undo with
    | some s => d.dropSendsFrom i s
    | none => d
  ((d.setPartK n k Part.idle).setCtx i { Ctx.idle with sends := (d.ctx i).sends }).setNote i Voice.free

/-- Shorten the fade of a parting context to 16 samples (R160): counted, source 30. -/
def Dev.shortenPart (d : Dev) (n k : Nat) : Dev :=
  let p := d.partK n k
  if p.short.isSome then d else
    let iu := fadeIdx p.j p.m
    ((d.setPartK n k { p with short := some iu, j := 0 }).count ALLOC_CNT_SHORT).raise 30

/-- The parting context that a steal on spindle n shortens: the fade that began earlier, 0 of two equal ones (R160). -/
def Dev.olderPart (d : Dev) (n : Nat) : Nat :=
  if later (d.partK n 1).began (d.partK n 0).began < 0 then 1 else 0

/-- The in-place fade of a voice in class parting, at sample s: its gain and whether this is its last sample (R148). -/
def Dev.inPlaceFade (d : Dev) (v : Voice) (s : Word) : Nat × Bool :=
  match v.fadeAt with
  | none => (0x800000, false)
  | some (at_, j0) =>
    let j := j0 + (later s at_).toNat
    let m := d.fadeLen v.part
    (fadeT (fadeIdx j m), decide (m ≤ j + 1))

/-- STEAL (R158): voice v's slices, registers and note move into parting context k of its spindle, which renders on from
sample s; a fade in place goes on at the index it had reached. -/
def Dev.steal (d : Dev) (v k : Nat) (s : Word) : Dev :=
  let n := v / 16
  let src := ctxOf v
  let dst := 18 * n + 16 + k
  let x := d.voice v
  let j := match x.fadeAt with
    | some (at_, j0) => j0 + (later s at_).toNat
    | none => 0
  let d := d.copySlices src dst
  let c := d.ctx src
  let d := (d.setCtx dst { Ctx.idle with regs := c.regs, next := s, active := true }).setNote dst x
  d.setPartK n k { busy := true, voice := v, began := s, j := j, m := d.fadeLen x.part, short := none, stealAt := s }

/-! ### Patches (R172 to R176) -/

/-- The slot of a bank and program (R173). -/
def Dev.patchSlot (d : Dev) (bank prog : Nat) : Nat :=
  match d.note.patchDir.find? fun p => p.1 == bank * 128 + prog with
  | some p => p.2
  | none => 0

/-- The copy of a slot that is active just before an event (s, r): each applied patch write before it turns it over. -/
def Dev.patchCopy (d : Dev) (slot : Nat) (s : Word) (r : EvRec) : Nat :=
  (tget 0 d.note.patchAct slot + (d.note.pipe.filter fun e => e.applied && e.ev.kind == 0x21 && e.ev.index == 1 &&
    e.ev.value.toNat % 1024 == slot && d.evBefore e.sample e.ev s r).length) % 2

/-- Stock byte offset of a copy of a slot (log entry 12). -/
def Dev.patchAt (d : Dev) (slot copy : Nat) : Nat := d.note.patchBase + (2 * slot + copy) * 1024

/-- The reset bytes of a parameter block: the Init patch (R173). -/
def initPatch : List Byte := (List.range 228).flatMap fun i => leBytes 4 (resetWord (0x50000 + 4 * i)).toNat

/-- The 912 bytes of a patch as a slice loader of the spindle fabric reads them (R172, R271). -/
def Dev.patchBytes (d : Dev) (slot copy : Nat) : List Byte × Dev :=
  if d.note.patchSlots = 0 then (initPatch, d)
  else
    let off := d.patchAt slot copy
    if d.bankCur (bankOf off) = 0 ∨ d.on (MEM_BANK_SHARE (bankOf off)) then (d.rbs (stockBase + off) 912, d)
    else (List.replicate 912 0, d.violation 0 false off)

/-- PATCH_LOAD (R174): the patch of the note goes into the parameter block, and END clears. -/
def Dev.loadPatch (d : Dev) (i : Nat) (e : LogEnt) : Dev :=
  let r := d.patchBytes e.slot (d.patchCopy e.slot e.sample e.ev)
  (r.2.wbs (ctxX i) r.1).ww32 (ctxX i + 0x7F8) 0

/-! ### The event queue of a sample (R257) -/

/-- Word 1 of a record (R114). -/
def recWord1 (e : EvRec) : Word :=
  w32 (e.kind % 256 * 2 ^ 24 + e.attr.toNat * 2 ^ 23 + e.key % 128 * 2 ^ 16 + e.part % 32 * 2 ^ 11 + e.late.toNat * 2 ^ 10
    + e.chan % 16 * 2 ^ 4 + e.src % 16)

/-- The four words that EVPOP delivers for a logged event of a voice (R257). -/
def evWords (e : LogEnt) (v : Voice) : List Word :=
  [if e.ev.kind = 1 then w32i e.pitch else 0, recWord1 e.ev, e.ev.value,
    w32 (v.tag * 2 ^ 16 + (if e.ev.kind = 1 ∧ e.starts then 1 else 0) * 2 ^ 15 + (v.u - 1) % 8 * 2 ^ 12 + v.uidx % 8 * 2 ^ 8
      + e.phi % 256)]

/-! ### The end of a sample (R170, R229, R262) -/

/-- The context becomes free from sample s on: its contributions from then are taken back (R170). -/
def Dev.freeCtx (d : Dev) (i : Nat) (s : Word) : Dev :=
  let d := d.dropSendsFrom i s
  let c := d.ctx i
  let d := (d.setCtx i { c with active := false, roll := none, freed := some s, paused := false }).setNote i
    { Voice.free with bowl := (d.noteOf i).bowl }
  if i % 18 < 16 then
    (d.fp (SPN_ORDERS_PEND (i / 18)) (d.fg (SPN_ORDERS_PEND (i / 18)) &&& (0xFFFF - 2 ^ (i % 18)))).setReg
      (rALLOC_NOTE (voiceOf i)) 0
  else d

/-- The frontier has been reached again: the rollback of context i is over (R132). -/
def Dev.endRoll (d : Dev) (i : Nat) : Dev :=
  let c := d.ctx i
  let n := i / 18
  let d := d.setCtx i { c with roll := none }
  d.fp (SPN_ORDERS_PEND n) (d.fg (SPN_ORDERS_PEND n) &&& (0xFFFF - 2 ^ (i % 18)))

/-- The send unit takes the send of voice context i for its sample, faded in class parting, unless the sample is re-run
silently (R132, R148, R262). -/
def Dev.sendVoice (d : Dev) (i : Nat) (x : Send) : Dev :=
  let c := d.ctx i
  let s := c.next
  let v := d.noteOf i
  let x := if v.cls = clsParting then x.faded (d.inPlaceFade v s).1 else x
  let silent := match c.roll with
    | some r => decide (later s r.stale < 0)
    | none => false
  if silent then d else d.putSend i s { x with cls := v.cls }

/-- Context i goes on to its next sample. -/
def Dev.nextSample (d : Dev) (i : Nat) : Dev :=
  let c := d.ctx i
  d.setCtx i { c with next := c.next + 1, adv := c.adv + 1, active := true }

/-- After its sample a finished fade or END frees voice context i from its next sample on (R148, R170). -/
def Dev.settleEnd (d : Dev) (i : Nat) (faded : Bool) : Dev :=
  if d.ended i || faded then d.freeCtx i (d.ctx i).next else d

/-- A rollback ends at C + H (R132); at the furthest frontier the state of the voice shows (R148, R150). -/
def Dev.settleFront (d : Dev) (i part cyc : Nat) : Dev :=
  let c := d.ctx i
  let front := match c.roll with
    | some r => decide (later c.next r.front ≥ 0)
    | none => true
  let past := decide (later c.next (d.frontier part) > 0)
  let d := if c.roll.isSome && past then d.endRoll i else d
  if front then (d.showVoice (voiceOf i) cyc).updateScore (voiceOf i) else d

/-- The end of a voice context's sample (R132, R148, R170, R229). -/
def Dev.endVoice (d : Dev) (i : Nat) (x : Send) (cyc : Nat) : Dev :=
  let v := d.noteOf i
  let faded := v.cls == clsParting && (d.inPlaceFade v (d.ctx i).next).2
  ((((d.sendVoice i x).nextSample i).settleEnd i faded).settleFront i v.part cyc)

/-- The end of a parting context's sample: faded contribution, and freedom after the last one (R158, R160). -/
def Dev.endParting (d : Dev) (n k : Nat) (x : Send) : Dev :=
  let i := 18 * n + 16 + k
  let p := d.partK n k
  let c := d.ctx i
  let s := c.next
  let d := d.putSend i s (x.faded p.gain)
  let c := d.ctx i
  let d := d.setCtx i { c with next := s + 1 }
  let total := match p.short with
    | some _ => 16
    | none => p.m
  let d := d.setPartK n k { p with j := p.j + 1 }
  if total ≤ p.j + 1 then d.freePart n k none else d

/-- The end of a sample of context i, by its kind; no context then runs on the spindle. -/
def Dev.endSample (d : Dev) (i : Nat) (x : Send) (cyc : Nat) : Dev :=
  let n := i / 18
  let d := if i % 18 < 16 then d.endVoice i x cyc else d.endParting n (i % 18 - 16) x
  let sp := d.spn n
  (d.setSpn n { sp with cur := none, bundle := [] }).fp (SPN_STATUS_CUR n) 0x1F

end Sys2Proof.Machine
end

