-- ==== Sys2Proof/Machine/Bowl.lean ====
section
/-! DEFINITION. The Bowl voice program as the ROM copy runs it: one call renders one sample of a context (chapter 6).
Values are integers; a signal is signed Q1.31, a modulation value has 30 fractional bits. Where the chapter gives a value
but not its rounding, or names a table of the ROM without its contents, the number is a free value (`bq` and
`Config.bowlNum`, log entry 10). The running state is kept in `Voice.bowl` (log entry 13). -/
namespace Sys2Proof.Machine

/-! ### The tempo tracker (R202) -/

/-- P of the tracker at a voice rate. -/
def Beat.p (b : Beat) (rate : Nat) : Int := if b.n < 2 then (rate / 48 : Nat) else later b.sk b.sk1

/-- The beat position at sample n as a fraction (R202); with P = 0 the spec states no position. -/
def Beat.pos (b : Beat) (rate : Nat) (n : Word) : Int × Nat :=
  match b.frozen with
  | some f => f
  | none =>
    let p := b.p rate
    if p ≤ 0 then (b.k + (Config.bowlNum 2 [b.k, p]).toInt, 24) else (b.k * p + min (later n b.sk) (24 * p), (24 * p).toNat)

/-- A tempo message applied at sample s (R202). -/
def Beat.take (b : Beat) (rate : Nat) (byte : Nat) (s : Word) : Beat :=
  match byte with
  | 0xF8 =>
    let b' := { b with sk1 := b.sk, sk := s, n := min 2 (b.n + 1) }
    if b.frozen.isSome ∧ !b.cont then b' else { b' with k := b.k + 1, frozen := none, cont := false }
  | 0xFA => { b with k := -1, frozen := none, cont := false }
  | 0xFB => { b with cont := b.frozen.isSome }
  | 0xFC => { b with frozen := some (b.pos rate s), cont := false }
  | _ => b

/-- The tracker of part p at sample n: what has passed C, then the applied entries up to n in the order of R88. -/
def Dev.beatAt (d : Dev) (p : Nat) (n : Word) : Beat :=
  let es := d.note.pipe.filter fun e => e.applied && e.ev.kind == 0x19 && e.ev.part == p && decide (later n e.sample ≥ 0)
  let sorted := es.foldl (fun (l : List PipeEnt) e =>
    let (a, b) := l.span fun f => d.evBefore f.sample f.ev e.sample e.ev
    a ++ e :: b) []
  sorted.foldl (fun b e => b.take d.voiceRate e.ev.value.toNat e.sample) (tget Beat.start d.note.beats p)

/-! ### Numbers -/

/-- One in the modulation scale. -/
def one30 : Int := 2 ^ 30

/-- A signed 16-bit half of a word: the upper, the lower. -/
def hiS (w : Word) : Int := signed 16 (w.toNat / 65536)
def loS (w : Word) : Int := signed 16 w.toNat
def hiU (w : Word) : Nat := w.toNat / 65536
def loU (w : Word) : Nat := w.toNat % 65536

def clampI (lo hi v : Int) : Int := max lo (min hi v)

/-- A free number of the program in Q1.31. -/
def freeQ31 (code : Nat) (l : List Int) : Int := (Config.bowlNum code l).toInt

/-- m of R179. -/
def pitchM (r : Nat) : Nat :=
  let j := r / 1024
  let a := r % 1024
  expE j + ((expE (j + 1) - expE j) * a) / 1024

/-- The phase increment of a pitch (R179). -/
def phaseInc (rate : Nat) (p : Int) : Nat :=
  let p := p.toNat
  let o := p / 786432
  let q := (2 * 2 ^ 40 * 8175798916 + 1000000000 * rate) / (2 * 1000000000 * rate)
  min 0x7FFFFFFF (pitchM (p % 786432) * q / 2 ^ (38 - o))

/-- The 32.32 increment of a sample oscillator (R187). -/
def sampleInc (rate srate : Nat) (p root : Int) : Nat :=
  let dd := (clampI 0 12582911 (p - root + 6291456)).toNat
  let o := dd / 786432
  let q := (2 * 2 ^ 32 * srate + rate) / (2 * rate)
  min 0x3FFFFFFFFF (pitchM (dd % 786432) * q * 2 ^ o / 2 ^ 38)

/-- The xorshift generator of R189. -/
def xorshift (x : Word) : Word :=
  let x := x ^^^ (x <<< 13)
  let x := x ^^^ (x >>> 17)
  x ^^^ (x <<< 5)

/-- The seed of generator k for a note (R189). -/
def noiseSeed (com4 : Word) (tag k i : Nat) : Word :=
  let b := if bitOf com4 0 then w32 (hiU com4 * 0x10001) else w32 (tag * 0x9E3779B9)
  let x := b ^^^ w32 (k * 0x85EBCA6B) ^^^ w32 (i * 0xC2B2AE35)
  if x = 0 then 1 else x

/-- sin(2 pi num / den) in the modulation scale: from the cosine series, quarter by quarter. -/
def sinTurn (num : Int) (den : Nat) : Int :=
  let x := (num % (den : Int)).toNat
  let half := 2 * x ≥ den
  let x := if half then x - den / 2 else x
  let ang := pi128 * 2 * x / max 1 den
  let quarter := pi128 / 2
  let a := if ang ≥ quarter then ang - quarter else quarter - ang
  let c := cosSeries 40 (a * a / one128) 1 (one128 : Int)
  let v := bq 3 (c * one30) one128
  if half then -v else v

/-! ### State of a voice -/

/-- Keys of `Voice.bowl`: oscillator k at k + 8 × field, then the blocks named below. -/
def kPhase (k : Nat) : Nat := k
def kY1 (k : Nat) : Nat := 8 + k
def kY2 (k : Nat) : Nat := 16 + k
def kNoise (k : Nat) : Nat := 24 + k
def kLp (k : Nat) : Nat := 32 + k
def kPos (k : Nat) : Nat := 40 + k
def kWrap (k : Nat) : Nat := 48 + k
def kInc (k : Nat) : Nat := 240 + k
def kFlt (k j : Nat) : Nat := 56 + 8 * k + j
def kZ (i : Nat) : Nat := 80 + i
def kPole (i : Nat) : Nat := 160 + i
def kSeg (k : Nat) : Nat := 300 + k
def kFrom (k : Nat) : Nat := 304 + k
def kIdx (k : Nat) : Nat := 308 + k
def kPhi (k : Nat) : Nat := 312 + k
def kLen (k : Nat) : Nat := 316 + k
def kLvl (k : Nat) : Nat := 320 + k
def kDone (k : Nat) : Nat := 324 + k
def kLfo (k : Nat) : Nat := 330 + k
def kLfoV (k : Nat) : Nat := 334 + k
def kLfoP (k : Nat) : Nat := 338 + k
def kLfoR (k : Nat) : Nat := 342 + k
def kRnd : Nat := 346
def kEval : Nat := 347
def kOld (m : Nat) : Nat := 400 + m
def kNew (m : Nat) : Nat := 500 + m

/-- A value of the voice's running state. -/
def Voice.b (v : Voice) (k : Nat) : Int := tget 0 v.bowl k
def Voice.setB (v : Voice) (k : Nat) (x : Int) : Voice := { v with bowl := tput 0 v.bowl k x }

/-- The surroundings of one sample of a voice: the device, the context, the sample, the voice rate. -/
structure BEnv where
  d : Dev
  i : Nat
  n : Word
  rate : Nat
  deriving DecidableEq, Repr

/-- A parameter word of the context's block, read from its X slice (R171). -/
def BEnv.par (e : BEnv) (o : Nat) : Word := e.d.rw32 (ctxX e.i + o)

/-- Voice v is on a member channel of an MPE zone. -/
def BEnv.mpe (e : BEnv) (v : Voice) : Bool := e.d.isMemberChan v.part v.chan (e.d.tau e.n)

/-- The channel whose values are channel-wide for the voice: the master channel in an MPE part (R104). -/
def BEnv.wide (e : BEnv) (v : Voice) : Nat :=
  if e.d.mpeOn v.part (e.d.tau e.n) then e.d.master v.part (e.d.tau e.n) else v.chan

/-- A channel value as the modulation scale, full scale 2^32. -/
def BEnv.cc (e : BEnv) (v : Voice) (chan what : Nat) : Int := bq 4 (e.d.chanNow v.part chan what e.n : Int) 4

/-- Channel bend of the voice in pitch units (R96, R104). -/
def BEnv.chanBend (e : BEnv) (v : Voice) : Int := (w32 (e.d.chanNow v.part (e.wide v) 129 e.n)).toInt

/-- Per-note bend of the voice in pitch units: per-note events, and in MPE the bend of its member channel (R104). -/
def BEnv.noteBend (e : BEnv) (v : Voice) : Int :=
  (tget 0 v.noteVals 201).toInt + if e.mpe v then (w32 (e.d.chanNow v.part v.chan 129 e.n)).toInt else 0

/-- Unison offset in pitch units (R181). -/
def BEnv.uniPitch (e : BEnv) (v : Voice) : Int :=
  if v.u ≤ 1 then 0
  else ((hiU (e.par 0x8) : Int) * 64 * (2 * (v.uidx : Int) - v.u + 1)).tdiv ((v.u : Int) - 1)

/-- Unison position in the modulation scale (R206, source 29). -/
def uniPos (v : Voice) : Int :=
  if v.u ≤ 1 then 0 else bq 5 ((2 * (v.uidx : Int) - v.u + 1) * one30) (v.u - 1)

/-! ### LFOs (R200, R201, R203) -/

/-- Length in 1/24 beats of a tempo division (R200). -/
def divLen (k : Nat) : Nat := [3, 4, 6, 8, 12, 16, 24, 32, 48, 96, 192, 384, 768, 36, 18, 9].getD k 24

/-- The waveform of an LFO at a phase in 2^-32 cycles; `sh` is the value of wave 5, `sh'` the one before it. -/
def lfoWave (wave : Nat) (ph : Nat) (sh sh' : Int) : Int :=
  let x : Int := bq 6 (ph : Int) 4
  match wave with
  | 0 => sinTurn ph (2 ^ 32)
  | 1 => if ph < 2 ^ 30 then 4 * x else if ph < 3 * 2 ^ 30 then 2 * one30 - 4 * x else 4 * x - 4 * one30
  | 2 => 2 * x - one30
  | 3 => one30 - 2 * x
  | 4 => if ph < 2 ^ 31 then one30 else -one30
  | 5 => sh
  | _ => sh' + bq 7 ((sh - sh') * (ph : Int)) (2 ^ 32)

/-- The free rate of an LFO as a phase step of 2^-32 cycles for `dn` samples, scaled by 2^(8 m) (R200). -/
def lfoStep (rate rateField dn : Nat) (m : Int) : Nat :=
  let f := exp2Fix (((rateField : Int) - 32768) * 2 ^ 18 + 8 * m) (2 ^ 30)
  (bq 8 ((f * dn * 2 ^ 32 : Nat) : Int) (one128 * rate)).toNat

/-- START + b / len as a phase in 2^-32 cycles (R200). -/
def syncPhase (start : Nat) (b : Int × Nat) (div : Nat) : Nat :=
  ((start * 65536 : Nat) + bq 9 (b.1 * 24 * 2 ^ 32) (b.2 * divLen div)).toNat % 2 ^ 32

/-- UNI = 1 gives (v + 1) / 2. -/
def uniPolar (u : Bool) (x : Int) : Int := if u then bq 11 (x + one30) 2 else x

/-- Part LFO k of the voice's part at sample n (R203). -/
def BEnv.partLfo (e : BEnv) (p k : Nat) : Int :=
  let r := { recLast e.n with stamp := e.d.tau e.n }
  let slot := e.d.patchSlot (e.d.chanNow p 0 131 e.n) (e.d.chanNow p 0 130 e.n)
  let bs := (e.d.patchBytes slot (e.d.patchCopy slot (e.n + 1) r)).1
  let a := w32 (leNat ((bs.drop (0x198 + 8 * k)).take 4))
  let b := w32 (leNat ((bs.drop (0x19C + 8 * k)).take 4))
  let npc := w32 (e.d.chanNow p 0 133 e.n)
  let age := (later e.n npc).toNat
  let total := hiU b * 65536 + lfoStep e.rate (hiU a) age 0
  let ph := if bitOf a 4 then syncPhase (hiU b) ((e.d.beatAt p e.n).pos e.rate e.n) (fieldOf a 11 8) else total % 2 ^ 32
  let sh := fun (m : Nat) => (xorshift (w32 (m * 0x9E3779B9) ^^^ w32 p)).toInt / 2
  uniPolar (bitOf a 6) (lfoWave (fieldOf a 2 0) ph (sh (total / 2 ^ 32)) (sh (total / 2 ^ 32 - 1)))

/-- FADEIN: full after its time from the note-on, linear before (R201). -/
def BEnv.fadeIn (e : BEnv) (v : Voice) (t : Nat) (x : Int) : Int :=
  if t = 0 then x
  else
    let len := timeCode t e.rate 0 1
    let j := (later e.n v.onSample).toNat
    if len ≤ j then x else bq 12 (x * j) len

/-- Voice LFO k at a matrix evaluation `dn` samples after the last one; at a note's start the phase restarts with RETRIG
(R201). `m` is the destination value of its rate. -/
def BEnv.voiceLfo (e : BEnv) (v : Voice) (k dn : Nat) (start : Bool) (m : Int) : Voice :=
  let a := e.par (0x180 + 8 * k)
  let b := e.par (0x184 + 8 * k)
  let ph0 := (v.b (kLfo k)).toNat
  let total := if start ∧ bitOf a 5 then hiU b * 65536 else ph0 + lfoStep e.rate (hiU a) dn m
  let ph := if bitOf a 4 then syncPhase (hiU b) ((e.d.beatAt v.part e.n).pos e.rate e.n) (fieldOf a 11 8) else total % 2 ^ 32
  let wrap := decide (2 ^ 32 ≤ total) || (bitOf a 4 && decide (ph < ph0))
  let v := if start then
      let x := xorshift (noiseSeed (e.par 0x10) v.tag 4 v.uidx)
      ((v.setB (kLfoR k) x.toInt).setB (kLfoP k) (x.toInt / 2)).setB (kLfoV k) (x.toInt / 2)
    else if wrap then
      let x := xorshift (w32i (v.b (kLfoR k)))
      ((v.setB (kLfoR k) x.toInt).setB (kLfoP k) (v.b (kLfoV k))).setB (kLfoV k) (x.toInt / 2)
    else v
  let out := uniPolar (bitOf a 6) (lfoWave (fieldOf a 2 0) ph (v.b (kLfoV k)) (v.b (kLfoP k)))
  (v.setB (kLfo k) ph).setB (348 + k) (e.fadeIn v (fieldOf b 11 0) out)

/-! ### Envelopes (R194 to R197) -/

/-- Velocity in the modulation scale. -/
def velQ (v : Nat) : Int := (v : Int) * 2 ^ 14

/-- 1 − (VELSENS / 128)(1 − vel), or 1 − (|VELSENS| / 128) vel (R197). -/
def velScale (sens : Int) (vel : Nat) : Int :=
  if sens ≥ 0 then one30 - bq 14 (sens * (one30 - velQ vel)) 128 else one30 - bq 14 ((-sens) * velQ vel) 128

/-- LEVEL of segment j of envelope k, velocity applied. -/
def BEnv.segLevel (e : BEnv) (v : Voice) (k j : Nat) : Int :=
  let c := e.par (0xE0 + 0x28 * k)
  bq 15 ((hiU (e.par (0xE4 + 0x28 * k + 4 * j)) : Int) * 2 ^ 14 * velScale (signed 8 (fieldOf c 23 16)) v.vel) (2 ^ 30)

/-- Samples of segment j of envelope k, KEYTIME and the matrix applied; `m` is destination 37 + k (R197). -/
def BEnv.segLen (e : BEnv) (v : Voice) (k j : Nat) (m : Int) : Nat :=
  let c := e.par (0xE0 + 0x28 * k)
  let key := signed 8 (fieldOf c 31 24)
  let num : Int := -(key * ((v.pitch : Int) - 3932160)) * 2 ^ 30 + 8 * m * 25165824
  timeCode (fieldOf (e.par (0xE4 + 0x28 * k + 4 * j)) 15 4) e.rate num (25165824 * 2 ^ 30)

/-- Start segment j of envelope k from level `from_` with onset phi. -/
def BEnv.startSeg (e : BEnv) (v : Voice) (k j : Nat) (from_ : Int) (phi : Nat) : Voice :=
  (((((v.setB (kSeg k) j).setB (kFrom k) from_).setB (kIdx k) 0).setB (kPhi k) phi).setB (kLen k)
    (e.segLen v k j (v.b (kNew (37 + k))))).setB (kDone k) 0

/-- K_c at x = num / den, in 1/65,536 of a whole, by linear interpolation (R195): as a fraction of den. -/
def curveAt (c : Int) (num den : Nat) : Int :=
  let pos := 256 * num / max 1 den
  let fr := 256 * num - pos * den
  (curveK c pos : Int) * den + ((curveK c (pos + 1) : Int) - curveK c pos) * fr

/-- The voice is in class held or sustained. -/
def Voice.keyed (v : Voice) : Bool := v.cls == clsHeld || v.cls == clsSustained

/-- One sample of envelope k (R195, R196): the level, and the segment after it. -/
def BEnv.envStep (e : BEnv) (v : Voice) (k : Nat) : Voice :=
  let c := e.par (0xE0 + 0x28 * k)
  let last := fieldOf c 2 0
  let sus := fieldOf c 6 4
  let susOn := bitOf c 7 && decide (sus ≤ last)
  let j := (v.b (kSeg k)).toNat
  if v.b (kDone k) ≠ 0 then v
  else
    let i := v.b (kIdx k)
    let n := (v.b (kLen k)).toNat
    let num := (256 * i + 256 - v.b (kPhi k)).toNat
    let target := e.segLevel v k j
    let from_ := v.b (kFrom k)
    let fin := decide (256 * n ≤ num)
    let lvl := if fin then target
      else from_ + bq 16 ((target - from_) * curveAt (signed 4 (fieldOf (e.par (0xE4 + 0x28 * k + 4 * j)) 3 0)) num (256 * n))
        (65536 * 256 * n)
    let v := (v.setB (kLvl k) lvl).setB (kIdx k) (i + 1)
    if !fin then v
    else if susOn && j == sus && v.keyed then
      if bitOf c 11 ∧ fieldOf c 10 8 ≤ sus then e.startSeg v k (fieldOf c 10 8) lvl 0 else v.setB (kDone k) 1
    else if last ≤ j then v.setB (kDone k) 1
    else e.startSeg v k (j + 1) lvl 0

/-- Envelope k when the voice leaves classes held and sustained, with the onset of that event (R196). -/
def BEnv.envRelease (e : BEnv) (phi : Nat) (v : Voice) (k : Nat) : Voice :=
  let c := e.par (0xE0 + 0x28 * k)
  let last := fieldOf c 2 0
  let sus := fieldOf c 6 4
  if !bitOf c 7 || decide (last < sus) then v
  else if sus = last then v.setB (kDone k) 1
  else e.startSeg v k (sus + 1) (v.b (kLvl k)) phi

/-! ### The matrix (R204 to R207) -/

/-- The value of a source (R206). -/
def BEnv.source (e : BEnv) (v : Voice) (c : Nat) : Int :=
  let com3 := e.par 0xC
  let w := e.wide v
  if 1 ≤ c ∧ c ≤ 4 then v.b (kLvl (c - 1))
  else if 5 ≤ c ∧ c ≤ 7 then v.b (348 + (c - 5))
  else if c = 8 ∨ c = 9 then e.partLfo v.part (c - 8)
  else match c with
  | 10 => velQ v.vel
  | 11 => if v.offSeen then velQ v.relVel else 0
  | 12 => clampI (-one30) one30 (bq 17 (((v.pitch : Int) - 3932160) * one30) 3932160)
  | 13 => if e.mpe v then e.cc v v.chan 128 else bq 4 ((tget 0 v.noteVals 200).toNat : Int) 4
  | 14 => clampI (-one30) one30 (bq 18 (e.noteBend v * one30) (48 * 65536))
  | 15 => if e.mpe v then e.cc v v.chan 74 else e.cc v w 74
  | 16 => e.cc v w 128
  | 17 =>
    let r := e.d.bendRange v.part w (e.d.tau e.n)
    if r = 0 then freeQ31 19 [e.chanBend v] / 2 else bq 18 (e.chanBend v * one30) (r * 65536)
  | 18 => e.cc v w 1
  | 19 => e.cc v w 2
  | 20 => e.cc v w 4
  | 21 => e.cc v w 11
  | 22 => e.cc v w (fieldOf com3 6 0)
  | 23 => e.cc v w (fieldOf com3 14 8)
  | 24 => e.cc v w (fieldOf com3 22 16)
  | 25 => e.cc v w (fieldOf com3 30 24)
  | 26 => if pedalDown (e.d.chanNow v.part w 64 e.n) then one30 else 0
  | 27 =>
    let b := (e.d.beatAt v.part e.n).pos e.rate e.n
    bq 20 (b.1 % (b.2 : Int) * one30) b.2
  | 28 => v.b kRnd
  | 29 => uniPos v
  | 30 => one30
  | _ => 0

/-- The sum of the slots that drive destination m (R204). -/
def BEnv.destSum (e : BEnv) (v : Voice) (m : Nat) : Int :=
  (List.range 24).foldl (fun (acc : Int) q =>
    let a := e.par (0x1C0 + 8 * q)
    let src := fieldOf a 13 8
    if fieldOf a 29 24 = m ∧ src ≠ 0 then
      let via := if fieldOf a 21 16 = 0 then one30 else e.source v (fieldOf a 21 16)
      let via := match fieldOf a 1 0 with
        | 1 => bq 21 (via + one30) 2
        | 2 => one30 - via
        | _ => via
      acc + bq 22 (hiS (e.par (0x1C4 + 8 * q)) * e.source v src * via) (2 ^ 45)
    else acc) 0

/-- A matrix evaluation at sample n (R201, R205): LFOs first, then every destination's new target; bend terms ramp the same
way under numbers 62 and 63. At a note-on the new values hold at once. -/
def BEnv.evaluate (e : BEnv) (v : Voice) (start : Bool) : Voice :=
  let dn := if start then 0 else (later e.n (w32i (v.b kEval))).toNat
  let v := (List.range 3).foldl (fun v k => e.voiceLfo v k dn start (v.b (kNew (34 + k)))) v
  let targets := (List.range 40).map fun m => (m + 1, e.destSum v (m + 1))
  let targets := targets ++ [(62, e.chanBend v), (63, e.noteBend v)]
  (targets.foldl (fun v p => (v.setB (kOld p.1) (if start then p.2 else v.b (kNew p.1))).setB (kNew p.1) p.2) v).setB kEval
    e.n.toNat

/-- The value of a destination's sum at sample n (R205). -/
def BEnv.dest (e : BEnv) (v : Voice) (m : Nat) : Int :=
  let j := later e.n (w32i (v.b kEval))
  let o := v.b (kOld m)
  if j ≥ 7 then v.b (kNew m) else o + bq 23 ((v.b (kNew m) - o) * (j + 1)) 8

/-- A Q0.16 field with its destination's sum, clamped to the field's range (R204, R207). -/
def BEnv.level16 (e : BEnv) (v : Voice) (base m : Nat) : Int := clampI 0 0xFFFF (base + bq 24 (e.dest v m * 0xFFFF) (2 ^ 30))

/-! ### Oscillators (R178 to R189) -/

/-- The voice's pitch: note, glide, bends, unison (R178). -/
def BEnv.notePitch (e : BEnv) (v : Voice) : Int :=
  (v.pitch : Int) + v.glideOffset e.n + e.dest v 62 + e.dest v 63 + e.uniPitch v

/-- The pitch of oscillator k (R178). -/
def BEnv.oscPitch (e : BEnv) (v : Voice) (k : Nat) : Int :=
  let c := e.par (0x20 + 0x20 * k)
  let head := if bitOf c 8 then e.notePitch v else 3932160
  let m := bq 25 ((e.dest v 17 + e.dest v (1 + k)) * (48 * 65536)) (2 ^ 30)
  clampI 0 0x87FFFF (head + signed 8 (fieldOf c 23 16) * 65536 + hiS (e.par (0x24 + 0x20 * k)) + m)

/-- A Stock word of `n` bytes as the slice program reads it: as stored where the fabric owns the bank or SHARE is 1, else
0 (R271). -/
def BEnv.stock (e : BEnv) (off n : Nat) : Nat :=
  if off + n ≤ stockSize ∧ (e.d.bankCur (bankOf off) = 0 ∨ e.d.on (MEM_BANK_SHARE (bankOf off))) then
    leNat (e.d.rbs (stockBase + off) n)
  else 0

/-- A wavetable sample: the four frames around the position, each at level `l` and the phase (R186). -/
def BEnv.wavetable (e : BEnv) (base : Nat) (inc ph : Nat) (s1 s2 : Int) : Int :=
  let frames := e.stock base 2
  let rows := e.stock (base + 2) 2
  let data := base + e.stock (base + 4) 4
  let l := ((List.range 11).find? fun l => decide (inc ≤ 2 ^ (21 + l))).getD 10
  let len := 2048 / 2 ^ l
  let lofs := 2 * (4096 - 4096 / 2 ^ l)
  let xn := s1.toNat * (frames - 1)
  let yn := s2.toNat * (rows - 1)
  let at_ := fun (f r i : Nat) => signed 16 (e.stock (data + 8192 * (r * frames + f) + lofs + 2 * (i % len)) 2)
  let pos := ph * len
  let i := pos / 2 ^ 32
  let frame := fun (f r : Nat) =>
    let a := at_ (min f (frames - 1)) (min r (rows - 1)) i
    let b := at_ (min f (frames - 1)) (min r (rows - 1)) (i + 1)
    a * 2 ^ 32 + (b - a) * ((pos % 2 ^ 32 : Nat) : Int)
  let x := xn / 65536
  let y := yn / 65536
  let fx : Int := (xn % 65536 : Nat)
  let fy : Int := (yn % 65536 : Nat)
  let row := fun (r : Nat) => frame x r * (65536 - fx) + frame (x + 1) r * fx
  bq 26 (row y * (65536 - fy) + row (y + 1) * fy) (2 ^ 49)

/-- Sample playback: the 8-tap kernel at a 32.32 position (R187); the kernel's entries are the ROM's. -/
def BEnv.sampleOut (e : BEnv) (base : Nat) (pos : Int) : Int :=
  let fmt := e.stock base 4
  let len := e.stock (base + 4) 4
  let data := base + e.stock (base + 0x10) 4
  let frame := fun (q : Int) =>
    if q < 0 ∨ (len : Int) ≤ q then (0 : Int)
    else if fmt = 0 then signed 16 (e.stock (data + 2 * q.toNat) 2) * 65536
    else if fmt = 1 then signed 24 (e.stock (data + 3 * q.toNat) 3) * 256 else 0
  let ip := pos / 2 ^ 32
  let phs := (pos % 2 ^ 32) / 2 ^ 24
  let sum := (List.range 8).foldl (fun (a : Int) (t : Nat) => a + frame (ip + (t : Int) - 3) * freeQ31 27 [phs, (t : Int)]) 0
  clampI (-(2 ^ 30)) (2 ^ 30) (bq 28 sum (2 ^ 32))

/-- The sine of the ROM table with linear interpolation at a 32-bit phase, Q1.31 (R188). -/
def romSine (ph : Nat) : Int :=
  let i : Nat := ph / 2 ^ 20 % 4096
  let a := freeQ31 29 [(i : Int)]
  let b := freeQ31 29 [(((i + 1) % 4096 : Nat) : Int)]
  a + bq 30 ((b - a) * ((ph % 2 ^ 20 : Nat) : Int)) (2 ^ 20)

/-- The tanh table with linear interpolation (R191, R208): its entries and range are the ROM's. -/
def romTanh (x : Int) : Int := clamp32s (freeQ31 31 [x])

/-- Oscillator k for one sample (R182 to R189). `start` carries the onset of a note that starts in the sample. The phase
moves first where the note started earlier; the output is at its phase at the start of the sample. -/
def BEnv.osc (e : BEnv) (v : Voice) (k : Nat) (start : Option Nat) (outs : List Int) : Voice × Int :=
  let o := 0x20 + 0x20 * k
  let c := e.par o
  let ty := fieldOf c 2 0
  let st := loU (e.par (o + 4)) * 65536
  let p := e.oscPitch v k
  let inc := phaseInc e.rate p
  let s1 := clampI 0 0xFFFF ((hiU (e.par (o + 8)) : Int) + bq 24 (e.dest v (5 + k) * 0xFFFF) (2 ^ 30))
  let xsrc := fieldOf c 7 6
  let xv := if xsrc < k then outs.getD xsrc 0 else v.b (kY1 xsrc)
  let xdepth := hiS (e.par (o + 0xC)) * 2 ^ 15 + e.dest v (13 + k)
  let xm := bq 32 (clampI (-(2 ^ 30)) (2 ^ 30) xdepth * xv * 2) (2 ^ 30)
  let ssrc := fieldOf c 5 4
  let sync := bitOf c 3 && ssrc != k && v.b (kWrap ssrc) != 0
  let reset := start.isSome && bitOf c 9
  let ph : Int := if reset then st else v.b (kPhase k)
  let step : Int := match start with
    | some phi => if reset then bq 33 ((inc : Int) * (256 - (phi : Int))) 256 else inc
    | none => inc
  let next := if sync then (st + bq 61 ((inc : Int) * (v.b (kWrap ssrc) - 1)) (max 1 (v.b (kInc ssrc)).toNat)) % 2 ^ 32
    else (ph + step) % 2 ^ 32
  let wrapped := decide ((2 : Int) ^ 32 ≤ ph + step)
  let v := if start.isSome then
      (v.setB (kNoise k) (noiseSeed (e.par 0x10) v.tag k v.uidx).toInt).setB (kPos k) 0
    else v
  let lvl := e.level16 v (hiU (e.par (o + 0x10))) (9 + k)
  let keep := fun (v : Voice) (y : Int) =>
    (((((v.setB (kY2 k) (v.b (kY1 k))).setB (kY1 k) y).setB (kPhase k) next).setB (kWrap k)
      (if wrapped then 1 + next else 0)).setB (kInc k) inc, y)
  let fin := fun (v : Voice) (y : Int) => (keep v (clamp32s y)).map id fun y => bq 34 (y * lvl) 65536
  match ty with
  | 0 => (v, 0)
  | 4 => fin v (e.wavetable (e.par (o + 0x14)).toNat inc (((ph + xm) % 2 ^ 32).toNat) s1
      (clampI 0 0xFFFF (loU (e.par (o + 8)) : Int)))
  | 5 =>
    let base := (e.par (o + 0x14)).toNat
    let len := e.stock (base + 4) 4
    let ls := (e.par (o + 0x18)).toNat
    let le := (e.par (o + 0x1C)).toNat
    let mode := loU (e.par (o + 8)) % 4
    let looping := decide (ls < le) && decide (le ≤ len) && (mode == 1 || (mode == 2 && v.keyed))
    let pos := v.b (kPos k)
    let y := e.sampleOut base pos
    let pos := pos + sampleInc e.rate (e.stock (base + 0xC) 4) p ((e.stock (base + 8) 4 : Nat) : Int)
    let pos := if looping ∧ ((le : Int) * 2 ^ 32 ≤ pos) then
        (ls : Int) * 2 ^ 32 + (pos - (ls : Int) * 2 ^ 32) % (((le - ls : Nat) : Int) * 2 ^ 32)
      else pos
    fin (v.setB (kPos k) pos) (bq 35 y 2)
  | 6 =>
    let fb := bq 36 ((loU (e.par (o + 0xC)) : Int) * (v.b (kY1 k) + v.b (kY2 k))) 65536
    fin v (bq 35 (romSine ((ph + xm + fb) % 2 ^ 32).toNat) 2)
  | 7 =>
    let x := xorshift (w32i (v.b (kNoise k)))
    let raw : Int := ((x.toNat / 2 : Nat) : Int) / 2
    let y := v.b (kLp k) + (65536 - s1) * (raw - v.b (kLp k)) / 65536
    fin ((v.setB (kNoise k) x.toInt).setB (kLp k) y) y
  | _ => fin v (freeQ31 37 [ty, ph, xm, inc, s1, (start.map (fun (x : Nat) => (x : Int))).getD (-1), if sync then 1 else 0, v.b (kY1 k)] / 2)

/-! ### Filters, modal bank, amplifier (R190 to R193, R208 to R210) -/

/-- One sample of filter k (R190, R191): the input passes unchanged when off; else output and states follow the ROM's
arithmetic from type, input, cutoff, resonance, drive, morph and states. -/
def BEnv.filter (e : BEnv) (v : Voice) (k : Nat) (x : Int) : Voice × Int :=
  let o := 0xA0 + 0x10 * k
  let ty := fieldOf (e.par o) 2 0
  if ty = 0 then (v, x)
  else
    let reso := e.par (o + 8)
    let cut := (e.par (o + 4)).toInt + bq 38 (loS reso * ((v.pitch : Int) - 3932160)) 32768
      + bq 39 (e.dest v (18 + k) * (96 * 65536)) (2 ^ 30)
    let f := clampI (roundDiv (10 * 2 ^ 32) e.rate) (bq 40 (45 * 2 ^ 32) 100) (phaseInc e.rate (clampI 0 0xFFFFFF cut))
    let res := clampI 0 0xFFFF ((hiU reso : Int) + bq 24 (e.dest v (20 + k) * 0xFFFF) (2 ^ 30))
    let drv := clampI 0 0xFFFF ((hiU (e.par (o + 0xC)) : Int) + bq 24 (e.dest v (22 + k) * 0xFFFF) (2 ^ 30))
    let ins := [(ty : Int), x, f, res, drv, (loU (e.par (o + 0xC)) : Int)] ++ (List.range 4).map fun j => v.b (kFlt k j)
    ((List.range 4).foldl (fun v j => v.setB (kFlt k j) (freeQ31 (41 + j) ins)) v, freeQ31 45 ins)

/-- Poles and input coefficients of resonator i for a matrix evaluation (R193): four words of the ROM's arithmetic, from
frequency, decay and complex gain; 0 mutes a resonator whose frequency reaches 0.45 of the voice rate. -/
def BEnv.poles (e : BEnv) (v : Voice) (i : Nat) : Voice :=
  let a := e.par (0x290 + 8 * i)
  let b := e.par (0x294 + 8 * i)
  let p := clampI 0 0xFFFFFF ((v.pitch : Int) + hiS a * 256 + bq 46 (e.dest v 26 * (48 * 65536)) (2 ^ 30))
  let f := phaseInc e.rate p
  let n60 := timeCode (fieldOf a 11 0) e.rate (8 * e.dest v 27) (2 ^ 30)
  let ins := [(f : Int), n60, b.toNat]
  (List.range 4).foldl (fun v j => v.setB (kPole (4 * i + j))
    (if 9 * 2 ^ 32 ≤ 20 * f ∧ 2 ≤ j then 0 else freeQ31 (47 + j) ins)) v

/-- One sample of the modal bank (R193), in the arithmetic of the resonator loop: u ← round(P u + c x), and the sum of the
real parts, each step saturating. -/
def BEnv.modal (e : BEnv) (v : Voice) (x : Int) : Voice × Int :=
  let count := min 32 (fieldOf (e.par 0x280) 5 0)
  (List.range count).foldl (fun (vo : Voice × Int) i =>
    let v := vo.1
    let q := fun (j : Nat) => v.b (kPole (4 * i + j))
    let ur := v.b (kZ (2 * i))
    let ui := v.b (kZ (2 * i + 1))
    let r := clamp32s (round32 (2 * (q 0 * ur - q 1 * ui) + 2 * (q 2 * x)))
    let m := clamp32s (round32 (2 * (q 0 * ui + q 1 * ur) + 2 * (q 3 * x)))
    ((v.setB (kZ (2 * i)) r).setB (kZ (2 * i + 1)) m, clamp32s (vo.2 + r))) (v, 0)

/-- The cycles R213 charges a sample of the loaded patch. -/
def BEnv.cost (e : BEnv) : Nat :=
  let osc := (List.range 4).foldl (fun a k =>
    let c := e.par (0x20 + 0x20 * k)
    let t := fieldOf c 2 0
    a + [0, 14, 18, 16, 36, 30, 12, 8].getD t 0 + (if t ≠ 0 ∧ bitOf c 3 ∧ fieldOf c 5 4 ≠ k then 6 else 0)
      + if t ≠ 0 ∧ hiU (e.par (0x2C + 0x20 * k)) ≠ 0 then 4 else 0) 0
  let flt := (List.range 2).foldl (fun a k =>
    a + [0, 18, 18, 18, 18, 18, 34, 34].getD (fieldOf (e.par (0xA0 + 0x10 * k)) 2 0) 0) 0
  let par := if bitOf (e.par 0) 0 then 2 else 0
  let n := fieldOf (e.par 0x280) 5 0
  let modal := if n = 0 then 0 else 8 + n + (n + 1) / 2
  let slots := (List.range 24).filter fun q =>
    let a := e.par (0x1C0 + 8 * q)
    decide (fieldOf a 13 8 ≠ 0 ∧ fieldOf a 29 24 ≠ 0)
  let routes := (List.range 2).filter fun r => bitOf (e.par (0x1A8 + 8 * r)) 31
  let uses := fun (c : Nat) =>
    slots.any (fun q => let a := e.par (0x1C0 + 8 * q); fieldOf a 13 8 == c || fieldOf a 21 16 == c) ||
    routes.any fun r => fieldOf (e.par (0x1A8 + 8 * r)) 5 0 == c
  let vl := ((List.range 3).filter fun k => uses (5 + k)).length
  let pl := ((List.range 2).filter fun k => uses (8 + k)).length
  28 + osc + 6 + flt + par + modal + 28 + 3 * vl + 2 * pl + (3 + 2 * slots.length) + 18 + 3 * routes.length

/-- What a CV route of a voice sends for a sample (R211): a code for a channel, or a gate level with its onset. -/
def BEnv.cvRoute (e : BEnv) (v : Voice) (r phi : Nat) (x : Send) : Send :=
  let a := e.par (0x1A8 + 8 * r)
  let b := e.par (0x1AC + 8 * r)
  let ch := fieldOf a 19 16
  if !bitOf a 31 || v.cls == clsFree then x
  else match fieldOf a 25 24 with
  | 0 =>
    let s := bq 51 (2 * hiS b * e.source v (fieldOf a 5 0) * 65536 + 2 ^ 45) (2 ^ 46)
    { x with cv := x.cv ++ [(ch, (clampI 0 65535 ((loU b : Int) + s)).toNat)] }
  | 1 => { x with cv := x.cv ++ [(ch, (clampI 0 65535 ((loU b : Int) + ((v.pitch : Int) - 3932160) * (hiU b : Int) / 2 ^ 20)).toNat)] }
  | 2 => { x with gate := x.gate ++ [(ch, v.keyed, phi)] }
  | _ => x

/-- What the events of the sample do to the program's state: a started note restarts envelopes, phases and generators; a
reuse retriggers; an end of class held or sustained releases the envelopes (R184, R189, R195, R196, R201, R157). `v0` is the
voice before the event, `v` after it. -/
def BEnv.onEvent (e : BEnv) (v0 v : Voice) (l : LogEnt) : Voice :=
  let envs := fun (f : Voice → Nat → Voice) (v : Voice) => (List.range 4).foldl f v
  if l.ev.kind = 1 ∧ l.starts then
    let v := envs (fun v k => (e.startSeg v k 0 0 l.phi).setB (kLvl k) 0) v
    v.setB kRnd ((xorshift (noiseSeed (e.par 0x10) v.tag 5 v.uidx)).toInt / 2)
  else if l.ev.kind = 1 then
    let legato := e.d.fgAt (NOTE_PART_MODE_VOICING v.part) l.ev.stamp = 2
    if legato ∧ v0.cls = clsHeld then v else envs (fun v k => e.startSeg v k 0 (v.b (kLvl k)) l.phi) v
  else if v0.keyed && !v.keyed then envs (fun v k => e.envRelease l.phi v k) v
  else v

/-- One sample of Bowl in context i (R177): the send, the device with the level and status words written, the cycles used.
`start` is the onset of a note that starts in the sample, `phi` the onset of its last event. -/
def Dev.bowlSample (d : Dev) (i : Nat) (start : Option Nat) (phi : Nat) : Send × Dev × Nat :=
  let e : BEnv := { d := d, i := i, n := (d.ctx i).next, rate := d.voiceRate }
  let v := d.noteOf i
  let eval := e.n.toNat % 8 == 0 || start.isSome
  let v := if eval then e.evaluate v start.isSome else v
  let v := if eval then (List.range (min 32 (fieldOf (e.par 0x280) 5 0))).foldl e.poles v else v
  let os := (List.range 4).foldl (fun (vo : Voice × List Int) k =>
    let r := e.osc vo.1 k start vo.2
    (r.1, vo.2 ++ [r.2])) (v, [])
  let v := os.1
  let outs := os.2
  let route := fun (k : Nat) => fieldOf (e.par (0x30 + 0x20 * k)) 1 0
  let pick := fun (ok : Nat → Bool) => clamp32s ((List.range 4).foldl (fun (a : Int) k => if ok k then a + outs.getD k 0 else a) 0)
  let in1 := pick fun k => route k == 0 || route k == 2
  let in2 := pick fun k => route k == 1 || route k == 2
  let direct := pick fun k => route k == 3
  let f1 := e.filter v 0 in1
  let series := !bitOf (e.par 0) 0
  let f2 := e.filter f1.1 1 (if series then clamp32s (f1.2 + in2) else in2)
  let v := f2.1
  let bal := clampI 0 one30 ((hiU (e.par 0) : Int) * 2 ^ 14 + e.dest v 24)
  let fout := if series then f2.2 else clamp32s (bq 52 ((one30 - bal) * f1.2 + bal * f2.2) (2 ^ 30))
  let min_ := fieldOf (e.par 0x280) 9 8
  let mx := if min_ = 1 then fout else if min_ = 2 then outs.getD 3 0 else pick fun _ => true
  let mo := e.modal v (bq 53 (mx * (hiU (e.par 0x284) : Int)) 65536)
  let mix := e.level16 v (hiU (e.par 0x280)) 25
  let amp := clamp32s (fout + direct + bq 54 (mo.2 * mix) 65536)
  let v := mo.1
  let v := (List.range 4).foldl e.envStep v
  let drv := loU (e.par 0xC0)
  let y := romTanh (bq 55 (amp * (4096 + (drv : Int))) 4096)
  let l := e.level16 v (hiU (e.par 0xC0)) 28
  let va := one30 - bq 56 ((loU (e.par 0xC4) : Int) * (one30 - velQ v.vel)) 65536
  let a := clampI 0 0x7FFFFFFF (bq 57 (l * v.b (kLvl 0) * va) (2 ^ 45))
  let y := clamp32s (bq 58 (y * a) (2 ^ 31))
  let upan := if v.u ≤ 1 then 0 else bq 59 ((loU (e.par 0x8) : Int) * (2 * (v.uidx : Int) - v.u + 1) * 2 ^ 14) (v.u - 1)
  let pan := clampI (-one30) one30 (hiS (e.par 0xC4) * 2 ^ 15 + upan + e.dest v 29)
  let ang := (pan + one30) * 2 ^ 30 / 2 ^ 30
  let sinp := romSine (ang.toNat / 4)
  let cosp := romSine ((2 ^ 30 + ang.toNat / 4) % 2 ^ 32)
  let gain := fun (k : Nat) =>
    let w := e.par (0xCC + 4 * (k / 2))
    w32 (128 * (e.level16 v (if k % 2 = 0 then hiU w else loU w) (30 + k)).toNat)
  let c := e.par 0xE0
  let quiet := if !v.keyed && decide (a < 2 ^ 19) then v.quiet + 1 else 0
  let envEnd := decide (v.b (kDone 0) ≠ 0) && decide (v.b (kSeg 0) = (fieldOf c 2 0 : Int)) && decide (v.b (kLvl 0) = 0) &&
    (v.offSeen || !bitOf c 7)
  let fin := envEnd || decide (256 ≤ quiet)
  let v := { v with quiet := quiet }
  let x : Send := { l := w32i (bq 60 (y * cosp) (2 ^ 31)), r := w32i (bq 60 (y * sinp) (2 ^ 31)), map := e.par 0xC8,
                    g := (List.range 4).map gain, cv := [], gate := [], level := w32i a, cls := v.cls, stamp := v.onStamp }
  let x := e.cvRoute v 1 phi (e.cvRoute v 0 phi x)
  let d := (d.ww32 (ctxX i + 0x7FC) (w32i a)).ww32 (ctxX i + 0x7F8) (if fin then 1 else 0)
  let d := d.setNote i v
  let d := if i % 18 < 16 then
      let n := voiceOf i
      let sus := fieldOf c 6 4
      let q16 := fun (k : Nat) => (clampI 0 0xFFFF (v.b (kLvl k) / 2 ^ 14)).toNat
      ((((((d.fp (VOICE_STATE_SEG n) (v.b (kSeg 0)).toNat).fp (VOICE_STATE_REL n)
        (if bitOf c 7 ∧ (sus : Int) < v.b (kSeg 0) then 1 else 0)).setReg (rVOICE_PITCH n) (w32i (e.notePitch v))).fp
        (VOICE_ENVL0_ENV0 n) (q16 0)).fp (VOICE_ENVL0_ENV1 n) (q16 1)).fp (VOICE_ENVL1_ENV2 n) (q16 2)).fp
        (VOICE_ENVL1_ENV3 n) (q16 3)
    else d
  (x, d, e.cost)

end Sys2Proof.Machine
end

