-- ==== Sys2Proof/Machine/Apply.lean ====
section
/-! DEFINITION. Applying an event of the pipeline to its voices: which it affects (R125), matching in application order
(R100, R126), the logs (R130, R131), rollback orders, and what leaves with its sample (R112). -/
namespace Sys2Proof.Machine

/-! ### Key stacks of mono and legato parts (R157) -/

/-- A key stack, most recent last, after a note-on, a note-off or an all-notes-off of its part. -/
def stackStep (l : List Nat) (kind key : Nat) : List Nat :=
  match kind with
  | 0x01 => let m := l.filter (· != key) ++ [key]; m.drop (m.length - 16)
  | 0x02 => l.filter (· != key)
  | 0x16 => []
  | _ => l

/-- Applied entries of part p in the order of R88 whose event stands before (s, r). -/
def Dev.partEvents (d : Dev) (p : Nat) (s : Word) (r : EvRec) : List PipeEnt :=
  (d.note.pipe.filter fun e => e.applied && !e.refused && e.ev.part == p && d.evBefore e.sample e.ev s r).foldl
    (fun (l : List PipeEnt) e => let (a, b) := l.span fun f => d.evBefore f.sample f.ev e.sample e.ev; a ++ e :: b) []

/-- The key stack of part p just before an event (s, r). -/
def Dev.stackAt (d : Dev) (p : Nat) (s : Word) (r : EvRec) : List Nat :=
  (d.partEvents p s r).foldl (fun l e => stackStep l e.ev.kind e.ev.key) (tget [] d.alloc.keyStacks p)

/-! ### Pitch (R97, R99) -/

/-- The tuning-table pitch of key k of table t for stamp `st` (R97, R523). -/
def Dev.tuning (d : Dev) (t k : Nat) (st : Word) : Int :=
  match d.histAt 3 t k st with
  | some v => (w32 v).toInt
  | none => (k : Int) * 65536

/-- The pitch that part p gives a key at a stamp (R99): none where the transposed key leaves 0 to 127. -/
def Dev.keyPitch (d : Dev) (p key : Nat) (attr : Option Nat) (st : Word) : Option Int :=
  let tr := signed 8 (d.fgAt (NOTE_PART_TUNE_TRANSPOSE p) st)
  let fine := signed 16 (d.fgAt (NOTE_PART_TUNE_FINE p) st)
  match attr with
  | some a => some (((a : Int) + tr * 512) * 128 + fine)
  | none =>
    let k := (key : Int) + tr
    if k < 0 ∨ 127 < k then none
    else
      let t := d.fgAt (NOTE_PART_TUNE_TABLE p) st
      some ((if t = 63 then k * 65536 else d.tuning t k.toNat st) + fine)

/-! ### Logs and orders (R124, R130 to R133) -/

/-- The context has rendered sample s, so that an event there needs a rollback (R124); a free context catches up on a note
that lands below the frontier of its part (R234). -/
def Dev.hasRendered (d : Dev) (i p : Nat) (s : Word) : Bool :=
  let c := d.ctx i
  if (d.noteOf i).cls = clsFree ∧ c.roll.isNone then
    decide (later s (d.frontier p) < 0) || (c.freed.isSome && decide (later c.next s > 0) && !c.ckpts.isEmpty)
  else decide (later c.next s > 0)

/-- Put a rollback order for context i at sample s on its way. -/
def Dev.order (d : Dev) (i : Nat) (s : Word) (seq : Nat) : Dev :=
  { d with eng := { d.eng with transit := d.eng.transit ++ [(i / 18, i % 18, s, seq)] } }

/-- The pipeline entry of arrival sequence `seq`. -/
def Dev.entry (d : Dev) (seq : Nat) : Option PipeEnt := d.note.pipe.find? fun e => e.ev.seq == seq && e.ev.kind != 0x20

/-- Replace the pipeline entry of sequence `seq`. -/
def Dev.setEntry (d : Dev) (seq : Nat) (x : PipeEnt) : Dev :=
  { d with note := { d.note with pipe := d.note.pipe.map fun e => if e.ev.seq = seq ∧ e.ev.kind ≠ 0x20 then x else e } }

/-- Change the pipeline entry of sequence `seq`. -/
def Dev.mendEntry (d : Dev) (seq : Nat) (g : PipeEnt → PipeEnt) : Dev :=
  match d.entry seq with
  | some x => d.setEntry seq (g x)
  | none => d

/-- Flag an event late and count it, source 27 (R111, R131, R144). -/
def Dev.lateEvent (d : Dev) (seq : Nat) : Dev :=
  ((d.mendEntry seq fun e => { e with ev := { e.ev with late := true } }).count NOTE_CNT0_LATE).raise 27

/-- Put an entry into the log of context i, and order a rollback where its sample has been rendered. With 64 entries in the
log it applies when the oldest one's checkpoint goes, flagged late (R131). -/
def Dev.addLog (d : Dev) (i : Nat) (e : LogEnt) : Dev :=
  let c := d.ctx i
  let full := decide (64 ≤ c.log.length)
  let s' := match c.log.head? with
    | some o => floor16 o.sample + 16
    | none => e.sample
  let e' := if full then
      { e with sample := if later s' e.sample > 0 then s' else e.sample + 1, ev := { e.ev with late := true } }
    else e
  let d := if full then d.lateEvent e.ev.seq else d
  let d := d.setCtx i { c with log := d.insLog e' c.log }
  if d.hasRendered i e.ev.part e'.sample then d.order i e'.sample e.ev.seq else d

/-- Take the entry of an event out of the log of context i, with a rollback where it had been rendered. -/
def Dev.dropLog (d : Dev) (i : Nat) (e : EvRec) (s : Word) : Dev :=
  let c := d.ctx i
  let d := d.setCtx i { c with log := c.log.filter fun l => l.ev.seq != e.seq }
  if d.hasRendered i e.part s then d.order i s e.seq else d

/-! ### Matching (R100, R125, R126) -/

/-- The voices sounding just before an event (s, r) that satisfy `ok`, by number. -/
def Dev.voicesBefore (d : Dev) (s : Word) (r : EvRec) (ok : Voice → Bool) : List Nat :=
  (List.range 256).filter fun v =>
    let i := ctxOf v
    ((d.noteOf i).cls != clsFree || !(d.ctx i).log.isEmpty) &&
    let x := d.noteBefore i s r
    x.cls != clsFree && ok x

/-- The voices that a note-off (s, r) releases: those of the oldest unreleased note of its part, channel and key, with its
whole unison group (R100); a note-off that the head has matched names its tag (R166). -/
def Dev.matchOff (d : Dev) (s : Word) (r : EvRec) (tag : Nat) : List Nat :=
  let vs := d.voicesBefore s r fun x =>
    if tag ≠ 0 then x.tag == tag && x.cls == clsHeld
    else x.part == r.part && x.chan == r.chan && x.key == r.key && x.cls == clsHeld && !x.offSeen
  let oldest := vs.foldl (fun (a : Option Voice) v =>
    let x := d.noteBefore (ctxOf v) s r
    match a with
    | none => some x
    | some y => if later x.onStamp y.onStamp < 0 then some x else a) none
  match oldest with
  | none => []
  | some o => vs.filter fun v => (d.noteBefore (ctxOf v) s r).tag == o.tag

/-- The voices that an event affects (R125); a note-on's are the allocator's. -/
def Dev.affected (d : Dev) (e : PipeEnt) : List Nat :=
  let r := e.ev
  let s := e.sample
  let mpe := d.mpeOn r.part r.stamp
  let wide := mpe && !d.isMemberChan r.part r.chan r.stamp
  match r.kind with
  | 0x01 => e.voices
  | 0x02 => d.matchOff s r e.tag
  | 0x03 | 0x04 | 0x05 | 0x06 | 0x07 => d.voicesBefore s r fun x => x.part == r.part && x.chan == r.chan && x.key == r.key
  | 0x10 | 0x11 | 0x12 | 0x16 | 0x17 | 0x18 => d.voicesBefore s r fun x => x.part == r.part && (wide || x.chan == r.chan)
  | 0x14 => d.voicesBefore s r fun x => x.part == r.part && d.isMemberChan r.part x.chan (r.stamp - 1) &&
      !d.isMemberChan r.part x.chan r.stamp
  | 0x15 => d.voicesBefore s r fun x => d.fgAt (NOTE_PART_TUNE_TABLE x.part) r.stamp == r.index &&
      decide ((x.key : Int) + signed 8 (d.fgAt (NOTE_PART_TUNE_TRANSPOSE x.part) r.stamp) = r.key)
  | 0x19 => d.voicesBefore s r fun x => x.part == r.part
  | _ => []

/-- The log entry of an event for voice v: a note-on carries its pitch, tag and slot; a mono note-off with other keys held
moves the pitch to the most recent of them (R157); a tuning change carries the new pitch (R97). -/
def Dev.logEntry (d : Dev) (e : PipeEnt) (v uidx : Nat) : LogEnt :=
  let r := e.ev
  let x := d.noteBefore (ctxOf v) e.sample r
  let base : LogEnt := { ev := r, sample := e.sample, phi := e.phi, pitch := 0, tag := x.tag, uidx := x.uidx, u := x.u,
                         starts := false, slot := 0 }
  match r.kind with
  | 0x01 =>
    let slot := d.patchSlot (d.chanAt r.part 0 131 e.sample r) (d.chanAt r.part 0 130 e.sample r)
    { base with pitch := e.pitch, tag := e.tag, uidx := uidx, u := e.u, starts := e.starts, slot := slot }
  | 0x02 =>
    let left := stackStep (d.stackAt r.part e.sample r) 0x02 r.key
    match left.getLast? with
    | none => base
    | some k =>
      if d.fgAt (NOTE_PART_MODE_VOICING r.part) r.stamp = 0 then base
      else { base with slot := k + 1, pitch := (d.keyPitch r.part k none r.stamp).getD ((k : Int) * 65536) }
  | 0x15 => { base with pitch := r.value.toInt + signed 16 (d.fgAt (NOTE_PART_TUNE_FINE x.part) r.stamp) }
  | _ => base

/-- Apply an entry to its voices: each gets the event in its log (R124). -/
def Dev.applyTo (d : Dev) (e : PipeEnt) (vs : List Nat) : Dev :=
  (vs.foldl (fun (dk : Dev × Nat) v =>
    ((dk.1.addLog (ctxOf v) (dk.1.logEntry e v dk.2)), dk.2 + 1)) (d, 0)).1

/-- Match again every applied note-off of the same identity that stands after (s, r) (R126). -/
def Dev.rematch (d : Dev) (s : Word) (r : EvRec) : Dev :=
  let later_ := d.note.pipe.filter fun f => f.applied && f.ev.kind == 2 && f.ev.part == r.part && f.ev.chan == r.chan &&
    f.ev.key == r.key && f.ev.seq != r.seq && d.evBefore s r f.sample f.ev
  let sorted := later_.foldl (fun (l : List PipeEnt) e =>
    let (a, b) := l.span fun f => d.evBefore f.sample f.ev e.sample e.ev
    a ++ e :: b) []
  each sorted (fun f d =>
    let vs := d.matchOff f.sample f.ev f.tag
    if vs = f.voices then d
    else
      let d := each f.voices (fun v d => d.dropLog (ctxOf v) f.ev f.sample) d
      let vs := d.matchOff f.sample f.ev f.tag
      (d.applyTo f vs).mendEntry f.ev.seq fun x => { x with voices := vs }) d

/-- Starts of notes of `ok` at or after (s, r) take their patch anew (R102, R125, R175). -/
def Dev.reloadStarts (d : Dev) (s : Word) (r : EvRec) (ok : PipeEnt → Bool) : Dev :=
  each (d.note.pipe.filter fun f => f.applied && f.ev.kind == 1 && f.starts && ok f && d.evBefore s r f.sample f.ev) (fun f d =>
    each f.voices (fun v d => (d.dropLog (ctxOf v) f.ev f.sample)) d |>.applyTo f f.voices) d

/-- EVENT_APPLY of one entry (R124 to R126): to its voices, then the matches and patches it changes. -/
def Dev.applyEntry (d : Dev) (e : PipeEnt) : Dev :=
  let r := e.ev
  let vs := d.affected e
  let d := (d.applyTo e vs).mendEntry r.seq fun x =>
    { x with applied := true, voices := if r.kind = 1 ∨ r.kind = 2 then vs else e.voices }
  match r.kind with
  | 0x01 | 0x02 => d.rematch e.sample r
  | 0x13 => d.reloadStarts e.sample r fun f => f.ev.part == r.part
  | 0x21 => if r.index = 1 then d.reloadStarts e.sample r fun f =>
      d.patchSlot (d.chanAt f.ev.part 0 131 f.sample f.ev) (d.chanAt f.ev.part 0 130 f.sample f.ev) == r.value.toNat % 1024
    else d
  | _ => d

/-- EVENT_APPLY: an entry whose sample rendering has reached, its voices assigned (R124). -/
def eventApply (seq : Nat) (d : Dev) : Dev :=
  match d.entry seq with
  | none => d
  | some e =>
    if d.running && !e.applied && !e.queued && !e.refused && decide (later e.sample (d.frontier e.ev.part) ≤ 0) &&
      e.ev.kind != 0x20 then d.applyEntry e else d

/-- An entry whose sample has passed C leaves the pipeline (R112): what it did to channel values, trackers, stacks and
patch copies is kept as what had passed C. -/
def Dev.foldEntry (d : Dev) (e : PipeEnt) : Dev :=
  let n := d.note
  if !e.applied || e.refused then d
  else
    let whats := match e.ev.kind with
      | 0x10 => [e.ev.index]
      | 0x11 => [128]
      | 0x12 => [129]
      | 0x13 => [130, 131, 133]
      | 0x18 => (List.range 95).map (· + 1) ++ [128, 129]
      | _ => []
    let base := whats.foldl (fun t w =>
      match chanEffect e.ev.part (if e.ev.kind = 0x13 then 0 else e.ev.chan) w e with
      | some v => tput 0 t (chanKey e.ev.part (if e.ev.kind = 0x13 then 0 else e.ev.chan) w) v
      | none => t) n.base
    let beats := if e.ev.kind = 0x19 then
        tput Beat.start n.beats e.ev.part ((tget Beat.start n.beats e.ev.part).take d.voiceRate e.ev.value.toNat e.sample)
      else n.beats
    let act := if e.ev.kind = 0x21 ∧ e.ev.index = 1 then
        tput 0 n.patchAct (e.ev.value.toNat % 1024) ((tget 0 n.patchAct (e.ev.value.toNat % 1024) + 1) % 2)
      else n.patchAct
    let held := tput [] d.alloc.keyStacks e.ev.part (stackStep (tget [] d.alloc.keyStacks e.ev.part) e.ev.kind e.ev.key)
    { d with note := { n with base := base, beats := beats, patchAct := act }, alloc := { d.alloc with keyStacks := held } }

/-- Entries of samples before `c` leave the pipeline, in the order of R88. -/
def Dev.retire (d : Dev) (c : Word) : Dev :=
  let gone := d.note.pipe.filter fun e => decide (later e.sample c < 0)
  let sorted := gone.foldl (fun (l : List PipeEnt) e =>
    let (a, b) := l.span fun f => d.evBefore f.sample f.ev e.sample e.ev
    a ++ e :: b) []
  let d := each sorted (fun e d => d.foldEntry e) d
  { d with note := { d.note with pipe := d.note.pipe.filter fun e => decide (later e.sample c ≥ 0) } }

def execEventApply (seq : Nat) (s : State) : Host.Outcome State Fault Refusal := done s (eventApply seq s.dev)

end Sys2Proof.Machine
end

