-- ==== Sys2Proof/Machine/Bundle.lean ====
section
/-! DEFINITION. Issuing a bundle: which bundles trap (R236 to R238, R265, R266), what each operation reads and writes and
when its result lands (R249 to R258, R263, R264), and program control (R259 to R262). -/
namespace Sys2Proof.Machine

/-! ### Landing of results (R263, R264) -/

/-- A result lands in the register set. -/
def Regs.land (r : Regs) (f : Flight) : Regs :=
  let v := f.val
  let h : BitVec 16 := v.setWidth 16
  match f.dst with
  | .d n => r.setD n v
  | .i n => r.setI n h
  | .m n => { r with m := tput 0 r.m n h }
  | .wb n => { r with wb := tput 0 r.wb n h }
  | .wl n => { r with wl := tput 0 r.wl n h }
  | .lc => { r with lc := v.setWidth 11 }
  | .rp n => r.setRp n (v &&& 0xFF00FFFF)
  | .sr => { r with sr := (r.sr &&& 0x80) ||| (v &&& 0x6F) }
  | .nzcv => { r with sr := (r.sr &&& ~~~0xF) ||| (v &&& 0xF) }
  | .gov => { r with sr := r.sr ||| 0x20 }
  | .nov => { r with sr := r.sr ||| 0x40 }
  | .z => { r with sr := (r.sr &&& ~~~1) ||| (v &&& 1) }

/-- The results seen from issue cycle `cyc` on land, in the order of their issue. -/
def Ctx.landTo (c : Ctx) (cyc : Nat) : Ctx :=
  { c with
    regs := (c.flight.filter fun f => decide (f.due ≤ cyc)).foldl Regs.land c.regs
    flight := c.flight.filter fun f => decide (cyc < f.due)
    acc := c.acc.filter fun a => decide (cyc < a.1) }

/-- Every result in flight lands: at a suspension, and before the next sample (R262, R263). -/
def Ctx.drain (c : Ctx) : Ctx :=
  (List.range 32).foldl (fun c t => c.landTo (c.cyc + t)) c

/-- The accumulator as RND1 and RND4 see it in issue cycle `cyc`: a write of the last two cycles is not yet seen (R263). -/
def Ctx.rndView (c : Ctx) (k : Nat) : BitVec 72 :=
  match c.acc.find? fun a => a.2.1 == k && decide (c.cyc < a.1) with
  | some a => a.2.2
  | none => c.regs.ra k

/-! ### Traps (R236 to R238, R265, R266) -/

/-- The next bundle address in sequence after a bundle at `pc`: the start of the body at the end of a pass (R261); 2,048
where there is none (R259). -/
def Regs.seqNext (r : Regs) : Nat :=
  if bitOf r.sr 7 && r.pc == r.le && decide (1 < r.lc.toNat) then r.ls.toNat else r.pc.toNat + 1

/-- A control operation of the bundle may not stand where it stands, or its own conditions fail (R265). -/
def controlBad (c : Ctx) (ops : List Op) : Bool :=
  let r := c.regs
  let lact := bitOf r.sr 7
  ops.any fun o => o.control && (c.delay.isSome || c.rep.isSome || (lact && r.pc == r.le) ||
    match o with
    | .alu 0x26 _ _ => lact
    | .alu 0x27 _ _ => lact
    | .alu 0x28 _ _ => lact
    | .alu 0x21 _ _ => decide (4 ≤ r.stack.length)
    | .alu 0x22 _ _ => r.stack.isEmpty
    | _ => false)

/-- Bundles that a count of 0 passes over (R260, R261). -/
def skipped (c : Ctx) (ops : List Op) : Nat :=
  match ops.find? Op.control with
  | some (.alu 0x25 f _) => if c.regs.rd f.ra.toNat = 0 then 1 else 0
  | some (.alu 0x27 f _) => if c.regs.rd f.ra.toNat = 0 then f.low.toNat % 64 + 1 else 0
  | _ => 0

/-- Sequential fetch would pass bundle 2,047 (R259, R265). -/
def fetchBad (c : Ctx) (ops : List Op) : Bool :=
  let leaves := ops.any fun o =>
    match o with
    | .alu 0x28 _ _ => true
    | _ => false
  let taken := match c.delay with
    | some (1, _) => true
    | _ => false
  !leaves && !taken && decide (2048 ≤ c.regs.seqNext + skipped c ops)

/-- The bundle is illegal (R265). -/
def illegalBundle (c : Ctx) (ops : List Op) : Bool :=
  !bundleLegal ops || controlBad c ops || fetchBad c ops || (ops.any Op.stock && c.lastStock == some (c.cyc - 1) &&
    decide (0 < c.cyc))

/-- The bundle violates a window (R266). -/
def Dev.windowBad (d : Dev) (c : Ctx) (ops : List Op) : Bool :=
  ops.any fun o =>
    match o with
    | .mem op f => memViolates c.regs op f
    | .alu op f _ => d.stockViolates c.regs c.appended op f
    | _ => false

/-- The cause of a trap of this bundle on spindle n, the lowest code first; 0 for none (R236 to R238). -/
def Dev.trapCause (d : Dev) (n : Nat) (c : Ctx) (ops : List Op) : Nat :=
  if illegalBundle c ops then 1
  else if d.windowBad c ops then 2
  else if c.cyc = d.fg (SPN_VBUDGET_VOICE n) ∧ d.on (SPN_CTRL_OVTRAP n) then 3
  else if c.cyc + 1 = d.fg (SPN_BUDGET_CYCLES n) then 4
  else 0

/-- SPINDLE_TRAP (R238): the first trap is recorded, the spindle stops, source 56. -/
def Dev.trap (d : Dev) (n j cause : Nat) (pc : BitVec 11) (ops : List Op) : Dev :=
  let d := ((d.fp (SPN_TRAP_CAUSE n) cause).fp (SPN_TRAP_CTX n) j).fp (SPN_TRAP_PC n) pc.toNat
  let d := each (List.range 4) (fun k d => d.setReg (rSPN_TRAPB n k) (bundleWord ops k)) d
  ((d.fp (SPN_STATUS_TRAPPED n) 1).fp (SPN_STATUS_RUN n) 0).raise 56

/-- BUDGET_OVERRUN (R236), at the cycle that passes the budget. -/
def Dev.overrun (d : Dev) (n cyc : Nat) : Dev :=
  if cyc = d.fg (SPN_VBUDGET_VOICE n) then (d.count (SPN_OVRUN_OVERRUNS n)).raise 29 else d

/-! ### Operations -/

/-- A result on its way: distance `k` from issue cycle `cyc`. -/
def fly (cyc k : Nat) (dst : Dst) (v : Word) : Flight := { due := cyc + k, dst := dst, val := v }

/-- What a bundle has produced so far, slot by slot: the device (memories, counters) and the context. -/
structure Work where
  d : Dev
  c : Ctx
  deriving DecidableEq, Repr

/-- Send results on their way. -/
def Work.send (w : Work) (fs : List Flight) : Work := { w with c := { w.c with flight := w.c.flight ++ fs } }

/-- A memory slot (R245 to R248): loads read at issue and are seen 2 cycles later; stores and address updates 1 later.
`r` is the register set at issue. -/
def memOp (n j : Nat) (r : Regs) (op : Nat) (f : MemF) (w : Work) : Work :=
  let cyc := w.c.cyc
  let a := viewAddr n j f.y (memAddr r f)
  let k := 2 ^ f.size.toNat
  let w := match op with
    | 1 => w.send ((List.range k).map fun q => fly cyc 2 (.d (f.reg.toNat + q)) (w.d.rw32 (a + 4 * q)))
    | 2 => { w with d := each (List.range k) (fun q d => d.ww32 (a + 4 * q) (r.rd (f.reg.toNat + q))) w.d }
    | _ => w
  if f.mode = 0 ∨ f.mode = 7 then w
  else
    let open_ := memOpen r f
    let w := if open_ then { w with d := w.d.fresh.2 } else w
    let v := memNext r f ((Config.freeWord (w.d.free - 1)).setWidth 16)
    w.send [fly cyc 1 (.i f.ireg.toNat) (v.setWidth 32)]

/-- Write an accumulator: seen at once by the MAC slot, 3 cycles later by RND; GOV likewise (R251, R263). -/
def Work.putAcc (w : Work) (k : Nat) (s : Bool) (x : Int) : Work :=
  let (v, gov) := narrowAcc s x
  let c := w.c
  let w := { w with c := { c with acc := c.acc ++ [(c.cyc + 3, k, c.regs.ra k)], regs := c.regs.setA k v } }
  if gov then w.send [fly c.cyc 3 .gov 0] else w

/-- Accumulate a term into accumulator k under ACC (R249, R251). -/
def Work.accum (w : Work) (k : Nat) (f : MacF) (t : Int) : Work :=
  w.putAcc k f.s (accValue f.acc.toNat (w.c.regs.ra k).toInt t)

/-- Round accumulator k to D register n, seen 2 cycles later (R252, R263). -/
def Work.round (w : Work) (s : Bool) (k n : Nat) : Work :=
  let (v, nov) := rndAcc s (w.c.rndView k)
  let w := w.send [fly w.c.cyc 2 (.d n) v]
  if nov then w.send [fly w.c.cyc 2 .nov 0] else w

/-- The MAC slot (R249 to R252); `r` is the register set at issue. -/
def macOp (r : Regs) (op : Nat) (f : MacF) (w : Work) : Work :=
  let a := f.ra.toNat
  let b := f.rb.toNat
  let k := f.an.toNat
  let cplx := fun (q : Nat) (t : Int × Int) (w : Work) => (w.accum (2 * q) f t.1).accum (2 * q + 1) f t.2
  match op with
  | 1 => w.accum k f (realTerm (r.rd a) (r.rd b))
  | 2 => (List.range 4).foldl (fun w q => w.accum q f (realTerm (r.rd (a + q)) (r.rd (b + q)))) w
  | 3 => cplx (k % 2) (cplxTerm f.cj (r.rd a) (r.rd (a + 1)) (r.rd b) (r.rd (b + 1))) w
  | 4 =>
    cplx 1 (cplxTerm f.cj (r.rd (a + 2)) (r.rd (a + 3)) (r.rd (b + 2)) (r.rd (b + 3)))
      (cplx 0 (cplxTerm f.cj (r.rd a) (r.rd (a + 1)) (r.rd b) (r.rd (b + 1))) w)
  | 5 =>
    let x := r.rd b
    cplx 1 (realTerm (r.rd (a + 2)) x, realTerm (r.rd (a + 3)) x) (cplx 0 (realTerm (r.rd a) x, realTerm (r.rd (a + 1)) x) w)
  | 8 => w.round f.s k f.rd.toNat
  | 9 => (List.range 4).foldl (fun w q => w.round f.s q (f.rd.toNat + q)) w
  | 0x0A => w.putAcc k f.s ((r.rd a).toInt * 2 ^ 32)
  | 0x0B => (List.range 4).foldl (fun w q => if bitOf (f.imm.setWidth 32) q then w.putAcc q false 0 else w) w
  | 0x0C => w.putAcc k f.s (shiftAcc (r.ra k) (signed 6 f.imm.toNat))
  | _ => w

/-- An ALU result reaches RD, the flags with F = 1, and NOV with a clamp (R254, R263). -/
def Work.alu (w : Work) (rd : Option Nat) (flags : Bool) (x : AluRes) : Work :=
  let cyc := w.c.cyc
  w.send ((match rd with
    | some n => [fly cyc 1 (.d n) x.val]
    | none => []) ++ (if flags then [fly cyc 1 .nzcv x.flags] else []) ++ if x.clamped then [fly cyc 1 .nov 0] else [])

/-- The class register that MVF reads (R253): M as the signed number it is. -/
def Regs.classRead (r : Regs) (cls idx : Nat) : Word :=
  match cls with
  | 0 => (r.ri idx).setWidth 32
  | 1 => (r.rm idx).signExtend 32
  | 2 => (r.rwb idx).setWidth 32
  | 3 => (r.rwl idx).setWidth 32
  | 4 => r.lc.setWidth 32
  | 5 => r.sr
  | _ => r.rrp idx

/-- Where MVT lands and how far off (R253, R263). -/
def classWrite (cls idx : Nat) : Dst × Nat :=
  match cls with
  | 0 => (.i idx, 2)
  | 1 => (.m idx, 2)
  | 2 => (.wb idx, 3)
  | 3 => (.wl idx, 3)
  | 4 => (.lc, 1)
  | 5 => (.sr, 1)
  | _ => (.rp idx, 1)

/-- The system value of RDSYS (R256). -/
def Dev.sysValue (d : Dev) (n j : Nat) (c : Ctx) (sel : Nat) : Word :=
  match sel with
  | 0 => c.next
  | 1 => w32 (n * 256 + j)
  | 2 => w32 d.voiceRate
  | 3 => w32 (d.noteOf (18 * n + j)).part
  | 8 => w32 c.cyc
  | 9 => d.now
  | _ => 0

/-- Operations of the CTRL/ALU slot below 0x20 (R253 to R258); `r` is the register set at issue. -/
def aluSlot (n j : Nat) (r : Regs) (op : Nat) (f : AluF) (bad : Nat) (w : Work) : Work :=
  let rd := f.rd.toNat
  let a := r.rd f.ra.toNat
  let b := r.rd (aluRb f)
  let imm := f.low
  let cyc := w.c.cyc
  if op = 0 then w
  else if op ≤ 0x0E then w.alu (some rd) f.f (aluOp op f.s a b)
  else match op with
  | 0x0F => w.alu none true (aluSub false a b)
  | 0x10 => w.alu (some rd) f.f (plain a)
  | 0x11 => w.alu (some rd) f.f (plain ((r.rd rd &&& 0xFFFF0000) ||| imm.setWidth 32))
  | 0x12 => w.alu (some rd) f.f (plain ((r.rd rd &&& 0x0000FFFF) ||| (imm.setWidth 32 <<< 16)))
  | 0x13 => w.alu (some rd) f.f (aluAdd f.s a (imm.signExtend 32))
  | 0x14 => w.alu (some rd) f.f (aluOp 0x06 f.s a (imm.setWidth 32))
  | 0x15 => w.alu (some rd) f.f (aluOp 0x07 false a (imm.setWidth 32))
  | 0x16 => w.alu (some rd) f.f (aluOp 0x08 false a (imm.setWidth 32))
  | 0x18 =>
    let t := classWrite (aluRb f) rd
    w.send [fly cyc t.2 t.1 a]
  | 0x19 => w.send [fly cyc 1 (.d rd) (r.classRead (aluRb f) f.ra.toNat)]
  | 0x1A => w.send [fly cyc 1 (.d rd) (w.d.sysValue n j w.c imm.toNat)]
  | 0x1B =>
    match w.c.evq with
    | [] => w.send (((List.range 4).map fun q => fly cyc 2 (.d (rd + q)) 0) ++ [fly cyc 2 .z 1])
    | e :: es =>
      let w := { w with c := { w.c with evq := es } }
      w.send (((List.range 4).map fun q => fly cyc 2 (.d (rd + q)) (e.getD q 0)) ++ [fly cyc 2 .z 0])
  | 0x1C =>
    let x := w.d.fabricRead (sldAddr r f).toNat 8 bad
    let w := { w with d := x.2 }
    w.send [fly cyc 24 (.d rd) (w32 x.1), fly cyc 24 (.d (rd + 1)) (w32 (x.1 / 2 ^ 32))]
  | 0x1D =>
    let k := aluRing f
    let win := rpWin (r.rrp k)
    let p := rpPos (tget 0 w.c.p0 k)
    let l := w.d.winL win
    let x := w.d.fabricRead (w.d.winEntry win (((p : Int) - (a.toNat : Int)) % (l : Int)).toNat) 4 bad
    let w := { w with d := x.2 }
    w.send [fly cyc 24 (.d rd) (w32 x.1)]
  | 0x1E =>
    let k := aluRing f
    let win := rpWin (r.rrp k)
    let p := rpPos (tget 0 w.c.p0 k) % w.d.winL win
    { d := w.d.fabricWrite (w.d.winEntry win p) bad a, c := { w.c with appended := k :: w.c.appended } }
  | _ => w

/-- One operation of a bundle. -/
def opWork (n j : Nat) (r : Regs) (o : Op) (w : Work) : Work :=
  match o with
  | .nop _ => w
  | .mem op f => memOp n j r op f w
  | .mac op f => macOp r op f w
  | .alu op f bad => aluSlot n j r op f bad w

/-! ### Program control (R259 to R262) -/

/-- The bundle address after this bundle: the target of a branch whose second delay bundle this is, which ends the loop
where it lies outside the body; else the next in sequence, counting the passes (R259, R261). -/
def Regs.advance (r : Regs) (delay : Option (Nat × BitVec 11)) : Regs :=
  let lact := bitOf r.sr 7
  match delay with
  | some (1, t) =>
    let inside := decide (r.ls.toNat ≤ t.toNat) && decide (t.toNat ≤ r.le.toNat)
    { r with pc := t, sr := if lact && !inside then r.sr &&& ~~~0x80 else r.sr }
  | _ =>
    if lact && r.pc == r.le then
      if 1 < r.lc.toNat then { r with pc := r.ls, lc := r.lc - 1 }
      else { r with pc := r.pc + 1, lc := 0, sr := r.sr &&& ~~~0x80 }
    else { r with pc := r.pc + 1 }

/-- Count of REP and LOOP fields, 0 meaning 1,024; of a register, values above 1,024 giving 1,024 (R253, R260, R261). -/
def immCount (k : Nat) : Nat := if k = 0 then 1024 else k
def regCount (w : Word) : Nat := min w.toNat 1024

/-- A loop of n passes over `len` bundles after a bundle at `pc` (R261). -/
def Regs.startLoop (r : Regs) (n len : Nat) : Regs :=
  if n = 0 then { r with pc := r.pc + BitVec.ofNat 11 (len + 1) }
  else { r with ls := r.pc + 1, le := r.pc + BitVec.ofNat 11 len, lc := BitVec.ofNat 11 n, sr := r.sr ||| 0x80, pc := r.pc + 1 }

/-- A repeat of the next bundle n times (R260): with n = 0 it is passed over. -/
def Ctx.startRep (c : Ctx) (n : Nat) : Ctx :=
  let r := c.regs.advance none
  if n = 0 then { c with regs := r.advance none } else { c with regs := r, rep := some n }

/-- A branch taken: the target follows two delay bundles. -/
def Ctx.branch (c : Ctx) (t : BitVec 11) : Ctx := { c with regs := c.regs.advance none, delay := some (2, t) }

/-- What the bundle's control operation makes of the context; `r` is the register set at issue. Without one, the bundle
after is the next in sequence, or the target of a branch in its delay. -/
def Ctx.control (c : Ctx) (r : Regs) (ops : List Op) : Ctx :=
  let t (f : AluF) : BitVec 11 := f.low.setWidth 11
  match ops.find? Op.control with
  | some (.alu 0x20 f _) =>
    if condHolds r.sr f.rd.toNat then c.branch (t f) else { c with regs := c.regs.advance none }
  | some (.alu 0x21 f _) =>
    let c' := c.branch (t f)
    { c' with regs := { c'.regs with stack := c.regs.stack ++ [r.pc + 3] } }
  | some (.alu 0x22 _ _) =>
    let c' := c.branch (r.stack.getLastD 0)
    { c' with regs := { c'.regs with stack := c.regs.stack.dropLast } }
  | some (.alu 0x24 f _) => c.startRep (immCount f.low.toNat)
  | some (.alu 0x25 f _) => c.startRep (regCount (r.rd f.ra.toNat))
  | some (.alu 0x26 f _) =>
    { c with regs := c.regs.startLoop (immCount (f.ra.toNat * 64 + f.low.toNat / 1024)) (f.low.toNat % 64 + 1) }
  | some (.alu 0x27 f _) => { c with regs := c.regs.startLoop (regCount (r.rd f.ra.toNat)) (f.low.toNat % 64 + 1) }
  | _ =>
    let c' := { c with regs := c.regs.advance c.delay }
    match c.delay with
    | some (k + 2, a) => { c' with delay := some (k + 1, a) }
    | _ => { c' with delay := none }

/-- The ENDS of a bundle, if it holds one. -/
def endsOf (ops : List Op) : Option AluF :=
  match ops.find? Op.control with
  | some (.alu 0x28 f _) => some f
  | _ => none

/-- What ENDS hands the send unit (R262). -/
def endsSend (r : Regs) (f : AluF) (lvl : Word) : Send :=
  let a := f.ra.toNat
  let b := aluRb f
  { l := r.rd a, r := r.rd (a + 1), map := r.rd (a + 2), g := (List.range 4).map fun k => r.rd (b + k), cv := [], gate := [],
    level := lvl, cls := 0, stamp := 0 }

/-- The bound ring pointers advance at ENDS; one that saw no RAPP has 0 written at its position first (R258). A position at
or beyond L, which a program can put there, counts modulo L (log entry 33). -/
def Dev.advanceRings (d : Dev) (c : Ctx) : Dev × Ctx :=
  (List.range 4).foldl (fun dc k =>
    let (d, c) := dc
    let w := c.regs.rrp k
    if !d.winOk (rpWin w) then dc
    else
      let p := rpPos (tget 0 c.p0 k) % d.winL (rpWin w)
      let d := if c.appended.contains k then d else d.fabricWrite (d.winEntry (rpWin w) p) 0 0
      (d, { c with regs := c.regs.setRp k (w32 (rpWin w * 2 ^ 24 + (p + 1) % d.winL (rpWin w))) })) (d, c)

/-! ### Issue -/

/-- One bundle issues in context j of spindle n (R241): it traps with no effect, or each operation reads at issue, results
land by R263, and control passes on; ENDS ends the sample. -/
def Dev.issueOnce (d : Dev) (n j : Nat) (ops : List Op) : Dev :=
  let i := 18 * n + j
  let c := d.ctx i
  let cause := d.trapCause n c ops
  let d := if cause = 1 ∨ cause = 2 then d else d.overrun n c.cyc
  if cause ≠ 0 then d.trap n j cause c.regs.pc ops
  else
    let w := ops.foldl (fun w o => opWork n j c.regs o w) { d := d, c := c }
    let ctl := w.c.control c.regs ops
    let c' := { ctl with cyc := c.cyc + 1, lastStock := if ops.any Op.stock then some c.cyc else c.lastStock }
    let c' := c'.landTo c'.cyc
    let sp := w.d.spn n
    let d := w.d.setSpn n { sp with cycles := sp.cycles + 1 }
    match endsOf ops with
    | none => d.setCtx i c'
    | some f =>
      let dc := d.advanceRings c'.drain
      (dc.1.setCtx i dc.2).endSample i (endsSend c.regs f (dc.1.levelWord i)) dc.2.cyc

/-- Issue a bundle `k` times in consecutive cycles (R260); a trap stops it. -/
def Dev.issueRep (n j : Nat) (ops : List Op) : Nat → Dev → Dev
  | 0, d => d
  | k + 1, d =>
    if d.on (SPN_STATUS_TRAPPED n) then d
    else
      let pc := (d.ctx (18 * n + j)).regs.pc
      let d := d.issueOnce n j ops
      if d.on (SPN_STATUS_TRAPPED n) ∨ k = 0 then d
      else
        let c := d.ctx (18 * n + j)
        Dev.issueRep n j ops k (d.setCtx (18 * n + j) { c with regs := { c.regs with pc := pc } })

/-- A whole bundle issues, as often as a REP before it says. -/
def Dev.issue (d : Dev) (n j : Nat) (ops : List Op) : Dev :=
  let i := 18 * n + j
  match (d.ctx i).rep with
  | none => d.issueOnce n j ops
  | some k =>
    let d := Dev.issueRep n j ops k d
    let c := d.ctx i
    d.setCtx i { c with rep := none }

/-- A slot operation of spindle n: it joins the bundle of the running context, in place of one for the same slot, and the
last one issues the bundle. Without a running context nothing issues. -/
def slotOp (n : Nat) (o : Op) (last : Bool) (d : Dev) : Dev :=
  if !d.running || decide (16 ≤ n) || d.on (SPN_STATUS_TRAPPED n) then d
  else
    let sp := d.spn n
    match sp.cur with
    | none => d
    | some j =>
      let ops := (sp.bundle.filter fun p => p.slot != o.slot) ++ [o]
      if last then (d.setSpn n { sp with bundle := [] }).issue n j ops
      else d.setSpn n { sp with bundle := ops }

end Sys2Proof.Machine
end

