-- ==== Sys2Proof/Machine/Spindle.lean ====
section
/-! DEFINITION. The sequencer of a spindle: switching a context in to render a sample (R228 to R231), rollback orders with
their forecast and the overload cascade (R132 to R134, R143 to R146, R232 to R235), and the load counters (R239). -/
namespace Sys2Proof.Machine

/-! ### Budgets (R225, R235) -/

/-- Cycles of n_c contexts at an SPCLK and a voice rate: P, R_s and b (R225). -/
def budgetOf (spclk rate nc : Nat) : Nat × Nat × Nat :=
  let p := spclk / rate
  let r := p / 4
  (p, r, if nc = 0 then 0 else 32 * ((p - r - (8 * nc + 2)) / (32 * nc)))

/-- Contexts of spindle n with a rollback pending or running. -/
def Dev.rolling (d : Dev) (n : Nat) : List Nat := (List.range 16).filter fun j => (d.ctx (18 * n + j)).roll.isSome

/-- Cycles that rollback work of spindle n may use in a VS (R235); parting contexts draw on the reserve within it. -/
def Dev.rollAllowance (d : Dev) (n : Nat) : Nat :=
  let free := (List.range (d.offered n)).filter fun j => (d.voice (16 * n + j)).cls == clsFree
  d.fg (SPN_BUDGET_RESERVE n) + (free.length + (d.rolling n).length) * d.fg (SPN_VBUDGET_VOICE n)

/-- The cycles the next sample of context i is taken to need: what it used last, else the program's COST. -/
def Dev.nextCost (d : Dev) (i : Nat) : Nat :=
  let last := if i % 18 < 16 then d.fg (VOICE_CYC_LAST (voiceOf i)) else 0
  1 + (if last = 0 then d.fg (SPN_PROG_COST (i / 18)) else last) + if (d.ctx i).next.toNat % 16 = 0 then 64 else 0

/-- Add clocked cycles to the spindle's VS, and to its rollback work. -/
def Dev.spend (d : Dev) (n k : Nat) (roll : Bool) : Dev :=
  let sp := d.spn n
  d.setSpn n { sp with cycles := sp.cycles + k, rollUsed := if roll then sp.rollUsed + k else sp.rollUsed }

/-! ### The start of a sample (R127, R158, R174, R229, R244, R257) -/

/-- The sample that voice context i renders next: its next one, or for a free context the one at which a logged note
starts. -/
def Dev.target (d : Dev) (i : Nat) : Option Word :=
  let c := d.ctx i
  if (d.noteOf i).cls ≠ clsFree then some c.next
  else
    let from_ := c.freed.getD c.next
    let restored := c.roll.isSome && c.freed.isNone
    (c.log.find? fun e => e.starts &&
      (if restored then decide (later e.sample c.next ≥ 0) else c.freed.isNone || decide (later e.sample from_ ≥ 0))).map (·.sample)

/-- The part whose horizon governs voice context i: that of its note, or of the note that starts. -/
def Dev.ctxPart (d : Dev) (i : Nat) (s : Word) : Nat :=
  if (d.noteOf i).cls ≠ clsFree then (d.noteOf i).part
  else (((d.ctx i).log.find? fun e => e.starts && e.sample == s).map fun e => e.ev.part).getD 0

/-- Voice context i may render sample s now: within C + H_p; a paused one within C + 8; at most two frontier samples a VS,
and rollback work within its allowance (R123, R143, R145, R235). -/
def Dev.mayRender (d : Dev) (i : Nat) (s : Word) : Bool :=
  let c := d.ctx i
  decide (later s (d.frontier (d.ctxPart i s)) ≤ 0) &&
  (if c.roll.isSome then decide ((d.spn (i / 18)).rollUsed + d.nextCost i ≤ d.rollAllowance (i / 18))
   else decide (c.adv < 2) && (!c.paused || decide (later s (d.eng.c + 8) ≤ 0)))

/-- The logged events of sample s go to the voice in order: the note they make of it, the words EVPOP will take, and for
ROM Bowl its own state; a start loads its patch (R174, R257). -/
def Dev.takeEvents (d : Dev) (i : Nat) (es : List LogEnt) : Dev :=
  each es (fun e d =>
    let d := if e.starts then (d.loadPatch i e).fp (VOICE_CYC_PEAK (voiceOf i)) 0 else d
    let v0 := d.noteOf i
    let v := d.stepVoice (voiceOf i) e v0
    let b : BEnv := { d := d, i := i, n := (d.ctx i).next, rate := d.voiceRate }
    let v := if (d.spn (i / 18)).rom then b.onEvent v0 v e else v
    let c := d.ctx i
    let d := (d.setNote i v).setCtx i { c with evq := c.evq ++ [evWords e v] }
    if e.ev.kind = 1 then
      let vn := voiceOf i
      let d := if (d.pendOf vn).1 = e.tag then d.setPend vn 0 0 else d
      (((d.fp (ALLOC_NOTE_TAG vn) v.tag).fp
        (ALLOC_NOTE_UIDX vn) v.uidx).fp (ALLOC_NOTE_CHAN vn) v.chan).fp (ALLOC_NOTE_KEY vn) v.key |>.fp (ALLOC_OWNER_PART vn) v.part
    else d) d

/-- What commits of samples from `a` to `s` write to the VOICE registers of context i, before the events of s (R79, R176):
those applied, then the one that waits. -/
def Dev.commitVoice (d : Dev) (i : Nat) (a s : Word) : Dev :=
  let due := fun (x : Word) => decide (later x a ≥ 0) && decide (later s x ≥ 0)
  let mine := fun (w : Nat × Word) => decide (0x50000 ≤ w.1) && decide (w.1 < 0x90000) && (w.1 - 0x50000) / 0x400 == voiceOf i
  let past := (d.stg.past.filter fun p => due p.sample).flatMap (·.voice)
  let next := if due d.stg.sample then d.stg.buffer.getD [] else []
  each ((past ++ next).filter mine) (fun w d => d.setReg w.1 w.2) d

/-- The context begins a sample: PC at ENTRY, empty call stack, ring positions held, nothing counted (R229, R244, R258). -/
def Dev.beginCtx (d : Dev) (i : Nat) : Dev :=
  let n := i / 18
  let c := d.ctx i
  let d := d.setCtx i { c with
    regs := { c.regs with pc := BitVec.ofNat 11 (fieldOf (d.regAtSample (rSPN_PROG n) c.next) 26 16), stack := [] }
    cyc := 0, flight := [], acc := [], p0 := c.regs.rp, appended := [], rep := none, delay := none,
    lastStock := none }
  let sp := d.spn n
  ((d.setSpn n { sp with cur := some (i % 18), bundle := [] }).fp (SPN_STATUS_CUR n) (i % 18)).fp (SPN_STATUS_RUN n) 1

/-- On a spindle with the ROM copy of Bowl the program runs to its end of sample. -/
def Dev.runRom (d : Dev) (i : Nat) (start : Option Nat) (phi : Nat) (roll : Bool) : Dev :=
  let n := i / 18
  if !(d.spn n).rom then d
  else
    let r := d.bowlSample i start phi
    let d := (r.2.1.spend n r.2.2 roll)
    let d := if d.fg (SPN_VBUDGET_VOICE n) < r.2.2 then (d.count (SPN_OVRUN_OVERRUNS n)).raise 29 else d
    d.endSample i r.1 r.2.2

/-- PATCH_FETCH (R231): a start beyond the fourth of the VS waits where its buffer has not been refilled in time. -/
def Dev.fetchWait (d : Dev) (n : Nat) : Dev :=
  let sp := d.spn n
  let k := sp.used.length
  let ready := if k < 4 then 0 else sp.used.getD (k - 4) 0 + 96
  if ready ≤ sp.cycles then d.setSpn n { sp with used := sp.used ++ [sp.cycles] }
  else (d.setSpn n { sp with cycles := ready, used := sp.used ++ [ready] }).count (SPN_OVRUN_STALLS n)

/-- A voice context renders sample s: checkpoint at a multiple of 16 (and before a note that starts in a free context), a
steal where a note starts in a voice that is not free, the events of the sample, then the program (R127, R158, R174, R229).
With both parting contexts busy the older fade is shortened, and the voice waits (R160). -/
def Dev.renderVoice (d : Dev) (i : Nat) (s : Word) : Dev :=
  let n := i / 18
  let c := d.ctx i
  let es := c.log.filter fun e => e.sample == s
  let start := es.find? fun e => e.starts
  let v := d.noteOf i
  let roll := c.roll.isSome
  let steals := start.isSome && v.cls != clsFree
  let k := if !(d.partK n 0).busy then some 0 else if !(d.partK n 1).busy then some 1 else none
  if steals ∧ k = none then d.shortenPart n (d.olderPart n)
  else
    let save := s.toNat % 16 == 0 || (v.cls == clsFree && !roll && !c.ckpts.any fun k => k.sample == floor16 s)
    let d := if v.cls = clsFree then
        let c := d.ctx i
        d.setCtx i { c with next := s, freed := none }
      else d
    let d := (if save then d.saveCkpt i (floor16 s) else d).commitVoice i (if v.cls = clsFree then c.next else s) s
    let d := d.spend n (1 + if s.toNat % 16 = 0 ∧ v.cls ≠ clsFree then 64 else 0) roll
    let d := match steals, k with
      | true, some k => (d.steal (voiceOf i) k s).spend n 64 true
      | _, _ => d
    let d := if start.isSome then d.fetchWait n else d
    let c := d.ctx i
    let d := (d.setCtx i { c with evq := [] }).takeEvents i es
    let d := d.beginCtx i
    d.runRom i (start.map (·.phi)) ((es.getLast?.map (·.phi)).getD 0) roll

/-- A parting context renders its next sample (R158, R159). -/
def Dev.renderParting (d : Dev) (n k : Nat) : Dev :=
  let i := 18 * n + 16 + k
  let d := d.spend n 1 true
  let c := d.ctx i
  let d := d.setCtx i { c with evq := [] }
  (d.beginCtx i).runRom i none 0 true

/-- A suspended context goes on at its next bundle (R233). -/
def Dev.resume (d : Dev) (n j : Nat) : Dev :=
  let sp := d.spn n
  ((d.setSpn n { sp with cur := some j, susp := none }).fp (SPN_ORDERS_SUSP n) 0x1F).fp (SPN_STATUS_CUR n) j

/-- CONTEXT_SWITCH (R228 to R231): context c of spindle n, where its turn has come. -/
def contextSwitch (n c : Nat) (d : Dev) : Dev :=
  let sp := d.spn n
  if !d.running || decide (16 ≤ n) || decide (18 ≤ c) || d.on (SPN_STATUS_TRAPPED n) || sp.cur.isSome then d
  else if sp.susp = some c then d.resume n c
  else if c < 16 then
    match d.target (18 * n + c) with
    | none => d
    | some s => if d.mayRender (18 * n + c) s then d.renderVoice (18 * n + c) s else d
  else if (d.partK n (c - 16)).busy ∧
      later (d.ctx (18 * n + c)).next (d.frontier (d.noteOf (18 * n + c)).part) ≤ 0 then d.renderParting n (c - 16)
  else d

/-! ### Rollback orders (R132, R133, R143, R144, R232 to R234) -/

/-- Checkpoints that a re-render of samples from a (a multiple of 16) through x takes. -/
def ckptsIn (a x : Word) : Nat := (later x a).toNat / 16

/-- Work of a rollback of context i through stale sample x, from the checkpoint before s: restore, samples at the per-voice
budget, checkpoints (R132, R144). -/
def Dev.rollWork (d : Dev) (n : Nat) (s x : Word) : Nat :=
  let a := floor16 s
  64 + d.fg (SPN_VBUDGET_VOICE n) * ((later x a).toNat + 1) + 64 * ckptsIn a x

/-- Work of the rollbacks already admitted on spindle n other than of context j. -/
def Dev.backlog (d : Dev) (n j : Nat) : Nat :=
  (d.rolling n).foldl (fun a q =>
    if q = j then a
    else
      let c := d.ctx (18 * n + q)
      match c.roll with
      | some r => a + d.fg (SPN_VBUDGET_VOICE n) * (later r.front c.next + 1).toNat
      | none => a) 0

/-- Cycles a VS gives to rollbacks when context j has one too: with the parts' frontiers paused, the budgets of their
voices as well (R134, R143). -/
def Dev.rollSupply (d : Dev) (n j : Nat) (pausing : Bool) : Nat :=
  let b := d.fg (SPN_VBUDGET_VOICE n)
  let roll := if (d.rolling n).contains j then d.rolling n else j :: d.rolling n
  let free := (List.range (d.offered n)).filter fun q => (d.voice (16 * n + q)).cls == clsFree
  let parts := roll.map fun q => (d.voice (16 * n + q)).part
  let paused := (List.range (d.offered n)).filter fun q =>
    (d.voice (16 * n + q)).cls != clsFree && !roll.contains q && parts.contains (d.voice (16 * n + q)).part &&
    decide (later (d.ctx (18 * n + q)).next (d.eng.c + 8) > 0)
  d.fg (SPN_BUDGET_RESERVE n) + b * (roll.length + free.length + if pausing then paused.length else 0)

/-- The forecast of R144 for a rollback of context j at sample s with the frontier `front`: every stale sample is rendered
before C reaches it. -/
def Dev.forecast (d : Dev) (n j : Nat) (s front : Word) (pausing : Bool) : Bool :=
  let m := (later front s + 1).toNat
  (List.range m).all fun q =>
    let x := s + w32 q
    decide (d.backlog n j + d.rollWork n s x ≤ d.rollSupply n j pausing * (later x d.eng.c).toNat)

/-- Pause frontier advance for voices of the parts with rollbacks pending on spindle n (R143, step 3). -/
def Dev.pauseParts (d : Dev) (n j : Nat) : Dev :=
  let parts := (j :: d.rolling n).map fun q => (d.voice (16 * n + q)).part
  each (List.range 16) (fun q d =>
    let c := d.ctx (18 * n + q)
    if (d.voice (16 * n + q)).cls != clsFree && parts.contains (d.voice (16 * n + q)).part && c.roll.isNone then
      d.setCtx (18 * n + q) { c with paused := true } else d) ((d.count (SPN_OVCNT_PAUSES n)).raise 28)

/-- Shift an event of context i from sample s to s + k (R143, step 4): its onset stays, it is flagged late. -/
def Dev.shiftEvent (d : Dev) (n i : Nat) (seq k : Nat) : Dev :=
  let c := d.ctx i
  let moved := c.log.filter fun e => e.ev.seq == seq
  let rest := c.log.filter fun e => e.ev.seq != seq
  let d := d.setCtx i { c with log := moved.foldl (fun l e =>
    d.insLog { e with sample := e.sample + w32 k, ev := { e.ev with late := true } } l) rest }
  (d.lateEvent seq).count (SPN_OVCNT_SHIFTS n)

/-- The parting contexts of spindle n that hold a steal from voice v at or after the checkpoint are freed, and what they
contributed is taken back (R129). -/
def Dev.undoSteals (d : Dev) (v : Nat) (ck : Word) : Dev :=
  each (List.range 2) (fun k d =>
    let p := d.partK (v / 16) k
    if p.busy && p.voice == v && decide (later p.stealAt ck ≥ 0) then d.freePart (v / 16) k (some p.stealAt) else d) d

/-- The running context gives way (R233, R234): the target's own sample is abandoned; another context is suspended at a
bundle boundary with its results landed. While one is suspended already, the running one goes on. -/
def Dev.giveWay (d : Dev) (n j : Nat) : Dev :=
  let sp := d.spn n
  let d := if sp.susp = some j then (d.setSpn n { sp with susp := none }).fp (SPN_ORDERS_SUSP n) 0x1F else d
  let sp := d.spn n
  match sp.cur with
  | none => d
  | some q =>
    if q = j then (d.setSpn n { sp with cur := none, bundle := [] }).fp (SPN_STATUS_CUR n) 0x1F
    else if sp.susp.isNone then
      let c := d.ctx (18 * n + q)
      (((d.setCtx (18 * n + q) c.drain).setSpn n { sp with cur := none, susp := some q }).fp (SPN_ORDERS_SUSP n) q).fp
        (SPN_STATUS_CUR n) 0x1F
    else d

/-- The rollback of context i for sample s begins: from its checkpoint, or in a free context at s itself (R132, R234). -/
def Dev.startRoll (d : Dev) (i : Nat) (s : Word) : Dev :=
  let n := i / 18
  let j := i % 18
  let c := d.ctx i
  let front := match c.roll with
    | some r => r.front
    | none => c.next - 1
  let d := d.giveWay n j
  let d := (d.fp (SPN_ORDERS_PEND n) (d.fg (SPN_ORDERS_PEND n) ||| 2 ^ j)).fp (SPN_STATUS_RUN n) 1
  match d.ckptFor i s with
  | none =>
    let c := d.ctx i
    d.setCtx i { c with roll := some { stale := s, front := s - 1 }, next := s, freed := none }
  | some k =>
    let gone := match c.freed with
      | some f => decide (later s f ≥ 0)
      | none => true
    if (d.noteOf i).cls == clsFree && c.roll.isNone && gone then
      let c := d.ctx i
      d.setCtx i { c with roll := some { stale := s, front := s - 1 }, next := s }
    else
      let d := ((d.undoSteals (voiceOf i) k.sample).restore i k).spend n 65 true
      let c := d.ctx i
      d.setCtx i { c with roll := some { stale := s, front := front } }

/-- ROLLBACK_ORDER (R132, R133, R143, R144, R232 to R234): an order on its way reaches spindle n for context c at `sample`. -/
def rollbackOrder (n c : Nat) (sample : Word) (d : Dev) : Dev :=
  match d.eng.transit.find? fun o => o.1 == n && o.2.1 == c && o.2.2.1 == sample with
  | none => d
  | some o =>
    if !d.running then d else
    let d := { d with eng := { d.eng with transit := d.eng.transit.erase o } }
    if d.on (SPN_STATUS_TRAPPED n) || decide (16 ≤ n) || decide (16 ≤ c) then d
    else
      let i := 18 * n + c
      let seq := o.2.2.2
      let x := d.ctx i
      let d := d.count (SPN_RBCNT_ORDERS n)
      let d := if x.roll.isSome then d.count (SPN_RBCNT_MERGED n) else d
      if x.roll.isSome ∧ later sample x.next ≥ 0 then d
      else
        let front := match x.roll with
          | some r => r.front
          | none => x.next - 1
        if d.forecast n c sample front false then d.startRoll i sample
        else
          let d := d.pauseParts n c
          if d.forecast n c sample front true then d.startRoll i sample
          else
            let most := (later (front + 1) sample).toNat
            let k := ((List.range (most + 1)).find? fun k =>
              decide (0 < k) && (k == most || d.forecast n c (sample + w32 k) front true)).getD most
            let d := d.shiftEvent n i seq k
            if k = most then d else d.startRoll i (sample + w32 k)

/-- PEAK_CLEAR: a write of SPNn_LOAD clears PEAK to LAST (R239). -/
def peakClear (n : Nat) (_v : Word) (d : Dev) : Dev :=
  if n < 16 then d.fp (SPN_LOAD_PEAK n) (d.fg (SPN_LOAD_LAST n)) else d

/-- At a VS boundary the cycles of the VS become LAST, and the counts of the new VS begin (R239). -/
def Dev.spnBoundary (d : Dev) (n : Nat) : Dev :=
  let sp := d.spn n
  let d := (d.fp (SPN_LOAD_LAST n) (min 0xFFFF sp.cycles)).fp (SPN_LOAD_PEAK n) (max (d.fg (SPN_LOAD_PEAK n)) (min 0xFFFF sp.cycles))
  d.setSpn n { sp with cycles := 0, used := [], rollUsed := 0 }

def execContextSwitch (n c : Nat) (s : State) : Host.Outcome State Fault Refusal := done s (contextSwitch n c s.dev)
def execRollbackOrder (n c : Nat) (sample : Word) (s : State) : Host.Outcome State Fault Refusal :=
  done s (rollbackOrder n c sample s.dev)
def execPeakClear (n : Nat) (v : Word) (s : State) : Host.Outcome State Fault Refusal := done s (s.dev.heard (peakClear n v))

end Sys2Proof.Machine
end

