-- ==== Sys2Proof/Machine/Port.lean ====
section
/-! DEFINITION. Serial audio ports (chapter 11): start and stop, frames with their queues, delivery to voices and buses,
changes of maps and formats, stamps, the recorder. FRAME_START stands for a whole frame: its slots are sent and received
with it (log entry 27). -/
namespace Sys2Proof.Machine

/-! ### Layout (R315 to R319) -/

/-- Slot width SW in bits. -/
def Dev.slotW (d : Dev) (n : Nat) : Nat :=
  match d.fg (SAP_FORMAT_SW n) with
  | 0 => 16 | 1 => 20 | 2 => 24 | _ => 32

/-- Data width DW in bits. -/
def Dev.dataW (d : Dev) (n : Nat) : Nat :=
  match d.fg (SAP_FORMAT_DW n) with
  | 0 => 16 | 1 => 24 | _ => 32

/-- VS in a frame of port n: a master's from its divider (R319), a slave's one OS (R320). -/
def Dev.portStep (d : Dev) (n : Nat) : Nat :=
  if d.on (SAP_CTRL_MASTER n) then
    max 1 (d.fg (SAP_FRAME_BITS n) * (d.fg (SAP_CLKDIV_N n) * 65536 + d.fg (SAP_CLKDIV_FR n)) * 2 ^ d.fg MIX_RATE_MULT
      / (2048 * 65536))
  else d.osf

/-- Data bits of slot k that lie within `limit` BCLK periods of the frame (R316). -/
def Dev.slotBits (d : Dev) (n k limit : Nat) : Nat :=
  min (d.dataW n) (min limit (d.fg (SAP_FRAME_BITS n)) - (d.fg (SAP_FRAME_OFFSET n) + k * d.slotW n))

/-- The upper `m` bits of a word. -/
def topBits (w : Word) (m : Nat) : Word := w32 (w.toNat / 2 ^ (32 - min m 32) * 2 ^ (32 - min m 32))

/-- A sample on the wire: rounded to DW bits, clamped (R318), in the word's upper bits. -/
def Dev.wire (d : Dev) (n : Nat) (x : Word) : Word :=
  let w := d.dataW n
  let v := convergent x.toInt (32 - w)
  w32i (max (-(2 : Int) ^ (w - 1)) (min (2 ^ (w - 1) - 1) v) * 2 ^ (32 - w))

/-! ### Flags (R327) -/

/-- An underrun of a channel: its flag, and once in the frame the count and source n. -/
def Dev.portUnd (d : Dev) (n c : Nat) (tx : Bool) : Dev :=
  let d := d.setBit (if tx then rSAP_TXUND n else rSAP_RXUND n) c
  if (d.port n).und then d else ((d.setPort n { d.port n with und := true }).count (SAP_CNT_UND n)).raise n

/-- An overrun of a channel, source 4 + n. -/
def Dev.portOvr (d : Dev) (n c : Nat) (tx : Bool) : Dev :=
  let d := d.setBit (if tx then rSAP_TXOVR n else rSAP_RXOVR n) c
  if (d.port n).ovr then d else ((d.setPort n { d.port n with ovr := true }).count (SAP_CNT_OVR n)).raise (4 + n)

/-! ### Feeding the transmit queues (R324, R325, R332) -/

/-- TXMAPc of port n as it governs output index o: a committed map that waits for its frame governs the feed from the
index of its sample on (R332). -/
def Dev.txmapFor (d : Dev) (n c o : Nat) : Word :=
  let s := d.sampleAt o (d.portStep n)
  d.stg.atC.foldl (fun w e => if e.1 = rSAP_TXMAP n c ∧ later s e.2.2 ≥ 0 then e.2.1 else w) (d.reg (rSAP_TXMAP n c))

/-- Enter (o, x) into the queue of transmit channel c (R325). -/
def Dev.feedTx (d : Dev) (n c o : Nat) (x : Word) : Dev :=
  let p := d.port n
  let q := tget [] p.txq c
  if 4 ≤ q.length then d.portOvr n c true else d.setPort n { p with txq := tput [] p.txq c (q ++ [(o, x)]) }

/-- Feed every transmit channel of a running port whose map for index o names this source. -/
def Dev.feedFrom (d : Dev) (n type index o : Nat) (x : Word) : Dev :=
  if !(d.port n).run then d
  else each (List.range 32) (fun c d =>
    let m := d.txmapFor n c o
    if bitOf m 31 && fieldOf m 9 8 == type && fieldOf m 6 0 == index then d.feedTx n c o x else d) d

/-- The buses whose output is complete once voice sample s has been committed go to the ports (R300, R325). -/
def Dev.feedBuses (d : Dev) (s : Word) : Dev :=
  each (List.range 4) (fun n d =>
    if !(d.port n).run then d
    else
      let step := d.portStep n
      each (List.range 64) (fun b d =>
        let p : Nat := 2 ^ d.busStages b
        if later s d.mix.osBase % (p : Int) = ((p - 1 : Nat) : Int) then
          let c := s - w32 (d.fg MIX_DOUT_DOUT) + w32 p
          let lab := c - w32i (later c d.mix.osBase % (p : Int))
          d.feedFrom n 0 b (d.idxAt lab step) (d.busOutAt b lab)
        else d) d) d

/-! ### Start and stop (R322, R323) -/

/-- Port n is to start at the first OS boundary at or after sample `at_`. -/
def Dev.armPort (d : Dev) (n : Nat) (at_ : Word) : Dev := d.setPort n { d.port n with startWait := some at_ }

/-- A trigger now, strictly inside a VS: the start lies more than 2 OS after its sample. -/
def Dev.triggerPort (d : Dev) (n : Nat) : Dev := d.armPort n (d.eng.c + w32 (2 * d.osf + 1))

/-- Port n stops: nothing framed, queues flushed. -/
def Dev.stopPort (d : Dev) (n : Nat) : Dev :=
  (d.setPort n { Port.idle with fst := (d.port n).fst, cst := (d.port n).cst }).fp (SAP_STATUS_RUN n) 0

/-- Every port stops (R32, R323). -/
def Dev.stopPorts (d : Dev) : Dev := each (List.range 4) (fun n d => d.stopPort n) d

/-- Every enabled port is to start 2 OS after sample s, the VS boundary of an entry to RUN (R322). -/
def Dev.armPorts (d : Dev) (s : Word) : Dev :=
  each (List.range 4) (fun n d => if d.on (SAP_CTRL_EN n) then d.armPort n (s + w32 (2 * d.osf)) else d) d

/-- SAP_START: ARM, and with GO the start of the armed, enabled, stopped ports (R322). -/
def sapStart (v : Word) (d : Dev) : Dev :=
  let d := d.fp SAP_START_ARM v.toNat
  let show_ := fun (d : Dev) => each (List.range 4) (fun n d =>
    d.fp (SAP_STATUS_ARMED n) (d.fg SAP_START_ARM / 2 ^ n)) d
  if !bitOf v 4 then show_ d
  else
    let go := fun (n : Nat) (d : Dev) =>
      let p := d.port n
      if bitOf v n && d.on (SAP_CTRL_EN n) && !p.run && p.startWait.isNone && d.running then d.triggerPort n else d
    show_ ((each (List.range 4) go d).fp SAP_START_ARM 0)

/-- The output point stands on the OS grid (R300, R326). -/
def Dev.onOs (d : Dev) (step : Nat) : Bool := decide (later d.outPoint d.mix.osBase % (step : Int) = 0)

/-- PORT_START (R322): at an OS boundary, the waiting start of port n. Ports that start together share o_0. -/
def portStart (n : Nat) (d : Dev) : Dev :=
  let p := d.port n
  match p.startWait with
  | none => d
  | some w =>
    if d.running && decide (n < 4) && d.onOs d.osf && decide (later d.eng.c w ≥ 0) then
      let o := d.idxAt d.outPoint (d.portStep n)
      (((d.setPort n { Port.idle with run := true, first := !d.on (SAP_CTRL_MASTER n), o0 := o }).fp (SAP_STATUS_RUN n) 1).setReg
        (rSAP_FCNT n) 0).fp (SAP_STATUS_LOST n) 0
    else d

/-! ### The recorder (R335, R336) -/

/-- The bytes of one sample (R335). -/
def packSample (pack : Nat) (x : Word) : List Byte :=
  let v := x.toNat / 256
  match pack with
  | 0 => leBytes 3 v
  | 1 => leBytes 4 (w32i (x.toInt / 256)).toNat
  | _ => leBytes 4 (v * 256)

/-- Write bytes from the recorder's pointer on; with `wrap` byte by byte round the buffer. -/
def Dev.recBytes (d : Dev) (n : Nat) : List Byte → Dev
  | [] => d
  | b :: bs =>
    let p := d.fg (SAP_REC_PTR_VALUE n)
    let d := d.recWriteByte n p b
    let base := d.fg (SAP_REC_BASE_VALUE n)
    let p' := if p + 1 = base + d.fg (SAP_REC_LEN_VALUE n) ∧ d.on (SAP_REC_CTRL_MODE n) then base else p + 1
    (d.fp (SAP_REC_PTR_VALUE n) p').recBytes n bs

/-- RECORDER_RECORD: one record of the given samples (R335, R336). -/
def Dev.record (d : Dev) (n : Nat) (xs : List Word) : Dev :=
  if !(d.port n).recRun || d.on (SAP_REC_STAT_DONE n) then d
  else
    let bytes := xs.flatMap (packSample (d.fg (SAP_REC_CTRL_PACK n)))
    let end_ := d.fg (SAP_REC_BASE_VALUE n) + d.fg (SAP_REC_LEN_VALUE n)
    if !d.on (SAP_REC_CTRL_MODE n) && decide (end_ < d.fg (SAP_REC_PTR_VALUE n) + bytes.length) then
      (d.fp (SAP_REC_STAT_DONE n) 1).setPort n { d.port n with recRun := false }
    else (d.recBytes n bytes).count (SAP_REC_STAT_FRAMES n)

/-! ### Changes (R322, R323, R331 to R333, R336) -/

/-- The registers of port n. -/
def ofPort (n a : Nat) : Bool := decide (0xB1000 + n * 0x1000 ≤ a) && decide (a < 0xB2000 + n * 0x1000)

/-- Apply committed registers of port n: maps to their channels, a start, a stop or a restart, the recorder. -/
def Dev.applyPort (d : Dev) (n : Nat) (rs : List (Nat × Word)) : Dev :=
  if rs.isEmpty then d
  else
    let before := d
    let d := rs.foldl (fun d r => d.setReg r.1 r.2) d
    let p := before.port n
    let keep := fun (reg : Nat → Nat) (q : Tbl (List (Nat × Word))) =>
      q.filter fun e => before.reg (reg e.1) == d.reg (reg e.1)
    let d := d.setPort n { p with txq := keep (rSAP_TXMAP n) p.txq, rxq := keep (rSAP_RXMAP n) p.rxq }
    let was := before.on (SAP_REC_CTRL_ARM n)
    let now := d.on (SAP_REC_CTRL_ARM n)
    let d := if !was && now then
        (((d.fp (SAP_REC_STAT_DONE n) 0).fp (SAP_REC_STAT_FRAMES n) 0).fp (SAP_REC_PTR_VALUE n) (d.fg (SAP_REC_BASE_VALUE n))).setPort n
          { d.port n with recRun := true }
      else if was && !now then d.setPort n { d.port n with recRun := false } else d
    let changed := fun (a : Nat) => before.reg a != d.reg a
    let geometry := changed (rSAP_FRAME n) || changed (rSAP_FORMAT n) || changed (rSAP_CLKDIV n) ||
      before.on (SAP_CTRL_MASTER n) != d.on (SAP_CTRL_MASTER n)
    let rr := (d.port n).recRun
    let again := fun (d : Dev) => d.setPort n { d.port n with recRun := rr }
    if before.on (SAP_CTRL_EN n) && !d.on (SAP_CTRL_EN n) then d.stopPort n
    else if !before.on (SAP_CTRL_EN n) && d.on (SAP_CTRL_EN n) then d.triggerPort n
    else if geometry && p.run then again ((d.stopPort n).triggerPort n)
    else d

/-- The committed registers that wait for port n and whose sample `ok` has reached; they leave the list. -/
def Dev.takePort (d : Dev) (n : Nat) (ok : Word → Bool) : Dev :=
  let mine := d.stg.atC.filter fun e => ofPort n e.1 && ok e.2.2
  let d := { d with stg := { d.stg with atC := d.stg.atC.filter fun e => !(ofPort n e.1 && ok e.2.2) } }
  d.applyPort n (mine.map fun e => (e.1, e.2.1))

/-! ### Frames (R320, R321, R324, R325, R334) -/

/-- Send on channel c in the frame carrying o (R325): the sample, and the device. -/
def Dev.sendTx (d : Dev) (n c o : Nat) : Word × Dev :=
  if fieldOf (d.reg (rSAP_TXMAP n c)) 9 8 = 3 then (0, d)
  else
    let p := d.port n
    let q := (tget [] p.txq c).filter fun e => decide (o ≤ e.1)
    match q with
    | (i, x) :: t =>
      if i = o then (x, d.setPort n { p with txq := tput [] p.txq c t })
      else (0, (d.setPort n { p with txq := tput [] p.txq c q }).portUnd n c true)
    | [] => (0, (d.setPort n { p with txq := tput [] p.txq c [] }).portUnd n c true)

/-- A sample received on channel c in the frame carrying o (R326). -/
def Dev.takeRx (d : Dev) (n c o : Nat) (x : Word) : Dev :=
  let p := d.port n
  let q := tget [] p.rxq c
  if 4 ≤ q.length then d.portOvr n c false else d.setPort n { p with rxq := tput [] p.rxq c (q ++ [(o, x)]) }

/-- The enabled channel of a slot, the lowest-numbered one. -/
def Dev.slotChan (d : Dev) (n k : Nat) : Option Nat :=
  (List.range 32).find? fun c => d.on (SAP_TXMAP_EN n c) && d.fg (SAP_TXMAP_SLOT n c) == k

/-- Send every slot of the frame carrying o: SDOUT slot by slot, and the samples sent by channel (R316, R324). -/
def Dev.sendFrame (d : Dev) (n o limit : Nat) (live : Bool) : Dev × List (Nat × Word) :=
  let r := (List.range (d.fg (SAP_FRAME_SLOTS n))).foldl (fun (a : Dev × List (Option Word) × List (Nat × Word)) k =>
    let (d, out, sent) := a
    match d.slotChan n k with
    | none => (d, out ++ [if d.on (SAP_FORMAT_TRI n) then none else some 0], sent)
    | some c =>
      let m := d.slotBits n k limit
      if m = 0 then (d, out ++ [some 0], sent)
      else
        let (x, d) := if live then d.sendTx n c o else (0, d)
        (d, out ++ [some (topBits (d.wire n x) m)], sent ++ [(c, x)])) (d, [], [])
  (r.1.setPort n { r.1.port n with sdout := r.2.1 }, r.2.2)

/-- Receive every enabled channel of the frame carrying o (R316, R318, R326). -/
def Dev.receiveFrame (d : Dev) (n o limit : Nat) (rx : List Word) : Dev :=
  each ((List.range 32).filter fun c => d.on (SAP_RXMAP_EN n c)) (fun c d =>
    let k := d.fg (SAP_RXMAP_SLOT n c)
    if k < d.fg (SAP_FRAME_SLOTS n) ∧ d.fg (SAP_FRAME_OFFSET n) + k * d.slotW n < limit then
      d.takeRx n c o (topBits (rx.getD k 0) (d.slotBits n k limit))
    else d) d

/-- FRAME_START (R334): the frame of port n that lasts `bclks` BCLK periods and receives `rx` slot by slot. A slave fixes
its o_0 at the first one. -/
def frameStart (n bclks : Nat) (rx : List Word) (d : Dev) : Dev :=
  let live := d.running
  let warm := d.pwr.mode == .rest && !d.pwr.cold && !d.pwr.frozen
  if !(d.port n).run || decide (4 ≤ n) || !(live || warm) then d
  else
    let p := d.port n
    let o0 := if p.first then d.idxAt d.outPoint (d.portStep n) else p.o0
    let o := o0 + p.frames
    let d := d.setPort n { p with first := false, o0 := o0, und := false, ovr := false }
    let step := d.portStep n
    let d := d.takePort n fun s => decide (later (d.sampleAt o step) s ≥ 0)
    if !(d.port n).run then d
    else
      let master := d.on (SAP_CTRL_MASTER n)
      let limit := if master then d.fg (SAP_FRAME_BITS n) else bclks
      let d := if !master && bclks != d.fg (SAP_FRAME_BITS n) then d.count (SAP_CNT_FERR n) else d
      let d := d.fp (SAP_STATUS_LOST n) 0
      let t := d.now
      let content := t - w32i (roundDiv ((d.fg MIX_DOUT_DOUT : Int) * 1000000000) d.voiceRate)
      let d := (d.setPort n { d.port n with frames := p.frames + 1, fst := t, cst := content }).setReg (rSAP_FCNT n) (w32 p.frames)
      let r := d.sendFrame n o limit live
      let d := if live then r.1.receiveFrame n o limit rx else r.1
      if live && d.on (SAP_REC_CTRL_SRC n) then
        d.record n (((List.range 32).filter fun c => d.on (SAP_TXMAP_EN n c) && d.on (SAP_TXMAP_REC n c)).map fun c =>
          ((r.2.find? fun e => e.1 == c).map (·.2)).getD 0)
      else d

/-- FRAME_LOST (R320). -/
def frameLost (n : Nat) (d : Dev) : Dev :=
  if (d.port n).run && decide (n < 4) && !d.on (SAP_CTRL_MASTER n) then d.fp (SAP_STATUS_LOST n) 1 else d

/-- FCNT_READ: a read of SAPn_FCNT copies the frame's stamps into the holding registers (R334). -/
def fcntRead (n : Nat) (d : Dev) : Dev :=
  if n < 4 then (d.setReg (rSAP_FSTAMP n) (d.port n).fst).setReg (rSAP_CSTAMP n) (d.port n).cst else d

/-! ### Delivery (R326 to R330) -/

/-- The sample that receive channel c delivers for index o, and the device (R326). -/
def Dev.deliverRx (d : Dev) (n c o : Nat) : Word × Dev :=
  let p := d.port n
  let q := tget [] p.rxq c
  let old := q.filter fun e => decide (e.1 < o)
  let d := if old.isEmpty then d else d.portOvr n c false
  let q := q.filter fun e => decide (o ≤ e.1)
  let set := fun (d : Dev) (q : List (Nat × Word)) => d.setPort n { d.port n with rxq := tput [] (d.port n).rxq c q }
  match q with
  | (i, x) :: t => if i = o then (x, set d t) else (0, (set d q).portUnd n c false)
  | [] => (0, (set d q).portUnd n c false)

/-- One entry of a voice-input ring, written by the owner code `code` (R328, R329, R420). -/
def Dev.ringEntry (d : Dev) (code off : Nat) (x v : Word) : Dev :=
  if d.bankCur (bankOf off) = code ∧ off + 8 ≤ stockSize then d.wbs (stockBase + off) (leBytes 4 x.toNat ++ leBytes 4 v.toNat)
  else d.violation code true off

/-- The value at position i of F between the last delivered sample and x (R328). -/
def interpAt (interp : Bool) (x p : Word) (i f : Nat) : Word :=
  if interp then w32i (p.toInt + Int.tdiv ((x.toInt - p.toInt) * ((i + 1 : Nat) : Int)) (f : Int)) else x

/-- A delivered sample goes to the voice-input ring, to its bus, and to the transmit channels that pass it on. -/
def Dev.deliver (d : Dev) (n c o : Nat) (x : Word) : Dev :=
  let f := d.portStep n
  let s := d.sampleAt o f + w32 (d.fg MIX_DOUT_DOUT)
  let p := tget 0 (d.port n).prev c
  let d := d.setPort n { d.port n with prev := tput 0 (d.port n).prev c x }
  let d := if d.on (SAP_RXMAP_VIN n c) then
      each (List.range f) (fun i d =>
        let v := s + w32 (65 + i)
        let off := d.fg (SAP_VIN_BASE n) + 8 * (c * d.vinLen n + v.toNat % d.vinLen n)
        d.ringEntry (n + 1) off (interpAt (d.on (SAP_CTRL_INTERP n)) x p i f) v) d
    else d
  let d := if d.on (SAP_RXMAP_BUSEN n c) then
      each (List.range f) (fun i d =>
        let k := busKey (s + w32 (2 * f + i)) (d.fg (SAP_RXMAP_BUS n c))
        { d with mix := { d.mix with direct := tput 0 d.mix.direct k (tget 0 d.mix.direct k + BitVec.ofInt 40 x.toInt) } }) d
    else d
  each (List.range 4) (fun m d => d.feedFrom m 1 (32 * n + c) (o + 2) x) d

/-- OS_BOUNDARY (R326): every receive channel of a running port delivers for the index at the output point, and the
recorder takes what was delivered. -/
def osBoundary (d : Dev) : Dev :=
  if !d.running then d
  else each (List.range 4) (fun n d =>
    let o := d.idxAt d.outPoint (d.portStep n)
    let p := d.port n
    if !p.run || !d.onOs (d.portStep n) || decide (o < p.lastO) || decide (o < p.o0) then d
    else
      let d := d.setPort n { p with lastO := o + 1 }
      let r := ((List.range 32).filter fun c => d.on (SAP_RXMAP_EN n c)).foldl (fun (a : Dev × List Word) c =>
        let x := a.1.deliverRx n c o
        (x.2.deliver n c o x.1, if a.1.on (SAP_RXMAP_REC n c) then a.2 ++ [x.1] else a.2)) (d, [])
      if r.1.on (SAP_REC_CTRL_SRC n) then r.1 else r.1.record n r.2) d

def execSapStart (v : Word) (s : State) : Host.Outcome State Fault Refusal := done s (s.dev.heard (sapStart v))
def execPortStart (n : Nat) (s : State) : Host.Outcome State Fault Refusal := done s (portStart n s.dev)
def execFrameStart (n bclks : Nat) (rx : List Word) (s : State) : Host.Outcome State Fault Refusal :=
  done s (frameStart n bclks rx s.dev)
def execFrameLost (n : Nat) (s : State) : Host.Outcome State Fault Refusal := done s (frameLost n s.dev)
def execFcntRead (n : Nat) (s : State) : Host.Outcome State Fault Refusal := done s (s.dev.heard (fcntRead n))

end Sys2Proof.Machine
end

