-- ==== Sys2Proof/Machine/Timer.lean ====
section
/-! DEFINITION. The timers (R347 to R355): ticks, matches and wraps, gates and triggers, captures. -/
namespace Sys2Proof.Machine

/-- Whether a timer's clock runs (R347); the clocks of a frozen device stand (R486). -/
def Dev.tmrClock (d : Dev) (n : Nat) : Bool :=
  !d.pwr.frozen && match d.fg (TMR_CFG_CLK n) with
  | 0 => d.pwr.mode == .run || (d.pwr.mode == .rest && !d.pwr.cold)
  | 1 => d.pwr.mode == .run || d.pwr.mode == .rest
  | _ => d.running || (d.pwr.mode == .rest && !d.pwr.cold)

/-- A flag of timer n whose enable is 1 is set (R355). -/
def Dev.tmrAsks (d : Dev) (n : Nat) : Bool :=
  (d.on (TMR_STAT_STUCK n) && d.on (TMR_CFG_IES n)) || (d.on (TMR_STAT_NEW n) && d.on (TMR_CFG_IEC n)) ||
  (d.on (TMR_STAT_OVF n) && d.on (TMR_CFG_IEO n)) || (d.on (TMR_STAT_MATCH n) && d.on (TMR_CFG_IEM n))

/-- Sources 49 and 50 follow the flags of their groups (R355, R483). -/
def Dev.tmrGroups (d : Dev) : Dev :=
  each [0, 1] (fun g d =>
    let k := 49 + g
    let asks := (List.range 8).any fun i => d.tmrAsks (8 * g + i)
    let held := d.evt.level.contains k
    if asks && !held then { d with evt := { d.evt with level := k :: d.evt.level } }.raise k
    else if !asks && held then { d with evt := { d.evt with level := d.evt.level.filter (· != k) } }
    else d) d

/-- The pin of modes 1 and 2 follows CNT and CMP (R348). -/
def Dev.tmrPwm (d : Dev) (n : Nat) : Dev :=
  let t := d.tmr n
  let m := d.fg (TMR_CFG_MODE n)
  if m = 1 ∨ m = 2 then d.setTmr n { t with pin := t.run && decide (t.cnt.toNat < t.cmp.toNat) } else d

/-- CNT becomes `v`. -/
def Dev.setCnt (d : Dev) (n : Nat) (v : Word) : Dev :=
  ((d.setTmr n { d.tmr n with cnt := v }).setReg (rTMR_CNT n) v).tmrPwm n

/-- MATCH sets on the tick at which CNT becomes equal to CMP (R349); the wake of an XO32 timer is REST_WAKE's. -/
def Dev.tmrMatch (d : Dev) (n : Nat) : Dev := (d.fp (TMR_STAT_MATCH n) 1).tmrGroups

/-- A timer stops, keeping its count, its pin inactive (R348, R350). -/
def Dev.tmrHalt (d : Dev) (n : Nat) : Dev :=
  (d.setTmr n { d.tmr n with run := false, pin := false, pulse := 0, held := false }).fp (TMR_STAT_RUN n) 0

/-- A wrap (R349): OVF, the preloads come into use, a one-shot stops with CNT = 0. -/
def Dev.tmrWrap (d : Dev) (n : Nat) : Dev :=
  let t := d.tmr n
  let t := { t with per := if t.perNew then d.reg (rTMR_PER n) else t.per, perNew := false,
                    cmp := if t.cmpNew then d.reg (rTMR_CMP n) else t.cmp, cmpNew := false }
  let d := (((d.setTmr n t).fp (TMR_STAT_OVF n) 1).setCnt n 0)
  let d := if d.fg (TMR_CFG_MODE n) = 2 then d.tmrHalt n else d
  if t.cmp = 0 then d.tmrMatch n else d.tmrGroups

/-- One tick of timer n (R347 to R350): its first tick starts it at PHASE. -/
def Dev.tmrTick (d : Dev) (n : Nat) : Dev :=
  let t := d.tmr n
  let d := if t.pulse = 0 then d else d.setTmr n { t with pulse := t.pulse - 1, pin := decide (t.pulse ≠ 1) }
  if !t.run then d
  else if t.held then (d.setTmr n { d.tmr n with held := false }).tmrPwm n
  else if t.cnt.toNat ≥ t.per.toNat then d.tmrWrap n
  else
    let d := d.setCnt n (t.cnt + 1)
    if t.cnt + 1 = t.cmp then d.tmrMatch n else d

/-- A tick of clock `c` for every timer that runs on it. -/
def Dev.tmrTicks (d : Dev) (c : Nat) : Dev :=
  each ((List.range 16).filter fun n => d.fg (TMR_CFG_CLK n) == c && d.tmrClock n && ((d.tmr n).run || (d.tmr n).pulse != 0))
    (fun n d => d.tmrTick n) d

/-- Start timer n at its next tick (R350). -/
def Dev.tmrStart (d : Dev) (n : Nat) : Dev :=
  let p := d.reg (rTMR_PHASE n)
  ((d.setTmr n { d.tmr n with run := true, cnt := p, held := true, edges := 0 }).setReg (rTMR_CNT n) p).fp (TMR_STAT_RUN n) 1

/-- TIMER_START: the START bits of a TMR_CTRL write, where timers run (R347, R350). -/
def timerStart (v : Word) (d : Dev) : Dev :=
  if !d.alive then d else each ((List.range 16).filter (bitOf v)) (fun n d => d.tmrStart n) d

/-- TIMER_STOP: the STOP bits of a TMR_CTRL write (R350). -/
def timerStop (v : Word) (d : Dev) : Dev :=
  if !d.alive then d else each ((List.range 16).filter fun n => bitOf v (16 + n)) (fun n d => d.tmrHalt n) d

/-- A write of PER or CMP: into the preload, or into use with PRE = 0 (R349). -/
def Dev.tmrPerWrite (d : Dev) (n : Nat) (v : Word) : Dev :=
  let d := d.setReg (rTMR_PER n) v
  if d.on (TMR_CFG_PRE n) then d.setTmr n { d.tmr n with perNew := true }
  else d.setTmr n { d.tmr n with per := v, perNew := false }
def Dev.tmrCmpWrite (d : Dev) (n : Nat) (v : Word) : Dev :=
  let d := d.setReg (rTMR_CMP n) v
  if d.on (TMR_CFG_PRE n) then d.setTmr n { d.tmr n with cmpNew := true }
  else d.setTmr n { d.tmr n with cmp := v, cmpNew := false }

/-- The tick at which the running timer n reaches CMP (R349). -/
def matchAt (n : Nat) (d : Dev) : Dev :=
  let t := d.tmr n
  if n < 16 ∧ t.run ∧ d.tmrClock n ∧ t.cmp.toNat ≤ t.per.toNat then
    ((d.setTmr n { t with held := false }).setCnt n t.cmp).tmrMatch n
  else d

/-- WRAP: the running timer n wraps past PER (R349). -/
def wrap (n : Nat) (d : Dev) : Dev :=
  let t := d.tmr n
  if n < 16 ∧ t.run ∧ d.tmrClock n then (d.setTmr n { t with held := false }).tmrWrap n else d

/-- TRIGGER_PULSE_END (R348). -/
def triggerPulseEnd (n : Nat) (d : Dev) : Dev :=
  let t := d.tmr n
  if t.pulse = 0 ∨ !d.tmrClock n then d else d.setTmr n { t with pulse := 0, pin := false }

/-- GATE_EDGE: the oldest edge for timer n whose sample is at or behind the output point (R351). -/
def gateEdge (n : Nat) (d : Dev) : Dev :=
  match d.cv.edges.find? fun e => e.1 == n with
  | none => d
  | some (_, s, phi, high) =>
    if !d.running || decide (later s d.outPoint > 0) then d else
      let d := { d with cv := { d.cv with edges := d.cv.edges.erase (n, s, phi, high) } }
      let t := d.tmr n
      match d.fg (TMR_CFG_MODE n) with
      | 3 => d.setTmr n { t with pin := high }
      | 4 => if high then d.setTmr n { t with pin := t.cmp != 0, pulse := t.cmp.toNat } else d
      | _ => d

/-! ### Captures (R109, R352 to R354) -/

/-- The note of a gate (R109): one edge waits for each timer, a further one is lost and counted (R113). -/
def Dev.gateNote (d : Dev) (n : Nat) (on_ : Bool) (t : Word) : Dev :=
  if !d.on (NOTE_GATE_EN n) || !d.running then d
  else if (d.waiting 7).any fun m => m.tag == n then d.count NOTE_CNT0_OVFL
  else
    let v := if on_ then d.fg (NOTE_GATE_VEL n) * 65536 else 0
    let m := Msg.ofPart (if on_ then 1 else 2) (d.fg (NOTE_GATE_PART n)) 0 (d.fg (NOTE_GATE_KEY n)) v 0 0
    d.post 7 { m with start := t, done := t, stamp := none, tag := n }

/-- The capture itself: CAP, CAPT, NEW, OVER where NEW stood (R352, R353), what the auto-tune gate collects (R356), the
note of a gate (R109). -/
def Dev.tmrCapture (d : Dev) (n : Nat) (rising : Bool) (count time : Word) : Dev :=
  let d := if d.on (TMR_STAT_NEW n) then d.fp (TMR_STAT_OVER n) 1 else d
  let d := ((d.setReg (rTMR_CAP n) count).setReg (rTMR_CAPT n) time).fp (TMR_STAT_NEW n) 1
  let d := d.setTmr n { d.tmr n with lastOn := rising != d.on (TMR_CFG_POL n) }
  let tu := d.tune
  let d := if tu.phase = .gate ∧ d.fg (CVO_ATJ_TMR tu.ch) = n then
      { d with tune := { tu with first := if tu.caps = 0 then count else tu.first, last := count, caps := tu.caps + 1 } }
    else d
  (d.gateNote n (rising != d.on (TMR_CFG_POL n)) time).tmrGroups

/-- CAPTURE: a qualified edge of timer n with CNT and chain time at its first agreeing sample (R352): counted where EDGE
names it, every (PRESC + 1)-th captured. -/
def capture (n : Nat) (rising : Bool) (count time : Word) (d : Dev) : Dev :=
  let t := d.tmr n
  let e := d.fg (TMR_CAPCFG_EDGE n)
  if n ≥ 16 || !t.run || !d.tmrClock n || d.fg (TMR_CFG_MODE n) != 5 || (e == 0 && !rising) || (e == 1 && rising) then d
  else
    let k := (t.edges + 1) % (d.fg (TMR_CAPCFG_PRESC n) + 1)
    let d := d.setTmr n { t with edges := k }
    if k = 0 then d.tmrCapture n rising count time else d

/-- CAP_READ (R353): NEW clears, but a capture of the same cycle is stored and stands as new. -/
def capRead (n : Nat) (sameCycle : Option (Word × Word)) (d : Dev) : Dev :=
  if n ≥ 16 then d else
    let d := d.fp (TMR_STAT_NEW n) 0
    match sameCycle with
    | some (c, t) => ((((d.setReg (rTMR_CAP n) c).setReg (rTMR_CAPT n) t).fp (TMR_STAT_NEW n) 1)).tmrGroups
    | none => d.tmrGroups

/-- STUCK (R354): the flag, the note-off of a gate whose input was left active, and a failed point of auto-tune. -/
def stuck (n : Nat) (d : Dev) : Dev :=
  let t := d.tmr n
  if n ≥ 16 || !t.run || !d.tmrClock n || d.fg (TMR_CFG_MODE n) != 5 || d.fg (TMR_CAPCFG_TOUT n) == 0 then d
  else
    let d := d.fp (TMR_STAT_STUCK n) 1
    let d := if d.tune.phase = .gate ∧ d.fg (CVO_ATJ_TMR d.tune.ch) = n then { d with tune := { d.tune with stuck := true } } else d
    let d := if t.lastOn then (d.setTmr n { t with lastOn := false }).gateNote n false d.now else d
    d.tmrGroups

/-- A write of TMRn_STAT: its W1C flags (R349, R353, R354). -/
def Dev.tmrStatWrite (d : Dev) (n : Nat) (v : Word) : Dev :=
  (d.setReg (rTMR_STAT n) (d.reg (rTMR_STAT n) &&& ~~~(v &&& 0x1B))).tmrGroups

/-- Timers with AUTO = 1 start at RUN entry (R350). -/
def Dev.autoTimers (d : Dev) : Dev :=
  each ((List.range 16).filter fun n => d.on (TMR_CFG_AUTO n)) (fun n d => d.tmrStart n) d

/-- Every timer stops where R20 makes pins inputs: BLANK, CHUCK, SERVICE (R347). -/
def Dev.stopTimers (d : Dev) : Dev := each (List.range 16) (fun n d => d.tmrHalt n) d

def execTimerStart (v : Word) (s : State) : Host.Outcome State Fault Refusal := done s (s.dev.heard (timerStart v))
def execTimerStop (v : Word) (s : State) : Host.Outcome State Fault Refusal := done s (s.dev.heard (timerStop v))
def execWrap (n : Nat) (s : State) : Host.Outcome State Fault Refusal := done s (wrap n s.dev)
def execTriggerPulseEnd (n : Nat) (s : State) : Host.Outcome State Fault Refusal := done s (triggerPulseEnd n s.dev)
def execGateEdge (n : Nat) (s : State) : Host.Outcome State Fault Refusal := done s (gateEdge n s.dev)
def execCapture (n : Nat) (rising : Bool) (count time : Word) (s : State) : Host.Outcome State Fault Refusal :=
  done s (capture n rising count time s.dev)
def execCapRead (n : Nat) (sameCycle : Option (Word × Word)) (s : State) : Host.Outcome State Fault Refusal :=
  done s (s.dev.heard (capRead n sameCycle))
def execStuck (n : Nat) (s : State) : Host.Outcome State Fault Refusal := done s (stuck n s.dev)

end Sys2Proof.Machine
end

