-- ==== Sys2Proof/Machine/Cv.lean ====
section
/-! DEFINITION. The CV outputs (R338 to R345), the gate edges of voices (R211, R212), the auto-tune service (R356 to
R359). -/
namespace Sys2Proof.Machine

/-! ### Ticks and queues (R340, R341) -/

/-- Sample s is a CV tick (R340). -/
def Dev.cvTick (d : Dev) (s : Word) : Bool := decide (later s d.cv.origin % (max 1 (d.fg CVO_CLK_CVDIV) : Int) = 0)

/-- The first CV tick at or after C. -/
def Dev.nextTick (d : Dev) : Word :=
  let k : Int := max 1 (d.fg CVO_CLK_CVDIV)
  d.eng.c + w32i ((-(later d.eng.c d.cv.origin)) % k)

/-- Put a code into the queue of channel n for tick s; a second one for the same tick replaces the first (R341). -/
def Dev.cvPut (d : Dev) (n : Nat) (s : Word) (code : Nat) : Dev :=
  let q := (tget [] d.cv.queue n).filter fun e => e.1 != s
  { d with cv := { d.cv with queue := tput [] d.cv.queue n (q ++ [(s, code % 65536)]) } }

/-- The auto-tune service has claimed channel n (R356). -/
def Dev.claimed (d : Dev) (n : Nat) : Bool := d.tune.phase != .idle && d.tune.ch == n

/-- CVO_CHN_SET (R339, R341): queued for the first tick at or after C, where SRC is 1 or a run has the channel. -/
def cvoChnSet (n code : Nat) (d : Dev) : Dev :=
  if n < 16 ∧ d.running ∧ (d.fg (CVO_CH_CFG_SRC n) = 1 ∨ d.claimed n) then d.cvPut n d.nextTick code else d

/-! ### What voices send, when their sample passes C (R142, R211, R212, R351) -/

/-- The sends of sample s with their voice numbers. -/
def Dev.sendsAt (d : Dev) (s : Word) : List Send :=
  d.presentVoices.filterMap fun v => tfind (d.ctx (ctxOf v)).sends s.toNat

/-- The code that routes give channel n at sample s (R212): of the latest note-on, and of equal stamps the lowest voice. -/
def routeCode (l : List Send) (n : Nat) : Option Nat :=
  (l.foldl (fun (a : Option (Word × Nat)) x =>
    match x.cv.find? fun e => e.1 == n with
    | none => a
    | some e =>
      match a with
      | none => some (x.stamp, e.2)
      | some b => if later x.stamp b.1 > 0 then some (x.stamp, e.2) else a) none).map (·.2)

/-! ### Ends of an auto-tune run (R356, R358) -/

/-- The AT_RUN payload (R448); a pitch that was not measured is a free value. -/
def Dev.atRun (d : Dev) (res : Nat) : List Byte × Dev :=
  let t := d.tune
  let p := d.fg CVO_AT_CFG_P
  let (f0, d) := d.fresh
  let (f1, d) := d.fresh
  let q0 := (t.pitches.head?.map w32i).getD f0
  let q1 := if t.pitches.length = p then (t.pitches.getLast?.map w32i).getD f1 else f1
  ([BitVec.ofNat 8 res, BitVec.ofNat 8 t.ch, 0, 0] ++ leBytes 2 (d.fg CVO_AT_STAT_DRIFT) ++ [BitVec.ofNat 8 p, 0] ++
    leBytes 4 d.extSec ++ leBytes 4 q0.toNat ++ leBytes 4 q1.toNat, d)

/-- The end of a run (R356, R358): the result in CVO_AT_STAT, the channel's source restored, source 47 or 48. -/
def Dev.tuneEnd (d : Dev) (res : Nat) : Dev :=
  let ch := d.tune.ch
  let d := (({ d with tune := { d.tune with phase := .idle } }.fp CVO_AT_STAT_BUSY 0).fp CVO_AT_STAT_RES res).fp CVO_AT_STAT_CH ch
  if res = 0 then d.raise 47 else if res = 5 then d else d.raise 48

/-- A run that fails: journalled by AT_RUN alone (R358, R448). -/
def Dev.tuneFail (d : Dev) (res : Nat) : Dev :=
  let (pay, d) := d.atRun res
  (d.journal 0x31 d.tune.ch pay).tuneEnd res

/-- A run that GO did not start ends when a voice route for its channel commits (R359): RES 5 and no event. -/
def Dev.tuneAbort (d : Dev) : Dev := d.tuneFail 5

/-- The CV entries of tick s, the gate edges of sample s, and how long each channel has been without a route. -/
def Dev.commitCv (d : Dev) (s : Word) : Dev :=
  let l := d.sendsAt s
  let d := each (List.range 16) (fun n d =>
    match routeCode l n with
    | none =>
      let q := tget 0 d.tune.quiet n
      { d with tune := { d.tune with quiet := tput 0 d.tune.quiet n (min (q + 1) 192000) } }
    | some code =>
      let d := { d with tune := { d.tune with quiet := tput 0 d.tune.quiet n 0 } }
      if !d.cvTick s || d.fg (CVO_CH_CFG_SRC n) != 0 then d
      else if d.claimed n then (if d.tune.byGo then d else d.tuneAbort)
      else d.cvPut n s code) d
  each (List.range 16) (fun k d =>
    let g := l.flatMap fun x => x.gate.filter fun e => e.1 == k
    let high := g.any fun e => e.2.1
    let was := tget 0 d.cv.voiceHi k != 0
    if high = was then d
    else
      let on_ := g.filter fun e => e.2.1 == high
      let phi := if high then on_.foldl (fun a e => min a e.2.2) 255 else on_.foldl (fun a e => max a e.2.2) 0
      { d with cv := { d.cv with edges := d.cv.edges ++ [(k, s, phi, high)],
                                 voiceHi := tput 0 d.cv.voiceHi k (if high then 1 else 0) } }) d

/-! ### Drain (R341 to R345) -/

/-- The code in the latch for code k of channel n: curve, trim, clamp (R343); an auto-tune point bypasses them (R356). -/
def Dev.cvChain (d : Dev) (n k : Nat) : Nat :=
  if d.claimed n ∧ (d.tune.phase = .settle ∨ d.tune.phase = .gate) then k
  else
    let j := k / 2048
    let k0 : Int := d.fg (CVO_CAL_K n j)
    let k1 : Int := d.fg (CVO_CAL_K n (j + 1))
    let k' : Int := if d.on (CVO_CH_CFG_CURVE n) then k0 + (k1 - k0) * ((k : Int) - 2048 * j) / 2048 else k
    let k'' := k' * (d.fg (CVO_CH_TRIM_GAIN n) : Int) / 32768 + d.fs (CVO_CH_TRIM_OFS n)
    (max 0 (min 65535 k'')).toNat

/-- Channel n takes its code of the tick, where it has one, and its latch follows the chain. -/
def Dev.cvLatch (d : Dev) (n : Nat) (lag : Int) : Dev :=
  let due := fun (e : Word × Nat) => decide (later d.eng.c e.1 ≥ lag)
  let q := tget [] d.cv.queue n
  let d := { d with cv := { d.cv with queue := tput [] d.cv.queue n (q.filter fun e => !due e) } }
  let last := (q.filter due).foldl (fun (a : Option (Word × Nat)) e =>
    match a with
    | none => some e
    | some b => if later e.1 b.1 ≥ 0 then some e else a) none
  let d := match last with
    | some e => { d.fp (CVO_CH_VAL_IN n) e.2 with cv := { d.cv with initing := d.cv.initing.filter (· != n) } }
    | none => d
  d.fp (CVO_CH_VAL_OUT n) (d.cvChain n (d.fg (CVO_CH_VAL_IN n)))

/-- Channel n drives INIT until its first entry drains (R344). -/
def Dev.cvInit (d : Dev) (n : Nat) : Dev :=
  let d := { d.fp (CVO_CH_VAL_IN n) (d.fg (CVO_CH_CFG_INIT n)) with cv := { d.cv with initing := n :: d.cv.initing.filter (· != n) } }
  d.fp (CVO_CH_VAL_OUT n) (d.cvChain n (d.fg (CVO_CH_VAL_IN n)))

/-- RUN entry from CHUCK or REST: CV ticks count from its first sample and queues start empty (R340, R344). -/
def Dev.cvRun (d : Dev) : Dev :=
  let d := { d with cv := { d.cv with queue := [], origin := d.eng.c, edges := [], initing := [], voiceHi := [] } }
  each ((List.range 16).filter fun n => d.on (CVO_CH_CFG_EN n)) (fun n d => d.cvInit n) d

/-! ### Auto-tune (R356 to R359, R477) -/

/-- Code c_i of point i (R356). -/
def Dev.tuneCode (d : Dev) (ch i : Nat) : Nat :=
  let lo := d.fg (CVO_ATL_LO ch)
  lo + i * (d.fg (CVO_ATL_HI ch) - lo) / (d.fg CVO_AT_CFG_P - 1)

/-- The target pitch of code c (R357). -/
def Dev.tuneTarget (d : Dev) (ch : Nat) (c : Int) : Int :=
  (d.fg (CVO_ATR_REF ch) : Int) * 65536 + Int.tdiv ((c - 32768) * 1048576) (d.fg (CVO_ATR_CPS ch) : Int)

/-- AUTO_TUNE_GO: the run of an enabled job becomes due (R359). -/
def autoTuneGo (v : Word) (d : Dev) : Dev :=
  let ch := fieldOf v 3 0
  let d := d.fp CVO_AT_CTRL_CH ch
  if bitOf v 4 && d.on (CVO_ATJ_EN ch) then
    { d with tune := { d.tune with due := (ch, true) :: d.tune.due.filter fun e => e.1 != ch } }
  else d

/-- AUTO_TUNE_DUE: the boot delay, the interval or the retry delay of an enabled job ends (R359). -/
def autoTuneDue (ch : Nat) (d : Dev) : Dev :=
  if ch < 16 && d.running && d.on (CVO_ATJ_EN ch) && !(d.tune.due.any fun e => e.1 == ch) then
    { d with tune := { d.tune with due := (ch, false) :: d.tune.due } }
  else d

/-- Write the code of the present point (R356). -/
def Dev.tunePoint (d : Dev) : Dev :=
  let d := { d with tune := { d.tune with phase := .settle } }
  d.cvPut d.tune.ch d.nextTick (d.tuneCode d.tune.ch d.tune.point)

/-- AUTO_TUNE_CLAIM: of the due runs that may start, the lowest channel (R356, R358, R359). -/
def autoTuneClaim (d : Dev) : Dev :=
  let ready := fun (ch : Nat) => d.tune.due.any fun e =>
    e.1 == ch && (e.2 || decide (d.voiceRate ≤ tget 0 d.tune.quiet ch))
  if !d.running || d.tune.phase != .idle then d
  else match (List.range 16).find? ready with
    | none => d
    | some ch =>
      let go := d.tune.due.any fun e => e.1 == ch && e.2
      let d := ({ d with tune := { d.tune with
        phase := .settle, ch := ch, byGo := go, point := 0, caps := 0, stuck := false, pitches := [], curve := [],
        due := d.tune.due.filter fun e => e.1 != ch } }.fp CVO_AT_STAT_BUSY 1).fp CVO_AT_STAT_CH ch
      let d := { d with cv := { d.cv with queue := tput [] d.cv.queue ch [] } }
      let n := d.fg (CVO_ATJ_TMR ch)
      if d.fg (TMR_CFG_CLK n) ≠ 0 ∨ d.fg (TMR_CFG_MODE n) ≠ 5 then d.tuneFail 4
      else if d.fg (CVO_ATL_HI ch) < d.fg (CVO_ATL_LO ch) + (d.fg CVO_AT_CFG_P - 1) then d.tuneFail 6
      else d.tunePoint

/-- AUTO_TUNE_SETTLE: the gate opens (R356). -/
def autoTuneSettle (d : Dev) : Dev :=
  if d.running ∧ d.tune.phase = .settle then
    { d with tune := { d.tune with phase := .gate, caps := 0, stuck := false } }
  else d

/-- The measured points as (code, pitch). -/
def Dev.tunePoints (d : Dev) : List (Int × Int) :=
  d.tune.pitches.zipIdx.map fun p => ((d.tuneCode d.tune.ch p.2 : Int), p.1)

/-- The two neighbouring points that bracket a target, or the end segment beyond them (R357). -/
def bracket (t : Int) : List (Int × Int) → Option ((Int × Int) × (Int × Int))
  | a :: b :: rest => if rest = [] ∨ t ≤ b.2 then some (a, b) else bracket t (b :: rest)
  | _ => none

/-- K_j (R357). -/
def curvePoint (t : Int) (l : List (Int × Int)) : Nat :=
  match bracket t l with
  | some (a, b) =>
    (max 0 (min 65536 (roundDiv (a.1 * (b.2 - a.2) + (t - a.2) * (b.1 - a.1)) (b.2 - a.2).toNat))).toNat
  | none => 0

/-- Each pitch is above the one before it. -/
def risingInts : List Int → Bool
  | a :: b :: l => decide (a < b) && risingInts (b :: l)
  | _ => true

/-- AUTO_TUNE_FIT (R357, R358): the new curve, or the result code of its failure. -/
def Dev.tuneFit (d : Dev) : Dev :=
  let ch := d.tune.ch
  let l := d.tunePoints
  let q0 := d.tune.pitches.headD 0
  let q1 := d.tune.pitches.getLast?.getD 0
  if !risingInts d.tune.pitches then d.tuneFail 2
  else if (List.range 33).any fun j =>
    decide (d.fg (CVO_ATL_LO ch) ≤ 2048 * j) && decide (2048 * j ≤ d.fg (CVO_ATL_HI ch)) &&
    (decide (d.tuneTarget ch ((2048 * j : Nat) : Int) < q0) || decide (q1 < d.tuneTarget ch ((2048 * j : Nat) : Int))) then d.tuneFail 3
  else { d with tune := { d.tune with
    phase := .apply, curve := (List.range 33).map fun j => curvePoint (d.tuneTarget ch ((2048 * j : Nat) : Int)) l } }

/-- The pitch of a gate's captures in the units of R178; with CAP unchanged the frequency has no value, and the pitch is a
free one. -/
def Dev.tunePitch (d : Dev) : Int × Dev :=
  let t := d.tune
  let dt := (t.last - t.first).toNat
  let k := d.fg (TMR_CAPCFG_PRESC (d.fg (CVO_ATJ_TMR t.ch))) + 1
  if dt = 0 then
    let (f, d) := d.fresh
    (f.toInt, d)
  else (pitchOf (k * (t.caps - 1) * 100000000 * 1000000000) (dt * 8175798916), d)

/-- AUTO_TUNE_GATE: the point's pitch, then the next point or the fit (R356 to R358). -/
def autoTuneGate (d : Dev) : Dev :=
  if !d.running || d.tune.phase != .gate then d
  else if d.tune.caps < 2 ∨ d.tune.stuck then d.tuneFail 1
  else
    let (q, d) := d.tunePitch
    let d := { d with tune := { d.tune with pitches := d.tune.pitches ++ [q], point := d.tune.point + 1, caps := 0 } }
    if d.tune.point < d.fg CVO_AT_CFG_P then d.tunePoint else d.tuneFit

/-- The interval of a job with SCHED ≠ 0 after a successful run (R477), and its record (R476). -/
def Dev.driftInterval (d : Dev) (ch drift : Nat) : Dev :=
  let sched := d.fg (CVO_ATJ_SCHED ch)
  if sched = 0 then d
  else
    let h := d.fg (AGE_CVINT_HOURS ch)
    let h := if h = 0 then sched else h
    let low := if drift < d.age.driftLo then tget 0 d.age.lowDrift ch + 1 else 0
    let h' := if drift > d.age.driftHi then max 1 (h / 2) else if low = 3 then min sched (2 * h) else h
    let low := if low = 3 then 0 else low
    let d := { d.fp (AGE_CVINT_HOURS ch) h' with age := { d.age with lowDrift := tput 0 d.age.lowDrift ch low } }
    d.journal 0x44 ch (leBytes 2 h' ++ [BitVec.ofNat 8 low, 0])

/-- AUTO_TUNE_APPLY (R356, R358, R448): the curve in force, CURVE set, DRIFT, and CV_CAL with AT_RUN as one transaction. -/
def Dev.tuneApply (d : Dev) : Dev :=
  let t := d.tune
  let ch := t.ch
  let drift := min 65535 ((List.range 33).foldl (fun a j =>
    max a ((t.curve.getD j 0 : Int) - (d.fg (CVO_CAL_K ch j) : Int)).natAbs) 0)
  let d := each (List.range 33) (fun j d => d.fp (CVO_CAL_K ch j) (t.curve.getD j 0)) d
  let d := (d.fp (CVO_CH_CFG_CURVE ch) 1).fp CVO_AT_STAT_DRIFT drift
  let cal := (t.curve.flatMap fun k => leBytes 4 k) ++ leBytes 4 (d.reg (rCVO_CH_TRIM ch)).toNat ++ leBytes 4 1 ++ leBytes 4 d.extSec
  let (run, d) := d.atRun 0
  let d := (d.journalTx [(0x30, ch, cal), (0x31, ch, run)]).driftInterval ch drift
  { d with tune := { d.tune with phase := .release } }

/-- What a drain does for a run under way: the curve applies, and at the tick after it the channel is released (R356). -/
def Dev.tuneDrain (d : Dev) : Dev :=
  match d.tune.phase with
  | .apply => d.tuneApply
  | .release => d.tuneEnd 0
  | _ => d

/-- CV_DRAIN (R341 to R345): at a tick that has lain λ VS behind C, all 16 latches load together; a bank below its release
temperature drives again. -/
def cvDrain (d : Dev) : Dev :=
  if !d.running || !d.cvTick d.eng.c then d
  else
    let d := d.tuneDrain
    let lag : Int := d.fg CVO_STAT_LAG
    let d := each (List.range 16) (fun n d => d.cvLatch n lag) d
    { d with pins := { d.pins with otInert := d.pins.otInert.filter fun k => d.fg CVO_STAT_OT / 2 ^ k % 2 == 1 } }

/-- OVER_TEMPERATURE of bank k (R345). -/
def overTemperature (k : Nat) (d : Dev) : Dev :=
  if 2 ≤ k then d
  else
    let d := (d.setBit rCVO_STAT (2 + k)).setBit rCVO_STAT (4 + k)
    { d.raise (45 + k) with pins := { d.pins with otInert := k :: d.pins.otInert.filter (· != k) } }

/-- OVER_TEMPERATURE_RELEASE of bank k (R345): it drives again from the next drain. -/
def overTemperatureRelease (k : Nat) (d : Dev) : Dev := if 2 ≤ k then d else d.clrBit rCVO_STAT (2 + k)

/-- The pin of channel n is inert (R20, R344, R345). -/
def Dev.cvInert (d : Dev) (n : Nat) : Bool := d.pins.inert || !d.on (CVO_CH_CFG_EN n) || d.pins.otInert.contains (n / 8)

def execCvoChnSet (n code : Nat) (s : State) : Host.Outcome State Fault Refusal := done s (s.dev.heard (cvoChnSet n code))
def execCvDrain (s : State) : Host.Outcome State Fault Refusal := done s (cvDrain s.dev)
def execOverTemperature (k : Nat) (s : State) : Host.Outcome State Fault Refusal := done s (overTemperature k s.dev)
def execOverTemperatureRelease (k : Nat) (s : State) : Host.Outcome State Fault Refusal :=
  done s (overTemperatureRelease k s.dev)
def execAutoTuneGo (v : Word) (s : State) : Host.Outcome State Fault Refusal := done s (s.dev.heard (autoTuneGo v))
def execAutoTuneDue (ch : Nat) (s : State) : Host.Outcome State Fault Refusal := done s (autoTuneDue ch s.dev)
def execAutoTuneClaim (s : State) : Host.Outcome State Fault Refusal := done s (autoTuneClaim s.dev)
def execAutoTuneSettle (s : State) : Host.Outcome State Fault Refusal := done s (autoTuneSettle s.dev)
def execAutoTuneGate (s : State) : Host.Outcome State Fault Refusal := done s (autoTuneGate s.dev)

end Sys2Proof.Machine
end

