-- ==== Sys2Proof/Machine/LinkTx.lean ====
section
/-! DEFINITION. Sending on the link: frames, their payloads (R370, R376), routes (R375), and the head's orders and a
member's events on their way (R110, R166, R377). -/
namespace Sys2Proof.Machine

/-- The 16 bytes of a record (R114). -/
def recBytes (e : EvRec) : List Byte :=
  leBytes 4 e.stamp.toNat ++ leBytes 4 (recWord1 e).toNat ++ leBytes 4 e.value.toNat ++
  [BitVec.ofNat 8 e.index, BitVec.ofNat 8 e.devid] ++ leBytes 2 e.seq

/-- The 20 bytes of an EVENT_DN entry (R376). -/
def dnBytes (x : DnEntry) : List Byte :=
  recBytes x.ev ++ [BitVec.ofNat 8 ((if x.adm then 128 else 0) + (x.u - 1) % 8), BitVec.ofNat 8 x.target] ++ leBytes 2 x.tag

/-- The 32 bytes of a path, bit i of the path in bit i mod 8 of byte i / 8. -/
def pathBytes (p : List Bool) : List Byte := leBytes 32 ((List.range p.length).foldl (fun a i =>
  a + if p.getD i false then 2 ^ i else 0) 0)

/-- The device ID in force. -/
def Dev.devid (d : Dev) : Nat := d.fg CBL_STAT_DEVID

/-- Queue a frame on port p under its next SEQ; only a joined port carries frames (R368, R372). -/
def Dev.sendOn (d : Dev) (p ty dst src : Nat) (pay : List Byte) : Dev :=
  let x := d.lport p
  if !x.joined then d
  else d.setLport p { x with tx := (x.tx + 1) % 0x10000,
                             replay := x.replay ++ [{ ty := ty, dst := dst, src := src, seq := x.tx, pay := pay }] }

/-- The joined downstream ports. -/
def Dev.downPorts (d : Dev) : List Nat := [1, 2].filter fun p => (d.lport p).joined

/-- Send to every device below (DST 0xFF). -/
def Dev.broadcast (d : Dev) (ty : Nat) (pay : List Byte) : Dev :=
  each d.downPorts (fun p d => d.sendOn p ty 0xFF d.devid pay) d

/-- Send toward the head on CB0. -/
def Dev.sendUp (d : Dev) (ty : Nat) (pay : List Byte) : Dev := d.sendOn 0 ty 1 d.devid pay

/-- The port behind which device `dev` was reached (R375). -/
def Dev.portTo (d : Dev) (dev : Nat) : Option Nat := [1, 2].find? fun p => (d.lport p).behind.contains dev

/-- Send to device `dev` below (R375). -/
def Dev.sendTo (d : Dev) (dev ty : Nat) (pay : List Byte) : Dev :=
  match d.portTo dev with
  | some p => d.sendOn p ty dev d.devid pay
  | none => d

/-- Send by path: the port by the path's bit at the own depth (R375). -/
def Dev.sendPath (d : Dev) (path : List Bool) (ty src : Nat) (pay : List Byte) : Dev :=
  d.sendOn (if path.getD d.depth false then 2 else 1) ty 0xFD src pay

/-- A head that leads a chain broadcasts the entry (R110, R377). -/
def Dev.sendDn (d : Dev) (x : DnEntry) : Dev :=
  if d.isHead && d.hasMembers then d.broadcast 0x02 (dnBytes x) else d

/-- A member in the census that has been admitted forwards the events of its own ports (R110, R385). -/
def Dev.forwards (d : Dev) : Bool := d.isMember && d.cbl.sAdm.isNone && d.cbl.admitted

/-! ### The head's table of notes (R166) -/

/-- The tag under which the head broadcasts an event it has ordered: a note-off takes that of its note, oldest first; a
mono or legato part holds one note, whose key moves to the most recent held one. -/
def Dev.noteOffTag (d : Dev) (s : Word) (r : EvRec) : Nat × Dev :=
  let a := d.alloc
  let setN := fun (l : List NoteTab) => { d with alloc := { a with notes := l } }
  if d.fgAt (NOTE_PART_MODE_VOICING r.part) r.stamp ≠ 0 then
    match a.notes.find? fun x => x.part == r.part with
    | none => (0, d)
    | some x =>
      if x.key ≠ r.key then (0, d)
      else match (stackStep (d.stackAt r.part s r) 0x02 r.key).getLast? with
        | some k => (x.tag, setN (a.notes.map fun y => if y.tag = x.tag then { y with key := k } else y))
        | none => (x.tag, setN (a.notes.filter fun y => y.tag != x.tag))
  else
    let hit := (a.notes.filter fun x => x.part == r.part && x.chan == r.chan && x.key == r.key && !x.sustained).foldl
      (fun (o : Option NoteTab) x =>
        match o with
        | none => some x
        | some y => if later x.stamp y.stamp < 0 then some x else o) none
    match hit with
    | none => (0, d)
    | some x =>
      if x.lost then (0, setN (a.notes.filter fun y => y.tag != x.tag))
      else if pedalDown (d.chanAt r.part (d.ctrlChan r.part r.chan r.stamp) 64 s r) then
        (x.tag, setN (a.notes.map fun y => if y.tag = x.tag then { y with sustained := true } else y))
      else (x.tag, setN (a.notes.filter fun y => y.tag != x.tag))

/-- What an ordered event other than a note-on does to the head's table: pedals falling, all-notes-off and all-sound-off
release notes. -/
def Dev.headNotes (d : Dev) (r : EvRec) : Dev :=
  let a := d.alloc
  let mine := fun (x : NoteTab) => x.part == r.part && x.chan == r.chan
  let falls := r.kind == 0x18 || (r.kind == 0x10 && (r.index == 64 || r.index == 66) && !pedalDown r.value.toNat)
  if falls then { d with alloc := { a with notes := a.notes.filter fun x => !(mine x && x.sustained) } }
  else if r.kind = 0x16 then
    if pedalDown (d.chanAt r.part (d.ctrlChan r.part r.chan r.stamp) 64 (d.sampleOf r.stamp).1 r) then
      { d with alloc := { a with notes := a.notes.map fun x => if mine x then { x with sustained := true } else x } }
    else { d with alloc := { a with notes := a.notes.filter fun x => !mine x } }
  else if r.kind = 0x17 then { d with alloc := { a with notes := a.notes.filter fun x => !mine x } }
  else d

end Sys2Proof.Machine
end

