-- ==== Sys2Proof/Machine/Alloc.lean ====
section
/-! DEFINITION. The allocator: counts and eligibility (R151, R152), the tree (R153 to R156), mono reuse and repeated keys
(R157, R101), refusal (R161), and allocation across a chain (R162 to R166). -/
namespace Sys2Proof.Machine

/-- Voice v is pending (R155). -/
def Dev.isPend (d : Dev) (v : Nat) : Bool := (d.pendOf v).1 != 0

/-- The part that voice v counts for, if any: that of the note it is pending for, else that of its note (R152). -/
def Dev.countsFor (d : Dev) (v : Nat) : Option Nat :=
  if d.isPend v then some (d.pendOf v).2
  else if (d.voice v).cls = clsFree then none else some (d.voice v).part

/-- c_q (R152). -/
def Dev.partCount (d : Dev) (q : Nat) : Nat := (d.presentVoices.filter fun v => d.countsFor v == some q).length

/-- Present voices that are free and not pending. -/
def Dev.freeCount (d : Dev) : Nat := (d.presentVoices.filter fun v => d.countsFor v == none).length

/-- U of R152: what the other enabled parts still have reserved. -/
def Dev.owed (d : Dev) (p : Nat) : Nat :=
  (d.parts.filter (· != p)).foldl (fun a q => a + (d.fgAlloc (NOTE_PART_ALLOC_RESERVE q) - d.partCount q)) 0

/-- The part test of R152 for a note-on of part p and leaf v. -/
def Dev.partTest (d : Dev) (p v : Nat) : Bool :=
  let cp := d.partCount p
  match d.countsFor v with
  | none =>
    decide (cp < d.fgAlloc (NOTE_PART_ALLOC_LIMIT p)) &&
    (decide (cp < d.fgAlloc (NOTE_PART_ALLOC_RESERVE p)) || decide (d.owed p < d.freeCount))
  | some q =>
    q == p || (decide (cp < d.fgAlloc (NOTE_PART_ALLOC_LIMIT p)) &&
      decide (d.fgAlloc (NOTE_PART_ALLOC_RESERVE q) < d.partCount q) &&
      decide (d.fgAlloc (NOTE_PART_STEAL_PRIO q) ≤ d.fgAlloc (NOTE_PART_STEAL_PRIO p)))

/-- A leaf that may be taken at all: present, not being removed, not pending, not protected unless that is relaxed. -/
def Dev.leafOk (d : Dev) (v : Nat) (prot : Bool) : Bool :=
  d.present v && !d.removed v && !d.isPend v && (prot || !bitOf (d.reg (rALLOC_SCORE v)) 28)

/-- One tree pass (R153): the leaf of the highest score, the lower number of equal ones; a leaf of score 0 is none. -/
def Dev.treePass (d : Dev) (ok : Nat → Bool) : Option Nat :=
  (d.presentVoices.filter fun v => ok v && d.reg (rALLOC_SCORE v) != 0).foldl (fun (a : Option Nat) v =>
    match a with
    | none => some v
    | some b => if (d.reg (rALLOC_SCORE b)).toNat < (d.reg (rALLOC_SCORE v)).toNat then some v else some b) none

/-- `n` passes, none returning a leaf that an earlier one won (R155, R156). -/
def Dev.passes (d : Dev) (ok : Nat → Bool) : Nat → List Nat → Option (List Nat)
  | 0, got => some got
  | n + 1, got =>
    match d.treePass (fun v => ok v && !got.contains v) with
    | some v => d.passes ok n (got ++ [v])
    | none => none

/-- The leaves for a note-on of u voices of part p (R152 to R156): with `forced`, the relaxations of R165, and whether one
was needed. -/
def Dev.findLeaves (d : Dev) (p u : Nat) (forced : Bool) : Option (List Nat × Bool) :=
  match d.passes (fun v => d.leafOk v false && d.partTest p v) u [] with
  | some l => some (l, false)
  | none =>
    if !forced then none
    else match d.passes (fun v => d.leafOk v false) u [] with
      | some l => some (l, true)
      | none => (d.passes (fun v => d.leafOk v true) u []).map fun l => (l, true)

/-- The next note tag: 1 to 0xFFFF, round and round (R168). -/
def nextTag (t : Nat) : Nat := if t = 0xFFFF then 1 else t + 1

/-- Take the next tag. -/
def Dev.takeTag (d : Dev) : Nat × Dev := (d.alloc.tag, { d with alloc := { d.alloc with tag := nextTag d.alloc.tag } })

/-- Record a decision in ALLOC_LAST: `vs` empty for a refused note-on, which leaves STEAL and VOICE as they were. -/
def Dev.setLast (d : Dev) (p tag u : Nat) (vs : List Nat) (reuse : Bool) : Dev :=
  let refused := vs.isEmpty
  let d := ((((d.fp ALLOC_LAST_REFUSED (if refused then 1 else 0)).fp ALLOC_LAST_REUSE (if reuse then 1 else 0)).fp
    ALLOC_LAST_PART p).fp ALLOC_LAST_TAG (if refused then 0 else tag)).fp ALLOC_LAST_UNISON (u - 1)
  match vs.head?, vs.getLast? with
  | some a, some z =>
    let d := d.fp ALLOC_LAST_VOICE a
    if reuse then d.fp ALLOC_LAST_STEAL 0
    else (d.fp ALLOC_LAST_STEAL (if (d.voice z).cls = clsFree then 0 else 1)).setReg rALLOC_LASTSCORE (d.reg (rALLOC_SCORE z))
  | _, _ => d

/-- ALLOCATION_REFUSED (R161). -/
def Dev.refuseNote (d : Dev) (e : PipeEnt) (u : Nat) : Dev :=
  ((((d.setEntry e.ev.seq { e with queued := false, refused := true }).count ALLOC_CNT_REFUSED).setLast e.ev.part 0 u []
    false)).raise 31

/-- Give the voices to the note-on: its entry, the pending marks of started ones, ALLOC_LAST. -/
def Dev.commitNote (d : Dev) (e : PipeEnt) (tag u : Nat) (vs : List Nat) (starts reuse : Bool) : Dev :=
  let d := d.setLast e.ev.part tag u vs reuse
  let d := d.setEntry e.ev.seq { e with queued := false, tag := tag, u := u, voices := vs, starts := starts }
  if starts then each vs (fun v d => d.setPend v tag e.ev.part) d else d

/-- The sounding or pending voices of the most recent note that satisfies `ok` on the device (R101, R157): of its entry
while it is pending, else of the voices in class held, sustained or released. -/
def Dev.soundingNote (d : Dev) (okE : EvRec → Bool) (okV : Voice → Bool) : List Nat :=
  let waiting := (d.note.pipe.filter fun e =>
    e.ev.kind == 1 && !e.queued && !e.refused && okE e.ev && e.voices.any fun v => (d.pendOf v).1 == e.tag).getLast?
  match waiting with
  | some e => e.voices
  | none =>
    let vs := d.presentVoices.filter fun v =>
      let x := d.voice v
      !d.isPend v && decide (clsHeld ≤ x.cls) && decide (x.cls ≤ clsReleased) && okV x
    let last := vs.foldl (fun (a : Option Voice) v =>
      let x := d.voice v
      match a with
      | none => some x
      | some y => if later x.onStamp y.onStamp > 0 then some x else a) none
    match last with
    | none => []
    | some y => vs.filter fun v => (d.voice v).tag == y.tag

/-- The voices that a mono or legato part reuses for a note-on (R157). -/
def Dev.reuseVoices (d : Dev) (p : Nat) : List Nat := d.soundingNote (fun r => r.part == p) (fun x => x.part == p)

/-- The voices of a repeated key (R101). -/
def Dev.keyVoices (d : Dev) (r : EvRec) : List Nat :=
  d.soundingNote (fun q => q.part == r.part && q.chan == r.chan && q.key == r.key)
    (fun x => x.part == r.part && x.chan == r.chan && x.key == r.key)

/-- RETRIG = 2: the sounding voices of the key receive a note-off at the note-on's stamp (R101). -/
def Dev.releaseKey (d : Dev) (e : PipeEnt) (vs : List Nat) : Dev :=
  each vs (fun v d =>
    let x := d.voice v
    d.addLog (ctxOf v) { ev := { e.ev with kind := 0x02, value := 0x80000000, attr := false }, sample := e.sample,
                         phi := e.phi, pitch := 0, tag := x.tag, uidx := x.uidx, u := x.u, starts := false, slot := 0 }) d

/-- Allocate a note-on on this device (R152 to R157, R101, R161, R165). `tag` is the head's where it gave one. -/
def Dev.allocLocal (d : Dev) (e : PipeEnt) (tag : Option Nat) (u : Nat) (forced : Bool) : Dev :=
  let p := e.ev.part
  let give := fun (d : Dev) (vs : List Nat) (starts reuse : Bool) =>
    let (t, d) := match tag with
      | some t => (t, d)
      | none => d.takeTag
    d.commitNote e t vs.length vs starts reuse
  let mono := d.fgAlloc (NOTE_PART_MODE_VOICING p) != 0
  let old := if mono then d.reuseVoices p else []
  let retrig := d.fgAlloc (NOTE_PART_STEAL_RETRIG p)
  let same := if mono then [] else d.keyVoices e.ev
  if !old.isEmpty then give d old false true
  else if retrig = 1 ∧ !same.isEmpty then give d same true false
  else match d.findLeaves p u forced with
    | none => d.refuseNote e u
    | some (vs, relaxed) =>
      let d := if relaxed then d.count ALLOC_CNT_FORCED else d
      let d := if retrig = 2 then d.releaseKey e same else d
      give d vs true false

/-! ### Summaries and targets (R162 to R164) -/

/-- The classes of a summary, free first. -/
def summClasses : List Nat := [7, 6, 5, 4, 3]

/-- The device's chain state allows it voices: a head, or a voiced member (R162, R380, R386). -/
def Dev.publishes (d : Dev) : Bool := d.isHead || d.fg CBL_STAT_STATE == 4

/-- This device's own summary of class c (R162). -/
def Dev.ownSumm (d : Dev) (c : Nat) : Summ :=
  let vs := d.presentVoices.filter fun v =>
    (d.voice v).cls == c && !d.isPend v && !d.removed v && !bitOf (d.reg (rALLOC_SCORE v)) 28
  { score := vs.foldl (fun a v => if a.toNat < (d.reg (rALLOC_SCORE v)).toNat then d.reg (rALLOC_SCORE v) else a) 0,
    count := vs.length }

/-- The head's copy of the summary of device `dev`, class c. -/
def Dev.summOf (d : Dev) (dev c : Nat) : Summ :=
  if dev = d.devid then d.ownSumm c else tget Summ.none d.alloc.summ (dev * 8 + c)

/-- key of device `dev` for u voices (R163 steps 1 and 2). -/
def Dev.devKey (d : Dev) (dev u : Nat) : Option Word :=
  (summClasses.foldl (fun (a : Nat × Option Word) c =>
    let s := d.summOf dev c
    match a.2 with
    | some _ => a
    | none => (a.1 + s.count, if u ≤ a.1 + s.count then some s.score else none)) (0, none)).2

/-- Devices that may be targeted, in ascending ID: the head and its voiced members. -/
def Dev.targets (d : Dev) : List Nat :=
  (List.range 255).filter fun i => i == d.devid || d.cbl.census.any fun m => m.id == i && m.state == 4 && m.admitted

/-- The target of a note-on of u voices (R163 step 3): the highest key, the lower ID of equal ones. -/
def Dev.chooseTarget (d : Dev) (u : Nat) : Option Nat :=
  (d.targets.foldl (fun (a : Option (Nat × Nat)) i =>
    match d.devKey i u with
    | none => a
    | some k =>
      match a with
      | none => some (i, k.toNat)
      | some (_, b) => if b < k.toNat then some (i, k.toNat) else a) none).map (·.1)

/-- Deduct u voices from the copy of device `dev`, the highest class first (R164). -/
def Dev.deduct (d : Dev) (dev u : Nat) : Dev :=
  (summClasses.foldl (fun (x : Dev × Nat) c =>
    let s := tget Summ.none x.1.alloc.summ (dev * 8 + c)
    let k := min s.count x.2
    let s' : Summ := if s.count - k = 0 then Summ.none else { s with count := s.count - k }
    ({ x.1 with alloc := { x.1.alloc with summ := tput Summ.none x.1.alloc.summ (dev * 8 + c) s' } }, x.2 - k)) (d, u)).1

/-- CHAIN_ALLOCATION (R163, R166): the device that holds a mono part's or a repeated key's note, else the best key; the
note-on is broadcast with tag and target, and entered in the head's table. -/
def Dev.allocChain (d : Dev) (e : PipeEnt) : Dev :=
  let r := e.ev
  let u := max 1 (d.fgAlloc (NOTE_PART_MODE_UNISON r.part))
  let mono := d.fgAlloc (NOTE_PART_MODE_VOICING r.part) != 0
  let old := d.alloc.notes.find? fun x => !x.lost && x.part == r.part &&
    (mono || (d.fgAlloc (NOTE_PART_STEAL_RETRIG r.part) == 1 && x.chan == r.chan && x.key == r.key))
  let target := match old with
    | some x => some x.target
    | none => d.chooseTarget u
  match target with
  | none => d.refuseNote e u
  | some t =>
    let (tag, d) := if e.tag = 0 then d.takeTag else (e.tag, d)
    let gone := fun (x : NoteTab) => x.tag == tag || (mono && x.part == r.part) ||
      (match old with
       | some y => y.tag == x.tag
       | none => false)
    let n : NoteTab := { tag := tag, part := r.part, chan := r.chan, key := r.key, target := t, u := u, sustained := false,
                         lost := false, vel := r.value.toNat / 65536, pitch := e.pitch, stamp := r.stamp }
    let d := { d with alloc := { d.alloc with notes := d.alloc.notes.filter (fun x => !gone x) ++ [n] } }
    let d := d.sendDn { ev := r, tag := tag, target := t, adm := false, u := u }
    if t = d.devid then d.allocLocal e (some tag) u true
    else
      let d := { d with alloc := { d.alloc with targeted := d.alloc.targeted ++ [(t, tag, u)] } }
      let d := (d.deduct t u).setEntry r.seq { e with queued := false, tag := tag, u := u, voices := [], starts := true }
      (d.setLast r.part tag u [] false).fp ALLOC_LAST_REFUSED 0 |>.fp ALLOC_LAST_TAG tag

/-! ### The queue (R154) -/

/-- Show the queue's occupancy; the high-water mark follows it up. -/
def Dev.showQueue (d : Dev) : Dev :=
  let n := d.alloc.queue.length
  (d.fp ALLOC_STAT_QOCC n).fp ALLOC_STAT_QHWM (max n (d.fg ALLOC_STAT_QHWM))

/-- A note-on's request joins the queue. -/
def Dev.enqueue (d : Dev) (seq : Nat) : Dev :=
  { d with alloc := { d.alloc with queue := d.alloc.queue ++ [seq] } }.showQueue

/-- Serve the request at the front: in a chain the head targets it, else it is allocated here. -/
def Dev.serve (d : Dev) : Dev :=
  match d.alloc.queue with
  | [] => d
  | q :: rest =>
    let d := { d with alloc := { d.alloc with queue := rest } }.showQueue
    match d.entry q with
    | none => d
    | some e =>
      if d.isHead && d.hasMembers then d.allocChain e
      else d.allocLocal e none (max 1 (d.fgAlloc (NOTE_PART_MODE_UNISON e.ev.part))) false

/-- ALLOCATION_REQUEST (R154). -/
def allocationRequest (d : Dev) : Dev := if d.running then d.serve else d

/-- QHWM_CLEAR: a write of ALLOC_STAT (R168). -/
def qhwmClear (_v : Word) (d : Dev) : Dev := d.fp ALLOC_STAT_QHWM d.alloc.queue.length

def execAllocationRequest (s : State) : Host.Outcome State Fault Refusal := done s (allocationRequest s.dev)
def execQhwmClear (v : Word) (s : State) : Host.Outcome State Fault Refusal := done s (s.dev.heard (qhwmClear v))

end Sys2Proof.Machine
end

