-- ==== Sys2Proof/Machine/Intake.lean ====
section
/-! DEFINITION. Event intake: parsing MIDI 1.0, packets and tuning messages (R89 to R97), parts and zones (R98 to R105),
stamps (R106 to R110), entry into the pipeline (R111 to R114) and its registers. -/
namespace Sys2Proof.Machine

/-! ### Values (R90, R96) -/

/-- OR a pattern of `w` bits into `v` again and again, ever further right. -/
def repeatBits : Nat → Nat → Nat → Nat → Nat
  | 0, v, _, _ => v
  | n + 1, v, r, w => repeatBits n (v ||| r) (r / 2 ^ w) w

/-- Min-center-max upscaling of `v` from `a` to `b` bits (R90). -/
def upscale (v a b : Nat) : Nat :=
  let s := b - a
  let x := v * 2 ^ s
  if v ≤ 2 ^ (a - 1) then x
  else
    let w := a - 1
    let r := v % 2 ^ w
    repeatBits b x (if s > w then r * 2 ^ (s - w) else r / 2 ^ (w - s)) w

/-- A bend value as a pitch offset with range r (R96). -/
def bendPitch (wide : Bool) (raw r : Nat) : Word :=
  if wide then w32i (((raw : Int) - 2 ^ 31) * r / 2 ^ 15) else w32i (((raw : Int) - 8192) * r * 8)

/-! ### Messages -/

/-- Kind of the message of an RPN 0, which takes no entry of its own (R95). -/
def kindRange : Nat := 0x40

/-- A live message of a channel with its arrival times. -/
def Msg.live (kind group chan : Nat) (start fin : Word) : Msg :=
  { kind := kind, group := group, chan := chan, key := 0, attr := false, value := 0, index := 0, raw := 0, wide := false,
    start := start, done := fin, stamp := none, nextPart := 0, part := none, dev := 0, tag := 0, keys := [] }

/-- The source's settings register, by source index 2 to 7 (R117). -/
def srcIdx (src : Nat) : Nat := src - 2

/-- L_chain in ns, where the device leads a chain (R110). -/
def Dev.chainNs (d : Dev) : Word := if d.isHead && d.hasMembers then w32 (d.fg CBL_CHAIN_LCHAIN * 1000) else 0

/-- The arrival time that the settings of source `src` take (R106). -/
def Dev.arrival (d : Dev) (src : Nat) (start fin : Word) : Word :=
  if 2 ≤ src ∧ src ≤ 7 ∧ d.fgAt (NOTE_SRC_AT (srcIdx src)) start ≠ 0 then fin else start

/-- The live stamp (R106, R110). -/
def Dev.liveStamp (d : Dev) (src : Nat) (start fin : Word) : Word :=
  let a := d.arrival src start fin
  a + w32 (d.fgAt (NOTE_SRC_OFS (srcIdx src)) a * 1000) + d.chainNs

/-- The source takes input that arrived at `t` (R117). -/
def Dev.srcOn (d : Dev) (src : Nat) (t : Word) : Bool :=
  !(decide (2 ≤ src) && decide (src ≤ 7)) || d.fgAt (NOTE_SRC_EN (srcIdx src)) t != 0

/-- Put a message in its source's holding stage, unless the source is off. -/
def Dev.take (d : Dev) (src : Nat) (m : Msg) : Dev :=
  if d.srcOn src (d.arrival src m.start m.done) then d.post src m else d

/-- Put several messages in. -/
def Dev.takeAll (d : Dev) (src : Nat) (l : List Msg) : Dev := each l (fun m d => d.take src m) d

/-! ### Controllers and channel messages (R90, R95) -/

/-- Key of a channel's held selections. -/
def chanKeyOf (src group chan : Nat) : Nat := src * 256 + group * 16 + chan

def Dev.chanSt (d : Dev) (k : Nat) : ChanSt := tget ChanSt.idle d.note.chans k
def Dev.setChanSt (d : Dev) (k : Nat) (x : ChanSt) : Dev :=
  { d with note := { d.note with chans := tput ChanSt.idle d.note.chans k x } }

/-- A control change (R95): `v` upscaled to 32 bits, `v7` its seven bits on MIDI 1.0 input. `ts` is a supplied stamp. -/
def Dev.ccIn (d : Dev) (src g c idx : Nat) (v : Word) (v7 : Option Nat) (start fin : Word) (ts : Option Word) : Dev :=
  let k := chanKeyOf src g c
  let x := d.chanSt k
  let top := v7.getD (v.toNat / 2 ^ 25)
  let m := fun (kind : Nat) => { Msg.live kind g c start fin with stamp := ts }
  match idx with
  | 0 => d.setChanSt k { x with bankM := top }
  | 32 => d.setChanSt k { x with bankL := top }
  | 6 =>
    if v7.isNone ∨ x.nrpn ∨ x.pM ≠ 0 then d
    else if x.pL = 0 then d.take src { m kindRange with value := w32 (min 48 top) }
    else if x.pL = 6 then d.take src { m 0x14 with value := w32 (min 15 top) }
    else d
  | 38 | 96 | 97 => d
  | 98 | 99 => if v7.isNone then d else d.setChanSt k { x with nrpn := true }
  | 100 => if v7.isNone then d else d.setChanSt k { x with pL := top, nrpn := false }
  | 101 => if v7.isNone then d else d.setChanSt k { x with pM := top, nrpn := false }
  | 120 => d.take src (m 0x17)
  | 121 => d.take src (m 0x18)
  | 123 => d.take src (m 0x16)
  | 124 | 125 | 126 | 127 => d
  | _ => d.take src { m 0x10 with index := idx, value := v }

/-- A MIDI 1.0 channel voice message: status, channel and data (R90, R95, R96). -/
def Dev.midi1 (d : Dev) (src g st c a b : Nat) (start fin : Word) (ts : Option Word) : Dev :=
  let m := fun (kind : Nat) => { Msg.live kind g c start fin with stamp := ts }
  match st with
  | 8 => d.take src { m 0x02 with key := a, value := w32 (upscale b 7 16 * 65536) }
  | 9 =>
    if b = 0 then d.take src { m 0x02 with key := a, value := 0x80000000 }
    else d.take src { m 0x01 with key := a, value := w32 (upscale b 7 16 * 65536) }
  | 10 => d.take src { m 0x03 with key := a, value := w32 (upscale b 7 32) }
  | 11 => d.ccIn src g c a (w32 (upscale b 7 32)) (some b) start fin ts
  | 12 =>
    let x := d.chanSt (chanKeyOf src g c)
    d.take src { m 0x13 with index := a, value := w32 (x.bankM * 128 + x.bankL) }
  | 13 => d.take src { m 0x11 with value := w32 (upscale a 7 32) }
  | 14 => d.take src { m 0x12 with raw := b * 128 + a }
  | _ => d

/-! ### Tuning messages (R91, R97) -/

/-- Key changes of the note-by-note forms: key, semitone, fraction; 7F 7F 7F leaves the key as it is. -/
def tuneKeys : List Nat → List (Nat × Word)
  | k :: x :: y :: z :: t =>
    (if x = 127 ∧ y = 127 ∧ z = 127 then [] else [(k % 128, w32 (x * 65536 + (y * 128 + z) * 4))]) ++ tuneKeys t
  | _ => []

/-- Keys of a bulk dump, from key `k` on. -/
def tuneBulk : Nat → List Nat → List (Nat × Word)
  | k, x :: y :: z :: t =>
    if 128 ≤ k then []
    else (if x = 127 ∧ y = 127 ∧ z = 127 then [] else [(k, w32 (x * 65536 + (y * 128 + z) * 4))]) ++ tuneBulk (k + 1) t
  | _, _ => []

/-- Offsets of the twelve pitch classes in 1/65,536 semitone: one byte each in cents from 64, or two of 14 bits over
100 cents each way. A cent is no whole number of these units; log entry 10. -/
def octaveOffsets (two : Bool) (l : List Nat) : List Int :=
  (List.range 12).map fun i =>
    if two then (((l.getD (2 * i) 64 * 128 + l.getD (2 * i + 1) 0 : Nat) : Int) - 8192) * 8
    else bq 60 (((l.getD i 64 : Int) - 64) * 65536) 100

/-- All keys of a scale or octave form. -/
def octaveKeys (o : List Int) : List (Nat × Word) :=
  (List.range 128).map fun k => (k, w32i ((k : Int) * 65536 + o.getD (k % 12) 0))

/-- A tuning message of table t. -/
def tuneMsg (t : Nat) (real : Bool) (keys : List (Nat × Word)) (start fin : Word) (ts : Option Word) : List Msg :=
  if t < 32 ∧ keys ≠ [] then [{ Msg.live 0x15 0 0 start fin with index := t, attr := real, keys := keys, stamp := ts }] else []

/-- The tables that forms 0x08 and 0x09 address: those of the parts mapped to the source on a channel of the message's
map (log entry 25). -/
def Dev.mapTables (d : Dev) (src : Nat) (mask : Nat) (t : Word) : List Nat :=
  (List.range 32).filter fun n => (List.range 32).any fun p =>
    d.fgAt (NOTE_PART_MAP_EN p) t != 0 && decide (d.fgAt (NOTE_PART_MAP_PORTS p) t / 2 ^ (src - 2) % 2 = 1) &&
    d.fgAt (NOTE_PART_MAP_CHAN p) t &&& mask != 0 && d.fgAt (NOTE_PART_TUNE_TABLE p) t == n

/-- The messages that a universal SysEx makes: its bytes between 0xF0 and 0xF7 (R91, R97). -/
def Dev.sysexTuning (d : Dev) (src : Nat) (l : List Nat) (start fin : Word) (ts : Option Word) : List Msg :=
  let st := ts.getD (d.liveStamp src start fin)
  match l with
  | cls :: dev :: 0x08 :: form :: rest =>
    if (cls ≠ 0x7F ∧ cls ≠ 0x7E) ∨ (dev ≠ d.fgAt NOTE_SYSEX_DEVID st % 128 ∧ dev ≠ 0x7F) then []
    else
      let real := cls == 0x7F
      let one := fun (t : Nat) (keys : List (Nat × Word)) => tuneMsg t real keys start fin ts
      let byMap := fun (two : Bool) =>
        let mask := rest.getD 0 0 % 4 * 2 ^ 14 + rest.getD 1 0 * 2 ^ 7 + rest.getD 2 0
        (d.mapTables src mask st).flatMap fun t => one t (octaveKeys (octaveOffsets two (rest.drop 3)))
      if real then
        match form with
        | 0x02 => one (rest.getD 0 127) (tuneKeys ((rest.drop 2).take (4 * rest.getD 1 0)))
        | 0x07 => one (rest.getD 1 127) (tuneKeys ((rest.drop 3).take (4 * rest.getD 2 0)))
        | 0x08 => byMap false
        | 0x09 => byMap true
        | _ => []
      else
        match form with
        | 0x01 => one (rest.getD 0 127) (tuneBulk 0 (rest.drop 17))
        | 0x04 => one (rest.getD 1 127) (tuneBulk 0 (rest.drop 18))
        | 0x05 => one (rest.getD 1 127) (octaveKeys (octaveOffsets false (rest.drop 18)))
        | 0x06 => one (rest.getD 1 127) (octaveKeys (octaveOffsets true (rest.drop 18)))
        | 0x08 => byMap false
        | 0x09 => byMap true
        | _ => []
  | _ => []

/-! ### The MIDI 1.0 byte stream (R89, R91) -/

/-- A message that the parser completes: its status byte, its data (for SysEx the bytes between), its arrival. -/
structure RawMsg where
  status : Nat
  data : List Nat
  start : Word
  fin : Word
  deriving DecidableEq, Repr

/-- Data bytes of a status. -/
def dataLen (st : Nat) : Nat :=
  if st < 0xF0 then (if st / 16 = 12 ∨ st / 16 = 13 then 1 else 2)
  else if st = 0xF1 ∨ st = 0xF3 then 1 else if st = 0xF2 then 2 else 0

/-- A data byte, or the byte that begins one under running status. -/
def Parser.dataByte (p : Parser) (b : Nat) (start fin : Word) : Parser × Option RawMsg × Bool :=
  match p.sysex with
  | some l => ({ p with sysex := some (l ++ [BitVec.ofNat 8 b]) }, none, false)
  | none =>
    if p.status = 0 ∧ p.running = 0 then (p, none, true)
    else
      let q := if p.status = 0 then { p with status := p.running, data := [], start := start } else p
      let l := q.data ++ [b]
      if l.length < dataLen q.status then ({ q with data := l }, none, false)
      else ({ q with status := 0, data := [] }, some ⟨q.status, l, q.start, fin⟩, false)

/-- One byte into the parser: the parser after it, a message it completes, and whether something is discarded (R89). -/
def Parser.feed (p : Parser) (b : Nat) (start fin : Word) : Parser × Option RawMsg × Bool :=
  let busy := p.sysex.isSome || p.status != 0
  if 0xF8 ≤ b then (p, some ⟨b, [], start, fin⟩, false)
  else if b < 0x80 then p.dataByte b start fin
  else if b < 0xF0 then
    ({ p with running := b, status := b, data := [], start := start, sysex := none }, none, busy)
  else if b = 0xF0 then ({ p with running := 0, status := 0, data := [], start := start, sysex := some [] }, none, busy)
  else if b = 0xF7 then
    match p.sysex with
    | some l => ({ p with running := 0, status := 0, sysex := none }, some ⟨0xF0, l.map (·.toNat), p.start, fin⟩, false)
    | none => ({ p with running := 0, status := 0, data := [] }, none, busy)
  else if dataLen b = 0 then ({ p with running := 0, status := 0, data := [], sysex := none }, none, busy)
  else ({ p with running := 0, status := b, data := [], start := start, sysex := none }, none, busy)

def Dev.parser (d : Dev) (n : Nat) : Parser := tget Parser.idle d.note.parsers n
def Dev.setParser (d : Dev) (n : Nat) (p : Parser) : Dev :=
  { d with note := { d.note with parsers := tput Parser.idle d.note.parsers n p } }

/-- Feed bytes until one message completes: the rest, and the message. -/
def Dev.parse (d : Dev) (n : Nat) : List (Byte × Word × Word) → Dev × List (Byte × Word × Word) × Option RawMsg
  | [] => (d, [], none)
  | (b, s, f) :: t =>
    let r := (d.parser n).feed b.toNat s f
    let d := d.setParser n r.1
    let d := if r.2.2 then d.count NOTE_CNT1_DISC else d
    match r.2.1 with
    | some m => (d, t, some m)
    | none => d.parse n t

/-- Messages that let go of everything on a MIDI port: pedals up, then all-notes-off, on every channel (R91, R92). -/
def portSilence (t : Word) : List Msg :=
  (List.range 16).flatMap fun c =>
    [{ Msg.live 0x10 0 c t t with index := 64 }, { Msg.live 0x10 0 c t t with index := 66 }, Msg.live 0x16 0 c t t]

/-- What a completed message does (R89 to R91). -/
def Dev.actMidi (d : Dev) (n : Nat) (m : RawMsg) : Dev :=
  let src := 2 + n
  if m.status = 0xF0 then d.takeAll src (d.sysexTuning src m.data m.start m.fin none)
  else if m.status = 0xF8 ∨ m.status = 0xFA ∨ m.status = 0xFB ∨ m.status = 0xFC then
    d.take src { Msg.live 0x19 0 0 m.start m.fin with value := w32 m.status }
  else if m.status = 0xFE then
    if d.on (NOTE_SRC_ASENSE n) then d.setParser n { d.parser n with armed := true } else d
  else if m.status < 0xF0 then
    d.midi1 src 0 (m.status / 16) (m.status % 16) (m.data.getD 0 0) (m.data.getD 1 0) m.start m.fin none
  else d

/-- MIDI_MESSAGE (R89): the port's bytes up to the next complete message; with 8 messages held the bytes wait (R113). -/
def midiMessage (n : Nat) (d : Dev) : Dev :=
  if decide (4 ≤ n) || !d.alive || decide (8 ≤ (d.waiting (2 + n)).length) then d
  else
    let u := d.uart n
    let r := d.parse n u.rxq
    let d := r.1.setUart n { r.1.uart n with rxq := r.2.1 }
    match r.2.2 with
    | some m => d.actMidi n m
    | none => d

/-- ACTIVE_SENSING_TIMEOUT (R91). -/
def activeSensingTimeout (n : Nat) (d : Dev) : Dev :=
  let p := d.parser n
  if d.alive && decide (n < 4) && p.armed then (d.setParser n { p with armed := false }).takeAll (2 + n) (portSilence d.now)
  else d

/-! ### Universal MIDI Packets (R93, R94, R107) -/

/-- Words of a packet by its message type. -/
def umpLen (mt : Nat) : Nat :=
  if mt ≤ 2 ∨ mt = 6 ∨ mt = 7 then 1
  else if mt = 3 ∨ mt = 4 ∨ (8 ≤ mt ∧ mt ≤ 10) then 2
  else if mt = 11 ∨ mt = 12 then 3 else 4

/-- The stamp of an MT 0x2 or 0x4 packet of the UMP command: a pending JR timestamp's or none (R107). -/
def Dev.jrStamp (d : Dev) (start fin : Word) : Option Word × Dev :=
  match d.note.jrPend with
  | none => (none, d)
  | some ts =>
    let live := d.liveStamp 6 start fin
    let d' := { d with note := { d.note with jrPend := none } }
    let reanchor := ({ d' with note := { d'.note with jrAnchor := some (ts, live) } }).count NOTE_CNT1_REANCH
    match d.note.jrAnchor with
    | none => (some live, reanchor)
    | some (a, t) =>
      let st := t + w32 (((ts + 65536 - a) % 65536) * 32000)
      if (later st live).natAbs > d.fgAt NOTE_JR_WIN (d.arrival 6 start fin) * 1000 then (some live, reanchor) else (some st, d')

/-- A MIDI 2.0 channel voice message (R93, R95). -/
def Dev.midi2 (d : Dev) (w0 w1 : Word) (start fin : Word) (ts : Option Word) : Dev :=
  let g := fieldOf w0 27 24
  let c := fieldOf w0 19 16
  let key := fieldOf w0 14 8
  let m := fun (kind : Nat) => { Msg.live kind g c start fin with stamp := ts, key := key, value := w1, wide := true }
  match fieldOf w0 23 20 with
  | 0x0 => d.take 6 { m 0x05 with index := fieldOf w0 7 0 }
  | 0x1 => d.take 6 { m 0x06 with index := fieldOf w0 7 0 }
  | 0x2 =>
    if key = 0 ∧ fieldOf w0 6 0 = 0 then d.take 6 { m kindRange with key := 0, value := w32 (min 48 (w1.toNat / 2 ^ 25)) }
    else if key = 0 ∧ fieldOf w0 6 0 = 6 then d.take 6 { m 0x14 with key := 0, value := w32 (min 15 (w1.toNat / 2 ^ 25)) }
    else d
  | 0x3 => d
  | 0x6 => d.take 6 { m 0x04 with value := bendPitch true w1.toNat 48 }
  | 0x8 => d.take 6 { m 0x02 with value := w1 &&& 0xFFFF0000 }
  | 0x9 =>
    if fieldOf w0 7 0 = 3 then d.take 6 { m 0x01 with attr := true } else d.take 6 { m 0x01 with value := w1 &&& 0xFFFF0000 }
  | 0xA => d.take 6 (m 0x03)
  | 0xB => d.ccIn 6 g c key w1 none start fin ts
  | 0xC =>
    let k := chanKeyOf 6 g c
    let x := d.chanSt k
    let x := if bitOf w0 0 then { x with bankM := fieldOf w1 14 8, bankL := fieldOf w1 6 0 } else x
    (d.setChanSt k x).take 6 { m 0x13 with key := 0, index := fieldOf w1 30 24, value := w32 (x.bankM * 128 + x.bankL) }
  | 0xD => d.take 6 { m 0x11 with key := 0 }
  | 0xE => d.take 6 { m 0x12 with key := 0, raw := w1.toNat, value := 0 }
  | 0xF => d.take 6 { m 0x07 with index := fieldOf w0 7 0, value := 0 }
  | _ => d.count NOTE_CNT1_UNSUP

/-- Data bytes of a SysEx packet. -/
def sysexBytes (l : List Word) (first n : Nat) : List Byte :=
  (((l.flatMap fun w => (leBytes 4 w.toNat).reverse).drop first).take n)

/-- A complete SysEx message of a group: tuning messages to intake; a configuration message is answered with its address
and value (R93, R94). -/
def Dev.sysexDone (d : Dev) (l : List Byte) (start fin : Word) (ts : Option Word) : Dev × Option (Word × Word) :=
  let b := l.map (·.toNat)
  let st := ts.getD (d.liveStamp 6 start fin)
  let mfr := d.fgAt NOTE_SYSEX_MFR st
  let id := if mfr / 256 = 0 then [mfr % 128] else [0, mfr / 256 % 128, mfr % 128]
  let n := id.length
  if b.take n = id ∧ b.getD n 0 = 1 ∧ b.length = n + 11 then
    let val := fun (l : List Nat) => w32 (l.foldl (fun a x => a * 128 + x) 0)
    (d, some (val ((b.drop (n + 1)).take 5), val (b.drop (n + 6))))
  else (d.takeAll 6 (d.sysexTuning 6 b start fin ts), none)

/-- A SysEx packet of assembly slot k: status, data bytes (R93). -/
def Dev.sysexPacket (d : Dev) (k st : Nat) (bs : List Byte) (start fin : Word) (ts : Option Word) :
    Dev × Option (Word × Word) :=
  let cur := tget [] d.note.sx k
  let set := fun (d : Dev) (l : List Byte) => { d with note := { d.note with sx := tput [] d.note.sx k l } }
  match st with
  | 0 => (set (if cur.isEmpty then d else d.count NOTE_CNT1_DISC) []).sysexDone bs start fin ts
  | 1 => (set (if cur.isEmpty then d else d.count NOTE_CNT1_DISC) (0xF0 :: bs), none)
  | 2 => if cur.isEmpty then (d.count NOTE_CNT1_DISC, none) else (set d (cur ++ bs), none)
  | 3 => if cur.isEmpty then (d.count NOTE_CNT1_DISC, none) else (set d []).sysexDone (cur.drop 1 ++ bs) start fin ts
  | _ => (d.count NOTE_CNT1_UNSUP, none)

/-- One packet on the host port (R93): `ts` is the stamp of the timed-event command. A configuration message comes back as
address and value, for the staging copy. -/
def Dev.packet (d : Dev) (ws : List UmpWord) (ts : Option Word) : Dev × Option (Word × Word) :=
  match ws with
  | [] => (d, none)
  | u :: rest =>
    let w := u.w
    let start := u.start
    let fin := (ws.getLast?.map (·.done)).getD u.done
    let arr := d.arrival 6 start fin
    if !d.srcOn 6 arr then (d, none)
    else match fieldOf w 31 28 with
      | 0 =>
        if fieldOf w 23 20 = 2 ∧ d.fgAt (NOTE_SRC_JR 4) arr ≠ 0 ∧ ts.isNone then
          ({ d with note := { d.note with jrPend := some (fieldOf w 15 0) } }, none)
        else (d, none)
      | 2 =>
        let (st, d) := if ts.isSome then (ts, d) else d.jrStamp start fin
        (d.midi1 6 (fieldOf w 27 24) (fieldOf w 23 20) (fieldOf w 19 16) (fieldOf w 14 8) (fieldOf w 6 0) start fin st, none)
      | 4 =>
        let (st, d) := if ts.isSome then (ts, d) else d.jrStamp start fin
        (d.midi2 w (rest.headD u).w start fin st, none)
      | 3 => d.sysexPacket (fieldOf w 27 24) (fieldOf w 23 20) (sysexBytes (ws.map (·.w)) 2 (min 6 (fieldOf w 19 16))) start fin ts
      | 5 =>
        if fieldOf w 15 8 ≠ 0 ∨ 4 ≤ fieldOf w 23 20 then (d.count NOTE_CNT1_UNSUP, none)
        else d.sysexPacket (16 + fieldOf w 27 24) (fieldOf w 23 20)
          (sysexBytes (ws.map (·.w)) 3 (min 13 (fieldOf w 19 16 - 1))) start fin ts
      | _ => (d.count NOTE_CNT1_UNSUP, none)

/-! ### Parts (R98, R99, R103 to R105) -/

/-- Bit of source `src` in PORTS (R117). -/
def portBit (src : Nat) : Nat := src - 2

/-- The channels of part p's zone with `n` members at stamp t (R103). -/
def Dev.zoneChans (d : Dev) (p n : Nat) (t : Word) : List Nat :=
  if d.fgAt (NOTE_PART_MPE_ZONE p) t = 2 then 15 :: (List.range n).map (14 - ·) else 0 :: (List.range n).map (· + 1)

/-- Part p takes the channel of a message at stamp t (R98, R103). -/
def Dev.chanMatch (d : Dev) (p c : Nat) (t : Word) : Bool :=
  if d.mpeOn p t then (d.zoneChans p (d.liveCount p t) t).contains c
  else decide (d.fgAt (NOTE_PART_MAP_CHAN p) t / 2 ^ c % 2 = 1)

/-- Part p is mapped to the source and group at stamp t. -/
def Dev.portMatch (d : Dev) (p src group : Nat) (t : Word) : Bool :=
  d.fgAt (NOTE_PART_MAP_EN p) t != 0 && decide (d.fgAt (NOTE_PART_MAP_PORTS p) t / 2 ^ portBit src % 2 = 1) &&
  d.fgAt (NOTE_PART_MAP_GROUP p) t == group

/-- A note-on lies in the zone of part p (R99). -/
def Dev.inZone (d : Dev) (p key vel : Nat) (t : Word) : Bool :=
  decide (d.fgAt (NOTE_PART_ZONE_KEY_LO p) t ≤ key) && decide (key ≤ d.fgAt (NOTE_PART_ZONE_KEY_HI p) t) &&
  decide (d.fgAt (NOTE_PART_ZONE_VEL_LO p) t ≤ vel / 512) && decide (vel / 512 ≤ d.fgAt (NOTE_PART_ZONE_VEL_HI p) t)

/-- Part p takes message m of source `src` at stamp t. -/
def Dev.partTakes (d : Dev) (p src : Nat) (m : Msg) (t : Word) : Bool :=
  match m.part with
  | some q => p == q && d.fgAt (NOTE_PART_MAP_EN p) t != 0 &&
      (m.kind != 0x01 || src == 8 || d.inZone p m.key (m.value.toNat / 65536) t)
  | none =>
    match m.kind with
    | 0x19 => d.fgAt (NOTE_PART_MAP_EN p) t != 0 && decide (d.fgAt (NOTE_PART_MAP_PORTS p) t / 2 ^ portBit src % 2 = 1)
    | 0x14 => d.portMatch p src m.group t && d.fgAt (NOTE_PART_MPE_ZONE p) t != 0 && d.master p t == m.chan &&
        d.fgAt (NOTE_PART_MPE_MCM_EN p) t != 0
    | 0x01 => d.portMatch p src m.group t && d.chanMatch p m.chan t && d.inZone p m.key (m.value.toNat / 65536) t
    | _ => d.portMatch p src m.group t && d.chanMatch p m.chan t

/-- A live count of n would give part p a channel that another enabled MPE part of its port and group uses (R105). -/
def Dev.mpeClash (d : Dev) (p src n : Nat) (group : Nat) (t : Word) : Bool :=
  n != 0 && (List.range 32).any fun q =>
    q != p && d.portMatch q src group t && d.mpeOn q t &&
    (d.zoneChans p n t).any fun c => (d.zoneChans q (d.liveCount q t) t).contains c

/-! ### Entry (R87, R111 to R114) -/

/-- Entries in use, in NOTE_STAT (R117). -/
def Dev.showPipe (d : Dev) : Dev :=
  let n := d.note.pipe.length
  (d.fp NOTE_STAT_OCC n).fp NOTE_STAT_HWM (max n (d.fg NOTE_STAT_HWM))

/-- An entry is free (R112). -/
def Dev.pipeFree (d : Dev) : Bool := decide (d.note.pipe.length < 128)

/-- The last 256 events (R114). -/
def Dev.remember (d : Dev) (r : EvRec) : Dev :=
  let l := d.note.last ++ [r]
  { d with note := { d.note with last := l.drop (l.length - 256) } }

/-- Put a record into the pipeline (R111): judged at entry, counted and raised if late. -/
def Dev.putEntry (d : Dev) (r : EvRec) (e : PipeEnt) : Dev :=
  let late := decide (later r.stamp (d.tau d.eng.c) < 0)
  let at_ := if late then (d.eng.c, 0) else d.sampleOf r.stamp
  let r := { r with late := late }
  let d := { d with note := { d.note with pipe := d.note.pipe ++ [{ e with ev := r, sample := at_.1, phi := at_.2 }] } }
  let d := (d.remember r).showPipe
  if late then (d.count NOTE_CNT0_LATE).raise 27 else d

/-- Take the next arrival sequence (R87). -/
def Dev.takeSeq (d : Dev) : Nat × Dev := (d.note.seq, { d with note := { d.note with seq := (d.note.seq + 1) % 0x10000 } })

/-- Add to the history of R523. -/
def Dev.addHist (d : Dev) (what part chan : Nat) (t : Word) (v : Nat) : Dev :=
  { d with note := { d.note with hist := d.note.hist ++ [{ what := what, part := part, chan := chan, stamp := t, value := v }] } }

/-- The device of origin in the record (R114). -/
def Dev.originOf (d : Dev) (m : Msg) : Nat := if m.dev ≠ 0 then m.dev else if d.isHead && d.hasMembers then d.devid else 0

/-- The record of message m for part p at stamp t (R96, R104, R114). -/
def Dev.recordOf (d : Dev) (src p : Nat) (m : Msg) (t : Word) (seq : Nat) : EvRec :=
  let wideZone := decide (m.kind = 0x16 ∨ m.kind = 0x17 ∨ m.kind = 0x18) || (m.kind == 0x10 && m.index != 74)
  let chan := if wideZone then d.ctrlChan p m.chan t else m.chan
  let range := if d.isMemberChan p m.chan t then d.memberRange p t else d.bendRange p m.chan t
  { stamp := t, kind := m.kind, attr := m.attr, key := m.key, part := p, late := false, chan := chan, src := src,
    value := if m.kind = 0x12 then bendPitch m.wide m.raw range else m.value,
    seq := seq, devid := d.originOf m, index := m.index }

/-- Enter the event of message m for part p (R111): its live state (R523), its entry, a note-on's request, and in a chain
the head's broadcast. `pitch` is a note-on's. -/
def Dev.enterPart (d : Dev) (src p : Nat) (m : Msg) (t : Word) (pitch : Int) : Dev :=
  if m.kind = kindRange then
    if d.isMemberChan p m.chan t then d.addHist 1 p 0 t m.value.toNat else d.addHist 0 p m.chan t m.value.toNat
  else if m.kind = 0x14 ∧ d.mpeClash p src m.value.toNat m.group t then d.count NOTE_CNT1_UNSUP
  else
    let (seq, d) := d.takeSeq
    let r := d.recordOf src p m t seq
    let d := if m.kind = 0x14 then d.addHist 2 p 0 t m.value.toNat else d
    let on := decide (m.kind = 0x01)
    let e : PipeEnt := { ev := r, sample := 0, phi := 0, pitch := pitch, applied := false, queued := on, refused := false,
                         voices := [], tag := if src = 8 then m.tag else 0, u := 1, starts := false }
    let d := d.putEntry r e
    if on then d.enqueue seq
    else if d.isHead && d.hasMembers then
      let s := (d.sampleOf t).1
      let (tag, d) := if m.kind = 0x02 then d.noteOffTag s r else (0, d.headNotes r)
      let d := match d.entry seq with
        | some x => d.setEntry seq { x with tag := tag }
        | none => d
      d.sendDn { ev := r, tag := tag, target := 0, adm := false, u := 1 }
    else d

/-- A tuning change of key k (R97): the history of its table, and with a real-time form an event. -/
def Dev.enterTuning (d : Dev) (src : Nat) (m : Msg) (t : Word) (k : Nat) (v : Word) : Dev :=
  let d := d.addHist 3 m.index k t v.toNat
  if !m.attr then
    d.sendDn { ev := { d.recordOf src 0 m t 0 with key := k, value := v, attr := true }, tag := 0, target := 0, adm := false, u := 1 }
  else
    let (seq, d) := d.takeSeq
    let r := { d.recordOf src 0 m t seq with key := k, value := v, attr := false }
    (d.putEntry r { ev := r, sample := 0, phi := 0, pitch := 0, applied := false, queued := false, refused := false,
                    voices := [], tag := 0, u := 1, starts := false }).sendDn { ev := r, tag := 0, target := 0, adm := false, u := 1 }

/-- The stamp of message m of source `src` (R106 to R110). -/
def Dev.stampOf (d : Dev) (src : Nat) (m : Msg) : Word :=
  match m.stamp with
  | some t => t
  | none => if src = 1 then d.liveStamp m.tag m.start m.done else d.liveStamp src m.start m.done

/-- The pitch of a note-on for part p, none where its key leaves the range (R99); a rescued note keeps its own (R167). -/
def Dev.msgPitch (d : Dev) (src p : Nat) (m : Msg) (t : Word) : Option Int :=
  if m.kind ≠ 0x01 then some 0
  else if src = 8 then some (signed 32 m.raw)
  else d.keyPitch p m.key (if m.attr then some (m.value.toNat % 65536) else none) t

/-- The first part from `ps` that takes m, counting keys out of range on the way (R99): the part, its pitch, the parts left. -/
def Dev.nextTaker (d : Dev) (src : Nat) (m : Msg) (t : Word) : List Nat → Dev × Option (Nat × Int)
  | [] => (d, none)
  | p :: ps =>
    if !d.partTakes p src m t then d.nextTaker src m t ps
    else match d.msgPitch src p m t with
      | some x => (d, some (p, x))
      | none => (d.count NOTE_CNT1_RANGE).nextTaker src m t ps

/-- A commit that enters behind C applies at C (R78). -/
def Dev.lateCommit (d : Dev) (t : Word) : Dev :=
  if later t (d.tau d.eng.c) < 0 then
    { d with stg := { d.stg with sample := d.eng.c, applyT := d.tau d.eng.c } }.fp STG_STATUS_LATE 1
  else d

/-- Serve the front message of a source that has a part or a key to serve: one event. -/
def Dev.enterFront (d : Dev) (src : Nat) (m : Msg) (rest : List Msg) : Dev :=
  let t := d.stampOf src m
  let org := if src = 1 then m.tag else src
  if m.kind = 0x15 then
    match m.keys with
    | [] => d.setWaiting src rest
    | (k, v) :: ks =>
      (d.enterTuning org m t k v).setWaiting src (if ks = [] then rest else { m with keys := ks } :: rest)
  else if m.kind = 0x21 ∨ m.kind = 0x20 then
    let (seq, d) := d.takeSeq
    let r := d.recordOf src 0 m t seq
    let d := (d.putEntry r { ev := r, sample := 0, phi := 0, pitch := 0, applied := false, queued := false, refused := false,
                             voices := [], tag := 0, u := 1, starts := false }).setWaiting src rest
    if m.kind = 0x20 then d.lateCommit t else d
  else
    let r := d.nextTaker org m t ((List.range 32).filter fun p => decide (m.nextPart ≤ p))
    match r.2 with
    | none => r.1.setWaiting src rest
    | some (p, x) =>
      let d := r.1.enterPart org p m t x
      let more := (List.range 32).any fun q => decide (p < q) && d.partTakes q org m t
      d.setWaiting src (if more then { m with nextPart := p + 1 } :: rest else rest)

/-- A member that has been admitted forwards the message to the head (R110, R376): the local arrival as STAMP, the group in
the part field, a bend unconverted with ATTR for 14 bits (log entry 26). -/
def Dev.forward (d : Dev) (src : Nat) (m : Msg) : Dev :=
  let send := fun (key : Nat) (v : Word) (attr : Bool) (d : Dev) =>
    d.sendUp 0x01 (Sys2Proof.Machine.recBytes {
      stamp := d.arrival src m.start m.done, kind := m.kind, attr := attr, key := key, part := m.part.getD m.group,
      late := false, chan := m.chan, src := src, value := v, seq := 0, devid := d.devid, index := m.index })
  if m.kind = 0x15 then each m.keys (fun k d => send k.1 k.2 (!m.attr) d) d
  else if m.kind = 0x12 then send m.key (w32 m.raw) (!m.wide) d
  else send m.key m.value m.attr d

/-- Put an ordered entry of the head into the pipeline (R377): a targeted note-on is allocated here at once, a
non-real-time tuning only enters the history, an MPE count as well. -/
def Dev.enterDn (d : Dev) (x : DnEntry) : Dev :=
  let r := { x.ev with src := 1 }
  let d := if r.kind = 0x14 then d.addHist 2 r.part 0 r.stamp r.value.toNat else d
  let d := if r.kind = 0x15 then d.addHist 3 r.index r.key r.stamp r.value.toNat else d
  if r.kind = 0x15 ∧ r.attr then d
  else
    let pitch := (d.keyPitch r.part r.key (if r.attr then some (r.value.toNat % 65536) else none) r.stamp).getD ((r.key : Int) * 65536)
    let e : PipeEnt := { ev := r, sample := 0, phi := 0, pitch := if r.kind = 1 then pitch else 0, applied := false,
                         queued := false, refused := false, voices := [], tag := x.tag, u := x.u, starts := r.kind == 1 }
    let d := d.putEntry r e
    if r.kind = 1 ∧ x.target = d.devid then
      match d.entry r.seq with
      | some e =>
        let d := d.allocLocal e (some x.tag) x.u true
        { d with alloc := { d.alloc with lastTag := x.tag } }
      | none => d
    else d

/-- EVENT_ENTRY (R111, R113): the next event of source `src` takes an entry where one is free. -/
def eventEntry (src : Nat) (d : Dev) : Dev :=
  if !d.running then d
  else if src = 1 && d.isMember then
    match d.cbl.held with
    | [] => d
    | x :: rest => if d.pipeFree then { d with cbl := { d.cbl with held := rest } }.enterDn x else d
  else
    match d.waiting src with
    | [] => d
    | m :: rest =>
      if d.isMember && m.kind != 0x21 && m.kind != 0x20 then
        (if d.forwards then d.forward src m else d).setWaiting src rest
      else if !d.pipeFree || (m.kind == 0x01 && decide (16 ≤ d.alloc.queue.length)) then d
      else d.enterFront src m rest

/-- HWM_CLEAR: a write of NOTE_STAT (R117). -/
def hwmClear (_v : Word) (d : Dev) : Dev := d.fp NOTE_STAT_HWM d.note.pipe.length

def execMidiMessage (n : Nat) (s : State) : Host.Outcome State Fault Refusal := done s (midiMessage n s.dev)
def execActiveSensingTimeout (n : Nat) (s : State) : Host.Outcome State Fault Refusal := done s (activeSensingTimeout n s.dev)
def execEventEntry (src : Nat) (s : State) : Host.Outcome State Fault Refusal := done s (eventEntry src s.dev)
def execHwmClear (v : Word) (s : State) : Host.Outcome State Fault Refusal := done s (s.dev.heard (hwmClear v))

end Sys2Proof.Machine
end

