-- ==== Sys2Proof/Machine/LinkRx.lean ====
section
/-! DEFINITION. Receiving on the link: what a port does with a frame before its meaning (R371 to R373), and where the frame
goes on (R375). -/
namespace Sys2Proof.Machine

/-- Remember an ordered set that port p sends: 0 ACK or 1 NAK, with its SEQ; the last 16 are kept (R369). -/
def Dev.ackSet (d : Dev) (p code seq : Nat) : Dev :=
  let x := d.lport p
  let l := x.acks ++ [(code, seq)]
  d.setLport p { x with acks := l.drop (l.length - 16) }

/-- One NAK naming the expected SEQ, until that SEQ arrives (R372). -/
def Dev.nakOnce (d : Dev) (p : Nat) : Dev :=
  let x := d.lport p
  if x.nakOut then d else (d.setLport p { x with nakOut := true }).ackSet p 1 x.rx

/-- The device is isolated: it forwards no frames (R387). -/
def Dev.isolated (d : Dev) : Bool := d.fg CBL_STAT_STATE == 7

/-- The device works on its links: in RUN or REST, its service firmware not frozen. -/
def Dev.linkUp (d : Dev) (p : Nat) : Bool := decide (p < 3) && (d.lport p).joined && d.alive

/-- Send an accepted frame on where its DST leads (R375). -/
def Dev.route (d : Dev) (h : LinkHdr) (ty : Nat) (pay : List Byte) : Dev :=
  if d.isolated then d
  else if h.dst = 0xFF then each d.downPorts (fun p d => d.sendOn p ty 0xFF h.src pay) d
  else if h.dst = 0 ∨ h.dst = 0xFD ∨ h.dst = d.devid then d
  else if h.dst = 1 then d.sendOn 0 ty 1 h.src pay
  else match d.portTo h.dst with
    | some p => d.sendOn p ty h.dst h.src pay
    | none => d

/-- The frame is for this device: from its peer, for all below, by its ID, or by path. -/
def Dev.mine (d : Dev) (h : LinkHdr) : Bool := h.dst == 0 || h.dst == 0xFF || h.dst == 0xFD || h.dst == d.devid

/-- A frame of type `ty` reaches a port (R371 to R373): a bad one is counted and makes a NAK, as does one too early; a
duplicate is counted and the latest ACK repeated; the expected one is acknowledged, sent on, and has its effect `f` where
it is for this device. -/
def Dev.onFrame (d : Dev) (h : LinkHdr) (ty : Nat) (pay : List Byte) (f : Dev → Dev) : Dev :=
  if !d.linkUp h.port then d
  else
    let x := d.lport h.port
    if !h.ok then (d.count (CBL_P_CNT0_CRCERR h.port)).nakOnce h.port
    else
      let k := seqLater h.seq x.rx
      if k > 0 then d.nakOnce h.port
      else if k < 0 then (d.count (CBL_P_CNT1_DUP h.port)).ackSet h.port 0 ((x.rx + 0xFFFF) % 0x10000)
      else
        let d := (d.setLport h.port { x with rx := (x.rx + 1) % 0x10000, nakOut := false }).ackSet h.port 0 h.seq
        let d := d.route h ty pay
        if d.mine h then f d else d

end Sys2Proof.Machine
end

