-- ==== Sys2Proof/Machine/RegFile.lean ====
section
/-! DEFINITION. Writing registers by their access codes (R6, R7, R520), the values the tables do not allow, and the staging
copy (R70, R71, R176). -/
namespace Sys2Proof.Machine

/-- Address `a` is one of `n` registers of a family. -/
def isReg (r : Nat → Nat) (n a : Nat) : Bool :=
  decide (r 0 ≤ a) && (a - r 0) % (r 1 - r 0) == 0 && decide ((a - r 0) / (r 1 - r 0) < n)

/-- A signed byte within −48 to 48. -/
def semitones (v : Nat) : Bool := decide ((signed 8 v).natAbs ≤ 48)

/-- Values the VOICE tables allow for the field at bit `lo` of window offset `o` (R201, R211, R216). -/
def voiceAllows (o lo v : Nat) : Bool :=
  let at_ := fun a => o == a - 0x50000
  if (List.range 4).any fun k => at_ (rVOICE_OSC_CTRL 0 k) then lo != 16 || semitones v
  else if (List.range 4).any fun k => at_ (rVOICE_OSC_BASE 0 k) then v % 32 == 0
  else if at_ (rVOICE_AMP2 0) then !(lo == 0 || lo == 8 || lo == 16 || lo == 24) || v % 2 == 0
  else if at_ (rVOICE_MODAL_A 0) then lo != 0 || decide (v ≤ 32)
  else if (List.range 3).any (fun k => at_ (rVOICE_VLFO_A 0 k)) || (List.range 2).any (fun k => at_ (rVOICE_PLFO_A 0 k)) then
    lo != 0 || v != 7
  else if (List.range 2).any fun k => at_ (rVOICE_CVRT_A 0 k) then lo != 24 || v != 3
  else true

/-- Values the NOTE tables allow (R117). -/
def noteAllows (a lo v : Nat) : Bool :=
  if isReg rNOTE_PART_TUNE 32 a then (lo != 8 || semitones v) && (lo != 0 || decide (v < 32) || v == 63)
  else if isReg rNOTE_PART_MODE 32 a then
    (lo != 24 || decide (v ≤ 48)) && (lo != 4 || (v != 0 && decide (v ≤ 8))) && (lo != 0 || v != 3)
  else if isReg rNOTE_PART_MPE 32 a then (lo != 16 || decide (v ≤ 48)) && (lo != 0 || v != 3)
  else if isReg rNOTE_PART_STEAL 32 a then lo != 16 || v != 3
  else true

/-- LENSEL of an input ring: 0, or 7 and above (R335, R422). -/
def lenselOk (v : Nat) : Bool := v == 0 || decide (7 ≤ v)

/-- Values the MIX and SAP tables allow (R314, R337). -/
def audioAllows (a lo v : Nat) : Bool :=
  if a = rMIX_RATE then v != 3
  else if a = rMIX_PDM_CFG then lo != 0 || (v % 2 == 0 && decide (16 ≤ v) && decide (v ≤ 254))
  else if isReg rMIX_BUS_CFG 64 a then lo != 0 || v != 3
  else if isReg rSAP_FRAME 4 a then
    (lo != 16 || (decide (16 ≤ v) && decide (v ≤ 1024))) && (lo != 8 || (v != 0 && decide (v ≤ 32)))
  else if isReg rSAP_FORMAT 4 a then (lo != 24 || v != 3) && (lo != 16 || decide (v ≤ 32))
  else if isReg rSAP_CLKDIV 4 a then lo != 16 || decide (2 ≤ v)
  else if isReg rSAP_VIN 4 a then lo != 28 || lenselOk v
  else if isReg rSAP_REC_CTRL 4 a then lo != 0 || v != 3
  else true

/-- Values the CVO and TMR tables allow (R360, R361). -/
def pinAllows (a lo v : Nat) : Bool :=
  if a = rCVO_CLK then v != 0
  else if isReg rCVO_CH_CFG 16 a then lo != 24 || decide (v ≤ 1)
  else if decide (rCVO_CAL 0 0 ≤ a) && decide (a < rCVO_CAL 16 0) then decide (v ≤ 65536)
  else if a = rCVO_AT_CFG then (lo != 20 || (decide (3 ≤ v) && decide (v ≤ 33))) && (lo != 10 || v != 0)
  else if isReg rCVO_ATR 16 a then lo != 0 || v != 0
  else if isReg rTMR_CFG 16 a then (lo != 4 || decide (v ≤ 5)) && (lo != 0 || v != 3)
  else if isReg rTMR_CAPCFG 16 a then lo != 0 || v != 3
  else true

/-- Values the NET, UART, MEM and TIME tables allow (R290, R421, R422, R439); TYPE of a stream map is the talkers'. -/
def systemAllows (a lo v : Nat) : Bool :=
  if a = rNET_CTRL then lo != 0 || v != 3
  else if a = rNET_VIN then lo != 28 || lenselOk v
  else if isReg rNET_STREAM 8 a then (lo != 26 || v != 3) && (lo != 20 || (v != 0 && decide (v ≤ 48)))
  else if isReg rNET_STREAM_TIME 8 a then lo != 0 || decide (2 ≤ v)
  else if (List.range 4).any fun n => decide (rNET_STREAM_MAP n 0 ≤ a) && decide (a ≤ rNET_STREAM_MAP n 15) then
    lo != 8 || decide (v ≤ 1)
  else if a = rUART_HCFG then lo != 0 || v != 0
  else if isReg rUART_CFG 5 a then lo != 0 || v != 0
  else if isReg rMEM_WIN_B 256 a then lo != 0 || (v != 0 && decide (v ≤ 65520))
  else if a = rTIME_CTRL then lo != 4 || v != 3
  else true

/-- A field takes this value: its table does not mark it as not allowed. -/
def fieldAllows (a lo v : Nat) : Bool :=
  match a / 0x10000 with
  | 0x3 => noteAllows a lo v
  | 0x5 | 0x6 | 0x7 | 0x8 => voiceAllows ((a - 0x50000) % 0x400) lo v
  | 0xA | 0xB => audioAllows a lo v
  | 0xC | 0xD => pinAllows a lo v
  | 0xF | 0x10 | 0x13 | 0x14 => systemAllows a lo v
  | _ => true

/-- The window of a voice whose context is absent, once CHUCK has ended: reads 0, ignores writes (R147). -/
def Dev.voiceAbsent (d : Dev) (a : Nat) : Bool :=
  decide (0x50000 ≤ a) && decide (a < 0x90000) && !(d.pwr.mode == .blank || d.pwr.mode == .chuck) &&
  !d.present ((a - 0x50000) / 0x400)

/-- Bits of a register whose fields have an access code. -/
def accMask (a : Nat) (acc : Acc) : Word :=
  (regFields a).foldl (fun m f => if f.acc = acc then m ||| setField 0 f.hi f.lo (2 ^ (f.hi + 1 - f.lo) - 1) else m) 0

/-- A write of `v` to one field of the word `w` at address `a`: RW, LK where it is open, W1C, W1S and counters (R7,
R520). -/
def fieldWrite (a : Nat) (lkOpen : Bool) (v w : Word) (f : FieldDesc) : Word :=
  let x := fieldOf v f.hi f.lo
  match f.acc with
  | .rw => if fieldAllows a f.lo x then setField w f.hi f.lo x else w
  | .lk => if lkOpen && fieldAllows a f.lo x then setField w f.hi f.lo x else w
  | .w1c => w &&& ~~~(setField 0 f.hi f.lo x)
  | .w1s => w ||| setField 0 f.hi f.lo x
  | .cnt => if x = 0 then w else setField w f.hi f.lo 0
  | _ => w

/-- LK fields take writes in BLANK and CHUCK (R7). -/
def Dev.lkOpen (d : Dev) : Bool := d.pwr.mode == .blank || d.pwr.mode == .chuck

/-- The fields of a register that are not staged, written by their codes. -/
def Dev.writeLive (d : Dev) (a : Nat) (v : Word) : Dev :=
  d.setReg a ((regFields a).foldl (fieldWrite a d.lkOpen v) (d.reg a))

/-- The staging copy of the register at `a` (R70, R71). -/
def Dev.stagingReg (d : Dev) (a : Nat) : Word :=
  let m := accMask a .st
  match tfind d.staged a with
  | some w => (w &&& m) ||| (d.reg a &&& ~~~m)
  | none => d.reg a

/-- The ST fields of `v` over the word `w`, but for values not allowed. -/
def stagedWord (a : Nat) (v w : Word) : Word :=
  (regFields a).foldl (fun w f =>
    let x := fieldOf v f.hi f.lo
    if f.acc = .st ∧ fieldAllows a f.lo x then setField w f.hi f.lo x else w) w

/-- The register has staged fields. -/
def isStaged (a : Nat) : Bool := (regFields a).any fun f => f.acc == .st

/-- An accepted write to an ST register makes the last check void (R73). -/
def Dev.uncheck (d : Dev) : Dev :=
  if d.on STG_STATUS_BUSY then { d with stg := { d.stg with dirty := true } } else d.fp STG_STATUS_RESULT 0

/-- A write to the ST fields of a register: to the staging copy; in CHUCK to the live value and the staging copy (R7,
R56, R70). A commit that has been accepted does not carry it (R74). -/
def Dev.writeStaged (d : Dev) (a : Nat) (v : Word) : Dev :=
  if !isStaged a || d.voiceAbsent a then d
  else if d.pwr.mode = .chuck then (d.setReg a (stagedWord a v (d.reg a))).uncheck
  else
    let w := stagedWord a v (d.stagingReg a)
    { d with staged := tins d.staged a w, stg := { d.stg with since := a :: d.stg.since.filter (· != a) } }.uncheck

/-- A write by the access codes alone. -/
def Dev.writeReg (d : Dev) (a : Nat) (v : Word) : Dev :=
  if d.voiceAbsent a then d else (d.writeLive a v).writeStaged a v

end Sys2Proof.Machine
end

