-- ==== Sys2Proof/Machine/Stage.lean ====
section
/-! DEFINITION. The commit unit (R70 to R80, R85): the consistency rules, checks, commits, and a commit's effect at its
sample. -/
namespace Sys2Proof.Machine

/-! ### The consistency rules (R76, R226, R472, R524) -/

/-- The live word of a register with the ST fields of `w`. -/
def Dev.staged1 (d : Dev) (a : Nat) (w : Word) : Word :=
  let m := accMask a .st
  (w &&& m) ||| (d.reg a &&& ~~~m)

/-- The device as it would stand with the ST registers of a set in force. -/
def Dev.withSet (d : Dev) (set : List (Nat × Word)) : Dev := set.foldl (fun d e => d.setReg e.1 (d.staged1 e.1 e.2)) d

/-- SPCLK in Hz at a STEP (R522). -/
def spclkOf (step : Nat) : Nat := 800000000 + 25000000 * step

/-- Both conditions of R226 for a spindle that offers nc contexts, at a step. -/
def Dev.costFits (d : Dev) (step n nc : Nat) : Bool :=
  let b := budgetOf (spclkOf step) d.voiceRate nc
  let c := d.fg (SPN_PROG_COST n)
  nc == 0 || (decide (c ≤ b.2.2) && decide (2 * c + 158 ≤ b.2.1))

/-- The voice count of a step at the configured voice rate (R472). -/
def Dev.voicesAt (d : Dev) (step : Nat) : Nat :=
  let cap : Nat := if 96000 < d.voiceRate then 8 else 16
  let c := ((List.range cap).reverse.find? fun k => (List.range 16).all fun n => d.costFits step n (k + 1)).map (· + 1)
  16 * c.getD 0

/-- Rule 1: RESERVE summed in part order stays within the voice count. -/
def Dev.rule1 (d : Dev) (n : Nat) : Option Nat :=
  (d.parts.foldl (fun (a : Nat × Option Nat) p =>
    let t := a.1 + d.fg (NOTE_PART_ALLOC_RESERVE p)
    (t, if a.2.isSome ∨ t ≤ n then a.2 else some (rNOTE_PART_ALLOC p))) (0, none)).2

/-- Channels of the staged zone of part p. -/
def Dev.zoneOf (d : Dev) (p : Nat) : List Nat :=
  let m := d.fg (NOTE_PART_MPE_MEMBERS p)
  if d.fg (NOTE_PART_MPE_ZONE p) = 0 ∨ m = 0 then []
  else if d.fg (NOTE_PART_MPE_ZONE p) = 2 then 15 :: (List.range m).map (14 - ·)
  else 0 :: (List.range m).map (· + 1)

/-- Rule 4: zones of two enabled parts on one port and group share no channel. -/
def Dev.rule4 (d : Dev) : Option Nat :=
  (d.parts.find? fun p => d.parts.any fun q =>
    q != p && (d.fg (NOTE_PART_MAP_PORTS p) &&& d.fg (NOTE_PART_MAP_PORTS q)) != 0 &&
    d.fg (NOTE_PART_MAP_GROUP p) == d.fg (NOTE_PART_MAP_GROUP q) && (d.zoneOf p).any fun c => (d.zoneOf q).contains c).map rNOTE_PART_MPE

/-- Port n sends the sample of bus b at the output rate of that bus: a master at the rate its divider gives, a slave at the
output rate (R297, R319, R320). -/
def Dev.rateFits (d : Dev) (n b : Nat) : Bool :=
  if d.on (SAP_CTRL_MASTER n) then
    2 ^ d.fg MIX_RATE_MULT * d.fg (SAP_FRAME_BITS n) * (d.fg (SAP_CLKDIV_N n) * 65536 + d.fg (SAP_CLKDIV_FR n)) ==
      2 ^ d.busStages b * 2048 * 65536
  else decide (2 ^ d.busStages b = d.osf)

/-- Rule 9: the lowest bus that feeds an enabled slot of an enabled port, or an enabled talker channel, at another rate. -/
def Dev.rule9 (d : Dev) : Option Nat :=
  ((List.range 64).find? fun b =>
    ((List.range 4).any fun n => d.on (SAP_CTRL_EN n) && (List.range 32).any fun c =>
      d.on (SAP_TXMAP_EN n c) && d.fg (SAP_TXMAP_TYPE n c) == 0 && d.fg (SAP_TXMAP_INDEX n c) == b && !d.rateFits n b) ||
    ((List.range 4).any fun n => d.on (NET_STREAM_EN n) && (List.range (d.fg (NET_STREAM_NCH n) + 1)).any fun c =>
      d.on (NET_STREAM_MAP_EN n c) && d.fg (NET_STREAM_MAP_TYPE n c) == 0 && d.fg (NET_STREAM_MAP_INDEX n c) == b &&
      2 ^ d.busStages b != d.osf)).map rMIX_BUS_CFG

/-- The first of the channel maps `reg` of a port whose slot an enabled channel shares. -/
def Dev.slotClash (d : Dev) (en slot : Nat → Fld) (reg : Nat → Nat) : Option Nat :=
  ((List.range 32).find? fun c => d.on (en c) &&
    (List.range 32).any fun e => e != c && d.on (en e) && d.fg (slot e) == d.fg (slot c)).map reg

/-- Rule 11, port by port, transmit before receive. -/
def Dev.rule11 (d : Dev) : Option Nat :=
  (List.range 4).findSome? fun n =>
    (d.slotClash (SAP_TXMAP_EN n) (SAP_TXMAP_SLOT n) (rSAP_TXMAP n)).orElse fun _ =>
      d.slotClash (SAP_RXMAP_EN n) (SAP_RXMAP_SLOT n) (rSAP_RXMAP n)

/-- Rule 17: every enabled channel of an enabled stream names an existing bus, where it names one. -/
def Dev.rule17 (d : Dev) : Option Nat :=
  ((List.range 8).find? fun n => d.on (NET_STREAM_EN n) && (List.range 16).any fun c =>
    d.on (NET_STREAM_MAP_EN n c) && decide (64 ≤ d.fg (NET_STREAM_MAP_INDEX n c)) &&
    (if n < 4 then d.fg (NET_STREAM_MAP_TYPE n c) == 0 else d.on (NET_STREAM_MAP_BUSEN n c))).map rNET_STREAM

/-- The rules in order, on the registers in force: the register that each reports where it fails; voice count and step as
planned. -/
def Dev.ruleFails (d : Dev) (voices step : Nat) : List (Option Nat) :=
  let ports := List.range 4
  [ d.rule1 voices,
    (d.parts.find? fun p => !(decide (d.fg (NOTE_PART_ALLOC_RESERVE p) ≤ d.fg (NOTE_PART_ALLOC_LIMIT p)) &&
      decide (d.fg (NOTE_PART_ALLOC_LIMIT p) ≤ voices))).map rNOTE_PART_ALLOC,
    (d.parts.find? fun p => decide (d.fg (NOTE_PART_ALLOC_LIMIT p) < d.fg (NOTE_PART_MODE_UNISON p))).map rNOTE_PART_MODE,
    d.rule4,
    if decide (8 ≤ d.fg NOTE_HORIZON_H) && decide (d.fg NOTE_HORIZON_H ≤ 64) then none else some rNOTE_HORIZON,
    if (decide (d.voiceRate ≤ 96000) || (decide (d.voiceRate ≤ 192000) && decide (voices ≤ 128))) && decide (d.fg MIX_RATE_OSF ≤ 2)
      then none else some rMIX_RATE,
    ((List.range 16).find? fun n => !d.costFits step n (voices / 16 + if n < voices % 16 then 1 else 0)).map rSPN_PROG,
    ((List.range 256).find? fun w => d.on (MEM_WIN_A_EN w) &&
      decide (d.fg (MEM_WIN_B_LEN w) < d.fg (MEM_WIN_B_DMAX w) + d.fg NOTE_HORIZON_H)).map rMEM_WIN_B,
    d.rule9,
    ((List.range d.stages).find? fun k =>
      !d.bankFull k (d.fg (MIX_DEC_CFG_ACTIVE k)) (d.ntap k (d.fg (MIX_DEC_CFG_ACTIVE k)))).map rMIX_DEC_CFG,
    d.rule11,
    (ports.find? fun n => decide (d.fg (SAP_FRAME_BITS n) < d.fg (SAP_FRAME_SLOTS n) * d.slotW n)).map rSAP_FRAME,
    (ports.find? fun n => decide (d.slotW n < d.dataW n)).map rSAP_FORMAT,
    (ports.find? fun n => d.on (SAP_CTRL_MASTER n) &&
      decide (49152000 * (d.fg (SAP_CLKDIV_N n) * 65536 + d.fg (SAP_CLKDIV_FR n)) < 2048 * d.baseRate * 65536)).map rSAP_CLKDIV,
    let v := d.fg CVO_CLK_CVDIV
    if v != 0 && d.voiceRate % v == 0 && decide (d.voiceRate ≤ 96000 * v) then none else some rCVO_CLK,
    ((List.range 16).find? fun n => decide ((d.reg (rTMR_PER n)).toNat < (d.reg (rTMR_PHASE n)).toNat)).map rTMR_PHASE,
    d.rule17 ]

/-- The first failing rule with the register it reports. -/
def firstFail : Nat → List (Option Nat) → Option (Nat × Nat)
  | _, [] => none
  | k, some a :: _ => some (k, a)
  | k, none :: t => firstFail (k + 1) t

/-- The check of a set (R72), at the planned step and voice count. -/
def Dev.checkSet (d : Dev) (set : List (Nat × Word)) (voices step : Nat) : Option (Nat × Nat) :=
  firstFail 1 ((d.withSet set).ruleFails voices step)

/-! ### Checks (R72, R73) -/

/-- Begin a check with a snapshot of the whole staging copy; one that runs begins anew. -/
def Dev.startCheck (d : Dev) (andCommit : Bool) : Dev :=
  ({ d with stg := { d.stg with snap := d.staged, checking := true, thenCommit := andCommit, dirty := false } }.fp
    STG_STATUS_BUSY 1).fp STG_STATUS_RESULT 0

/-- What a check found, in RULE, FAIL_ADDR and RESULT. -/
def Dev.showCheck (d : Dev) (res : Option (Nat × Nat)) (valid : Bool) : Dev :=
  let (rule, addr) := res.getD (0, 0)
  ((d.fp STG_STATUS_RULE rule).setReg rSTG_FAIL_ADDR (w32 addr)).fp STG_STATUS_RESULT
    (if valid then (if res.isSome then 2 else 1) else 0)

/-! ### Commits (R74, R77, R78, R80, R82) -/

/-- A refused commit (R74): REJ, and source 33. -/
def Dev.rejectCommit (d : Dev) (rej : Nat) : Dev := (d.fp STG_STATUS_REJ rej).raise 33

/-- The first VS boundary at or after chain time t (R77). -/
def Dev.boundaryAt (d : Dev) (t : Word) : Word :=
  let s := (d.sampleOf t).1
  if later t (d.tau s) > 0 then s + 1 else s

/-- The first VS that no voice has rendered: beyond the frontier of every part, and beyond every context (R77, R120). -/
def Dev.unrendered (d : Dev) : Word :=
  let h := d.parts.foldl (fun m p => max m (d.horizon p)) (d.fg NOTE_HORIZON_H)
  (List.range 256).foldl (fun (s : Word) v =>
    let c := d.ctx (ctxOf v)
    if (d.voice v).cls ≠ clsFree ∧ later c.next s > 0 then c.next else s) (d.eng.c + w32 h + 1)

/-- The ids of the members of the census. -/
def Dev.censusIds (d : Dev) : List Nat := d.cbl.census.map (·.id)

/-- Why a commit is refused now, with its sample where it is not (R74, R77, R82). -/
def Dev.commitFault (d : Dev) : Nat × Word :=
  let l := w32 (d.fg CBL_CHAIN_LCHAIN * 1000)
  if d.pwr.mode ≠ .run then (2, 0)
  else if d.fg STG_STATUS_RESULT ≠ 1 then (1, 0)
  else if d.on STG_STATUS_PENDING then (4, 0)
  else if !d.isHead then (5, 0)
  else if d.on AGE_STAT_CLKSEQ then (6, 0)
  else match d.fg STG_CTRL_WHEN with
    | 0 => (0, if d.hasMembers then d.boundaryAt (d.now + 1000000 + 2 * l) else d.unrendered)
    | 1 =>
      let s := d.boundaryAt (d.reg rSTG_AT)
      if d.hasMembers ∧ later (d.tau s) (d.now + 2 * l + 300000) < 0 then (8, 0) else (0, s)
    | _ => (3, 0)

/-- The ST fields that a set changes in force at `a`. -/
def Dev.setChanges (d : Dev) (e : Nat × Word) : Bool := d.staged1 e.1 e.2 != d.reg e.1

/-- A set changes the part, program or VOICE registers of voice v (R78). -/
def Dev.setTouches (d : Dev) (set : List (Nat × Word)) (v : Nat) : Bool :=
  let p := (d.voice v).part
  set.any fun e => d.setChanges e &&
    ((decide (rNOTE_PART_MAP p ≤ e.1) && decide (e.1 < rNOTE_PART_MAP p + 0x20)) || e.1 == rSPN_PROG (v / 16) ||
     (decide (0x50000 + v * 0x400 ≤ e.1) && decide (e.1 < 0x50400 + v * 0x400)))

/-- Rollback orders at sample s for every sounding voice that a set touches and that has rendered it (R78). -/
def Dev.commitRolls (d : Dev) (set : List (Nat × Word)) (s : Word) : Dev :=
  each (List.range 256) (fun v d =>
    let c := d.ctx (ctxOf v)
    if (d.voice v).cls != clsFree && decide (later c.next s > 0) && d.setTouches set v then d.order (ctxOf v) s d.note.seq else d) d

/-- The commit as an event of the pipeline, stamped t (R78, R113). -/
def Dev.commitEvent (d : Dev) (t : Word) (epoch : Word) : Dev :=
  let m : Msg := { kind := 0x20, group := 0, chan := 0, key := 0, attr := false, value := epoch, index := 0, raw := 0,
                   wide := true, start := t, done := t, stamp := some t, nextPart := 0, part := none, dev := 0, tag := 0, keys := [] }
  let d := d.post 0 m
  if d.pipeFree && (d.waiting 0).length == 1 then d.enterFront 0 m [] else d

/-- Fill the commit buffer with a set for sample s (R74, R78, R81): an event of the pipeline; a sample behind C has become C as
it enters. -/
def Dev.fillBuffer (d : Dev) (set : List (Nat × Word)) (s : Word) (epoch : Word) : Dev :=
  let d := { d with stg := { d.stg with
    buffer := some set, sample := s, applyT := d.tau s, since := [], epochT := epoch, goGot := false } }
  let d := d.commitEvent (d.tau s) epoch
  d.commitRolls set (if later d.stg.sample d.eng.c < 0 then d.eng.c else d.stg.sample)

/-- Empty the commit buffer: what had been rendered with it is rendered again (R83, R85). -/
def Dev.dropBuffer (d : Dev) : Dev :=
  match d.stg.buffer with
  | none => d
  | some set =>
    let d := d.commitRolls set d.stg.sample
    let d := d.setWaiting 0 ((d.waiting 0).filter fun (m : Msg) => m.kind != 0x20)
    ({ d with stg := { d.stg with buffer := none, prepared := false, goGot := false } }.fp STG_STATUS_PENDING 0).fp STG_STATUS_CSTATE 4

/-- COMMIT (R74, R81): refused, or accepted; with joined members it goes to the vote. -/
def Dev.doCommit (d : Dev) : Dev :=
  let (rej, s) := d.commitFault
  if rej ≠ 0 then d.rejectCommit rej
  else
    let epoch := d.reg rSTG_EPOCH + 1
    let d := (d.fillBuffer d.stg.snap s epoch).fp STG_STATUS_PENDING 1
    if d.hasMembers then
      ({ d with stg := { d.stg with census0 := d.censusIds, votes := [], noVote := false } }.fp STG_STATUS_CSTATE 2).broadcast
        0x08 (leBytes 4 epoch.toNat ++ leBytes 4 (d.tau s).toNat)
    else d.fp STG_STATUS_CSTATE 1

/-- ABORT of a chain commit before its decision (R81, R85): members are told, source 34. -/
def Dev.abortChain (d : Dev) : Dev :=
  let e := d.stg.epochT
  ((d.dropBuffer).broadcast 0x0B (leBytes 4 e.toNat)).raise 34

/-- ABORT of R85: a pending commit before its sample, or at a head that leads a chain before the decision. -/
def Dev.doAbort (d : Dev) : Dev :=
  if !d.on STG_STATUS_PENDING || !d.isHead then d
  else match d.fg STG_STATUS_CSTATE with
    | 2 => d.abortChain
    | 1 => if later d.stg.sample d.eng.c > 0 then d.dropBuffer else d
    | _ => d

/-- DISCARD (R70): staging takes every live value. -/
def Dev.doDiscard (d : Dev) : Dev := { d with staged := [], stg := { d.stg with since := [] } }

/-- A write of STG_CTRL (R75, R85): DISCARD alone, else WHEN, then ABORT, then CHECK with or without COMMIT, or COMMIT. -/
def Dev.stgCtrl (d : Dev) (v : Word) : Dev :=
  if bitOf v 2 then d.doDiscard
  else
    let d := d.fp STG_CTRL_WHEN (fieldOf v 5 4)
    let d := if bitOf v 3 then d.doAbort else d
    if bitOf v 0 then d.startCheck (bitOf v 1) else if bitOf v 1 then d.doCommit else d

/-- CHECK_COMPLETE (R72, R73): the result on the snapshot, void where an ST register was written meanwhile; with COMMIT
written too, the commit follows (R75). -/
def checkComplete (d : Dev) : Dev :=
  if !d.stg.checking then d
  else
    let res := d.checkSet d.stg.snap (d.fg AGE_PLAN_VOICES) (d.fg AGE_PLAN_STEP)
    let ok := !d.stg.dirty
    let go := d.stg.thenCommit
    let d := ({ d with stg := { d.stg with checking := false, thenCommit := false, dirty := false } }.fp STG_STATUS_BUSY 0).showCheck res ok
    if go then d.doCommit else d

def check (v : Word) (d : Dev) : Dev := if bitOf v 0 then d.stgCtrl v else d
def commit (v : Word) (d : Dev) : Dev := if bitOf v 1 then d.stgCtrl v else d
def discard (v : Word) (d : Dev) : Dev := if bitOf v 2 then d.stgCtrl v else d
def commitAbort (v : Word) (d : Dev) : Dev := if bitOf v 3 then d.stgCtrl v else d

/-- STAGED_WRITE (R70, R71, R73). -/
def stagedWrite (addr value : Word) (d : Dev) : Dev := d.writeStaged addr.toNat value

/-! ### At the sample (R79) -/

/-- Registers whose change waits for the output point: serial ports, CV, timers, network (R79). -/
def waitsForPin (a : Nat) : Bool := decide (0xB0000 ≤ a) && decide (a < 0xE0000) || a / 0x10000 == 0xF

/-- A CV, timer or network register of a commit takes effect at the output point (R79, R344). -/
def Dev.pinReg (d : Dev) (a : Nat) (w : Word) : Dev :=
  let was := fun (n : Nat) => d.on (CVO_CH_CFG_EN n)
  let d' := d.setReg a w
  match (List.range 16).find? fun n => a == rCVO_CH_CFG n with
  | some n => if !was n && d'.on (CVO_CH_CFG_EN n) then d'.cvInit n else d'
  | none => d'

/-- The registers that wait and whose sample the output point has reached take effect; those of a running port wait for its
frame (R79, R331). -/
def Dev.takePins (d : Dev) : Dev :=
  let ok := fun (s : Word) => decide (later d.outPoint s ≥ 0)
  let port := fun (a : Nat) => (List.range 4).find? fun n => ofPort n a
  let mine := d.stg.atC.filter fun e => ok e.2.2 && (port e.1).isNone
  let d := { d with stg := { d.stg with atC := d.stg.atC.filter fun e => !(ok e.2.2 && (port e.1).isNone) } }
  let d := each mine (fun e d => d.pinReg e.1 e.2.1) d
  each (List.range 4) (fun n d => if (d.port n).run then d else d.takePort n ok) d

/-- The history entries of a commit that writes bend ranges or MPE settings (R104, R105, R523). -/
def Dev.commitHist (d : Dev) (set : List (Nat × Word)) (t : Word) : Dev :=
  let d' := d.withSet set
  each (List.range 32) (fun p d =>
    let was := d.reg (rNOTE_PART_MPE p)
    let d := if d'.fg (NOTE_PART_MODE_BEND p) ≠ d.fg (NOTE_PART_MODE_BEND p) then
        each (List.range 16) (fun c d => d.addHist 0 p c t (d'.fg (NOTE_PART_MODE_BEND p))) d else d
    if d'.reg (rNOTE_PART_MPE p) ≠ was then
      (d.addHist 1 p 0 t (d'.fg (NOTE_PART_MPE_MBR_BEND p))).addHist 2 p 0 t (d'.fg (NOTE_PART_MPE_MEMBERS p))
    else d) d

/-- A VOICE register by its address. -/
def ofVoice (a : Nat) : Bool := decide (0x50000 ≤ a) && decide (a < 0x90000)

/-- The commit takes effect (R70, R79, R80): staging follows the live values but for later writes; a VOICE register of a
context that sounds changes as that context renders the sample; a bus that starts, or changes its stages, settles anew
(R296, R307). -/
def Dev.applySet (d : Dev) (set : List (Nat × Word)) (s t : Word) : Dev :=
  let words := set.map fun e => (e.1, d.staged1 e.1 e.2)
  let past : PastCommit := { sample := s, time := t, old := words.map fun e => (e.1, d.reg e.1),
                             voice := words.filter fun e => ofVoice e.1 }
  let d := d.commitHist set t
  let now := words.filter fun e => !waitsForPin e.1 &&
    !(ofVoice e.1 && (d.voice ((e.1 - 0x50000) / 0x400)).cls != clsFree)
  let pins := (words.filter fun e => waitsForPin e.1).map fun e => (e.1, e.2, s)
  let d := each now (fun e d => d.setReg e.1 e.2) d
  let d := each (now.filter fun e => decide (rMIX_BUS_CFG 0 ≤ e.1) && decide (e.1 ≤ rMIX_BUS_CFG 63)) (fun e d =>
    let b := (e.1 - rMIX_BUS_CFG 0) / (rMIX_BUS_CFG 1 - rMIX_BUS_CFG 0)
    let was := (tfind past.old e.1).getD e.2
    let starts := !bitOf was 31 && bitOf e.2 31
    if starts then (d.busOff b).loadUns b else if fieldOf was 1 0 ≠ fieldOf e.2 1 0 then d.loadUns b else d) d
  { d.setDout with
    staged := d.staged.filter fun e => d.stg.since.contains e.1,
    stg := { d.stg with buffer := none, past := d.stg.past ++ [past], atC := d.stg.atC ++ pins, prepared := false } }.takePins

/-- The commit may apply: accepted, decided, and C has reached its sample. -/
def Dev.commitDue (d : Dev) : Bool :=
  d.running && d.stg.buffer.isSome && decide (later d.eng.c d.stg.sample ≥ 0) && !(d.waiting 0).any (·.kind == 0x20) &&
  (d.fg STG_STATUS_CSTATE == 1 || d.fg STG_STATUS_CSTATE == 3)

/-- COMMIT_APPLY (R79, R80, R84): the set, STG_EPOCH, STG_LAST, source 32. -/
def commitApply (d : Dev) : Dev :=
  match d.stg.buffer with
  | none => d
  | some set =>
    if !d.commitDue then d
    else
      let s := d.stg.sample
      let e := d.stg.epochT
      (((((d.applySet set s d.stg.applyT).setReg rSTG_EPOCH e).setReg rSTG_LAST (d.tau s)).fp STG_STATUS_PENDING 0).fp
        STG_STATUS_CSTATE 0).raise 32

def execCheck (v : Word) (s : State) : Host.Outcome State Fault Refusal := done s (s.dev.heard (check v))
def execCheckComplete (s : State) : Host.Outcome State Fault Refusal := done s (checkComplete s.dev)
def execCommit (v : Word) (s : State) : Host.Outcome State Fault Refusal := done s (s.dev.heard (commit v))
def execDiscard (v : Word) (s : State) : Host.Outcome State Fault Refusal := done s (s.dev.heard (discard v))
def execCommitAbort (v : Word) (s : State) : Host.Outcome State Fault Refusal := done s (s.dev.heard (commitAbort v))
def execStagedWrite (addr value : Word) (s : State) : Host.Outcome State Fault Refusal := done s (s.dev.heard (stagedWrite addr value))
def execCommitApply (s : State) : Host.Outcome State Fault Refusal := done s (commitApply s.dev)

end Sys2Proof.Machine
end

