-- ==== Sys2Proof/Machine/Chain.lean ====
section
/-! DEFINITION. The chain as a device sees it: ports and their loss, census and position table of the head, quarantine,
isolation and admission, rescue of notes, the fade of a lost head (R362 to R394). -/
namespace Sys2Proof.Machine

/-! ### Small things -/

/-- The image digest in its registers (R60, R85). -/
def Dev.imgDigest (d : Dev) : List Byte := (List.range 8).flatMap fun i => leBytes 4 (d.reg (rSTG_IMGDIG i)).toNat

/-- L_chain in ns. -/
def Dev.lchain (d : Dev) : Nat := d.fg CBL_CHAIN_LCHAIN * 1000

/-- L_min of R382 in µs, for the voice rate in force. -/
def Dev.lmin (d : Dev) : Nat :=
  let dm := d.fg CBL_POL0_DMAX
  let r := d.voiceRate
  (dm * 10000000 + dm * 24 * r + 10 * r + 10 * r - 1) / (10 * r)

/-- The ROLE byte of port p (R367). -/
def roleOf (p : Nat) : Nat := if p = 0 then 0x55 else 0xAA

/-- A member that has not been admitted, or an open role, keeps its outputs inert (R363). -/
def Dev.showPins (d : Dev) : Dev :=
  let out := (d.pwr.mode == .run || d.pwr.mode == .rest) && !d.pwr.frozen && !d.cbl.roleOpen && !d.cbl.orphan &&
    !d.isolated && (d.isHead || d.cbl.admitted)
  { d with pins := { d.pins with inert := !out } }

/-- The chain state of this device. -/
def Dev.setChain (d : Dev) (state reason : Nat) : Dev := ((d.fp CBL_STAT_STATE state).fp CBL_STAT_REASON reason).showPins.showTime

/-- A member tells the head where it stands (R384). -/
def Dev.sendStatus (d : Dev) : Dev :=
  d.sendUp 0x12 ([BitVec.ofNat 8 (d.fg CBL_STAT_STATE), BitVec.ofNat 8 (d.fg CBL_STAT_REASON),
    BitVec.ofNat 8 (d.fg CBL_CENSUS_SHIPCODE), 0] ++ leBytes 2 (d.fg CBL_TIME_ERR) ++ [0, 0] ++ d.imgDigest)

/-- Voice v fades in place from sample s on (R148): an all-sound-off of its own, after the events of s. -/
def Dev.fadeVoice (d : Dev) (v : Nat) (s : Word) : Dev :=
  let x := d.voice v
  if x.cls = clsFree ∨ x.cls = clsParting then d
  else d.addLog (ctxOf v) { ev := { recLast (d.tau s) with kind := 0x17, part := x.part, chan := x.chan }, sample := s, phi := 0,
                            pitch := 0, tag := x.tag, uidx := x.uidx, u := x.u, starts := false, slot := 0 }

/-- Every sounding context fades in place from its next sample on (R380, R386). -/
def Dev.fadeAll (d : Dev) : Dev := each (List.range 256) (fun v d => d.fadeVoice v (d.ctx (ctxOf v)).next) d

/-- Every context is free at C. -/
def Dev.allFree (d : Dev) : Bool :=
  (List.range 256).all (fun v => (d.voice v).cls == clsFree) &&
  (List.range 16).all fun n => !(d.partK n 0).busy && !(d.partK n 1).busy

/-- Free every context at once, and empty the pipeline and the holding stages (R393). -/
def Dev.clearVoices (d : Dev) : Dev :=
  let d := each (List.range 256) (fun v d =>
    if (d.voice v).cls = clsFree ∧ (d.ctx (ctxOf v)).log = [] then d
    else
      let d := (d.freeCtx (ctxOf v) d.eng.c).setCtx (ctxOf v) Ctx.idle
      ((d.setPend v 0 0).showVoice v 0).updateScore v) d
  let d := each (List.range 16) (fun n d =>
    let d := each (List.range 2) (fun k d => if (d.partK n k).busy then d.freePart n k (some d.eng.c) else d) d
    ((d.setSpn n { d.spn n with cur := none, susp := none, bundle := [] }).fp (SPN_STATUS_CUR n) 0x1F).fp (SPN_ORDERS_SUSP n) 0x1F) d
  ({ d with note := { d.note with pipe := [], wait := [] }, eng := { d.eng with transit := [] },
            alloc := { d.alloc with queue := [], keyStacks := [] } }.showPipe).showQueue

/-! ### Ports (R367, R368, R390) -/

/-- Port p comes up at version `v` (R367, R368): numbering from 0, source 18 + p; a child says HELLO. -/
def Dev.portUp (d : Dev) (p v : Nat) : Dev :=
  let d := (((d.setLport p { LPort.idle with joined := true }).fp (CBL_P_STAT_LSTATE p) 2).fp (CBL_P_STAT_LPV p) v).raise (18 + p)
  if p ≠ 0 then d
  else d.sendUp 0x10 (leBytes 4 (d.reg rSYS_ID).toNat ++ [BitVec.ofNat 8 v, 0, 0, 0] ++ leBytes 4 (d.reg rSTG_EPOCH).toNat ++
    leBytes 4 (d.reg rSTG_IMGVER).toNat ++ d.imgDigest ++ List.replicate 32 0)

/-- Port p carries no frames any more and sends IDLE only, for a reason of R387. -/
def Dev.portIsolate (d : Dev) (p reason : Nat) : Dev :=
  let x := d.lport p
  ((d.setLport p { x with joined := false, isol := reason, ts := (0, 0) }).fp (CBL_P_STAT_LSTATE p) 3).fp (CBL_P_STAT_LPV p) 0

/-- Port p at electrical idle. -/
def Dev.portIdle (d : Dev) (p : Nat) : Dev :=
  ((d.setLport p LPort.idle).fp (CBL_P_STAT_LSTATE p) 0).fp (CBL_P_STAT_LPV p) 0 |>.fp (CBL_P_STAT_PEER p) 0

/-! ### Leaving (R391 to R393, R167) -/

/-- A chain commit under way whose census has changed is aborted (R81, R392). -/
def Dev.abortLost (d : Dev) : Dev := if d.fg STG_STATUS_CSTATE = 2 then (d.abortChain).fp STG_CHAIN_RULE 0xFF else d

/-- RESCUE (R167): the lost notes of parts with RESCUE = 1 begin anew, stamped `t`; the others are forgotten. -/
def Dev.rescue (d : Dev) (ids : List Nat) (t : Word) : Dev :=
  let gone := d.alloc.notes.filter fun x => ids.contains x.target
  each gone (fun x d =>
    let a := d.alloc
    if !d.on (NOTE_PART_STEAL_RESCUE x.part) then { d with alloc := { a with notes := a.notes.filter fun y => y.tag != x.tag } }
    else
      let d := { d with alloc := { a with notes := a.notes.map fun (y : NoteTab) => if y.tag = x.tag then { y with lost := true } else y } }
      let m : Msg := { Msg.ofPart 0x01 x.part x.chan x.key (x.vel * 65536) 0 t with raw := (w32i x.pitch).toNat, tag := x.tag }
      (d.post 8 m).count ALLOC_CNT_RESCUED) d

/-- The census shows in CBL_CHAIN. -/
def Dev.showCensus (d : Dev) : Dev := d.fp CBL_CHAIN_COUNT d.cbl.census.length

/-- One more census generation (R385, R392). -/
def Dev.nextGen (d : Dev) : Dev := d.fp CBL_CENSUS_GEN (d.fg CBL_CENSUS_GEN + 1)

/-- A path begins with the lost position. -/
def under (lost path : List Bool) : Bool := path.take lost.length == lost

/-- The head loses everything at and below a position (R392), detected at chain time `t`. -/
def Dev.loseSubtree (d : Dev) (lost : List Bool) (t : Word) : Dev :=
  let ids := (d.cbl.census.filter fun m => under lost m.path).map (·.id)
  if ids.isEmpty then d.raise 22
  else
    let d := { d with cbl := { d.cbl with census := d.cbl.census.filter fun m => !under lost m.path,
                                          ship := d.cbl.ship.filter fun x => !ids.contains x.1 },
                      alloc := { d.alloc with summ := d.alloc.summ.filter fun e => !ids.contains (e.1 / 8),
                                              targeted := d.alloc.targeted.filter fun e => !ids.contains e.1 } }
    let d := (d.showCensus.nextGen.rescue ids (t + w32 d.lchain)).raise 22
    d.abortLost

/-- A member takes up the fade of R393: HEADLOST downstream, committed values fading to 0. -/
def Dev.headLost (d : Dev) : Dev :=
  if d.cbl.fade.isSome ∨ !d.isMember then d
  else { d with cbl := { d.cbl with fade := some 0 } }.broadcast 0x2A []

/-- A link that was up is lost (R390): a parent fades its sums and reports the position, a child takes up the orphan fade. -/
def Dev.losePort (d : Dev) (p : Nat) : Dev :=
  let x := d.lport p
  if !x.joined then d
  else
    let t := d.now
    let d := ((d.setLport p { LPort.idle with lastSum := x.lastSum, lastS := x.lastS, sums := x.sums, got := x.got, fade := some 0 }).fp
      (CBL_P_STAT_LSTATE p) 4).raise (18 + p)
    let d := (d.fp (CBL_P_STAT_LPV p) 0).fp (CBL_P_STAT_PEER p) 0
    if p = 0 then d.headLost
    else
      let lost := d.cbl.path ++ [p == 2]
      if d.isHead then d.loseSubtree lost t
      else d.sendUp 0x29 ([BitVec.ofNat 8 (d.depth + 1), 0, 0, 0] ++ leBytes 4 t.toNat ++ pathBytes lost)

/-- A resend from SEQ `seq` on port p (R372): counted; eight from one SEQ lose the link. -/
def Dev.resend (d : Dev) (p seq : Nat) : Dev :=
  let x := d.lport p
  let k := if x.resendSeq = seq ∧ x.resends ≠ 0 then x.resends + 1 else 1
  let d := (d.setLport p { x with resends := k, resendSeq := seq }).count (CBL_P_CNT0_REPLAY p)
  if 8 ≤ k then d.losePort p else d

/-! ### The head's records -/

def Dev.member (d : Dev) (id : Nat) : Option Member := d.cbl.census.find? fun m => m.id == id

def Dev.setMember (d : Dev) (m : Member) : Dev :=
  { d with cbl := { d.cbl with census := d.cbl.census.map fun x => if x.id = m.id then m else x } }

/-- ASSIGN for a member (R376). -/
def Dev.sendAssign (d : Dev) (m : Member) (verdict : Nat) : Dev :=
  let pay := [BitVec.ofNat 8 m.depth, BitVec.ofNat 8 verdict, BitVec.ofNat 8 m.id, BitVec.ofNat 8 m.reason] ++ leBytes 4 d.lchain ++
    leBytes 4 d.eng.c.toNat ++ leBytes 4 (d.tau d.eng.c).toNat ++ pathBytes m.path
  d.sendPath m.path 0x11 1 pay

/-- Quarantine a census member (R386): source 23. -/
def Dev.quarantine (d : Dev) (m : Member) (reason : Nat) : Dev :=
  let m' := { m with state := 5, reason := reason }
  ((d.setMember m').sendAssign m' 1).raise 23

/-- What an ASSIGN does on its way through port p of a parent: the route to the device; one that isolates the device at the
far end leaves the port isolated, and what was behind it lost (R375, R387). -/
def Dev.assignVia (d : Dev) (p depth verdict id reason : Nat) : Dev :=
  let x := d.lport p
  let direct := depth == d.depth + 1
  let d := d.setLport p { x with behind := if x.behind.contains id then x.behind else x.behind ++ [id] }
  let d := if direct then d.fp (CBL_P_STAT_PEER p) id else d
  if direct && verdict == 2 then
    let t := d.now
    let lost := d.cbl.path ++ [p == 2]
    let d := d.portIsolate p reason
    let d := d.setLport p { d.lport p with fade := some 0 }
    if d.isHead then d.loseSubtree lost t
    else d.sendUp 0x29 ([BitVec.ofNat 8 (d.depth + 1), 0, 0, 0] ++ leBytes 4 t.toNat ++ pathBytes lost)
  else d

/-- The head isolates a member (R387). -/
def Dev.isolateMember (d : Dev) (m : Member) (reason : Nat) : Dev :=
  let m' := { m with state := 7, reason := reason }
  ((d.setMember m').sendAssign m' 2).assignVia (if m.path.getD 0 false then 2 else 1) m.depth 2 m.id reason

/-- The head begins to ship its image to a member (R388), source 35. -/
def Dev.shipTo (d : Dev) (m : Member) : Dev :=
  let l := d.cbl.ship.filter (fun (x : Nat × Nat × Nat) => x.1 != m.id) ++ [(m.id, 0, 0)]
  ({ d with cbl := { d.cbl with ship := l } }.setMember { m with shipped := true }).raise 35

/-! ### Admission (R385) -/

/-- An admission record of part p: kind, channel, index, value. -/
def Dev.admRec (d : Dev) (s : Word) (p kind chan index : Nat) (v : Nat) : DnEntry :=
  { ev := { stamp := d.tau s, kind := kind, attr := false, key := 0, part := p, late := false, chan := chan, src := 0, value := w32 v,
            seq := 0, devid := 1, index := index }
    tag := 0, target := 0, adm := true, u := 1 }

/-- The records of one part: program and bank, and for each channel bend, pressure and the controllers that have a value,
the pedals among them; the MPE count; the tempo tracker's last clocks. -/
def Dev.admPart (d : Dev) (s : Word) (p : Nat) : List DnEntry :=
  let prog := d.chanNow p 0 130 s
  let bank := d.chanNow p 0 131 s
  let ch := (List.range 16).flatMap fun c =>
    ((List.range 128).filterMap fun k =>
      let v := d.chanNow p c k s
      if v = 0 then none else some (d.admRec s p 0x10 c k v)) ++
    (if d.chanNow p c 128 s = 0 then [] else [d.admRec s p 0x11 c 0 (d.chanNow p c 128 s)]) ++
    (if d.chanNow p c 129 s = 0 then [] else [d.admRec s p 0x12 c 0 (d.chanNow p c 129 s)])
  let mpe := if d.mpeOn p (d.tau s) then [d.admRec s p 0x14 (d.master p (d.tau s)) 0 (d.liveCount p (d.tau s))] else []
  let b := tget Beat.start d.note.beats p
  let beat := List.replicate (min 2 b.n) (d.admRec s p 0x19 0 0 0xF8)
  [d.admRec s p 0x13 0 prog bank] ++ ch ++ mpe ++ beat

/-- Admit a locked member (R385): s_adm, the records, ADMIT, the census generation, source 21. -/
def Dev.admitMember (d : Dev) (m : Member) : Dev :=
  let s := d.boundaryAt (d.now + w32 d.lchain)
  let recs := d.parts.flatMap (d.admPart s)
  let d := each recs (fun r d => d.sendTo m.id 0x02 (dnBytes r)) d
  let d := d.nextGen
  let d := d.sendTo m.id 0x13 (leBytes 4 s.toNat ++ leBytes 4 (d.reg rSTG_EPOCH).toNat ++ leBytes 2 (d.fg CBL_CENSUS_GEN) ++ [0, 0])
  let d := (d.setMember { m with state := 4, reason := 0, admitted := true }).raise 21
  if m.shipped ∧ d.fg CBL_POL0_SHIP = 2 then
    (d.shipTo m).setMember { m with state := 4, reason := 0, admitted := true, shipped := false }
  else d

/-! ### Summaries (R162, R376) -/

/-- SUMMARY_PUBLISH: a voiced member sends its summaries where they have changed; an admission sends the first. -/
def Dev.publish (d : Dev) : Dev :=
  if !(d.isMember && d.publishes) then d
  else
    let l := summClasses.map d.ownSumm
    if l = d.alloc.lastSent then d
    else
      let d := { d with alloc := { d.alloc with lastSent := l } }
      d.sendUp 0x03 (leBytes 2 d.alloc.lastTag ++ [0, 0] ++ leBytes 4 (d.reg rSTG_EPOCH).toNat ++ leBytes 4 d.eng.c.toNat ++
        l.flatMap fun s => leBytes 4 s.score.toNat ++ leBytes 2 s.count ++ [0, 0])

/-! ### Partial sums (R295, R383, R391) -/

/-- The sums that port p gives for sample s, and the port after it: those held; for a late child its last ones, counted; a
lost link's fading out (R383, R391). -/
def Dev.portSums (d : Dev) (p : Nat) (s : Word) : Tbl (BitVec 40) × Dev :=
  let x := d.lport p
  let mine := cut x.sums (s.toNat * 64) 64
  let rest := x.sums.filter fun e => e.1 / 64 != s.toNat
  match x.fade with
  | some j =>
    let g := if j < 32 then fadeT (32 * (j + 1)) else 0
    ((x.lastSum.map fun e => (e.1, BitVec.ofInt 40 (e.2.toInt * (g : Int) / 2 ^ 23))),
      d.setLport p { x with fade := if j < 32 then some (j + 1) else none, lastSum := if j < 32 then x.lastSum else [], sums := rest })
  | none =>
    if !x.joined || (x.lastSum.isEmpty && x.got.isEmpty) then ([], d)
    else if x.got.contains s then
      (mine, d.setLport p { x with lastSum := mine, lastS := s, sums := rest, got := x.got.filter (· != s), late := 0 })
    else
      let d := ((d.setLport p { x with late := x.late + 1, sums := rest }).count (CBL_P_CNT1_SUMLATE p)).raise (18 + p)
      (x.lastSum, if 4 ≤ x.late + 1 then d.losePort p else d)

/-- The sums of both downstream ports for sample s, bus by bus, and the device. -/
def Dev.downSums (d : Dev) (s : Word) : Tbl (BitVec 40) × Dev :=
  let (a, d) := d.portSums 1 s
  let (b, d) := d.portSums 2 s
  (b.foldl (fun t e => tput 0 t e.1 (tget 0 t e.1 + e.2)) a, d)

/-- The head-loss fade's gain now (R393). -/
def Dev.lossGain (d : Dev) : Option Nat := d.cbl.fade.map fun j => if j < 32 then fadeT (32 * (j + 1)) else 0

/-- A member sends its sums of the buses with UP = 1 for sample s (R295, R383). -/
def Dev.sendSums (d : Dev) (s : Word) (down : Tbl (BitVec 40)) : Dev :=
  if !(d.isMember && (d.lport 0).joined && d.cbl.synced) || d.isolated then d
  else each [0, 16, 32, 48] (fun g d =>
    let bs := (List.range 16).filter fun j => d.on (MIX_BUS_CFG_UP (g + j))
    if bs.isEmpty then d
    else
      let val := fun (b : Nat) =>
        let v := d.busSum s b down
        match d.lossGain with
        | some k => BitVec.ofInt 40 (v.toInt * (k : Int) / 2 ^ 23)
        | none => v
      d.sendOn 0 0x28 0 d.devid (leBytes 4 s.toNat ++ [BitVec.ofNat 8 g, 0] ++
        leBytes 2 (bs.foldl (fun (m : Nat) j => m + 2 ^ j) 0) ++ bs.flatMap fun j => leBytes 5 (val (g + j)).toNat)) d

end Sys2Proof.Machine
end

