-- ==== Sys2Proof/Machine/Ageing.lean ====
section
/-! DEFINITION. The steady rest (chapter 17): temperature, measurements, the re-planning ladder, the AVS port, the clock
step, and its records. -/
namespace Sys2Proof.Machine

/-! ### Sensors (R465 to R468, R479) -/

/-- A signed value as the bits of a field. -/
def bitsOf (v : Int) : Nat := (w32i v).toNat

/-- T_w becomes `t`, and shows. -/
def Dev.setTw (d : Dev) (t : Int) : Dev := { d with age := { d.age with tw := some t } }.fp AGE_SLACK_T_W (bitsOf t)

/-- A flag of R479 with its threshold and source: set at the threshold, cleared 2 °C below it. -/
def Dev.tempFlag (d : Dev) (flag thr : Fld) (src : Nat) (temp : Int) : Dev :=
  if !d.on flag then (if d.fs thr ≤ temp then (d.fp flag 1).raise src else d)
  else if temp + 8 ≤ d.fs thr then d.fp flag 0 else d

/-- A die temperature: TEMP, T_w, the flags of R479 (R467). -/
def Dev.takeTemp (d : Dev) (t : Int) : Dev :=
  let d := (d.fp AGE_TEMP_NOW (bitsOf t)).setTw (match d.age.tw with
    | some w => max w t
    | none => t)
  (d.tempFlag AGE_STAT_TW AGE_TLIM_TWARN 43 t).tempFlag AGE_STAT_TC AGE_TLIM_TCRIT 44 t

/-- The temperature sensor is read: CHUCK, RUN, REST-WARM, SERVICE (R467). -/
def Dev.sensing (d : Dev) : Bool :=
  !d.pwr.frozen && (d.pwr.mode == .chuck || d.pwr.mode == .run || d.pwr.mode == .service || (d.pwr.mode == .rest && !d.pwr.cold))

/-- TEMPERATURE_SAMPLE (R467, R469): a rise of T_w by 2 °C since the last measurement makes one due. -/
def temperatureSample (temp : Int) (d : Dev) : Dev :=
  if !d.sensing then d
  else
    let d := d.takeTemp temp
    if d.alive ∧ d.age.twAt + 8 ≤ d.age.tw.getD 0 then { d with age := { d.age with due := true } } else d

/-- A reading of the five sites: SNS, the decision slack and its site (R465, R468); S shows rounded down. -/
def Dev.readSites (d : Dev) (m : Sense) : Dev :=
  let d := d.takeTemp m.temp
  let tw := d.age.tw.getD m.temp
  let s := fun (i : Nat) => 64 * m.m.getD i 0 - d.age.kt * (tw - m.temp)
  let site := (List.range 5).foldl (fun (a : Nat) i => if s i < s a then i else a) 0
  let d := each (List.range 5) (fun i d =>
    (d.fp (AGE_SNS_RING i) (m.ring.getD i 0)).fp (AGE_SNS_M i) (bitsOf (m.m.getD i 0))) d
  (({ d with age := { d.age with s64 := s site } }.fp AGE_SLACK_SITE site).fp AGE_SLACK_S
    (bitsOf (max (-128) (min 127 (s site / 64)))))

/-! ### Records (R476) -/

/-- AGE_TREND, kept in the journal and, the last 16, for the dump. -/
def Dev.writeTrend (d : Dev) : Dev :=
  let pay := leBytes 4 d.extSec ++ leBytes 2 (d.fg AGE_TEMP_NOW) ++ leBytes 2 (d.fg AGE_VDD_SET) ++
    [BitVec.ofNat 8 (d.fg SYS_SPLL_STEP), 0] ++ ((List.range 5).flatMap fun i => leBytes 2 (d.fg (AGE_SNS_M i))) ++
    (List.range 5).flatMap fun i => leBytes 2 (d.fg (AGE_SNS_RING i))
  let l := d.age.trend ++ [pay]
  { d with age := { d.age with trend := l.drop (l.length - 16) } }.journal 0x41 0 pay

/-- AGE_PLAN: the plan in force, or in CHUCK the planned step. -/
def Dev.writePlan (d : Dev) (step : Nat) : Dev :=
  d.journal 0x40 0 (leBytes 2 (d.fg AGE_VDD_SET) ++ [BitVec.ofNat 8 step, BitVec.ofNat 8 (d.fg AGE_STAT_EXH)] ++
    leBytes 2 (d.fg AGE_SLACK_T_W) ++ leBytes 2 (bitsOf (d.age.s64 / 64)) ++ leBytes 4 d.extSec)

/-- XREF and wear records of a scheduled measurement (R476, R478), the offset to the nearest ppb. -/
def Dev.writeXref (d : Dev) : Dev :=
  let adj : Option Int :=
    if d.isMember then some d.adj
    else match d.net.active with
      | some k => if d.fg (NET_DOM_STAT_STATE k) = 2 then some (d.fs (NET_DOM_ADJ_ADJ k)) else none
      | none => none
  let d := match adj with
    | some a =>
      let ppb := roundDiv (-a * 1000000000) (2 ^ 40)
      ((d.fp AGE_XREF_VALID 1).fp AGE_XREF_PPB (bitsOf ppb)).journal 0x42 0 (leBytes 4 d.extSec ++ leBytes 4 (bitsOf ppb))
    | none => d.fp AGE_XREF_VALID 0
  d.journal 0x43 0 (leBytes 4 d.extSec ++ leBytes 4 (d.reg rNVJ_LIFE).toNat ++ leBytes 4 (d.reg rNVJ_ECMAX).toNat ++
    leBytes 2 (d.fg NVJ_SECT_RETIRED) ++ [0, 0])

/-! ### The ladder (R470, R471) -/

/-- The slack condition at step p, S being measured at the present step: S + (10^6 / f_p − 10^6 / f_cur) ≥ MINSLACK. -/
def Dev.slackAt (d : Dev) (p : Nat) : Bool :=
  let fp : Int := (spclkOf p / 1000000 : Nat)
  let fc : Int := (spclkOf (d.fg SYS_SPLL_STEP) / 1000000 : Nat)
  decide (d.age.s64 * fp * fc + 64000000 * (fc - fp) ≥ 64 * (d.age.minSlack : Int) * fp * fc)

/-- Step 3: the SPCLK step, a step at which no context fits being as one below FMIN (R472); and whether slack still lacks
there. -/
def Dev.slowerStep (d : Dev) : Nat × Bool :=
  let cur := d.fg SYS_SPLL_STEP
  let l := (List.range (cur + 1)).filter fun p => decide (d.age.fmin ≤ p) && d.voicesAt p != 0
  match l.reverse.find? d.slackAt with
  | some p => (p, false)
  | none => (l.headD cur, true)

/-- Margin is exhausted (step 4). -/
def Dev.exhausted (d : Dev) : Dev := (d.fp AGE_STAT_EXH 1).raise 42

/-- The measurement ends: source 41 and the plan record where it changed voltage or clock. -/
def Dev.endMeasure (d : Dev) : Dev :=
  let d := d.fp AGE_STAT_BUSY 0
  if !d.age.changed then d
  else ((({ d with age := { d.age with changed := false } }.count AGE_CNT_REPLANS).raise 41).writePlan (d.fg SYS_SPLL_STEP))

/-- Steps 3 and 4 in RUN: a slower clock is to come by the clock step of R472. -/
def Dev.ladderClock (d : Dev) : Dev :=
  let (p, lacks) := d.slowerStep
  let d := if lacks then d.exhausted else d
  if p = d.fg SYS_SPLL_STEP then d.endMeasure
  else { d.fp AGE_STAT_BUSY 0 with age := { d.age with changed := true, clk := some (0, p, d.voicesAt p) } }

/-- The ladder acts on the present S in RUN (R470, R471): after an AVS failure no voltage step is made (R475). -/
def Dev.ladder (d : Dev) : Dev :=
  if 64 * (d.age.minSlack : Int) ≤ d.age.s64 then d.endMeasure
  else if !d.on AGE_CTRL_AUTO then ((d.fp AGE_STAT_NEED 1).raise 42).endMeasure
  else if d.fg AGE_VDD_SET < d.age.vmax ∧ !d.on AGE_STAT_AVSERR then
    { d.fp AGE_VDD_SET (min (d.fg AGE_VDD_SET + 5) d.age.vmax) with age := { d.age with stepping := true } }
  else d.ladderClock

/-- The steady rest may measure and re-plan: RUN, and no step of it under way. -/
def Dev.canMeasure (d : Dev) : Bool := d.pwr.mode == .run && !d.pwr.frozen && !d.age.stepping && d.age.clk.isNone

/-- MEASUREMENT (R468 to R470): the due one is taken. -/
def measurement (m : Sense) (d : Dev) : Dev :=
  if !d.age.due || !d.canMeasure then d
  else
    let d := (d.fp AGE_STAT_BUSY 1).readSites m
    { d with age := { d.age with due := false, lateCounted := false, changed := false, twAt := d.age.tw.getD 0 } }.writeTrend.ladder

/-- VOLTAGE_STEP (R470, R474, R475): READ_VOUT within 10 mV confirms the voltage and slack is measured again; a failure
stops voltage steps and the ladder goes on at step 3. -/
def voltageStep (avs : AvsRes) (m : Sense) (d : Dev) : Dev :=
  if !d.age.stepping || !d.alive then d
  else
    let d := { d with age := { d.age with stepping := false } }
    if avs.ack && decide (((avs.readMv : Int) - (d.fg AGE_VDD_SET : Int)).natAbs ≤ 10) then
      ({ d with age := { d.age with changed := true } }.readSites m).ladder
    else (((d.fp AGE_STAT_AVSERR 1).fp AGE_VDD_STATUS avs.status).raise 42).ladderClock

/-! ### When it measures (R469) -/

/-- A write of AGE_CTRL (R469, R471): CHECK acts in RUN, CLEAR in SERVICE, where the plan record goes with T_w. -/
def Dev.ageCtrl (d : Dev) (v : Word) : Dev :=
  let d := d.fp AGE_CTRL_AUTO (fieldOf v 0 0)
  let d := if bitOf v 1 && d.pwr.mode == .run && !d.pwr.frozen then { d with age := { d.age with due := true } } else d
  if bitOf v 2 && d.pwr.mode == .service then
    let d := { d with age := { d.age with tw := none } }.fp AGE_SLACK_T_W 0
    d.journal 2 0 (leBytes 2 0x40 ++ leBytes 2 0)
  else d

def ageCheck (v : Word) (d : Dev) : Dev := if bitOf v 1 then d.ageCtrl v else d
def ageClear (v : Word) (d : Dev) : Dev := if bitOf v 2 then d.ageCtrl v else d

/-- SCHEDULED_MEASUREMENT (R469, R476, R478). -/
def scheduledMeasurement (d : Dev) : Dev :=
  if d.pwr.mode == .run && !d.pwr.frozen then { d with age := { d.age with due := true } }.writeXref else d

/-- MEASUREMENT_LATE (R469): counted once for a measurement that goes on waiting. -/
def measurementLate (d : Dev) : Dev :=
  if d.age.due && !d.age.lateCounted && d.pwr.mode == .run && !d.pwr.frozen then
    { d with age := { d.age with lateCounted := true } }.count AGE_CNT_LATE
  else d

/-! ### The clock step (R472) -/

/-- Step, budgets and voice count change together (R36, R227, R472); scores follow (R149). -/
def Dev.setPlan (d : Dev) (step voices : Nat) : Dev :=
  let d := (((d.fp SYS_SPLL_STEP step).fp AGE_PLAN_STEP step).fp AGE_PLAN_VOICES voices).fp ALLOC_STAT_NUM voices
  let d := each (List.range 16) (fun n d =>
    let nc := d.offered n
    let b := budgetOf (spclkOf step) d.voiceRate nc
    (((d.fp (SPN_BUDGET_CYCLES n) b.1).fp (SPN_BUDGET_RESERVE n) b.2.1).fp (SPN_VBUDGET_NCTX n) nc).fp (SPN_VBUDGET_VOICE n)
      (if nc = 0 then 0 else b.2.2)) d
  each (List.range 256) (fun v d => d.updateScore v) d

/-- A commit is pending, decided or not (R72, R74, R81). -/
def Dev.commitPending (d : Dev) : Bool := d.on STG_STATUS_PENDING || d.stg.buffer.isSome

/-- CLOCK_STEP_BEGIN (R472, steps 1 and 2). -/
def clockStepBegin (d : Dev) : Dev :=
  match d.age.clk with
  | some (0, p, n) =>
    if d.commitPending || !d.running then d
    else { d.fp AGE_STAT_CLKSEQ 1 with age := { d.age with clk := some (if n < d.fg ALLOC_STAT_NUM then 1 else 3, p, n) } }
  | _ => d

/-- CONTEXT_REMOVAL (R472, step 3): from s_r on, the removed contexts that hold a note fade in place. -/
def contextRemoval (d : Dev) : Dev :=
  match d.age.clk with
  | some (1, p, n) =>
    let gone := d.presentVoices.filter d.removed
    if !d.running || gone.any (fun v => (d.pendOf v).1 != 0) then d
    else
      let s := d.unrendered
      let d := each gone (fun v d => d.fadeVoice v s) d
      { d with age := { d.age with clk := some (2, p, n) } }
  | _ => d

/-- CLOCK_STEP_APPLY (R472, steps 4 and 5): at the VS boundary at which every removed context is free. -/
def clockStepApply (d : Dev) : Dev :=
  match d.age.clk with
  | some (st, p, n) =>
    let free := (d.presentVoices.filter d.removed).all fun v => (d.voice v).cls == clsFree
    if !d.running || !(st == 3 || (st == 2 && free)) then d
    else
      let d := { d with age := { d.age with clk := none } }
      ((d.setPlan p n).fp AGE_STAT_CLKSEQ 0).endMeasure
  | none => d

/-! ### The ageing check of CHUCK (R466, R469, R470, R475) -/

/-- Steps 1 and 2 of the ladder over the readings that the sites give, `n` voltage steps at most; the last reading serves
where none is left. -/
def Dev.chuckVolts (last : Sense) : Nat → List Sense → Dev → Dev
  | 0, _, d => d
  | n + 1, l, d =>
    if 64 * (d.age.minSlack : Int) ≤ d.age.s64 ∨ d.age.vmax ≤ d.fg AGE_VDD_SET then d
    else
      let m := l.headD last
      let d := { d.fp AGE_VDD_SET (min (d.fg AGE_VDD_SET + 5) d.age.vmax) with age := { d.age with changed := true } }
      Dev.chuckVolts m n (l.drop 1) (d.readSites m)

/-- The ageing check from the plan's voltage and step (R476): none where the AVS port fails (R475). The planned step waits
for the margin-apply step. -/
def Dev.chuckAge (d : Dev) (avs : AvsRes) (senses : List Sense) : Option Dev :=
  if !avs.ack || decide (avs.voutMode / 32 % 8 ≠ 0) then none
  else
    let first := senses.headD { m := [], ring := [], temp := 0 }
    let d := { d with age := { d.age with vExp := signed 5 (avs.voutMode % 32), changed := false } }
    let d := d.readSites first
    let d := { d with age := { d.age with twAt := d.age.tw.getD 0, due := false } }.writeTrend
    let d := Dev.chuckVolts first 30 (senses.drop 1) d
    if ((avs.readMv : Int) - (d.fg AGE_VDD_SET : Int)).natAbs > 10 then none
    else
      let cur := d.fg SYS_SPLL_STEP
      let (p, lacks) := if 64 * (d.age.minSlack : Int) ≤ d.age.s64 then (cur, false) else d.slowerStep
      let d := if lacks then d.exhausted else d
      let changed := d.age.changed || p != cur
      let d := { d with age := { d.age with planned := p, changed := false } }
      some (if changed then ((d.count AGE_CNT_REPLANS).raise 41).writePlan p else d)

/-! ### Meanings -/

def execAgeCheck (v : Word) (s : State) : Host.Outcome State Fault Refusal := done s (s.dev.heard (ageCheck v))
def execScheduledMeasurement (s : State) : Host.Outcome State Fault Refusal := done s (scheduledMeasurement s.dev)
def execTemperatureSample (temp : Int) (s : State) : Host.Outcome State Fault Refusal := done s (temperatureSample temp s.dev)
def execMeasurement (m : Sense) (s : State) : Host.Outcome State Fault Refusal := done s (measurement m s.dev)
def execMeasurementLate (s : State) : Host.Outcome State Fault Refusal := done s (measurementLate s.dev)
def execVoltageStep (avs : AvsRes) (m : Sense) (s : State) : Host.Outcome State Fault Refusal := done s (voltageStep avs m s.dev)
def execClockStepBegin (s : State) : Host.Outcome State Fault Refusal := done s (clockStepBegin s.dev)
def execContextRemoval (s : State) : Host.Outcome State Fault Refusal := done s (contextRemoval s.dev)
def execClockStepApply (s : State) : Host.Outcome State Fault Refusal := done s (clockStepApply s.dev)
def execAgeClear (v : Word) (s : State) : Host.Outcome State Fault Refusal := done s (s.dev.heard (ageClear v))

end Sys2Proof.Machine
end

