-- ==== Sys2Proof/Machine/Image.lean ====
section
/-! DEFINITION. What the flash holds for the boot: the partition table (R50, R51), image headers and section tables (R53,
R58, R59), boot-control sectors (R61), and the checks of a slot (R68). Each check answers with the failure code of R67,
0 for none. -/
namespace Sys2Proof.Machine

/-! ### Fields of byte strings -/

/-- The little-endian number of `n` bytes at `o` of a byte string. -/
def le (b : List Byte) (o n : Nat) : Nat := leNat ((b.drop o).take n)

/-- `n` bytes at `o` of a byte string. -/
def part (b : List Byte) (o n : Nat) : List Byte := (b.drop o).take n

/-! ### The flash and its partition table (R48 to R51) -/

/-- The flash is usable: SFDP readable, 256 Mbit to 2 Gbit (R48, R49). -/
def FlashIdUsable (f : FlashId) : Bool := f.sfdpOk && decide (512 ≤ f.sectors) && decide (f.sectors ≤ 4096)

/-- FLASH_PROBE (R49): interface, size and identification. -/
def Dev.probe (d : Dev) (f : FlashId) : Nat × Dev :=
  if !FlashIdUsable f then (0x01, d)
  else
    let octal := d.fg SYS_STRAP_BOOTSEL < 2 ∧ f.octal ∧ f.trainOk
    (0, (((d.fp NVJ_FLASH_MODE (if octal then 2 else 1)).fp NVJ_FLASH_ECCST (if f.eccst then 1 else 0)).fp NVJ_FLASH_SECTORS
      f.sectors).fp NVJ_FID_ID f.jedec)

/-- The entries of the table with types 1 to 4: type, first sector, length. -/
def tableRegions (t : List Byte) : List (Nat × Nat × Nat) :=
  ((List.range (le t 6 2)).map fun i => (le t (0x10 + 16 * i) 2, le t (0x14 + 16 * i) 4, le t (0x18 + 16 * i) 4)).filter
    fun e => 1 ≤ e.1 ∧ e.1 ≤ 4

/-- No two of the regions overlap. -/
def disjoint : List (Nat × Nat) → Bool
  | [] => true
  | (a, n) :: l => l.all (fun e => !(decide (a < e.1 + e.2) && decide (e.1 < a + n))) && disjoint l

/-- The layout rules of R51; entries for board use are ignored (R50). -/
def layoutOk (t : List Byte) (sectors : Nat) : Bool :=
  let l := tableRegions t
  let size := le t 8 4
  let least := fun (ty : Nat) => match ty with
    | 3 => 32 | 4 => 64 | _ => 2
  [1, 2, 3, 4].all (fun ty => (l.filter fun e => e.1 == ty).length == 1) &&
  (List.range (le t 6 2)).all (fun i => let ty := le t (0x10 + 16 * i) 2; ty != 0 && !(decide (5 ≤ ty) && decide (ty ≤ 0xFF))) &&
  l.all (fun e => e.2.1 != 0 && decide (e.2.1 + e.2.2 ≤ size) && decide (least e.1 ≤ e.2.2)) &&
  disjoint (l.map (·.2)) && decide (size ≤ sectors)

/-- PARTITION_TABLE (R51): 0x02 or 0x03 where it is not accepted. -/
def tableCode (t : List Byte) (sectors : Nat) : Nat :=
  let n := le t 6 2
  if le t 0 4 ≠ 0x54504C54 ∨ le t 4 2 ≠ 1 ∨ n < 4 ∨ 8 < n then 0x02
  else if crc32c (t.take (0x10 + 16 * n)) ≠ le t (0x10 + 16 * n) 4 then 0x02
  else if layoutOk t sectors then 0 else 0x03

/-- The bytes of the table in sector 0. -/
def Dev.tableBytes (d : Dev) : List Byte := d.fbs 0 0x94

/-- The size that SFDP declared; where no probe has run, the largest of R48. -/
def Dev.flashSectors (d : Dev) : Nat := if d.fg NVJ_FLASH_SECTORS = 0 then 4096 else d.fg NVJ_FLASH_SECTORS

/-- The code that R49 to R51 give for the flash and its table. -/
def Dev.flashCode (d : Dev) : Nat :=
  if d.fg NVJ_FLASH_MODE = 0 ∧ d.fg STG_BOOT_FAIL1 = 1 then 1 else tableCode d.tableBytes d.flashSectors

/-- The region of a type: first sector and length. -/
def Dev.region (d : Dev) (ty : Nat) : Option (Nat × Nat) :=
  if d.flashCode ≠ 0 then none else ((tableRegions d.tableBytes).find? fun e => e.1 == ty).map (·.2)

/-! ### Headers and section tables (R53, R58, R59) -/

/-- One entry of the section table. -/
structure SectEnt where
  ty : Nat
  flags : Nat
  offset : Nat
  length : Nat
  digest : List Byte
  deriving DecidableEq, Repr

/-- Entry i of the section table of a header. -/
def sectEnt (h : List Byte) (i : Nat) : SectEnt :=
  let b := part h (0x20 + 48 * i) 48
  { ty := le b 0 2, flags := le b 2 2, offset := le b 4 4, length := le b 8 4, digest := part b 0x10 32 }

/-- The entries in use. -/
def sectEnts (h : List Byte) : List SectEnt := (List.range (le h 0x18 2)).map (sectEnt h)

/-- MAGIC, HVER and HLEN match R53, TRIES lies in 1 to 8. -/
def headOk (h : List Byte) : Bool :=
  le h 0 4 == 0x47595244 && le h 4 2 == 1 && le h 6 2 == 0x800 && decide (1 ≤ le h 0x1C 2) && decide (le h 0x1C 2 ≤ 8)

/-- The image digest: SHA-256 over header bytes 0x000 to 0x69F (R60). -/
def imageDigest (h : List Byte) : List Byte := sha256 (h.take 0x6A0)

/-- HEADER_CHECK of R58, in its order: `limit` is the offset of the boot-control sector. -/
def Dev.headerCode (d : Dev) (h : List Byte) (limit : Nat) : Nat :=
  let ilen := le h 8 4
  let mask := le h 0x14 4
  let key := le h 0x1A 1
  let pub := part h 0x620 64
  if !(headOk h && decide (0x800 ≤ ilen) && decide (ilen ≤ limit) && decide (le h 0x1B 1 ≤ 32)) then 0x05
  else if (d.reg rSYS_ID).toNat &&& mask ≠ le h 0x10 4 &&& mask then 0x05
  else if 3 < key ∨ tfind d.fuses.hash key ≠ some (sha256 pub) ∨ d.fuses.revoked.contains key then 0x06
  else if le h 0x1B 1 < d.fuses.minVer then 0x08
  else if !ecdsaOk pub (part h 0x660 64) (h.take 0x660) then 0x07
  else 0

/-- How many sections of a type R55 allows. -/
def sectCount (ty n : Nat) : Bool :=
  match ty with
  | 1 | 6 => n == 1
  | 2 => decide (1 ≤ n) && decide (n ≤ 16)
  | 3 | 7 | 8 | 9 => decide (n ≤ 1)
  | _ => decide (n ≤ 32)

/-- The section table of a header is accepted (R59): 0, or 0x09. -/
def sectionCode (h : List Byte) : Nat :=
  let n := le h 0x18 2
  let es := sectEnts h
  let known := fun (ty : Nat) => decide (1 ≤ ty) && decide (ty ≤ 9)
  if decide (1 ≤ n) && decide (n ≤ 32) && es.all (fun e => e.ty != 0) && (part h (0x20 + 48 * n) (48 * (32 - n))).all (· == 0) &&
    (sectEnt h 0).ty == 1 && es.all (fun e => e.offset % 256 == 0 && decide (0x800 ≤ e.offset) && decide (e.offset + e.length ≤ le h 8 4)) &&
    disjoint (es.map fun e => (e.offset, e.length)) &&
    (List.range 10).all (fun ty => ty == 0 || sectCount ty (es.filter fun e => e.ty == ty).length) &&
    es.all (fun e => known e.ty || e.flags % 2 == 1)
  then 0 else 0x09

/-- The bytes of a section in flash. -/
def Dev.sectBytes (d : Dev) (base : Nat) (e : SectEnt) : List Byte := d.fbs (base + e.offset) e.length

/-- VERIFY (R68): header, section table and digests of a slot. -/
def Dev.slotCode (d : Dev) (slot : Nat) : Nat :=
  match d.region slot with
  | none => d.flashCode
  | some (s, n) =>
    let base := s * 0x10000
    let h := d.fbs base 0x800
    let c := d.headerCode h ((n - 1) * 0x10000)
    if c ≠ 0 then c
    else if sectionCode h ≠ 0 then 0x09
    else if ((sectEnts h).filter fun e => e.ty ≤ 9).all fun e => sha256 (d.sectBytes base e) == e.digest then 0 else 0x0A

/-! ### Boot-control sectors (R61 to R63) -/

/-- The flash offset of a slot's boot-control sector. -/
def Dev.ctlAt (d : Dev) (slot : Nat) : Nat := (d.region slot).elim 0 fun r => (r.1 + r.2 - 1) * 0x10000

/-- The fields of a boot-control sector as R61 reads them. -/
def Dev.loaded (d : Dev) (slot : Nat) : Bool := le (d.fbs (d.ctlAt slot) 4) 0 4 == 0x4C4F4144
def Dev.confirmed (d : Dev) (slot : Nat) : Bool := le (d.fbs (d.ctlAt slot + 4) 4) 0 4 == 0x434F4E46
def Dev.revoked (d : Dev) (slot : Nat) : Bool := !((d.fbs (d.ctlAt slot + 8) 4).all (· == 0xFF))
def Dev.gen (d : Dev) (slot : Nat) : Nat := le (d.fbs (d.ctlAt slot + 0xC) 4) 0 4
def Dev.attempts (d : Dev) (slot : Nat) : Nat := ((d.fbs (d.ctlAt slot + 0x10) 8).filter (· != 0xFF)).length

/-- TRIES of a slot, from header bytes that nothing has authenticated (R62). -/
def Dev.tries (d : Dev) (slot : Nat) : Nat :=
  let h := d.fbs ((d.region slot).elim 0 fun r => r.1 * 0x10000) 0x20
  if headOk h then le h 0x1C 2 else 1

/-- Revocation of a used-up slot (R63). -/
def Dev.revokeSpent (d : Dev) (slot : Nat) : Dev :=
  if d.loaded slot && !d.revoked slot && !d.confirmed slot && decide (d.tries slot ≤ d.attempts slot) then
    d.fprog (d.ctlAt slot + 8) (leBytes 4 0x5245564B)
  else d

/-- A slot is eligible (R62). -/
def Dev.eligible (d : Dev) (slot : Nat) : Bool :=
  d.loaded slot && !d.revoked slot && (d.confirmed slot || decide (d.attempts slot < d.tries slot))

/-- The next ATTEMPT byte of an unconfirmed slot is programmed (R63). -/
def Dev.countAttempt (d : Dev) (slot : Nat) : Dev :=
  if d.confirmed slot then d
  else
    let b := d.fbs (d.ctlAt slot + 0x10) 8
    match (List.range 8).find? fun k => b.getD k 0 == 0xFF with
    | some k => d.fprog (d.ctlAt slot + 0x10 + k) [0]
    | none => d

/-- SLOT_CHOICE (R62): of the eligible slots that have not been tried, the one with the higher GEN, A of equal ones. -/
def Dev.chooseSlot (d : Dev) (tried : Option Nat) : Option Nat :=
  let ok := fun (k : Nat) => d.eligible k && tried != some k
  if ok 1 && ok 2 then some (if d.gen 1 < d.gen 2 then 2 else 1)
  else if ok 1 then some 1 else if ok 2 then some 2 else none

/-- CONFIRMED on the running slot (R65). -/
def Dev.confirmSlot (d : Dev) : Dev :=
  let s := d.fg STG_BOOT_SLOT
  if s = 1 ∨ s = 2 then
    { (d.fprog (d.ctlAt s + 4) (leBytes 4 0x434F4E46)).fp STG_BOOT_CONF 1 with stg := { d.stg with confirmed := true } }
  else d

/-! ### The dump region (R490) -/

/-- The flash offset of dump slot k, 1 or 2. -/
def Dev.dumpAt (d : Dev) (k : Nat) : Nat := (d.region 4).elim 0 fun r => (r.1 + 32 * (k - 1)) * 0x10000

/-- Dump slot k is wholly erased. -/
def Dev.dumpErased (d : Dev) (k : Nat) : Bool :=
  let a := d.dumpAt k
  (d.region 4).isSome && d.flash.all fun p => !(decide (a ≤ p.1) && decide (p.1 < a + 0x200000)) || p.2 == 0xFF

/-- DSEQ of dump slot k where its header CRC is correct. -/
def Dev.dumpSeq (d : Dev) (k : Nat) : Option Nat :=
  let h := d.fbs (d.dumpAt k) 0x1000
  if (d.region 4).isSome ∧ crc32c (h.take 0xFFC) = le h 0xFFC 4 then some (le h 8 4) else none

/-- EVT_DUMP.ERASED. -/
def Dev.showErased (d : Dev) : Dev :=
  d.fp EVT_DUMP_ERASED ((if d.dumpErased 1 then 1 else 0) + if d.dumpErased 2 then 2 else 0)

end Sys2Proof.Machine
end

