-- ==== Sys2Proof/Machine/Link.lean ====
section
/-! DEFINITION. The commands of the link: training, ordered sets, events, summaries, joining, time, sums, loss, and the head's
member commands (R363 to R393). -/
namespace Sys2Proof.Machine

/-! ### Role and training (R363, R367, R368) -/

/-- HEADWAIT_EXPIRY (R363): no member's role came, so the device is the headstock and its ports start. -/
def Dev.becomeHead (d : Dev) : Dev :=
  (({ d with cbl := { d.cbl with roleOpen := false } }.fp CBL_STAT_DEVID 1).setChain 1 0).armPorts d.eng.c

def headwaitExpiry (d : Dev) : Dev := if d.cbl.roleOpen && d.alive then d.becomeHead else d

/-- A port away from the head may train: of a head, or of a member in the census (R367). -/
def Dev.beacons (d : Dev) : Bool := d.isHead || [3, 4, 5, 6].contains (d.fg CBL_STAT_STATE)

/-- Port p is enabled and neither up nor isolated. -/
def Dev.portOpen (d : Dev) (p : Nat) : Bool :=
  decide (p < 3) && d.on (CBL_P_CTRL_EN p) && d.fg (CBL_P_STAT_LSTATE p) != 2 && d.fg (CBL_P_STAT_LSTATE p) != 3

/-- SQUELCH_BREAK (R363, R367, R393): training begins; on CB0 an open role becomes a member candidate, and an orphan joins
afresh. -/
def squelchBreak (p : Nat) (d : Dev) : Dev :=
  if !d.alive || !d.portOpen p then d
  else
    let train := fun (d : Dev) => (d.setLport p LPort.idle).fp (CBL_P_STAT_LSTATE p) 1
    if p = 0 then
      if d.cbl.roleOpen || d.cbl.orphan then
        train ({ d with cbl := { d.cbl with roleOpen := false, orphan := false, fade := none, synced := false, locks := 0, locked := false,
                                            admitted := false, sAdm := none, adm := [], held := [], path := [] } }.setChain 2 0)
      else if d.isMember && d.cbl.fade.isNone then train d else d
    else if d.beacons then train d else d

/-- BEACON (R367): TS1 for 2 us; a training that has not finished begins anew. -/
def beacon (p : Nat) (d : Dev) : Dev :=
  if d.alive && (p == 1 || p == 2) && d.portOpen p && d.beacons then d.setLport p { d.lport p with beacon := true } else d

/-- The end of the exchange (R367, R368): the version both ends have, the roles, then the link is up. -/
def Dev.trained (d : Dev) (p role lpvMin lpvMax : Nat) : Dev :=
  let v := min 1 lpvMax
  let iso := fun (r : Nat) =>
    let d := d.portIsolate p r
    if p = 0 then d.setChain 7 r else d
  if v < 1 ∨ v < lpvMin then iso 8 else if role = roleOf p then iso 9 else d.portUp p v

/-- TRAINING_SET (R367): `count` consecutive sets of one number; eight TS1 and then eight TS2 end the exchange. -/
def trainingSet (p role lpvMin lpvMax set count : Nat) (d : Dev) : Dev :=
  if !d.alive || decide (3 ≤ p) || d.fg (CBL_P_STAT_LSTATE p) != 1 then d
  else
    let x := d.lport p
    let ts := if set = 1 then (min 8 (x.ts.1 + count), 0) else if set = 2 ∧ 8 ≤ x.ts.1 then (x.ts.1, min 8 (x.ts.2 + count)) else x.ts
    let d := d.setLport p { x with ts := ts }
    if 8 ≤ ts.2 then d.trained p role lpvMin lpvMax else d

/-- TRAINING_TIMEOUT (R367). -/
def trainingTimeout (p : Nat) (d : Dev) : Dev :=
  if decide (p < 3) && d.fg (CBL_P_STAT_LSTATE p) == 1 then (d.setLport p LPort.idle).fp (CBL_P_STAT_LSTATE p) 0 else d

/-! ### Ordered sets (R372) -/

/-- ACK (R372): frames up to its SEQ are done with. -/
def ack (p seq credit : Nat) (d : Dev) : Dev :=
  if !d.linkUp p then d
  else
    let x := d.lport p
    let left := x.replay.filter fun f => decide (seqLater f.seq seq > 0)
    d.setLport p { x with replay := left, credit := credit, resends := if left.length < x.replay.length then 0 else x.resends }

/-- NAK (R372): frames from its SEQ on are sent again, those before it are done with. -/
def nak (p seq : Nat) (d : Dev) : Dev :=
  if !d.linkUp p then d
  else
    let x := d.lport p
    (d.setLport p { x with replay := x.replay.filter fun f => decide (seqLater f.seq seq ≥ 0) }).resend p seq

/-- REPLAY_TIMEOUT (R372): from the oldest frame on. -/
def replayTimeout (p : Nat) (d : Dev) : Dev :=
  if !d.linkUp p then d
  else match (d.lport p).replay.head? with
    | some f => d.resend p f.seq
    | none => d

/-! ### Events (R110, R376, R377) -/

/-- The message that a forwarded event stands for (R110, R376). -/
def Dev.upMsg (d : Dev) (e : EvRec) : Msg :=
  let local_ := decide (7 ≤ e.src)
  { kind := e.kind, group := if local_ then 0 else e.part % 16, chan := e.chan, key := e.key,
    attr := if e.kind = 0x15 then !e.attr else if e.kind = 0x12 then false else e.attr, value := e.value, index := e.index,
    raw := if e.kind = 0x12 then e.value.toNat else 0, wide := e.kind != 0x12 || !e.attr, start := e.stamp, done := e.stamp,
    stamp := if e.src = 8 then some (e.stamp + w32 d.lchain) else none, nextPart := 0,
    part := if local_ then some e.part else none, dev := e.devid, tag := e.src,
    keys := if e.kind = 0x15 then [(e.key, e.value)] else [] }

/-- EVENT_UP (R110): into the head's link source. -/
def eventUp (h : LinkHdr) (ev : EvRec) (d : Dev) : Dev :=
  d.onFrame h 0x01 (recBytes ev) fun d =>
    if d.isHead && d.cbl.census.any fun m => m.id == ev.devid && m.admitted then d.post 1 (d.upMsg ev) else d

/-- Ordered entries that wait go into the pipeline while it has room (R112, R113). -/
def Dev.drainHeld : List DnEntry → Dev → Dev
  | [], d => d
  | x :: t, d =>
    if d.pipeFree && d.running then Dev.drainHeld t ({ d with cbl := { d.cbl with held := t } }.enterDn x) else d

/-- EVENT_DN (R377): admission records wait for s_adm; a device that has been admitted applies the rest in order. -/
def eventDn (h : LinkHdr) (entries : List DnEntry) (d : Dev) : Dev :=
  d.onFrame h 0x02 (entries.flatMap dnBytes) fun d =>
    if !d.isMember then d
    else
      let d := { d with cbl := { d.cbl with adm := d.cbl.adm ++ entries.filter fun (x : DnEntry) => x.adm } }
      let rest := entries.filter fun (x : DnEntry) => !x.adm
      let ok := fun (x : DnEntry) => match d.cbl.sAdm with
        | some s => decide (later x.ev.stamp (d.tau s) ≥ 0)
        | none => d.cbl.admitted
      let d := { d with cbl := { d.cbl with held := d.cbl.held ++ rest.filter ok } }
      if d.cbl.sAdm.isNone then Dev.drainHeld d.cbl.held d else d

/-- The head's epoch at a sample (R386): that of a decided commit from its sample on, the one before until then. -/
def Dev.epochAt (d : Dev) (s : Word) : Word :=
  let e := d.reg rSTG_EPOCH
  if d.stg.buffer.isSome ∧ d.fg STG_STATUS_CSTATE = 3 ∧ later s d.stg.sample ≥ 0 then d.stg.epochT
  else match d.stg.past.getLast? with
    | some p => if later s p.sample < 0 then e - 1 else e
    | none => e

/-- SUMMARY (R164, R386): another epoch quarantines the member, for a late GO where it is one behind a chain commit; else
the copy is replaced and later targetings deducted again. -/
def summary (h : LinkHdr) (tag : Nat) (epoch sample : Word) (sums : List (Word × Nat)) (d : Dev) : Dev :=
  let pay := leBytes 2 tag ++ [0, 0] ++ leBytes 4 epoch.toNat ++ leBytes 4 sample.toNat ++
    sums.flatMap fun s => leBytes 4 s.1.toNat ++ leBytes 2 s.2 ++ [0, 0]
  d.onFrame h 0x03 pay fun d =>
    match d.member h.src with
    | none => d
    | some m =>
      if !d.isHead || m.state != 4 then d
      else
        let e := d.epochAt sample
        if epoch ≠ e then d.quarantine { m with epoch := epoch } (if epoch + 1 = e ∧ d.stg.goGot then 3 else 2)
        else
          let d := d.setMember { m with epoch := epoch }
          let a := d.alloc
          let new := (summClasses.zip sums).foldl (fun t x =>
            tput Summ.none t (h.src * 8 + x.1) (if x.2.2 = 0 then Summ.none else { score := x.2.1, count := x.2.2 })) a.summ
          let left := a.targeted.filter fun x => x.1 != h.src || decide (seqLater x.2.1 tag > 0)
          let d := { d with alloc := { a with summ := new, summTag := tput 0 a.summTag h.src tag, targeted := left } }
          (left.filter fun x => x.1 == h.src).foldl (fun d x => d.deduct x.1 x.2.2) d

/-! ### Joining (R384 to R386) -/

/-- The ID of a position (R365): its own, the lowest one unused, or with none left the lowest whose position is not in the
census. -/
def Dev.idFor (d : Dev) (path : List Bool) : Nat × Dev :=
  match d.cbl.table.find? fun e => e.1 == path with
  | some e => (e.2, d)
  | none =>
    let used := d.cbl.table.map (·.2)
    let ids := (List.range 253).map (· + 2)
    let id := (ids.find? fun i => !used.contains i).getD ((ids.find? fun i => !d.censusIds.contains i).getD 2)
    (id, { d with cbl := { d.cbl with table := d.cbl.table.filter (fun e => e.2 != id) ++ [(path, id)] } })

/-- The head takes a HELLO (R384): ID, verdict, ASSIGN. -/
def Dev.takeHello (d : Dev) (m : HelloMsg) (port : Nat) : Dev :=
  let (id, d) := d.idFor m.path
  let parent := ((d.cbl.census.find? fun x => x.path == m.path.dropLast).map (·.id)).getD 1
  let x : Member := { id := id, depth := m.depth, parent := parent, state := 3, reason := 0, path := m.path, port := port, err := 0,
                      epoch := m.epoch, digest := m.digest, admitted := false, shipped := false }
  let d := { d with cbl := { d.cbl with census := d.cbl.census.filter fun y => y.id != id } }
  if d.fg CBL_POL0_DMAX < m.depth then
    (d.sendAssign { x with state := 7, reason := 10 } 2).assignVia port m.depth 2 id 10
  else
    let put := fun (x : Member) (d : Dev) => { d with cbl := { d.cbl with census := d.cbl.census ++ [x] } }.showCensus
    let ship := decide (d.fg CBL_POL0_SHIP ≠ 0)
    if m.digest ≠ d.imgDigest then
      let q := { x with state := 5, reason := 1 }
      let d := (((put q d).sendAssign q 1).assignVia port m.depth 1 id 1).raise 23
      if ship then d.shipTo q else d
    else ((put x d).sendAssign x 0).assignVia port m.depth 0 id 0

/-- HELLO (R376, R384): the first parent fills in depth and path; it goes on to the head. -/
def hello (h : LinkHdr) (m : HelloMsg) (d : Dev) : Dev :=
  let m := if m.depth = 0 then { m with depth := d.depth + 1, path := d.cbl.path ++ [h.port == 2] } else m
  let pay := leBytes 4 m.sysId.toNat ++ [BitVec.ofNat 8 m.lpv, BitVec.ofNat 8 m.depth, 0, 0] ++ leBytes 4 m.epoch.toNat ++
    leBytes 4 m.imgver.toNat ++ m.digest ++ pathBytes m.path
  d.onFrame h 0x10 pay fun d => if d.isHead then d.takeHello m h.port else d

/-- The sample grid of ASSIGN, with C `depth` VS ahead (R122, R381): no context sounds yet. -/
def Dev.regrid (d : Dev) : Dev :=
  let t := d.now
  let s := (d.sampleOf t).1 + w32 d.depth
  { d with eng := { d.eng with crel := d.eng.crel + later s d.eng.c, c := s } }

/-- A member takes its ASSIGN (R381, R384, R386, R387). -/
def Dev.takeAssign (d : Dev) (m : AssignMsg) : Dev :=
  let d := ((d.fp CBL_STAT_DEVID m.id).fp CBL_STAT_DEPTH m.depth).fp CBL_CHAIN_LCHAIN ((m.lchain + 999) / 1000)
  let d := { d with cbl := { d.cbl with path := m.path.take m.depth } }
  if m.verdict = 2 then
    let d := each d.downPorts (fun p d => d.sendOn p 0x2A 0 d.devid []) d
    (d.clearVoices.portIsolate 0 m.reason).setChain 7 m.reason
  else
    let fresh := !d.cbl.admitted && d.cbl.sAdm.isNone
    let d := if fresh then
        { d with eng := { d.eng with s0 := m.anchor, tau0 := m.tau, crel := later d.eng.c m.anchor },
                 cbl := { d.cbl with synced := false, locks := 0, locked := false } }
      else d
    if m.verdict = 1 then (if d.cbl.admitted then d.fadeAll else d).setChain 5 m.reason
    else d.setChain 3 0

/-- ASSIGN (R375, R384): for this device, or on its way down by its path. -/
def assign (h : LinkHdr) (m : AssignMsg) (d : Dev) : Dev :=
  let pay := [BitVec.ofNat 8 m.depth, BitVec.ofNat 8 m.verdict, BitVec.ofNat 8 m.id, BitVec.ofNat 8 m.reason] ++ leBytes 4 m.lchain ++
    leBytes 4 m.anchor.toNat ++ leBytes 4 m.tau.toNat ++ pathBytes m.path
  d.onFrame h 0x11 pay fun d =>
    if !d.isMember then d
    else if d.devid ≠ 0 ∧ d.depth < m.depth then
      let p := if m.path.getD d.depth false then 2 else 1
      ((d.sendOn p 0x11 0xFD h.src pay).assignVia p m.depth m.verdict m.id m.reason)
    else d.takeAssign m

/-- STATUS at the head (R380, R384, R387, R388): a locked member with a matching digest is admitted. -/
def status (h : LinkHdr) (m : StatusMsg) (d : Dev) : Dev :=
  let pay := [BitVec.ofNat 8 m.state, BitVec.ofNat 8 m.reason, BitVec.ofNat 8 m.ship, 0] ++ leBytes 2 m.err ++ [0, 0] ++ m.digest
  d.onFrame h 0x12 pay fun d =>
    match d.member h.src with
    | none => d
    | some x =>
      if !d.isHead then d
      else
        let x := { x with digest := m.digest, err := m.err }
        let d := (d.setMember x).fp CBL_CENSUS_SHIPCODE (if m.ship ≠ 0 then m.ship else d.fg CBL_CENSUS_SHIPCODE)
        let good := m.digest == d.imgDigest
        match m.state, m.reason with
        | 7, 11 => d.isolateMember x 11
        | 5, 4 => (d.setMember { x with state := 5, reason := 4 }).raise 23
        | 3, _ =>
          if !good || (x.state == 5 && (x.reason == 2 || x.reason == 3 || x.reason == 5)) then d
          else if m.err ≤ 100 then d.admitMember x else d.setMember { x with state := 3, reason := 0 }
        | s, r => if s = 4 ∨ s = 6 then d.setMember { x with state := s, reason := r } else d

/-- ADMIT (R385). -/
def linkAdmit (h : LinkHdr) (sample epoch : Word) (gen : Nat) (d : Dev) : Dev :=
  d.onFrame h 0x13 (leBytes 4 sample.toNat ++ leBytes 4 epoch.toNat ++ leBytes 2 gen ++ [0, 0]) fun d =>
    if d.isMember then { d with cbl := { d.cbl with sAdm := some sample, admEpoch := epoch, admGen := gen } } else d

/-- ADMISSION (R385): at s_adm. -/
def admission (d : Dev) : Dev :=
  match d.cbl.sAdm with
  | none => d
  | some s =>
    if !d.running || decide (later d.eng.c s < 0) then d
    else
      let d := (d.setReg rSTG_EPOCH d.cbl.admEpoch).fp CBL_CENSUS_GEN d.cbl.admGen
      let again := d.cbl.admitted
      let d := { d with cbl := { d.cbl with sAdm := none, admitted := true, held := d.cbl.adm ++ d.cbl.held, adm := [] },
                        alloc := { d.alloc with lastSent := [] } }
      let d := Dev.drainHeld d.cbl.held d
      let d := (d.setChain 4 0).publish
      (if again then d else d.armPorts s).raise 21

/-! ### Time along the tree (R378 to R380) -/

/-- Magnitude of an integer as a count of ns, at most 0xFFFF. -/
def satNs (v : Int) : Nat := min 0xFFFF v.natAbs

/-- What the error bound does to a member's state (R380). -/
def Dev.lockStep (d : Dev) (err : Nat) : Dev :=
  let n := if err ≤ 100 then d.cbl.locks + 1 else 0
  let d := { d with cbl := { d.cbl with locks := n } }
  let st := d.fg CBL_STAT_STATE
  if st = 4 ∧ 1000 < err then
    ((({ d with cbl := { d.cbl with locked := false, locks := 0 } }.setChain 6 0).raise 24).fadeAll).sendStatus
  else if 16 ≤ n then
    let was := d.cbl.locked
    let d := { d with cbl := { d.cbl with locked := true } }
    if st = 6 then (if d.allFree then (d.setChain 4 0).sendStatus else d)
    else if st = 5 ∧ d.fg CBL_STAT_REASON = 4 then (d.setChain 3 0).sendStatus
    else if st = 3 ∧ !was then d.sendStatus
    else d
  else d

/-- SYNC at the child (R379, R380): the residual; the first after ASSIGN steps chain time and takes the sample grid, the
later ones correct the rate. How the rate follows the residual the spec does not state: a free value. -/
def sync (h : LinkHdr) (t : Word) (err : Nat) (d : Dev) : Dev :=
  d.onFrame h 0x20 (leBytes 4 t.toNat ++ leBytes 2 err ++ [0, 0]) fun d =>
    if !d.isMember || d.devid == 0 then d
    else
      let delay : Int := ((signed 24 (d.fg (CBL_P_DELAY_DELAY 0)) + 8) / 16)
      let r := later t d.now + delay
      let d := d.fp (CBL_P_STAT_PEER 0) h.src
      let d := d.fp CBL_TIME_RESID (w32i (max (-32768) (min 32767 r))).toNat
      let e := min 0xFFFF (err + r.natAbs + 8)
      let d := d.fp CBL_TIME_ERR e
      let d := if !d.cbl.synced then { d.addOff (r * 2 ^ 40) with cbl := { d.cbl with synced := true } }.regrid
        else
          let (w, d) := d.fresh
          d.setAdj w.toInt
      d.lockStep e

/-- SYNC_INTERVAL (R379, R380). -/
def syncInterval (d : Dev) : Dev :=
  if !d.alive then d
  else
    let err := if d.isHead then 0 else d.fg CBL_TIME_ERR
    each d.downPorts (fun p d => d.sendOn p 0x20 0 d.devid (leBytes 4 d.now.toNat ++ leBytes 2 err ++ [0, 0])) d

/-- PD_REQ at the parent (R378). -/
def pdReq (h : LinkHdr) (t2 t3 : Nat) (d : Dev) : Dev :=
  d.onFrame h 0x21 [] fun d =>
    if h.port = 0 then d
    else (d.fp (CBL_P_STAT_PEER h.port) h.src).sendOn h.port 0x22 0 d.devid (leBytes 4 t2 ++ leBytes 4 t3)

/-- PD_RSP at the child (R378): the peer delay in 1/16 ns, with ASYM. -/
def pdRsp (h : LinkHdr) (t1 t2 t3 t4 : Nat) (d : Dev) : Dev :=
  d.onFrame h 0x22 (leBytes 4 t2 ++ leBytes 4 t3) fun d =>
    if h.port ≠ 0 then d
    else
      let k := later (w32 t4) (w32 t1) - later (w32 t3) (w32 t2)
      d.fp (CBL_P_DELAY_DELAY 0) ((8 * k + d.fs (CBL_P_CTRL_ASYM 0)) % 2 ^ 24).toNat

/-- PD_INTERVAL (R378). -/
def pdInterval (d : Dev) : Dev :=
  if d.alive && (d.lport 0).joined then d.sendOn 0 0x21 0 d.devid [] else d

/-- LOCK_TIMEOUT (R380): quarantined with reason 4. -/
def lockTimeout (d : Dev) : Dev :=
  if d.fg CBL_STAT_STATE = 3 ∧ !d.cbl.locked then (d.setChain 5 4).sendStatus else d

/-! ### Sums (R383) -/

/-- SUM: held for its sample; discarded where that has passed C. -/
def sum (h : LinkHdr) (sample : Word) (first : Nat) (vals : List (Nat × BitVec 40)) (d : Dev) : Dev :=
  let mask := vals.foldl (fun (m : Nat) v => m ||| 2 ^ (v.1 - first)) 0
  d.onFrame h 0x28 (leBytes 4 sample.toNat ++ [BitVec.ofNat 8 first, 0] ++ leBytes 2 mask ++ vals.flatMap fun v => leBytes 5 v.2.toNat)
    fun d =>
      if h.port = 0 ∨ later sample d.eng.c < 0 then d
      else
        let x := d.lport h.port
        d.setLport h.port { x with
          sums := vals.foldl (fun t v => if v.1 < 64 then tput 0 t (busKey sample v.1) v.2 else t) x.sums
          got := if x.got.contains sample then x.got else x.got ++ [sample] }

/-! ### Leaving (R390 to R393) -/

/-- LOST at the head (R392). -/
def lost (h : LinkHdr) (depth : Nat) (t : Word) (path : List Bool) (d : Dev) : Dev :=
  d.onFrame h 0x29 ([BitVec.ofNat 8 depth, 0, 0, 0] ++ leBytes 4 t.toNat ++ pathBytes path) fun d =>
    if d.isHead then d.loseSubtree (path.take depth) t else d

/-- HEADLOST at a member (R393). -/
def headlost (h : LinkHdr) (d : Dev) : Dev :=
  d.onFrame h 0x2A [] fun d => if h.port = 0 then d.headLost else d

/-- LINK_LOSS (R390). -/
def linkLoss (p : Nat) (d : Dev) : Dev := if d.linkUp p then d.losePort p else d

/-- ORPHAN_ENTRY (R393): at the end of the fade. -/
def orphanEntry (d : Dev) : Dev :=
  match d.cbl.fade with
  | none => d
  | some j =>
    if j < 32 || !d.isMember then d
    else
      let d := each [0, 1, 2] (fun p d => d.portIdle p) d.clearVoices.stopPorts
      let d := { d with cbl := { d.cbl with fade := none, orphan := true, admitted := false, synced := false, locked := false, locks := 0,
                                            sAdm := none, adm := [], held := [], path := [] } }
      (((d.fp CBL_STAT_DEVID 0).fp CBL_STAT_DEPTH 0).setChain 8 0).raise 22

/-! ### Member commands (R386 to R388, R396) -/

/-- Run `f` on a member of the census, on a head only. -/
def Dev.onMember (d : Dev) (dev : Nat) (f : Member → Dev → Dev) : Dev :=
  if !d.isHead || !d.alive then d
  else match d.member dev with
    | some m => f m d
    | none => d

/-- MEMBER_RELEASE: readmitted (R386). -/
def memberRelease (dev : Nat) (d : Dev) : Dev :=
  d.onMember dev fun m d => if m.state == 5 && [2, 3, 5].contains m.reason then d.admitMember m else d

/-- MEMBER_QUARANTINE. -/
def memberQuarantine (dev : Nat) (d : Dev) : Dev := d.onMember dev fun m d => d.quarantine m 5

/-- MEMBER_ISOLATE. -/
def memberIsolate (dev : Nat) (d : Dev) : Dev := d.onMember dev fun m d => d.isolateMember m 12

/-- MEMBER_SHIP (R388): from the image's first byte, source 35. -/
def memberShip (dev : Nat) (d : Dev) : Dev :=
  d.onMember dev fun m d =>
    d.shipTo m

/-- PORT_ENABLE: a write of CBL_Pn_CTRL (R387, R390): 0 holds electrical idle; 1 after it releases isolation but for a
failed image. -/
def portEnable (p : Nat) (v : Word) (d : Dev) : Dev :=
  if 3 ≤ p then d
  else
    let was := d.on (CBL_P_CTRL_EN p)
    let now := bitOf v 31
    let d := (d.fp (CBL_P_CTRL_EN p) (if now then 1 else 0)).fp (CBL_P_CTRL_ASYM p) (v.toNat % 65536)
    if was && !now then
      let iso := (d.lport p).isol
      let d := (d.losePort p).portIdle p
      d.setLport p { d.lport p with isol := iso }
    else if !was && now then
      if (d.lport p).isol = 11 then d.fp (CBL_P_STAT_LSTATE p) 3
      else
        let iso := decide ((d.lport p).isol ≠ 0)
        let d := d.portIdle p
        if p = 0 ∧ iso ∧ d.isolated then
          { d with cbl := { d.cbl with admitted := false, synced := false, fade := none } }.setChain 2 0
        else d
    else d

/-! ### Chain commits (R81 to R84) -/

/-- The VS boundary nearest to chain time t. -/
def Dev.nearest (d : Dev) (t : Word) : Word :=
  let s := (d.sampleOf t).1
  if later t (d.tau s) ≤ later (d.tau (s + 1)) t then s else s + 1

/-- PREPARE at a member (R81): its staging is checked, the buffer filled, and the vote sent. -/
def prepare (h : LinkHdr) (epoch t : Word) (d : Dev) : Dev :=
  d.onFrame h 0x08 (leBytes 4 epoch.toNat ++ leBytes 4 t.toNat) fun d =>
    if !d.isMember || !d.running then d
    else
      let set := d.staged
      let res := d.checkSet set (d.fg AGE_PLAN_VOICES) (d.fg AGE_PLAN_STEP)
      let d := d.showCheck res true
      let vote := fun (yes rule reg : Nat) (d : Dev) =>
        d.sendUp 0x09 (leBytes 4 epoch.toNat ++ [BitVec.ofNat 8 yes, BitVec.ofNat 8 rule, 0, 0] ++ leBytes 4 reg)
      match res with
      | some (rule, reg) => vote 0 rule reg d
      | none =>
        let d := ((d.fillBuffer set (d.nearest t) epoch).fp STG_STATUS_PENDING 1).fp STG_STATUS_CSTATE 2
        vote 1 0 0 { d with stg := { d.stg with prepared := true } }

/-- VOTE at the head (R81, R83, R386). -/
def vote (h : LinkHdr) (epoch : Word) (yes : Bool) (rule : Nat) (reg : Word) (d : Dev) : Dev :=
  d.onFrame h 0x09 (leBytes 4 epoch.toNat ++ [if yes then 1 else 0, BitVec.ofNat 8 rule, 0, 0] ++ leBytes 4 reg.toNat) fun d =>
    if !d.isHead || d.fg STG_STATUS_CSTATE != 2 then d
    else if epoch ≠ d.stg.epochT then
      match d.member h.src with
      | some m => d.quarantine m 2
      | none => d
    else if yes then { d with stg := { d.stg with votes := h.src :: d.stg.votes } }
    else
      let first := !d.stg.noVote
      let d := { d with stg := { d.stg with noVote := true } }
      if first then (d.fp STG_CHAIN_DEVID h.src).fp STG_CHAIN_RULE rule else d

/-- CHAIN_COMMIT_DEADLINE (R81): at T_d, GO where every member voted yes and the census stands as at t0, else ABORT. -/
def chainCommitDeadline (d : Dev) : Dev :=
  let td := d.tau (d.stg.sample - 1) - w32 d.lchain
  if !d.isHead || !d.running || d.fg STG_STATUS_CSTATE != 2 || decide (later d.now td < 0) then d
  else if !d.stg.noVote && d.censusIds == d.stg.census0 && d.stg.census0.all fun i => d.stg.votes.contains i then
    ({ d with stg := { d.stg with goGot := true } }.fp STG_STATUS_CSTATE 3).broadcast 0x0A (leBytes 4 d.stg.epochT.toNat)
  else d.abortChain

/-- GO at a member that voted yes (R84): late where C has passed its sample. -/
def go (h : LinkHdr) (epoch : Word) (d : Dev) : Dev :=
  d.onFrame h 0x0A (leBytes 4 epoch.toNat) fun d =>
    if !d.isMember || !d.stg.prepared || d.stg.epochT != epoch then d
    else
      let d := { d with stg := { d.stg with goGot := true } }.fp STG_STATUS_CSTATE 3
      if later d.stg.sample d.eng.c < 0 then
        let d := { d with stg := { d.stg with sample := d.eng.c, applyT := d.tau d.eng.c } }.fp STG_STATUS_LATE 1
        ((d.count NOTE_CNT0_LATE).raise 27).raise 23
      else d

/-- ABORT at a member (R83). -/
def abort (h : LinkHdr) (epoch : Word) (d : Dev) : Dev :=
  d.onFrame h 0x0B (leBytes 4 epoch.toNat) fun d =>
    if !d.isMember then d else (if d.stg.epochT = epoch then d.dropBuffer else d).raise 34

def execHeadwaitExpiry (s : State) : Host.Outcome State Fault Refusal := done s (headwaitExpiry s.dev)
def execSquelchBreak (p : Nat) (s : State) : Host.Outcome State Fault Refusal := done s (squelchBreak p s.dev)
def execBeacon (p : Nat) (s : State) : Host.Outcome State Fault Refusal := done s (beacon p s.dev)
def execTrainingSet (p role lpvMin lpvMax set count : Nat) (s : State) : Host.Outcome State Fault Refusal :=
  done s (trainingSet p role lpvMin lpvMax set count s.dev)
def execTrainingTimeout (p : Nat) (s : State) : Host.Outcome State Fault Refusal := done s (trainingTimeout p s.dev)
def execAck (p seq credit : Nat) (s : State) : Host.Outcome State Fault Refusal := done s (ack p seq credit s.dev)
def execNak (p seq : Nat) (s : State) : Host.Outcome State Fault Refusal := done s (nak p seq s.dev)
def execReplayTimeout (p : Nat) (s : State) : Host.Outcome State Fault Refusal := done s (replayTimeout p s.dev)
def execEventUp (h : LinkHdr) (ev : EvRec) (s : State) : Host.Outcome State Fault Refusal := done s (eventUp h ev s.dev)
def execEventDn (h : LinkHdr) (entries : List DnEntry) (s : State) : Host.Outcome State Fault Refusal := done s (eventDn h entries s.dev)
def execSummary (h : LinkHdr) (tag : Nat) (epoch sample : Word) (sums : List (Word × Nat)) (s : State) :
    Host.Outcome State Fault Refusal := done s (summary h tag epoch sample sums s.dev)
def execHello (h : LinkHdr) (m : HelloMsg) (s : State) : Host.Outcome State Fault Refusal := done s (hello h m s.dev)
def execAssign (h : LinkHdr) (m : AssignMsg) (s : State) : Host.Outcome State Fault Refusal := done s (assign h m s.dev)
def execStatus (h : LinkHdr) (m : StatusMsg) (s : State) : Host.Outcome State Fault Refusal := done s (status h m s.dev)
def execLinkAdmit (h : LinkHdr) (sample epoch : Word) (gen : Nat) (s : State) : Host.Outcome State Fault Refusal :=
  done s (linkAdmit h sample epoch gen s.dev)
def execAdmission (s : State) : Host.Outcome State Fault Refusal := done s (admission s.dev)
def execSync (h : LinkHdr) (t : Word) (err : Nat) (s : State) : Host.Outcome State Fault Refusal := done s (sync h t err s.dev)
def execSyncInterval (s : State) : Host.Outcome State Fault Refusal := done s (syncInterval s.dev)
def execPdReq (h : LinkHdr) (t2 t3 : Nat) (s : State) : Host.Outcome State Fault Refusal := done s (pdReq h t2 t3 s.dev)
def execPdRsp (h : LinkHdr) (t1 t2 t3 t4 : Nat) (s : State) : Host.Outcome State Fault Refusal := done s (pdRsp h t1 t2 t3 t4 s.dev)
def execPdInterval (s : State) : Host.Outcome State Fault Refusal := done s (pdInterval s.dev)
def execLockTimeout (s : State) : Host.Outcome State Fault Refusal := done s (lockTimeout s.dev)
def execSum (h : LinkHdr) (sample : Word) (first : Nat) (vals : List (Nat × BitVec 40)) (s : State) :
    Host.Outcome State Fault Refusal := done s (sum h sample first vals s.dev)
def execLost (h : LinkHdr) (depth : Nat) (t : Word) (path : List Bool) (s : State) : Host.Outcome State Fault Refusal :=
  done s (lost h depth t path s.dev)
def execHeadlost (h : LinkHdr) (s : State) : Host.Outcome State Fault Refusal := done s (headlost h s.dev)
def execLinkLoss (p : Nat) (s : State) : Host.Outcome State Fault Refusal := done s (linkLoss p s.dev)
def execOrphanEntry (s : State) : Host.Outcome State Fault Refusal := done s (orphanEntry s.dev)
def execMemberRelease (dev : Nat) (s : State) : Host.Outcome State Fault Refusal := done s (s.dev.heard (memberRelease dev))
def execMemberQuarantine (dev : Nat) (s : State) : Host.Outcome State Fault Refusal := done s (s.dev.heard (memberQuarantine dev))
def execMemberIsolate (dev : Nat) (s : State) : Host.Outcome State Fault Refusal := done s (s.dev.heard (memberIsolate dev))
def execMemberShip (dev : Nat) (s : State) : Host.Outcome State Fault Refusal := done s (s.dev.heard (memberShip dev))
def execPortEnable (p : Nat) (v : Word) (s : State) : Host.Outcome State Fault Refusal := done s (s.dev.heard (portEnable p v))
def execPrepare (h : LinkHdr) (epoch t : Word) (s : State) : Host.Outcome State Fault Refusal := done s (prepare h epoch t s.dev)
def execVote (h : LinkHdr) (epoch : Word) (yes : Bool) (rule : Nat) (reg : Word) (s : State) : Host.Outcome State Fault Refusal :=
  done s (vote h epoch yes rule reg s.dev)
def execChainCommitDeadline (s : State) : Host.Outcome State Fault Refusal := done s (chainCommitDeadline s.dev)
def execGo (h : LinkHdr) (epoch : Word) (s : State) : Host.Outcome State Fault Refusal := done s (go h epoch s.dev)
def execAbort (h : LinkHdr) (epoch : Word) (s : State) : Host.Outcome State Fault Refusal := done s (abort h epoch s.dev)

end Sys2Proof.Machine
end

