-- ==== Sys2Proof/Machine/Entry.lean ====
section
/-! DEFINITION. Entering the modes (R20, R25, R26, R28 to R30, R32, R38, R43, R272, R403, R521): BLANK, SERVICE, RUN from CHUCK
and from REST, REST, SHELF. -/
namespace Sys2Proof.Machine

/-! ### BLANK (R10, R20, R25) -/

/-- Everything but flash, fuses, memories, the always-on domain and the levels on pins takes its reset value; a power-on
clears the memories too and starts the zero-fill (R289). -/
def Dev.blank (d : Dev) (por : Bool) : Dev :=
  let clk := setField (resetWord rSYS_CLKSTAT) 1 0 (d.fg SYS_CLKSTAT_XO32_OK + if por then 0 else 2 * d.fg SYS_CLKSTAT_XREF_OK)
  let b : Dev := { Dev.reset with
    mem := if por then [] else d.mem
    flash := d.flash
    free := d.free
    fuses := d.fuses
    pwr := { Dev.reset.pwr with
      por := por, zeroFill := por || d.pwr.zeroFill, resetLow := d.pwr.resetLow, sampled := d.pwr.sampled,
      shelfXo := d.pwr.shelfXo, rom := if por then [] else d.pwr.rom }
    time := { Dev.reset.time with xo := d.time.xo, aonXo := d.time.aonXo, tick := d.time.tick }
    pins := { Dev.reset.pins with tamperLow := d.pins.tamperLow, pfailLow := d.pins.pfailLow } }
  (((b.setReg rSYS_RSTCAUSE (d.reg rSYS_RSTCAUSE)).setReg rSYS_AON_SEC (d.reg rSYS_AON_SEC)).setReg rSYS_STRAP
    (d.reg rSYS_STRAP)).setReg rSYS_CLKSTAT clk

/-- STRAP_SAMPLING (R23). -/
def Dev.sample (d : Dev) (s : Straps) : Dev :=
  let b : Bool → Nat := fun x => if x then 1 else 0
  { ((d.fp SYS_STRAP_SVC (b s.svc)).fp SYS_STRAP_HEAD (b s.head)).fp SYS_STRAP_BOOTSEL (2 * b s.bootsel1 + b s.bootsel0) with
    pwr := { d.pwr with sampled := true } }

/-- BLANK with its straps sampled and its memories filled can advance (R23, R25, R26). -/
def Dev.blankReady (d : Dev) : Bool := d.pwr.mode == .blank && d.pwr.sampled && !d.pwr.zeroFill && !d.pwr.resetLow

/-- A hosted start (R24). -/
def Dev.hosted (d : Dev) : Bool := d.pwr.mode == .blank && d.fg SYS_STRAP_BOOTSEL % 2 == 1 && !d.on SYS_STRAP_SVC

/-! ### Leaving REST-COLD (R38, R399) -/

/-- CHAIN_TIME_HANDOVER: counting passes back to LCLK, `ns` after the last XO32 edge; XREF is ungated. -/
def Dev.handover (d : Dev) (ns : Nat) : Dev :=
  match d.time.cold with
  | none => d
  | some (t, _) =>
    let d := d.addOff (later (w32 (t + ns)) (d.timeOf d.time.c) * 2 ^ 40)
    { d with time := { d.time with cold := none, xo := ns * 32768 }, pwr := { d.pwr with cold := false } }.fp SYS_CLKSTAT_XREF_OK 1

/-! ### SERVICE (R20, R272, R521) -/

/-- The host port forgets what it holds (R521, step 1). -/
def Dev.hostClear (d : Dev) : Dev :=
  { d.setUart 4 { d.uart 4 with rxq := [], rts := false } with
    host := { part := [], frame := none, cache := [], wait := none } }

/-- SERVICE_ENTRY_ACTIONS (R521). -/
def Dev.serviceActions (d : Dev) : Dev :=
  let d := d.hostClear
  let d := if d.on MEM_HW_WIPING then d else d.fillHeartwood
  each (List.range 16) (fun k d => if d.bankCur k = 7 then d else d.giveBank k 6) d

/-- The engines stop (R19): spindles, ports, timers, links. -/
def Dev.stopEngines (d : Dev) : Dev :=
  let d := { d with eng := { d.eng with on := false } }
  each (List.range 3) (fun p d => d.portIdle p) d.stopPorts.stopStreams.stopTimers

/-- Entry to SERVICE from any mode. -/
def Dev.enterService (d : Dev) : Dev :=
  let d := (d.handover 0).stopEngines
  let d := { d with
    pwr := { d.pwr with frozen := false, fatalStep := 0, boot := none, pend := none, cold := false }
    evt := { d.evt with erase := none } }
  (d.enter .service).serviceActions

/-! ### RUN (R26, R57, R66, R272, R363, R382, R403, R413) -/

/-- The anchor: C becomes s_0 at the present chain time (R403). -/
def Dev.setAnchor (d : Dev) : Dev :=
  { d with eng := { d.eng with crel := 0, s0 := d.eng.c, tau0 := d.now }, mix := { d.mix with osBase := d.eng.c, oBase := 0 } }

/-- The history of R523 as of stamp t: what is older governs from t on. -/
def Dev.restampHist (d : Dev) (t : Word) (all : Bool) : Dev :=
  let old := fun (h : Hist) => all || decide (later h.stamp t < 0)
  let keep := d.note.hist.filter fun h => !old h
  let base := (d.note.hist.filter old).foldl (fun (l : List Hist) h =>
    let same := fun (g : Hist) => g.what == h.what && g.part == h.part && g.chan == h.chan
    match l.find? same with
    | none => l ++ [h]
    | some g => if later h.stamp g.stamp ≥ 0 then l.map fun (x : Hist) => if same x then h else x else l) []
  { d with note := { d.note with hist := base.map (fun (h : Hist) => { h with stamp := t }) ++ keep } }

/-- The second of extended time that chain time `t` lies in is the anchor (R413). -/
def Dev.publishExt (d : Dev) (sec : Nat) (t : Word) : Dev :=
  (((d.setReg rTIME_EXTC t).setReg rTIME_EXTS (w32 sec)).fp TIME_EXTH_SECH (sec / 2 ^ 32)).fp TIME_EXTH_SEQ
    (d.fg TIME_EXTH_SEQ + 2)

/-- CONFIRM_S = 0 confirms at RUN entry (R53, R65). -/
def Dev.confirmAtRun (d : Dev) : Dev :=
  if d.stg.confirmSec = 0 ∧ !d.on STG_BOOT_CONF then d.confirmSlot else d

/-- The role (R363): the HEAD strap, or HEADWAIT = 0, decides now. -/
def Dev.takeRole (d : Dev) : Dev :=
  if d.on SYS_STRAP_HEAD ∨ d.fg CBL_POL0_HEADWAIT = 0 then d.becomeHead
  else { d with cbl := { d.cbl with roleOpen := true } }.setChain 0 0

/-- The service counters at the first COUNTERS record (R448). -/
def Dev.countBoot (d : Dev) : Dev :=
  let d := d.addCounter 0 1
  let d := if d.on SYS_RSTCAUSE_SHELF && d.pwr.shelfXo then d.addCounter 2 (d.reg rSYS_AON_SEC).toNat else d
  d.writeCounters

/-- Entry to RUN from CHUCK: banks pass to their owners, staging equals the live values, the engine starts at its first
VS. -/
def Dev.enterRun (d : Dev) : Dev :=
  let d := each (List.range 16) (fun k d => d.giveBank k (d.fg (MEM_BANK_OWNER k))) d
  let mac := [0x02] ++ (List.range 5).map fun i => (Config.deviceUid i).toNat
  let d := if d.reg rNET_MACL = 0 ∧ d.reg rNET_MACH = 0 then
      (d.setReg rNET_MACH (w32 (mac.getD 0 0 * 256 + mac.getD 1 0))).setReg rNET_MACL
        (w32 (mac.getD 2 0 * 2 ^ 24 + mac.getD 3 0 * 2 ^ 16 + mac.getD 4 0 * 2 ^ 8 + mac.getD 5 0))
    else d
  let d := { d with staged := [], pwr := { d.pwr with boot := none, pend := none } }
  let d := (d.enter .run).setAnchor
  let d := { d with eng := { d.eng with on := true, loud := none }, stg := { d.stg with fatalSeen := false, confirmed := false } }
  let d := (d.restampHist (d.now - 1000000000) true).takeBanks.setDout
  let d := d.cvRun.autoTimers
  let d := d.publishExt 0 d.now
  let d := d.fp CBL_CHAIN_LCHAIN (max (d.fg CBL_POL1_LCHAIN) d.lmin)
  let d := d.takeRole
  d.confirmAtRun.showErased.countBoot

/-- Return to RUN from REST: the grid goes on from REST-WARM, a new anchor from REST-COLD (R32, R403); CV ticks count
anew (R340). -/
def Dev.resumeRun (d : Dev) (hfrcNs : Nat) : Dev :=
  let cold := d.pwr.cold
  let d := ((d.handover hfrcNs).enter .run)
  let d := { d with pwr := { d.pwr with cold := false, pend := none }, eng := { d.eng with on := true } }
  let d := if cold then
      let d := d.setAnchor
      (d.restampHist (d.now - 1000000000) true).armPorts d.eng.c
    else d
  d.cvRun.showPins

/-! ### REST (R28 to R30, R32) -/

/-- A Ceireb port is joined. -/
def Dev.joined (d : Dev) : Bool := (List.range 3).any fun p => (d.lport p).joined

/-- The REST conditions (R28). -/
def Dev.restOk (d : Dev) : Bool :=
  d.allFree && d.note.pipe.isEmpty && d.note.wait.isEmpty && !d.commitPending && d.cv.queue.isEmpty && d.nvj.queue.isEmpty &&
  (List.range 5).all (fun n => (d.uart n).txq.isEmpty) && (List.range 3).all (fun p => (d.lport p).replay.isEmpty) &&
  match d.eng.loud with
  | none => true
  | some s => decide (later d.outPoint s > 0)

/-- The depth that REST takes now (R30). -/
def Dev.coldNow (d : Dev) : Bool := d.on SYS_MODE_DEPTH && d.on SYS_CLKSTAT_XO32_OK && !d.joined

/-- Entry to REST (R32, R38): in REST-COLD chain time goes on from the last XO32 edge, ports and links stop. -/
def Dev.enterRest (d : Dev) : Dev :=
  let cold := d.coldNow
  let edge := (d.now - w32 (d.time.xo / 32768)).toNat
  let d := { d with pwr := { d.pwr with cold := cold, pend := none }, eng := { d.eng with on := false } }
  let d := if cold then
      let d := { d with time := { d.time with cold := some (edge, 0), xo := 0 } }
      each (List.range 3) (fun p d => d.portIdle p) d.stopPorts.stopStreams
    else d
  let d := (d.enter .rest)
  (d.showPins).fp SYS_GATE_OPEN 0

/-! ### SHELF (R39, R43, R44) -/

/-- SHELF_ENTRY: the wake enables go to the always-on domain; PWR_EN falls by its own command. -/
def Dev.shelfEntry (d : Dev) : Dev :=
  { d with
    pwr := { d.pwr with
      shelf := .entering, pend := none, latch := none,
      wakePin := d.on SYS_WAKE_EN_PIN,
      wakeHost := d.on SYS_WAKE_EN_HOST && d.on (UART_CFG_EN 4),
      wakeMidi := bitOf (d.reg rSYS_WAKE_EN) 0 && d.on (UART_CFG_EN 0),
      shelfXo := d.on SYS_PWR_SHELF_XO32 }
    eng := { d.eng with on := false } }

end Sys2Proof.Machine
end

