-- ==== Sys2Proof/Machine/Boot.lean ====
section
/-! DEFINITION. CHUCK (R49 to R67, R524): the boot sequence step by step, the sections and their destinations, journal
replay's records, fallback, and BLANK_ADVANCE. -/
namespace Sys2Proof.Machine

/-! ### Register settings (R56) -/

/-- R56 takes the address: a register of the blocks from SYS to TIME with an RW, ST or LK field. -/
def pairOk (a : Nat) : Bool :=
  a < 0x150000 && (regFields a).any fun f => f.acc == .rw || f.acc == .st || f.acc == .lk

/-- The decimator registers, whose writes follow R302. -/
def isDecReg (a : Nat) : Bool :=
  (List.range 2).any fun k => a == rMIX_DEC_CFG k || (decide (rMIX_DEC_COEFA k 0 ≤ a) && decide (a < rMIX_DEC_COEFA k 0 + 128)) ||
    (decide (rMIX_DEC_COEFB k 0 ≤ a) && decide (a < rMIX_DEC_COEFB k 0 + 128))

/-- A pair writes the RW, ST and LK fields of its register, staging and live alike (R56); fields with a write of their
own go through it. -/
def Dev.pairWrite (d : Dev) (a : Nat) (v : Word) : Dev :=
  let m := accMask a .rw ||| accMask a .st ||| accMask a .lk
  let w := (regFields a).foldl (fun w f =>
    let x := fieldOf v f.hi f.lo
    if (f.acc = .rw ∨ f.acc = .st ∨ f.acc = .lk) ∧ fieldAllows a f.lo x then setField w f.hi f.lo x else w) (d.reg a)
  let w := (w &&& m) ||| (d.reg a &&& ~~~m)
  let d' := if isDecReg a then coefficientWrite (w32 a) (v &&& 0x7FFFFFFF) (d.writeStaged a v) else d.setReg a w
  match (List.range 16).find? fun n => a == rTMR_PER n || a == rTMR_CMP n with
  | some n => if a = rTMR_PER n then d'.tmrPerWrite n w else d'.tmrCmpWrite n w
  | none => d'

/-- The pairs of a byte string. -/
def pairsOf (b : List Byte) : List (Nat × Word) :=
  (List.range (b.length / 8)).map fun i => (le b (8 * i) 4 / 4 * 4, w32 (le b (8 * i + 4) 4))

/-! ### Sections (R54, R55) -/

/-- Section content that R56 accepts, in order, else 0x0B. -/
def Dev.loadPairs (d : Dev) (b : List Byte) : Except Nat Dev :=
  if b.length % 8 ≠ 0 ∨ (pairsOf b).any (fun p => !pairOk p.1) then .error 0x0B
  else .ok (each (pairsOf b) (fun p d => d.pairWrite p.1 p.2) d)

/-- A microprogram (R221, R222): `taken` is the mask of the sections before it. -/
def Dev.loadProgram (d : Dev) (s : List Byte) (taken : Nat) : Except Nat Dev :=
  let mask := le s 8 2
  let plen := le s 0x14 4
  let (xb, xn, yb, yn) := (le s 0x18 2, le s 0x1A 2, le s 0x1C 2, le s 0x1E 2)
  let inside := fun (b n hi : Nat) => n = 0 ∨ (0x9000 ≤ b ∧ b + n ≤ hi)
  if le s 0xC 2 ≠ 1 ∨ mask = 0 ∨ mask &&& taken ≠ 0 ∨ s.length ≠ 0x30 + plen + xn + yn ∨ plen ≤ le s 0x10 2 * 16 ∨
    plen % 16 ≠ 0 ∨ plen < 16 ∨ 32768 < plen ∨ xn % 4 ≠ 0 ∨ yn % 4 ≠ 0 ∨ ¬ inside xb xn 0xF000 ∨ ¬ inside yb yn 0x10000 then
    .error 0x0B
  else .ok (each ((List.range 16).filter fun n => mask / 2 ^ n % 2 = 1) (fun n d =>
    let d := ((d.wbs (pBase n) (part s 0x30 plen)).wbs (xBase n + xb) (part s (0x30 + plen) xn)).wbs (yBase n + yb)
      (part s (0x30 + plen + xn) yn)
    ((d.setSpn n { d.spn n with rom := false }).fp (SPN_PROG_ENTRY n) (le s 0x10 2)).fp (SPN_PROG_COST n) (le s 0x12 2)) d)

/-- Stock byte ranges of the records of Stock sections: offset and length (R55), none where they do not fit their
section. -/
def stockRecs : Nat → List Byte → Option (List (Nat × Nat × List Byte))
  | 0, _ => none
  | n + 1, b =>
    if b.isEmpty then some []
    else
      let len := le b 4 4
      let pad := (len + 3) / 4 * 4
      if b.length < 8 + pad then none
      else (stockRecs n (b.drop (8 + pad))).map ((le b 0 4, len, part b 8 len) :: ·)

/-- Two byte ranges overlap. -/
def overlap (a n b m : Nat) : Bool := decide (a < b + m) && decide (b < a + n)

/-- The patch store (R172): `recs` are the Stock content records of the image. -/
def Dev.loadPatches (d : Dev) (b : List Byte) (recs : List (Nat × Nat)) : Except Nat Dev :=
  let base := le b 0 4
  let ns := le b 4 2
  let nm := le b 6 2
  let dir := (List.range nm).map fun i => le b (8 + 4 * i) 4
  let keys := dir.map fun w => w / 2 ^ 10 % 2 ^ 21
  if base % 1024 ≠ 0 ∨ ns = 0 ∨ 1024 < ns ∨ 4096 < nm ∨ b.length ≠ 8 + 4 * nm + 1024 * ns ∨ stockSize < base + 2048 * ns ∨
    recs.any (fun r => overlap base (2048 * ns) r.1 r.2) ∨ dir.any (fun w => ns ≤ w % 1024) ∨ keys.eraseDups.length ≠ keys.length then
    .error 0x0B
  else
    let d := { d with note := { d.note with patchBase := base, patchSlots := ns, patchDir := dir.map fun w => (w / 2 ^ 10 % 2 ^ 21, w % 1024) } }
    .ok (each (List.range ns) (fun k d => d.wbs (stockBase + base + 2048 * k) (part b (8 + 4 * nm + 1024 * k) 1024)) d)

/-- Tuning tables (R55, R97): SysEx messages from 0xF0 to 0xF7, each as intake reads a non-real-time form. -/
def sysexSplit : Nat → List Byte → List (List Nat)
  | 0, _ => []
  | n + 1, b =>
    match b with
    | [] => []
    | x :: t =>
      if x = 0xF0 then
        let (m, rest) := t.span (· != 0xF7)
        m.map (·.toNat) :: sysexSplit n (rest.drop 1)
      else sysexSplit n t

/-- The tables take the keys of a section's messages, whatever device ID they name. -/
def Dev.loadTuning (d : Dev) (b : List Byte) : Dev :=
  each (sysexSplit b.length b) (fun l d =>
    let l := match l with
      | c :: _ :: t => c :: 0x7F :: t
      | _ => l
    each (d.sysexTuning 6 l d.now d.now none) (fun m d => each m.keys (fun k d => d.addHist 3 m.index k.1 d.now k.2.toNat) d) d) d

/-- Chain policy (R395). -/
def Dev.loadChainPolicy (d : Dev) (b : List Byte) : Except Nat Dev :=
  let (hw, dm, sh, lc, lo) := (le b 0 2, le b 2 1, le b 3 1, le b 4 2, le b 6 2)
  if b.length ≠ 16 ∨ 10000 < hw ∨ dm = 0 ∨ 253 < dm ∨ 2 < sh ∨ lo < 100 ∨ 60000 < lo then .error 0x0B
  else .ok (((((d.fp CBL_POL0_HEADWAIT hw).fp CBL_POL0_DMAX dm).fp CBL_POL0_SHIP sh).fp CBL_POL1_LCHAIN lc).fp CBL_POL1_LOCKTO lo)

/-- Journal policy (R462). -/
def Dev.loadJournalPolicy (d : Dev) (b : List Byte) : Except Nat Dev :=
  let inR := fun (o n lo hi : Nat) => lo ≤ le b o n ∧ le b o n ≤ hi
  if b.length ≠ 32 ∨ ¬ (inR 0 4 1000 1000000 ∧ inR 4 1 1 50 ∧ inR 5 1 8 16 ∧ inR 6 1 50 95 ∧ inR 7 1 1 50 ∧ inR 8 2 50 500 ∧
      inR 0xA 2 100 4000 ∧ inR 0xC 1 1 255 ∧ inR 0xE 2 16 4096) then .error 0x0B
  else
    let d := ((((d.fp NVJ_POL0_ENDUR (le b 0 4)).fp NVJ_POL1_LIFE_Y (le b 4 1)).fp NVJ_POL1_SPAN (le b 5 1)).fp NVJ_POL1_LOWPCT
      (le b 6 1)).fp NVJ_POL1_WARNPCT (le b 7 1)
    let d := (((d.fp NVJ_POL2_TPP_US (le b 8 2)).fp NVJ_POL2_TSE_MS (le b 0xA 2)).fp NVJ_POL3_CBMAX (le b 0xC 1)).fp
      NVJ_POL3_EVKEEP (le b 0xE 2)
    .ok ((d.fp (NVJ_LOGMASK_MASK 0) (le b 0x10 4)).fp (NVJ_LOGMASK_MASK 1) (le b 0x14 4))

/-- Ageing policy (R480). -/
def Dev.loadAgePolicy (d : Dev) (b : List Byte) : Except Nat Dev :=
  let kt := signed 8 (le b 6 1)
  let inR := fun (o n lo hi : Nat) => lo ≤ le b o n ∧ le b o n ≤ hi
  if b.length ≠ 16 ∨ ¬ (inR 0 2 10 200 ∧ inR 2 2 750 900 ∧ inR 4 1 0 12 ∧ inR 5 1 0 (le b 4 1) ∧ -64 ≤ kt ∧ kt ≤ 64 ∧
      inR 7 1 8 0x77 ∧ inR 8 2 50 230 ∧ inR 0xA 1 1 168 ∧ inR 0xC 2 1 65535 ∧ inR 0xE 2 0 (le b 0xC 2)) then .error 0x0B
  else .ok { d with age := { d.age with
    minSlack := le b 0 2, vmax := le b 2 2, fstart := le b 4 1, fmin := le b 5 1, kt := kt, pmb := le b 7 1,
    vsettle := le b 8 2, checkh := le b 0xA 1, driftHi := le b 0xC 2, driftLo := le b 0xE 2 } }

/-- Offset and length of every Stock record of an image, none where one does not fit or leaves Stock (R57). -/
def Dev.imageStock (d : Dev) (base : Nat) (es : List SectEnt) : Option (List (Nat × Nat)) :=
  (es.filter fun e => e.ty == 4).foldl (fun (a : Option (List (Nat × Nat))) e =>
    a.bind fun l => (stockRecs (e.length + 1) ((d.sectBytes base e).drop 8)).bind fun r =>
      if r.all fun x => decide (x.1 + x.2.1 ≤ stockSize) then some (l ++ r.map fun x => (x.1, x.2.1)) else none) (some [])

/-- The mask bits that the microprogram sections before entry k name. -/
def Dev.masksBefore (d : Dev) (base : Nat) (es : List SectEnt) (k : Nat) : Nat :=
  ((es.take k).filter fun e => e.ty == 2).foldl (fun (m : Nat) e => m ||| le (d.sectBytes base e) 8 2) 0

/-- SECTION_LOAD of entry k (R54 to R57): its digest, its first 8 bytes, then its contents; a type of R55 that is not
listed is skipped. -/
def Dev.loadSection (d : Dev) (base : Nat) (es : List SectEnt) (k : Nat) : Except Nat Dev :=
  match es[k]? with
  | none => .ok d
  | some e =>
    if 9 < e.ty then .ok d
    else
      let s := d.sectBytes base e
      let b := s.drop 8
      if sha256 s ≠ e.digest then .error 0x0A
      else if e.length < 8 ∨ le s 0 2 ≠ e.ty ∨ le s 2 2 ≠ 0 ∨ le s 4 4 ≠ e.length then .error 0x0B
      else match e.ty with
        | 1 => d.loadPairs b
        | 2 => d.loadProgram s (d.masksBefore base es k)
        | 3 => match d.imageStock base es with
          | some recs => d.loadPatches b recs
          | none => .error 0x0B
        | 4 => match stockRecs (e.length + 1) b with
          | none => .error 0x0B
          | some l => if l.any (fun x => decide (stockSize < x.1 + x.2.1)) then .error 0x0B
              else .ok (each l (fun x d => d.wbs (stockBase + x.1) x.2.2) d)
        | 5 => .ok (d.loadTuning b)
        | 7 => d.loadChainPolicy b
        | 8 => d.loadJournalPolicy b
        | 9 => d.loadAgePolicy b
        | _ => .ok d

/-- Spindles in no mask receive the ROM copy of Bowl (R223), whose bytes `Dev.spnWord` reads (log entry 11). -/
def Dev.romSpindles (d : Dev) : Dev :=
  let d := { d with pwr := { d.pwr with rom := ((List.range 16).filter fun n => (d.spn n).rom).map fun n => (n, []) } }
  each (List.range 16) (fun n d =>
    if (d.spn n).rom then (d.fp (SPN_PROG_ENTRY n) Config.bowlEntry.toNat).fp (SPN_PROG_COST n) 460 else d) d

/-! ### Replay (R448, R449, R450) -/

/-- SETTINGS_APPLY (R449, R524). -/
def Dev.applySettings (d : Dev) : Dev :=
  let recs := (d.jlives.filter fun r => r.ty == 0x20).foldl (fun (l : List JRec) r =>
    let (a, b) := l.span fun q => decide (q.key < r.key)
    a ++ r :: b) []
  if recs.isEmpty then d
  else
    let d' := each recs (fun r d => each ((pairsOf r.pay).filter fun p => pairOk p.1) (fun p d => d.pairWrite p.1 p.2) d) d
    match d'.checkSet [] (d'.voicesAt d.age.fstart) d.age.fstart with
    | none => d'
    | some (rule, _) => (d.fp NVJ_STAT_SETREJ 1).fp NVJ_STAT_RULE rule

/-- What a live record does at replay (R448, R476). -/
def Dev.applyRecord (d : Dev) (r : JRec) : Dev :=
  match r.ty with
  | 0x10 => if r.key < d.note.patchSlots then d.wbs (stockBase + d.note.patchBase + 2048 * r.key) (r.pay.take 912) else d
  | 0x30 =>
    if 16 ≤ r.key then d
    else
      let d := each (List.range 33) (fun j d =>
        if le r.pay (4 * j) 4 ≤ 65536 then d.setReg (rCVO_CAL r.key j) (w32 (le r.pay (4 * j) 4)) else d) d
      (d.pairWrite (rCVO_CH_TRIM r.key) (w32 (le r.pay 132 4))).fp (CVO_CH_CFG_CURVE r.key) (le r.pay 136 1 % 2)
  | 0x40 =>
    let d := { d with age := { d.age with planned := min 12 (le r.pay 2 1) } }
    ((d.fp AGE_VDD_SET (le r.pay 0 2)).fp AGE_STAT_EXH (le r.pay 3 1)).setTw (signed 16 (le r.pay 4 2))
  | 0x44 =>
    if 16 ≤ r.key then d
    else { d.fp (AGE_CVINT_HOURS r.key) (le r.pay 0 2) with age := { d.age with lowDrift := tput 0 d.age.lowDrift r.key (le r.pay 2 1) } }
  | 0x50 => { d with nvj := { d.nvj with counters := (List.range 5).map fun i => le r.pay (4 * i) 4 } }
  | _ => d

/-- JOURNAL_REPLAY (R450, R451): 0x0D where both superblocks are bad. The interval of a job with SCHED starts there
(R477). -/
def Dev.replay (d : Dev) : Except Nat Dev :=
  match d.region 3 with
  | none => .error 0x0D
  | some (s, n) =>
    let d := (d.fp NVJ_REGION_START s).fp NVJ_REGION_LENGTH n
    match d.jreplay s n with
    | none => .error 0x0D
    | some d =>
      let d := (each (d.jlives.filter fun r => r.ty != 0x20) (fun r d => d.applyRecord r) d).applySettings
      let t := (d.jlives.filter fun r => r.ty == 0x41).map (·.pay)
      let d := { d with age := { d.age with trend := t.drop (t.length - 16) } }
      .ok (each (List.range 16) (fun c d =>
        if d.fg (AGE_CVINT_HOURS c) = 0 then d.fp (AGE_CVINT_HOURS c) (d.fg (CVO_ATJ_SCHED c)) else d) d)

/-! ### The sequence (R66) -/

/-- The base of the slot tried, and its header. -/
def Dev.slotBase (d : Dev) (slot : Nat) : Nat := (d.region slot).elim 0 fun r => r.1 * 0x10000
def Dev.slotHead (d : Dev) (slot : Nat) : List Byte := d.fbs (d.slotBase slot) 0x800

/-- What Heartwood and the registers keep of an accepted header (R60, R285). -/
def Dev.keepHeader (d : Dev) (h : List Byte) : Dev :=
  let d := (d.wbs (hwBase + 0xC0) (part h 0x620 64)).wbs (hwBase + 0x100) (part h 0x1A 2)
  let d := d.wbs (hwBase + 0x120) (imageDigest h)
  let d := d.setReg rSTG_IMGVER (w32 (le h 0xC 4))
  let d := each (List.range 8) (fun i d => d.setReg (rSTG_IMGDIG i) (w32 (le (imageDigest h) (4 * i) 4))) d
  { d with stg := { d.stg with confirmSec := le h 0x1E 2 } }

/-- MEMORY_CLEAR (R66, R289): every SRAM but Heartwood; the VOICE registers keep their reset values (log entry 15). -/
def Dev.clearMemory (d : Dev) : Dev :=
  { d with mem := d.mem.filter fun p => decide (hwBase ≤ p.1),
           pwr := { d.pwr with rom := [] } }.fp MEM_STAT_FILLED 1

/-- One step of the boot (R66): the next step with the device, or the failure code; `none` as the next step is RUN. -/
def Dev.bootStep (d : Dev) (b : Boot) (env : BootEnv) : Except Nat (Option BootStep × Dev) :=
  if !env.readOk && b.step != .clocks && b.step != .probe then .error 0x0F
  else match b.step with
  | .clocks =>
    if env.clocksOk then .ok (some .probe, d.setClocks true true true false true) else .error 0x0E
  | .probe =>
    let (c, d) := d.probe env.flash
    if c = 0 then .ok (some .ptable, d) else .error c
  | .ptable =>
    let c := tableCode d.tableBytes d.flashSectors
    if c = 0 then .ok (some .slot, d) else .error c
  | .slot => .ok (some .header, d)
  | .header =>
    let h := d.slotHead b.slot
    let c := d.headerCode h ((d.region b.slot).elim 0 fun r => (r.2 - 1) * 0x10000)
    if c ≠ 0 then .error c else if sectionCode h ≠ 0 then .error 0x09 else .ok (some .clear, d.keepHeader h)
  | .clear => .ok (some (.sections 0), if b.por && !b.fellBack then d else d.clearMemory)
  | .sections k =>
    let es := sectEnts (d.slotHead b.slot)
    if es.length ≤ k then .ok (some .check, d.romSpindles)
    else (d.loadSection (d.slotBase b.slot) es k).map fun d => (some (.sections (k + 1)), d)
  | .check =>
    let r := d.checkSet [] (d.voicesAt d.age.fstart) d.age.fstart
    if r.isSome then .error 0x0C else .ok (some .journal, d.showCheck r true)
  | .journal => ({ d with age := { d.age with planned := d.age.fstart } }.replay).map fun d => (some .ageing, d)
  | .ageing =>
    match (d.fp SYS_SPLL_STEP d.age.planned).chuckAge env.avs env.senses with
    | none => .error 0x0E
    | some d => .ok (some .margin, d)
  | .margin =>
    let d := d.setPlan d.age.planned (d.voicesAt d.age.planned)
    .ok (some .start, d.showCheck (d.checkSet [] (d.fg AGE_PLAN_VOICES) (d.fg AGE_PLAN_STEP)) true)
  | .start =>
    .ok (none, ((d.fp STG_BOOT_SLOT b.slot).fp STG_BOOT_ATTEMPTS (d.attempts b.slot)).fp STG_BOOT_CONF (if d.confirmed b.slot then 1 else 0))

/-- RO registers that sections and replay write (R55, R60, R448, R464, R476). -/
def sectionReg (a : Nat) : Bool :=
  (a / 0x10000 == 0x11 && a != rNVJ_FLASH && a != rNVJ_FID) || a == rCBL_POL0 || a == rCBL_POL1 || a == rSTG_IMGVER ||
  isReg rSTG_IMGDIG 8 a || isReg rSPN_PROG 16 a || a == rAGE_VDD || a == rAGE_SLACK || a == rAGE_STAT || isReg rAGE_CVINT 16 a ||
  (List.range 2).any fun k => a == rMIX_DEC_FILLA k || a == rMIX_DEC_FILLB k

/-- Every register that the first attempt can have written goes back to its reset value (R64). -/
def Dev.undoRegs (d : Dev) : Dev :=
  each (d.live.map (·.1)) (fun a d =>
    let m := accMask a .rw ||| accMask a .st ||| accMask a .lk
    if sectionReg a then d.setReg a (resetWord a) else d.setReg a ((d.reg a &&& ~~~m) ||| (resetWord a &&& m))) d

/-- Before the second attempt (R64): registers, patch store, memories, Heartwood 0x00C0 to 0x013F, and what sections and
replay left in the services. -/
def Dev.undoAttempt (d : Dev) : Dev :=
  let d := d.undoRegs
  let d := { d with staged := [], note := Dev.reset.note, nvj := Dev.reset.nvj, age := Dev.reset.age, spns := [], cv := Dev.reset.cv,
                    tmrs := [] }
  (d.clearMemory).wbs (hwBase + 0xC0) (List.replicate 0x80 0)

/-- The first failure goes to FAIL1, a later one to FAIL2 (R64). -/
def Dev.bootCode (d : Dev) (c : Nat) : Dev :=
  if d.fg STG_BOOT_FAIL1 = 0 then d.fp STG_BOOT_FAIL1 c else d.fp STG_BOOT_FAIL2 c

/-- The steps from header check to journal replay, whose failure turns to the other slot (R64). -/
def BootStepFalls (s : BootStep) : Bool :=
  match s with
  | .header | .clear | .sections _ | .check | .journal => true
  | _ => false

/-- The result of a check that failed is kept through a fallback (R64, R72). -/
def Dev.keepRule (d : Dev) (s : BootStep) : Dev :=
  if s = .check then d.showCheck (d.checkSet [] (d.voicesAt d.age.fstart) d.age.fstart) true else d

/-- A step fails (R64): FALLBACK to the other slot where it is eligible, else SERVICE. -/
def Dev.bootFail (d : Dev) (b : Boot) (c : Nat) : Dev :=
  let d := (d.keepRule b.step).bootCode c
  if BootStepFalls b.step && !b.fellBack && (d.chooseSlot (some b.slot)).isSome then
    { d.undoAttempt with pwr := { d.pwr with boot := some { b with step := .slot, fellBack := true, wipes := 0 } } }
  else d.enterService

/-- The slot-choice step (R62, R63): revocations, choice, the ATTEMPT byte. -/
def Dev.slotStep (d : Dev) (b : Boot) : Dev :=
  let d := (d.revokeSpent 1).revokeSpent 2
  match d.chooseSlot (if b.fellBack then some b.slot else none) with
  | none => if b.fellBack then d.enterService else (d.bootCode 0x04).enterService
  | some k =>
    let d := d.countAttempt k
    { d with pwr := { d.pwr with boot := some { b with step := .header, slot := k } } }

/-- One step of a boot in progress. A wipe after the header step repeats it once, a second ends the boot (R288). -/
def Dev.bootOne (d : Dev) (env : BootEnv) : Dev :=
  match d.pwr.boot with
  | none => d
  | some b =>
    if b.wipes ≥ 2 then (d.bootCode 0x06).enterService
    else if b.step = .slot then (if env.readOk then d.slotStep b else d.bootFail b 0x0F)
    else
      let d := if b.wipes = 1 && !d.on MEM_HW_WIPING then d.keepHeader (d.slotHead b.slot) else d
      let hit : Bool := match b.step with
        | .sections k => env.stockBad && ((sectEnts (d.slotHead b.slot))[k]?.any fun e => e.ty == 3 || e.ty == 4)
        | _ => false
      if hit then (d.raise 54).bootFail b 0x0B
      else match d.bootStep b env with
      | .error c => d.bootFail b c
      | .ok (some s, d) => { d with pwr := { d.pwr with boot := some { b with step := s } } }
      | .ok (none, d) => d.enterRun

/-- Run at most `n` steps of the boot. -/
def Dev.bootRun (env : BootEnv) : Nat → Dev → Dev
  | 0, d => d
  | n + 1, d => if d.pwr.boot.isNone then d else Dev.bootRun env n (d.bootOne env)

/-- Entry to CHUCK from BLANK (R26, R272, R285). -/
def Dev.enterChuck (d : Dev) : Dev :=
  let por := d.pwr.por
  let d := (d.enter .chuck)
  let d := { d with pwr := { d.pwr with pend := none, boot := some { step := .clocks, por := por, slot := 0, fellBack := false, wipes := 0 } } }
  let d := if d.on MEM_HW_WIPING then d else d.fillHeartwood
  each (List.range 16) (fun k d => d.fp (MEM_BANK_CUR k) 5) d

/-- BLANK_ADVANCE (R24, R26): an autonomous start leaves BLANK; a boot in CHUCK goes on by the steps given. -/
def blankAdvance (env : BootEnv) (d : Dev) : Dev :=
  if d.pwr.mode = .chuck then Dev.bootRun env env.steps d
  else if !d.blankReady then d
  else if d.on SYS_STRAP_SVC then (d.probe env.flash).2.enterService
  else if d.hosted then d
  else Dev.bootRun env env.steps d.enterChuck

/-- SELF_CONFIRMATION (R65): CONFIRM_S seconds of RUN with no fatal source. -/
def selfConfirmation (d : Dev) : Dev :=
  if d.alive && !d.stg.fatalSeen && d.stg.confirmSec != 0xFFFF && !d.on STG_BOOT_CONF then d.confirmSlot else d

def execBlankAdvance (env : BootEnv) (s : State) : Host.Outcome State Fault Refusal := done s (blankAdvance env s.dev)
def execSelfConfirmation (s : State) : Host.Outcome State Fault Refusal := done s (selfConfirmation s.dev)

end Sys2Proof.Machine
end

