-- ==== Sys2Proof/Machine/Modes.lean ====
section
/-! DEFINITION. Resets, mode requests, waking and SHELF (R21 to R31, R36 to R47), and the clocks that come and go (R508,
R522). -/
namespace Sys2Proof.Machine

/-! ### Resets (R21 to R25, R47) -/

/-- POWER_ON (R21, R22, R23, R47): from SHELF once PWR_EN is high, or with VAON lost. The straps are sampled unless RESET_N
is still low. -/
def powerOn (vaonLost : Bool) (straps : Straps) (d : Dev) : Dev :=
  let shelf := d.pwr.mode == .shelf
  if shelf && !vaonLost && !d.pwr.pwrEn then d
  else
    let by_ := d.pwr.latch
    let b := d.blank true
    let b := if vaonLost then
        { (b.setReg rSYS_RSTCAUSE 1).setReg rSYS_AON_SEC 0 |>.fp SYS_CLKSTAT_XO32_OK 0 with
          time := { b.time with xo := 0, aonXo := 0 }, pwr := { b.pwr with shelfXo := false } }
      else if shelf then
        let b := b.fp SYS_RSTCAUSE_SHELF 1
        match by_ with
        | some 8 => b.fp SYS_RSTCAUSE_BY_WAKE 1
        | some 7 => b.fp SYS_RSTCAUSE_BY_HOST 1
        | some 0 => b.fp SYS_RSTCAUSE_BY_MIDI0 1
        | _ => b
      else { b.fp SYS_RSTCAUSE_CORE_POR 1 with pwr := { b.pwr with shelfXo := false } }
    if d.pwr.resetLow then { b with pwr := { b.pwr with sampled := false } } else b.sample straps

/-- ZERO_FILL_COMPLETE (R289): access is granted; a request that waited in hosted BLANK acts (R27). -/
def zeroFillComplete (d : Dev) : Dev :=
  if d.pwr.mode ≠ .blank ∨ !d.pwr.zeroFill then d
  else
    let d := { d with pwr := { d.pwr with zeroFill := false } }.fp MEM_STAT_FILLED 1
    if !d.blankReady then d
    else match d.pwr.pend with
      | some .chuck => d.enterChuck
      | some .service => d.enterService
      | _ => d

/-- PIN_RESET (R21): RESET_N is low until its rising edge. -/
def pinReset (d : Dev) : Dev :=
  if d.pwr.mode = .shelf then d
  else
    let b := (d.blank false).fp SYS_RSTCAUSE_PIN 1
    { b with pwr := { b.pwr with resetLow := true, sampled := false } }

/-- RESET_N_RISING_EDGE (R23). -/
def resetNRisingEdge (straps : Straps) (d : Dev) : Dev :=
  if !d.pwr.resetLow ∨ d.pwr.mode = .shelf then d
  else { d with pwr := { d.pwr with resetLow := false } }.sample straps

/-- SOFTWARE_RESET (R21, R46): only with the key. -/
def softwareReset (v : Word) (d : Dev) : Dev :=
  if d.pwr.mode = .shelf ∨ fieldOf v 31 16 ≠ 0xC1A5 ∨ !bitOf v 0 then d
  else (d.blank false).fp SYS_RSTCAUSE_SW 1

/-! ### Requests (R27 to R31, R46) -/

/-- What a write of SYS_MODE does before its request: DEPTH, then ILL_CLR. -/
def Dev.modeWrite (d : Dev) (w : ModeWrite) : Dev :=
  let d := d.fp SYS_MODE_DEPTH (if w.depth then 1 else 0)
  if w.illClr then d.fp SYS_MODE_ILL_CNT 0 else d

/-- The edge that REQ names leaves the current mode (R26, R27); while a transition is under way, the mode being entered is
SERVICE after a fatal source, or SHELF, neither of which has one. -/
def Dev.legal (d : Dev) (req : Nat) : Bool :=
  if d.pwr.frozen || d.pwr.shelf != .no then false
  else match req with
  | 1 => d.hosted
  | 2 => d.pwr.mode == .rest
  | 3 => d.pwr.mode == .run && !(d.on SYS_MODE_DEPTH && (!d.on SYS_CLKSTAT_XO32_OK || d.joined))
  | 4 => d.pwr.mode == .run || d.pwr.mode == .rest
  | 5 => d.hosted || d.pwr.mode == .run || d.pwr.mode == .rest
  | _ => false

/-- A request for REST or SHELF that cannot act yet. -/
def Dev.hold (d : Dev) (m : Mode) : Dev := { d with pwr := { d.pwr with pend := some m } }

/-- A legal request acts (R26, R29). -/
def Dev.act (d : Dev) (req : Nat) : Dev :=
  match req with
  | 1 => if d.blankReady then d.enterChuck else d.hold .chuck
  | 2 => d.resumeRun 0
  | 3 => if d.restOk then d.enterRest else d.hold .rest
  | 4 => if d.pwr.mode == .rest || d.restOk then d.shelfEntry else d.hold .shelf
  | 5 => if d.pwr.mode == .blank && !d.blankReady then d.hold .service else d.enterService
  | _ => d

/-- A write of SYS_MODE (R27, R46): an illegal request is counted and changes nothing else. -/
def Dev.request (d : Dev) (w : ModeWrite) (req : Nat) : Dev :=
  if !d.hears then d
  else
    let d := d.modeWrite w
    if req = 0 then d
    else if req = 7 then (match d.pwr.pend with
      | some .rest | some .shelf => { d with pwr := { d.pwr with pend := none } }
      | _ => d)
    else if d.legal req then d.act req
    else d.count SYS_MODE_ILL_CNT

def modeRequestChuck (w : ModeWrite) (d : Dev) : Dev := d.request w 1
def modeRequestRun (w : ModeWrite) (d : Dev) : Dev := d.request w 2
def modeRequestRest (w : ModeWrite) (d : Dev) : Dev := d.request w 3
def modeRequestShelf (w : ModeWrite) (d : Dev) : Dev := d.request w 4
def modeRequestService (w : ModeWrite) (d : Dev) : Dev := d.request w 5
def modeRequest6 (w : ModeWrite) (d : Dev) : Dev := d.request w 6
def modeRequestCancel (w : ModeWrite) (d : Dev) : Dev := d.request w 7

/-- ILL_CLR (R46): a write with REQ = 0. -/
def illClr (depth : Bool) (d : Dev) : Dev := d.request { depth := depth, illClr := true } 0

/-- PENDING_REQUEST_ENTRY (R29): at a VS boundary at which the REST conditions hold. -/
def pendingRequestEntry (d : Dev) : Dev :=
  if !d.running || !d.restOk then d
  else match d.pwr.pend with
    | some .rest => d.enterRest
    | some .shelf => d.shelfEntry
    | _ => d

/-- IDLE_ENTRY (R30): the REST conditions have held for IDLE_MS. -/
def idleEntry (d : Dev) : Dev :=
  if d.running && d.restOk && d.fg SYS_PWR_IDLE_MS != 0 then d.enterRest else d

/-! ### Waking (R38, R39) -/

/-- Wake source k acts: its bit of SYS_WAKE_EN, and for a UART its receiver on and its line not dead (R39, R427). -/
def Dev.wakeOn (d : Dev) (k : Nat) : Bool :=
  k < 11 && bitOf (d.reg rSYS_WAKE_EN) k &&
  match k with
  | 0 | 1 | 2 | 3 => d.on (UART_CFG_EN k) && !d.on (UART_STAT_DEAD k)
  | 7 => d.on (UART_CFG_EN 4) && !d.on (UART_STAT_DEAD 4)
  | 4 | 5 | 6 => d.on (CBL_P_CTRL_EN (k - 4))
  | _ => true

/-- A wake edge in REST: latched, source 62, back to RUN. An entry to SHELF under way goes on (R44). -/
def Dev.wake (d : Dev) (k hfrcNs : Nat) : Dev :=
  if d.pwr.mode == .rest && !d.pwr.frozen && d.pwr.shelf == .no && d.wakeOn k then
    ((d.setBit rSYS_WAKE_SRC k).raise 62).resumeRun hfrcNs
  else d

/-- REST_WAKE (R39): `hfrcNs` is what HFRC measured from the last XO32 edge to the handover (R38). -/
def restWake (src hfrcNs : Nat) (d : Dev) : Dev := d.wake src hfrcNs

/-- MATCH (R39, R349): a timer on XO32 whose match falls in REST wakes the device. -/
def matchTimer (n : Nat) (d : Dev) : Dev :=
  let d' := matchAt n d
  if d'.on (TMR_STAT_MATCH n) && !d.on (TMR_STAT_MATCH n) && d.fg (TMR_CFG_CLK n) == 1 then d'.wake 9 0 else d'

/-! ### SHELF (R22, R39, R43, R44) -/

/-- PWR_EN_LOW (R43, R44): the board removes every rail but VAON; only the always-on domain keeps its state. XO32 runs on
where SHELF_XO32 is 1 (R33, R522). -/
def pwrEnLow (d : Dev) : Dev :=
  if d.pwr.shelf ≠ .entering then d
  else
    let b := d.blank true
    let xo := d.pwr.shelfXo && d.on SYS_CLKSTAT_XO32_OK
    let p := d.pwr
    (({ b with pwr := { b.pwr with
      mode := .shelf, prev := p.mode, por := true, zeroFill := false, sampled := false, shelfXo := p.shelfXo, pwrEn := false,
      wakePin := p.wakePin, wakeHost := p.wakeHost, wakeMidi := p.wakeMidi, latch := p.latch,
      shelf := if p.latch.isSome then .waking else .off } }.setClocks false false false false false)).fp SYS_CLKSTAT_XO32_OK
        (if xo then 1 else 0)

/-- SHELF_WAKE (R39, R43, R44): an edge on WAKE (8), HOST_RX (7) or MIDI0_RX (0) whose copied enable is 1 sets the power latch. -/
def shelfWake (src : Nat) (d : Dev) : Dev :=
  let p := d.pwr
  let enabled := (src == 8 && p.wakePin) || (src == 7 && p.wakeHost) || (src == 0 && p.wakeMidi)
  if !enabled || p.latch.isSome || !(p.shelf == .entering || p.shelf == .off) then d
  else { d with pwr := { p with latch := some src, shelf := if p.shelf = .off then .waking else p.shelf } }

/-- PWR_EN_HIGH (R44): the board restores the rails. -/
def pwrEnHigh (d : Dev) : Dev :=
  if d.pwr.shelf = .waking then { d with pwr := { d.pwr with pwrEn := true } } else d

/-! ### Clocks (R508, R522) -/

/-- XO32_QUALIFIED: not in a SHELF without XO32. -/
def xo32Qualified (d : Dev) : Dev :=
  if d.pwr.mode = .shelf ∧ !d.pwr.shelfXo then d else d.fp SYS_CLKSTAT_XO32_OK 1

/-- XREF_LEAVES_RANGE: while its output is gated XREF_OK reads 0. -/
def xrefLeavesRange (inRange : Bool) (d : Dev) : Dev :=
  if d.pwr.mode = .shelf ∨ (d.pwr.mode = .rest ∧ d.pwr.cold) then d else d.fp SYS_CLKSTAT_XREF_OK (if inRange then 1 else 0)

/-! ### Meanings -/

def execPowerOn (vaonLost : Bool) (straps : Straps) (s : State) : Host.Outcome State Fault Refusal :=
  done s (powerOn vaonLost straps s.dev)
def execZeroFillComplete (s : State) : Host.Outcome State Fault Refusal := done s (zeroFillComplete s.dev)
def execPinReset (s : State) : Host.Outcome State Fault Refusal := done s (pinReset s.dev)
def execSoftwareReset (v : Word) (s : State) : Host.Outcome State Fault Refusal := done s (softwareReset v s.dev)
def execModeRequestChuck (w : ModeWrite) (s : State) : Host.Outcome State Fault Refusal := done s (modeRequestChuck w s.dev)
def execModeRequestRun (w : ModeWrite) (s : State) : Host.Outcome State Fault Refusal := done s (modeRequestRun w s.dev)
def execModeRequestRest (w : ModeWrite) (s : State) : Host.Outcome State Fault Refusal := done s (modeRequestRest w s.dev)
def execModeRequestShelf (w : ModeWrite) (s : State) : Host.Outcome State Fault Refusal := done s (modeRequestShelf w s.dev)
def execModeRequestService (w : ModeWrite) (s : State) : Host.Outcome State Fault Refusal := done s (modeRequestService w s.dev)
def execModeRequest6 (w : ModeWrite) (s : State) : Host.Outcome State Fault Refusal := done s (modeRequest6 w s.dev)
def execModeRequestCancel (w : ModeWrite) (s : State) : Host.Outcome State Fault Refusal := done s (modeRequestCancel w s.dev)
def execIllClr (depth : Bool) (s : State) : Host.Outcome State Fault Refusal := done s (illClr depth s.dev)
def execPendingRequestEntry (s : State) : Host.Outcome State Fault Refusal := done s (pendingRequestEntry s.dev)
def execIdleEntry (s : State) : Host.Outcome State Fault Refusal := done s (idleEntry s.dev)
def execRestWake (src hfrcNs : Nat) (s : State) : Host.Outcome State Fault Refusal := done s (restWake src hfrcNs s.dev)
def execPwrEnLow (s : State) : Host.Outcome State Fault Refusal := done s (pwrEnLow s.dev)
def execShelfWake (src : Nat) (s : State) : Host.Outcome State Fault Refusal := done s (shelfWake src s.dev)
def execPwrEnHigh (s : State) : Host.Outcome State Fault Refusal := done s (pwrEnHigh s.dev)
def execResetNRisingEdge (straps : Straps) (s : State) : Host.Outcome State Fault Refusal := done s (resetNRisingEdge straps s.dev)
def execXo32Qualified (s : State) : Host.Outcome State Fault Refusal := done s (xo32Qualified s.dev)
def execXrefLeavesRange (inRange : Bool) (s : State) : Host.Outcome State Fault Refusal := done s (xrefLeavesRange inRange s.dev)
def execMatchHit (n : Nat) (s : State) : Host.Outcome State Fault Refusal := done s (matchTimer n s.dev)

end Sys2Proof.Machine
end

