-- ==== Sys2Proof/Machine/Net.lean ====
section
/-! DEFINITION. Network time and streams (chapter 14): the step and the alarm of chain time, the domains of IEEE 802.1AS, the
extension anchor, talkers and listeners. -/
namespace Sys2Proof.Machine

/-- The service firmware and the MAC run: RUN or REST, LCLK on, MAC enabled (R406, R422). -/
def Dev.netUp (d : Dev) : Bool := d.alive && !(d.pwr.mode == .rest && d.pwr.cold) && d.on NET_CTRL_EN

/-! ### Domains (R408 to R412) -/

def Dev.dom (d : Dev) (k : Nat) : Dom := tget Dom.idle d.net.doms k
def Dev.setDom (d : Dev) (k : Nat) (x : Dom) : Dev := { d with net := { d.net with doms := tput Dom.idle d.net.doms k x } }

/-- Domain k is Locked. -/
def Dev.domLocked (d : Dev) (k : Nat) : Bool := d.fg (NET_DOM_STAT_STATE k) == 2

/-- Time of domain k at the present counter value, in ns, by its mapping (R408). -/
def Dev.domTime (d : Dev) (k : Nat) : Int :=
  let x := d.dom k
  x.time + 4 * ((d.time.c : Int) - x.atC) * (2 ^ 40 + d.fs (NET_DOM_ADJ_ADJ k)) / 2 ^ 40

/-- Domain k's held difference becomes its present value of domain time minus chain time (R410). -/
def Dev.takeDiff (d : Dev) (k : Nat) : Dev :=
  (d.setReg (rNET_DOM_DIFF k) (w32i (d.domTime k) - d.now)).setDom k { d.dom k with hasDiff := true }

/-- The domain that is to be active (R410): a locked active one stays unless REVERT prefers the other; otherwise the
preferred domain before the other, if locked. -/
def Dev.wantedDom (d : Dev) : Option Nat :=
  let pref := d.fg TIME_CTRL_DOM
  let best : Option Nat := if d.domLocked pref then some pref else if d.domLocked (1 - pref) then some (1 - pref) else none
  match d.net.active with
  | some a => if d.domLocked a && (a == pref || !d.domLocked pref || !d.on TIME_CTRL_REVERT) then some a else best
  | none => best

/-- Domains after a lock or a loss (R401, R410, R412): the first lock of a head with SRC = 1, a switch (DOMAIN_SWITCH), a lock
after a holdover, or no domain left (HOLDOVER). `was` tells whether the active domain was locked before. -/
def Dev.chooseDom (d : Dev) (was : Bool) : Dev :=
  let src1 := d.isHead && d.fg TIME_CTRL_SRC == 1
  match d.wantedDom with
  | none => if was && src1 then d.showTime.raise 24 else d.showTime
  | some k =>
    if was && d.net.active == some k then d.showTime
    else
      let old := d.net.active
      let d := { d with net := { d.net with active := some k } }
      let first := src1 && !d.time.lockedOnce
      let d := if first then { d with time := { d.time with lockedOnce := true } } else d
      let d :=
        if first && !d.hasMembers then { d with time := { d.time with pendStep := some k } }
        else if was || !(d.dom k).hasDiff then d.takeDiff k
        else d
      let d := if old.isSome && old != some k then d.raise 25 else d
      d.showTime

/-- The active domain is locked now. -/
def Dev.activeLocked (d : Dev) : Bool :=
  match d.net.active with
  | some k => d.domLocked k
  | none => false

/-- Domain k is lost (R409): back to Listening. -/
def Dev.loseDom (k : Nat) (d : Dev) : Dev :=
  let was := d.activeLocked
  let locked := d.domLocked k
  let d := (d.setDom k { d.dom k with good := 0 }).fp (NET_DOM_STAT_STATE k) (if d.on (NET_DOM_CFG_EN k) then 1 else 0)
  if locked then d.chooseDom was else d

/-- A quotient rounded to one of its two neighbours; the spec does not say to which, so a free value does. -/
def Dev.openDiv (d : Dev) (n : Int) (k : Nat) : Int × Dev :=
  let q := n / (k : Int)
  if n % (k : Int) = 0 then (q, d)
  else
    let (f, d) := d.fresh
    (if bitOf f 0 then q + 1 else q, d)

/-- ADJ from the phase error of the active domain (R411). -/
def Dev.pullAdj (d : Dev) (k : Nat) : Dev :=
  let e : Int := (d.now - (w32i (d.domTime k) - d.reg (rNET_DOM_DIFF k))).toInt
  let (p, d) := d.openDiv (e * 2 ^ 40) 1000000000
  d.setAdj (d.fs (NET_DOM_ADJ_ADJ k) - max (-1048576) (min 1048576 p))

/-- GPTP_SYNC (R408 to R411): the mapping of domain k, its lock, and ADJ where it is the active domain of a head with
SRC = 1 that has no step before it. -/
def gptpSync (k : Nat) (m : SyncMeas) (d : Dev) : Dev :=
  if !d.netUp || decide (2 ≤ k) || !d.on (NET_DOM_CFG_EN k) || !d.net.capable then d
  else
    let was := d.activeLocked
    let x := d.dom k
    let good := if m.resid.natAbs ≤ 1000 then min 8 (x.good + 1) else 0
    let d := d.setDom k { x with good := good, time := m.domTime, atC := d.time.c }
    let d := (d.setReg (rNET_DOM_ADJ k) (w32i m.adj)).fp (NET_DOM_STAT_LOGSYNC k) (m.logSync % 256).toNat
    let d := if d.domLocked k then d
      else if good = 8 then (d.fp (NET_DOM_STAT_STATE k) 2).chooseDom was
      else d.fp (NET_DOM_STAT_STATE k) 1
    if d.isHead && d.fg TIME_CTRL_SRC == 1 && d.net.active == some k && d.domLocked k && d.time.pendStep.isNone then d.pullAdj k
    else d

/-- ANNOUNCE (R409): another grandmaster loses the domain. -/
def announce (k gm : Nat) (d : Dev) : Dev :=
  if !d.netUp || decide (2 ≤ k) || !d.on (NET_DOM_CFG_EN k) then d
  else
    let old := (d.dom k).gm
    let d := d.setDom k { d.dom k with gm := gm }
    if old = 0 ∨ old = gm then d else d.loseDom k

/-- DOMAIN_LOST (R409): Syncs or Announces have failed to come. -/
def domainLost (k : Nat) (d : Dev) : Dev := if d.netUp && decide (k < 2) then d.loseDom k else d

/-- PEER_DELAY (R408, R409): where the port is no longer asCapable every domain is lost. -/
def peerDelay (capable : Bool) (ns : Int) (d : Dev) : Dev :=
  if !d.netUp then d
  else
    let d := { d with net := { d.net with capable := capable, peerNs := ns } }
    if capable then d else (d.loseDom 0).loseDom 1

/-- NETWORK_LINK_CHANGE (R406). -/
def networkLinkChange (up : Bool) (speed : Nat) (d : Dev) : Dev :=
  if !d.netUp || d.on NET_STAT_LINK == up then d
  else
    let d := d.fp NET_STAT_LINK (if up then 1 else 0)
    let d := if up && decide (speed < 3) then d.fp NET_CTRL_SPEED speed else d
    d.raise 59

/-! ### Chain time: the step, the alarm, the counter, the anchor (R401, R402, R405, R413, R421) -/

/-- A step of `n` ns goes to every stamp of R402, and to what the model keeps by stamp: the history of R523, applied
commits, the note-on stamps of voices. -/
def Dev.shiftStamps (d : Dev) (n : Word) : Dev :=
  let d := { d with
    eng := { d.eng with tau0 := d.eng.tau0 + n },
    note := { d.note with
      pipe := d.note.pipe.map fun (p : PipeEnt) => { p with ev := { p.ev with stamp := p.ev.stamp + n } },
      hist := d.note.hist.map fun (h : Hist) => { h with stamp := h.stamp + n },
      jrAnchor := d.note.jrAnchor.map fun (p : Nat × Word) => (p.1, p.2 + n) },
    stg := { d.stg with
      applyT := d.stg.applyT + n,
      past := d.stg.past.map fun (p : PastCommit) => { p with time := p.time + n } } }
  let d := each (List.range 256) (fun v d =>
    if (d.voice v).cls = clsFree then d else d.setVoice v { d.voice v with onStamp := (d.voice v).onStamp + n }) d
  let d := if d.on STG_STATUS_PENDING then d.setReg rSTG_AT (d.reg rSTG_AT + n) else d
  d.setReg rTIME_ALARM (d.reg rTIME_ALARM + n)

/-- TIME_STEP (R401, R402): in REST-COLD, where XO32 keeps chain time, it waits. -/
def timeStep (d : Dev) : Dev :=
  match d.time.pendStep with
  | none => d
  | some k =>
    if !d.alive || !d.isHead || d.time.cold.isSome then d
    else
      let n := w32i (d.domTime k) - d.now
      let d := (({ d with time := { d.time with pendStep := none } }).addOff (n.toInt * 2 ^ 40)).shiftStamps n
      let d := ((d.setReg rTIME_STEP n).fp TIME_STAT_STEPPED 1).takeDiff k
      d.raise 26

/-- ALARM (R405). -/
def alarm (d : Dev) : Dev :=
  if !d.on TIME_CTRL_ALARM_EN || d.pwr.mode == .shelf || decide (later d.now (d.reg rTIME_ALARM) < 0) then d
  else ((d.fp TIME_STAT_ALM 1).fp TIME_CTRL_ALARM_EN 0).wake 10 0

/-- EXTENSION_ANCHOR (R413): extended time is the active domain's once chain time has been stepped, else it goes on from
the anchor. -/
def extensionAnchor (d : Dev) : Dev :=
  if !d.alive then d
  else
    let own := later d.now (d.reg rTIME_EXTC) / 1000000000
    let go := d.publishExt ((d.fg TIME_EXTH_SECH * 2 ^ 32 + d.fg TIME_EXTS_SEC : Nat) + own).toNat
      (d.reg rTIME_EXTC + w32i (own * 1000000000))
    match d.net.active with
    | some k =>
      if d.on TIME_STAT_STEPPED && d.domLocked k then
        let t := d.domTime k
        d.publishExt (t / 1000000000).toNat (d.now - w32i (t % 1000000000))
      else go
    | none => go

/-- TIME_CNTL_READ (R421): a read of the low word latches the high word and chain time. -/
def timeCntlRead (d : Dev) : Dev :=
  ((d.setReg rTIME_CNTL (w32 d.time.c)).setReg rTIME_CNTH (w32 (d.time.c / 2 ^ 32))).setReg rTIME_SNAP d.now

/-! ### Streams (R414 to R420) -/

def Dev.stream (d : Dev) (n : Nat) : Stream := tget Stream.idle d.net.streams n
def Dev.setStream (d : Dev) (n : Nat) (x : Stream) : Dev :=
  { d with net := { d.net with streams := tput Stream.idle d.net.streams n x } }

/-- A fault of a stream raises source 60 once. -/
def Dev.streamFault (d : Dev) : Dev := d.raise 60

/-- Where a stream buffer keeps channel c of output index o. -/
def streamKey (o c : Nat) : Nat := o * 16 + c

/-- Streams start and stop with EN as in force at the output point (R79, R415): a talker at the first multiple of SPF at or
after the present output index. -/
def Dev.settleStreams (d : Dev) : Dev :=
  each (List.range 8) (fun n d =>
    let x := d.stream n
    if d.on (NET_STREAM_EN n) && !x.started then
      let o := d.idxAt d.outPoint d.osf
      let spf := max 1 (d.fg (NET_STREAM_SPF n))
      (d.setStream n { Stream.idle with started := true, nextO := if n < 4 then (o + spf - 1) / spf * spf else o }).fp
        (NET_STREAM_STAT_RUN n) 1
    else if !d.on (NET_STREAM_EN n) && x.started then
      (((d.setStream n Stream.idle).fp (NET_STREAM_STAT_RUN n) 0).fp (NET_STREAM_STAT_READY n) 0).fp (NET_STREAM_STAT_SRPFAIL n) 0
    else d) d

/-- Give the talkers' channels that name a source its sample for index o (R415). -/
def Dev.talkFrom (d : Dev) (type index o : Nat) (x : Word) : Dev :=
  each (List.range 4) (fun n d =>
    if !(d.stream n).started then d
    else each (List.range (d.fg (NET_STREAM_NCH n) + 1)) (fun c d =>
      let t := d.stream n
      if d.on (NET_STREAM_MAP_EN n c) && d.fg (NET_STREAM_MAP_TYPE n c) == type && d.fg (NET_STREAM_MAP_INDEX n c) == index &&
          decide (t.nextO ≤ o) then
        d.setStream n { t with buf := tput 0 t.buf (streamKey o c) x }
      else d) d) d

/-- The buses whose output is complete once sample s has been committed go to the talkers (R415). -/
def Dev.talkBuses (d : Dev) (s : Word) : Dev :=
  if d.net.streams.isEmpty then d
  else each (List.range 64) (fun b d =>
    let p : Nat := 2 ^ d.busStages b
    if later s d.mix.osBase % (p : Int) = ((p - 1 : Nat) : Int) then
      let c := s - w32 (d.fg MIX_DOUT_DOUT) + w32 p
      let lab := c - w32i (later c d.mix.osBase % (p : Int))
      d.talkFrom 0 b (d.idxAt lab d.osf) (d.busOutAt b lab)
    else d) d

/-- The chain time at which index o is at the pins (R416, R418). -/
def Dev.pinTime (d : Dev) (o : Nat) : Word := d.tau (d.sampleAt o d.osf + w32 (d.fg MIX_DOUT_DOUT))

/-- Launch and presentation time of talker n's next frame, and its avtp_timestamp (R416). -/
def Dev.launchAt (d : Dev) (n : Nat) : Word :=
  d.pinTime ((d.stream n).nextO + d.fg (NET_STREAM_SPF n) - 1) + w32 (1000 * d.fg (NET_STREAM_TIME_LOFS n))
def Dev.presentAt (d : Dev) (n : Nat) : Word := d.pinTime (d.stream n).nextO + w32 (d.fg (NET_STREAM_TIME_PTOFS n))
def Dev.domDiff (d : Dev) (n : Nat) : Word := d.reg (rNET_DOM_DIFF (d.fg (NET_STREAM_DOM n)))
def Dev.avtpStamp (d : Dev) (n : Nat) : Word := d.presentAt n + d.domDiff n

/-- The samples of talker n's next frame, by sample and channel, before they take the stream's format (R415). -/
def Dev.talkerSamples (d : Dev) (n : Nat) : List Word :=
  let x := d.stream n
  (List.range (d.fg (NET_STREAM_SPF n))).flatMap fun k =>
    (List.range (d.fg (NET_STREAM_NCH n) + 1)).map fun c => tget 0 x.buf (streamKey (x.nextO + k) c)

/-- TALKER_LAUNCH (R416, R420): the next frame of talker n, at its launch time to the ±8 ns of the queue; without the credit
it is delayed; without Listener Ready it is discarded. -/
def talkerLaunch (n : Nat) (creditOk : Bool) (d : Dev) : Dev :=
  let x := d.stream n
  if !d.netUp || decide (4 ≤ n) || !x.started || decide (later d.now (d.launchAt n) < -8) then d
  else
    let spf := d.fg (NET_STREAM_SPF n)
    let next : Stream := { x with
      nextO := x.nextO + spf, buf := x.buf.filter fun p => decide (streamKey (x.nextO + spf) 0 ≤ p.1) }
    if !d.on (NET_STREAM_NOSRP n) && !d.on (NET_STREAM_STAT_READY n) then
      ((d.setStream n next).count (NET_STREAM_CNT_FMT n)).streamFault
    else
      let d := if creditOk then d else d.count NET_CNT_DELAYED
      d.setStream n { next with
        seq := (x.seq + 1) % 256
        sent := [(x.seq, d.avtpStamp n, d.talkerSamples n)] }

/-- MSRP (R417, R420): Listener Ready held or declared, Talker Failed. -/
def msrp (n : Nat) (ready failed : Bool) (d : Dev) : Dev :=
  if !d.netUp || decide (8 ≤ n) || !d.on (NET_STREAM_EN n) then d
  else
    let was := d.on (NET_STREAM_STAT_SRPFAIL n)
    let d := (d.fp (NET_STREAM_STAT_READY n) (if ready then 1 else 0)).fp (NET_STREAM_STAT_SRPFAIL n) (if failed then 1 else 0)
    if failed && !was then d.streamFault else d

/-- MVRP (R417): the VLAN of an enabled stream is joined, or left. -/
def mvrp (vid : Nat) (joined : Bool) (d : Dev) : Dev :=
  if !d.netUp then d
  else if !joined then { d with net := { d.net with vlans := d.net.vlans.filter (· != vid) } }
  else if d.net.vlans.contains vid || !(List.range 8).any (fun n => d.on (NET_STREAM_EN n) && d.fg (NET_STREAM_VID n) == vid) then d
  else { d with net := { d.net with vlans := d.net.vlans ++ [vid] } }

/-- The nsr code of the output rate (R414). -/
def Dev.nsr (d : Dev) : Nat := 4 + 2 * (d.fg MIX_RATE_MULT - d.fg MIX_RATE_OSF) + if d.on SYS_APLL_FAMILY then 0 else 1

/-- The output index whose pin time is nearest chain time t (R418). -/
def Dev.idxNear (d : Dev) (t : Word) : Int :=
  let r : Int := d.voiceRate
  let base := d.eng.crel * 1000000000 / r
  let p := base + later t (d.eng.tau0 + w32i base)
  let a := d.eng.crel + later (d.mix.osBase + w32 (d.fg MIX_DOUT_DOUT)) d.eng.c
  (d.mix.oBase : Int) + roundDiv (p * r - a * 1000000000) (d.osf * 1000000000)

/-- Place the samples of an accepted frame from index o on: the device, and whether one was late, one early (R418, R420). -/
def Dev.placeFrame (d : Dev) (n : Nat) : Int → List (List Word) → Dev × Bool × Bool
  | _, [] => (d, false, false)
  | o, xs :: t =>
    let r := d.placeFrame n (o + 1) t
    let lo : Int := ((d.stream n).nextO : Int)
    let out : Int := (d.idxAt d.outPoint d.osf : Nat)
    if o < lo then (r.1, true, r.2.2)
    else if o ≥ out + 512 then (r.1, r.2.1, true)
    else
      let x := r.1.stream n
      let buf := (xs.zip (List.range 16)).foldl (fun b p => tput 0 b (streamKey o.toNat p.2) p.1) x.buf
      (r.1.setStream n { x with buf := buf }, r.2)

/-- The presentation time of an accepted frame (R418, R420): its own less the held difference, else the last one plus the
length of the frame before it; a free value before any. -/
def Dev.framePt (d : Dev) (n : Nat) (f : AvtpFrame) : Word × Dev :=
  let x := d.stream n
  if f.tv then (f.timestamp - d.domDiff n, d)
  else if x.lastSeq.isNone then d.fresh
  else
    let r := d.openDiv ((x.lastLen : Int) * d.osf * 1000000000) d.voiceRate
    (x.lastPt + w32i r.1, r.2)

/-- A listener takes a frame `ahead` places behind the last accepted one (R418, R420). -/
def Dev.acceptFrame (d : Dev) (n : Nat) (f : AvtpFrame) (ahead : Nat) : Dev :=
  let x := d.stream n
  let r := d.framePt n f
  let d := r.2.setStream n { x with lastSeq := some f.seq, lastPt := r.1, lastLen := f.samples.length }
  let q := d.placeFrame n (d.idxNear r.1) f.samples
  let d := if ahead = 1 then q.1 else q.1.count (NET_STREAM_CNT_GAP n)
  let d := if q.2.1 then d.count (NET_STREAM_CNT_LATE n) else d
  let d := if q.2.2 then d.count (NET_STREAM_CNT_EARLY n) else d
  if ahead ≠ 1 ∨ q.2.1 ∨ q.2.2 then d.streamFault else d

/-- How many places a frame's sequence number lies behind that of the last accepted frame (R420). -/
def Dev.seqAhead (d : Dev) (n : Nat) (f : AvtpFrame) : Nat :=
  match (d.stream n).lastSeq with
  | some q => (f.seq + 256 - q) % 256
  | none => 1

/-- A listener of stream n takes frames of this stream. -/
def Dev.listens (d : Dev) (n : Nat) (f : AvtpFrame) : Bool :=
  decide (4 ≤ n) && decide (n < 8) && (d.stream n).started && d.running &&
  f.streamId == (d.reg (rNET_STREAM_IDH n)).toNat * 2 ^ 32 + (d.reg (rNET_STREAM_IDL n)).toNat

/-- The frame has the format, rate and channels of the stream. -/
def Dev.formatFits (d : Dev) (n : Nat) (f : AvtpFrame) : Bool :=
  f.format == d.fg (NET_STREAM_FORMAT n) && f.nsr == d.nsr && f.channels == d.fg (NET_STREAM_NCH n) + 1

/-- AVTP_FRAME (R406, R418, R420). -/
def avtpFrame (n : Nat) (f : AvtpFrame) (d : Dev) : Dev :=
  if !d.netUp then d
  else if !f.tagged then d.count NET_CNT_RXDROP
  else if !d.listens n f then d
  else if !d.formatFits n f then (d.count (NET_STREAM_CNT_FMT n)).streamFault
  else
    let ahead := d.seqAhead n f
    if ahead = 0 ∨ ahead ≥ 128 then (d.count (NET_STREAM_CNT_DUP n)).streamFault else d.acceptFrame n f ahead

/-- STREAM_TIMEOUT (R420): a listener that has accepted nothing for 8 frame periods. -/
def streamTimeout (n : Nat) (d : Dev) : Dev :=
  if d.netUp && decide (4 ≤ n) && decide (n < 8) && (d.stream n).started then
    (d.fp (NET_STREAM_STAT_TIMEOUT n) 1).streamFault
  else d

/-- LEN of the listeners' voice-input rings (R422). -/
def Dev.netVinLen (d : Dev) : Nat := if d.fg NET_VIN_LENSEL = 0 then 2 ^ 16 else 2 ^ d.fg NET_VIN_LENSEL

/-- Channel c of listener n delivers x for index o: to the ring, to its bus, and to transmit channels (R324, R328, R330,
R418, R419). -/
def Dev.deliverStream (d : Dev) (n c o : Nat) (x : Word) : Dev :=
  let f := d.osf
  let s := d.sampleAt o f + w32 (d.fg MIX_DOUT_DOUT)
  let k := 16 * (n - 4) + c
  let t := d.stream n
  let p := tget 0 t.prev c
  let d := d.setStream n { t with prev := tput 0 t.prev c x }
  let d := if d.on (NET_STREAM_MAP_VIN n c) then
      each (List.range f) (fun i d =>
        let v := s + w32 (65 + i)
        d.ringEntry 0 (d.fg NET_VIN_BASE + 8 * (k * d.netVinLen + v.toNat % d.netVinLen)) (interpAt (d.on NET_VIN_INTERP) x p i f) v) d
    else d
  let d := if d.on (NET_STREAM_MAP_BUSEN n c) then
      each (List.range f) (fun i d =>
        let b := busKey (s + w32 (2 * f + i)) (d.fg (NET_STREAM_MAP_INDEX n c))
        { d with mix := { d.mix with direct := tput 0 d.mix.direct b (tget 0 d.mix.direct b + BitVec.ofInt 40 x.toInt) } }) d
    else d
  each (List.range 4) (fun m d => d.feedFrom m 2 k (o + 2) x) d

/-- At an OS boundary every enabled channel of every running listener delivers, 0 where no sample has come (R418). -/
def Dev.deliverStreams (d : Dev) : Dev :=
  if !d.running || !d.onOs d.osf then d
  else each [4, 5, 6, 7] (fun n d =>
    let o := d.idxAt d.outPoint d.osf
    let x := d.stream n
    if !x.started || decide (o < x.nextO) then d
    else
      let d := d.setStream n { x with nextO := o + 1, buf := x.buf.filter fun p => decide (streamKey (o + 1) 0 ≤ p.1) }
      each ((List.range (d.fg (NET_STREAM_NCH n) + 1)).filter fun c => d.on (NET_STREAM_MAP_EN n c)) (fun c d =>
        d.deliverStream n c o (tget 0 x.buf (streamKey o c))) d) d

/-- What receive channels have just delivered goes to the talkers that name them (R415). -/
def Dev.talkPorts (d : Dev) (before : Dev) : Dev :=
  each (List.range 4) (fun n d =>
    let p := d.port n
    if p.lastO = (before.port n).lastO then d
    else each ((List.range 32).filter fun c => d.on (SAP_RXMAP_EN n c)) (fun c d =>
      d.talkFrom 1 (32 * n + c) (p.lastO - 1) (tget 0 p.prev c)) d) d

/-- OS_BOUNDARY (R326, R418): serial ports, then listeners. -/
def osBoundaryAll (d : Dev) : Dev := ((osBoundary d).talkPorts d).deliverStreams

def execTimeStep (s : State) : Host.Outcome State Fault Refusal := done s (timeStep s.dev)
def execAlarm (s : State) : Host.Outcome State Fault Refusal := done s (alarm s.dev)
def execGptpSync (k : Nat) (m : SyncMeas) (s : State) : Host.Outcome State Fault Refusal := done s (gptpSync k m s.dev)
def execAnnounce (k gm : Nat) (s : State) : Host.Outcome State Fault Refusal := done s (announce k gm s.dev)
def execPeerDelay (capable : Bool) (ns : Int) (s : State) : Host.Outcome State Fault Refusal := done s (peerDelay capable ns s.dev)
def execDomainLost (k : Nat) (s : State) : Host.Outcome State Fault Refusal := done s (domainLost k s.dev)
def execNetworkLinkChange (up : Bool) (speed : Nat) (s : State) : Host.Outcome State Fault Refusal :=
  done s (networkLinkChange up speed s.dev)
def execMsrp (n : Nat) (ready failed : Bool) (s : State) : Host.Outcome State Fault Refusal := done s (msrp n ready failed s.dev)
def execMvrp (vid : Nat) (joined : Bool) (s : State) : Host.Outcome State Fault Refusal := done s (mvrp vid joined s.dev)
def execAvtpFrame (n : Nat) (f : AvtpFrame) (s : State) : Host.Outcome State Fault Refusal := done s (avtpFrame n f s.dev)
def execTalkerLaunch (n : Nat) (creditOk : Bool) (s : State) : Host.Outcome State Fault Refusal := done s (talkerLaunch n creditOk s.dev)
def execStreamTimeout (n : Nat) (s : State) : Host.Outcome State Fault Refusal := done s (streamTimeout n s.dev)
def execExtensionAnchor (s : State) : Host.Outcome State Fault Refusal := done s (extensionAnchor s.dev)
def execTimeCntlRead (s : State) : Host.Outcome State Fault Refusal := done s (s.dev.heard timeCntlRead)
def execOsBoundary (s : State) : Host.Outcome State Fault Refusal := done s (osBoundaryAll s.dev)

end Sys2Proof.Machine
end

