-- ==== Sys2Proof/Machine/Boundary.lean ====
section
/-! DEFINITION. The VS boundary (R228): the sample that passes C and everything that follows from it (R28, R37, R112, R127,
R128, R130, R141, R145, R150, R162, R239, R294, R383, R404). -/
namespace Sys2Proof.Machine

/-- Some bus has a committed value other than 0 at sample s (R28). -/
def Dev.loudAt (d : Dev) (s : Word) (down : Tbl (BitVec 40)) : Bool := (List.range 64).any fun b => d.busSum s b down != 0

/-- Sample s passes C: partial sums come in and go up, buses are committed, their outputs go to ports and talkers, CV entries
and gate edges are entered (R142, R294, R295, R383). -/
def Dev.commitSample (d : Dev) (s : Word) : Dev :=
  let (down, d) := d.downSums s
  let d := if d.loudAt s down then { d with eng := { d.eng with loud := some s } } else d
  let d := (d.sendSums s down).commitBuses s down d.lossGain
  let d := { d with cbl := { d.cbl with fade := d.cbl.fade.map (· + 1) } }
  ((d.feedBuses s).talkBuses s).pruneOuts.commitCv s

/-- What context i keeps of samples before C (R128, R130, R138): its checkpoint at or before C and later ones, the events
from there on, the sends from C on. -/
def Ctx.prune (x : Ctx) (c : Word) : Ctx :=
  let kept := x.ckpts.filter fun k => decide (later k.sample (floor16 c) ≥ 0)
  let ckpts := if kept.isEmpty ∧ x.active then x.ckpts.drop (x.ckpts.length - 1) else kept
  let from_ := ckpts.foldl (fun (a : Word) k => if later k.sample a < 0 then k.sample else a) (floor16 c)
  { x with
    ckpts := ckpts
    log := x.log.filter fun e => decide (later e.sample from_ ≥ 0)
    sends := x.sends.filter fun e => decide (later (w32 e.1) c ≥ 0)
    adv := 0 }

/-- Pauses end where no rollback of the part is left on the spindle (R143, R145). -/
def Dev.unpause (d : Dev) (n : Nat) : Dev :=
  let parts := (d.rolling n).map fun q => (d.voice (16 * n + q)).part
  each (List.range 16) (fun q d =>
    let c := d.ctx (18 * n + q)
    if c.paused && !parts.contains (d.voice (16 * n + q)).part then d.setCtx (18 * n + q) { c with paused := false } else d) d

/-- The clock gate of spindle n opens for the coming VS (R37). -/
def Dev.gateOpen (d : Dev) (n : Nat) : Bool :=
  (List.range 16).any (fun j => (d.voice (16 * n + j)).cls != clsFree || !(d.ctx (18 * n + j)).log.isEmpty) ||
  (d.partK n 0).busy || (d.partK n 1).busy || d.eng.transit.any (fun o => o.1 == n) || !(d.rolling n).isEmpty

/-- The boundary work of spindle n: counters of the VS, its gate, what its contexts keep. -/
def Dev.spindleBoundary (n : Nat) (d : Dev) : Dev :=
  let d := (d.spnBoundary n).unpause n
  let d := each (List.range 18) (fun j d =>
    let x := d.ctx (18 * n + j)
    if x = Ctx.idle then d else d.setCtx (18 * n + j) (x.prune d.eng.c)) d
  let open_ := d.gateOpen n
  ((if open_ then d.setBit rSYS_GATE n else d.clrBit rSYS_GATE n)).fp (SPN_STATUS_RUN n)
    (if open_ && !d.on (SPN_STATUS_TRAPPED n) then 1 else 0)

/-- C moves on by one sample. -/
def Dev.advanceC (d : Dev) : Dev := { d with eng := { d.eng with c := d.eng.c + 1, crel := d.eng.crel + 1 } }

/-- What is kept by stamp for earlier samples is dropped (R523): a second behind C of the history, 16 samples of commits. -/
def Dev.forget (d : Dev) : Dev :=
  let c := d.eng.c
  let d := d.restampHist (d.tau c - 1000000000) false
  { d with
    stg := { d.stg with past := d.stg.past.filter fun p => decide (later c p.sample ≤ 16) }
    eng := { d.eng with bus := d.eng.bus.filter fun p => decide (later (w32 (p.1 / 64)) c ≥ 0) }
    mix := { d.mix with direct := d.mix.direct.filter fun p => decide (later (w32 (p.1 / 64)) c ≥ 0) } }

/-- The residual of the APLL discipline, within 4 ns, else open (R404). -/
def Dev.apllResidual (d : Dev) : Dev :=
  let (f, d) := d.fresh
  d.fp TIME_APLL_RESID ((((f.toNat % 9 : Nat) : Int) - 4) % 65536).toNat

/-- The boundary in RUN. -/
def Dev.boundaryRun (d : Dev) : Dev :=
  let s := d.eng.c
  let d := (d.commitSample s).advanceC
  let d := { d with mix := { d.mix with syncWait := d.mix.syncWait.map fun _ => 0 } }
  let d := (d.retire d.eng.c).takePins.settleStreams
  let d := Dev.drainHeld d.cbl.held d
  let d := each (List.range 16) (fun n d => d.spindleBoundary n) d
  let d := each d.presentVoices (fun v d => d.updateScore v) d
  ((d.publish.tmrTicks 2).forget).apllResidual

/-- VS_BOUNDARY (R228): in RUN all of it; in REST-WARM the grid and the timers on it go on and no engine works (R32, R347,
R403). -/
def vsBoundary (d : Dev) : Dev :=
  if d.running then d.boundaryRun
  else if d.pwr.mode == .rest && !d.pwr.cold && !d.pwr.frozen then
    let d := d.advanceC.tmrTicks 2
    d.restampHist (d.tau d.eng.c - 1000000000) false
  else d

def execVsBoundary (s : State) : Host.Outcome State Fault Refusal := done s (vsBoundary s.dev)

end Sys2Proof.Machine
end

