-- ==== Sys2Proof/Machine/Bus.lean ====
section
/-! DEFINITION. The bus: what a read returns and does, what a write does, at every address of R12; registers with a row of
their own, registers that follow other state, memory windows (R11 to R15, R271, R283, R289). -/
namespace Sys2Proof.Machine

/-! ### The event unit's flags (R482, R483, R485) -/

/-- EVT_RAW_CLEAR: a W1C write of EVT_RAW0 or EVT_RAW1. An asserted level source stays set; a counted source that is cleared
begins its hold-off. -/
def evtRawClear (h : Nat) (v : Word) (d : Dev) : Dev :=
  if 2 ≤ h then d
  else
    let ks := (List.range 32).filter fun j =>
      bitOf v j && d.raw (32 * h + j) && !d.evt.level.contains (32 * h + j)
    each ks (fun j d =>
      let k := 32 * h + j
      let d := d.clrBit (rEVT_RAW h) j
      if (countIdx k).isSome && d.on EVT_CTRL_HOLDOFF && !d.evt.hold.contains k then
        { d with evt := { d.evt with hold := d.evt.hold ++ [k] } }
      else d) d

/-- HOLDOFF_END (R485). -/
def holdoffEnd (k : Nat) (d : Dev) : Dev := { d with evt := { d.evt with hold := d.evt.hold.filter (· != k) } }

/-! ### UART divider (R424) -/

/-- UART_DIVIDER_WRITE: DIV takes effect once no character is in progress; 0 is not allowed. -/
def uartDividerWrite (n div : Nat) (d : Dev) : Dev :=
  if 5 ≤ n ∨ div = 0 ∨ 65536 ≤ div then d
  else if (d.uart n).txq.isEmpty then (d.setUart n { d.uart n with divWait := none }).fp (UART_CFG_DIV n) div
  else d.setUart n { d.uart n with divWait := some div }

/-! ### Registers that follow other state -/

/-- A truth value as a bit. -/
def b2n (b : Bool) : Nat := if b then 1 else 0

/-- NOTE_PARTn_STATE (R117): pedals down on any channel, the program, and the voices held at C. -/
def Dev.partState (d : Dev) (p : Nat) : Word :=
  let c := d.eng.c
  let down := fun (what : Nat) => (List.range 16).any fun ch => pedalDown (d.chanNow p ch what c)
  let held := (List.range 256).filter fun v =>
    let x := d.noteBefore (ctxOf v) c (recLast (d.tau c))
    x.cls != clsFree && x.part == p
  w32 (b2n (down 66) * 2 ^ 25 + b2n (down 64) * 2 ^ 24 + d.chanNow p 0 130 c % 256 * 2 ^ 16 + held.length)

/-- ALLOC_SUMDATA and ALLOC_SUMCNT of the summary that ALLOC_SUMSEL selects (R168): 0 but on the head. -/
def Dev.selSumm (d : Dev) : Summ :=
  let c := d.fg ALLOC_SUMSEL_CLASS
  if d.isHead && decide (3 ≤ c) then d.summOf (d.fg ALLOC_SUMSEL_DEVID) c else Summ.none

/-- CBL_MSTAT of the member that CBL_MSEL selects (R396). -/
def Dev.memberStat (d : Dev) : Word :=
  match d.cbl.census.find? fun m => m.id == d.fg CBL_MSEL_DEVID with
  | some m => w32 (2 ^ 31 + m.state % 16 * 2 ^ 24 + m.reason % 16 * 2 ^ 20 + m.depth % 256 * 2 ^ 8 + m.parent % 256)
  | none => 0

/-- The slots that enabled channels of a port use (R337). -/
def Dev.slotsUsed (d : Dev) (en slot : Nat → Fld) : Word :=
  (List.range 32).foldl (fun (w : Word) c => if d.on (en c) then w ||| w32 (2 ^ d.fg (slot c)) else w) 0

/-- The word a register shows (R7): its stored word, but for the fields that follow other state. It has no side effect. -/
def Dev.peek (d : Dev) (a : Nat) : Word :=
  let w := d.reg a
  match a / 0x10000 with
  | 0x0 =>
    if a = rSYS_MODE then
      (((d.fp SYS_MODE_CUR d.pwr.mode.code).fp SYS_MODE_PREV d.pwr.prev.code).fp SYS_MODE_PEND (b2n d.pwr.pend.isSome)).reg a
    else w
  | 0x1 =>
    if a = rSTG_PEEK_DATA then
      let p := (d.reg rSTG_PEEK_ADDR).toNat / 4 * 4
      if isStaged p && !d.voiceAbsent p then d.stagingReg p else 0
    else w
  | 0x2 => if a = rEVT_PIN then w32 (b2n (d.irqLow 0) + 2 * b2n (d.irqLow 1)) else w
  | 0x3 =>
    if isReg rNOTE_PART_MPE 32 a then
      setField w 31 28 (d.liveCount ((a - rNOTE_PART_MPE 0) / 0x20) (d.tau d.eng.c))
    else if isReg rNOTE_PART_STATE 32 a then d.partState ((a - rNOTE_PART_STATE 0) / 0x20)
    else if rNOTE_TUNING 0 0 ≤ a ∧ a < rNOTE_TUNING 32 0 then
      let t := (a - rNOTE_TUNING 0 0) / 0x200
      let k := a % 0x200 / 4
      w32i (d.tuning t k (d.tau d.eng.c))
    else w
  | 0x4 =>
    if a = rALLOC_SUMDATA then d.selSumm.score
    else if a = rALLOC_SUMCNT then
      w32 (b2n (d.isHead && d.targets.contains (d.fg ALLOC_SUMSEL_DEVID)) * 2 ^ 31 + d.selSumm.count % 512)
    else if isReg rALLOC_PCOUNT 32 a then w32 (d.partCount ((a - rALLOC_PCOUNT 0) / 4))
    else w
  | 0xB =>
    match (List.range 4).find? fun n => a == rSAP_TXMASK n || a == rSAP_RXMASK n with
    | some n =>
      if a = rSAP_TXMASK n then d.slotsUsed (SAP_TXMAP_EN n) (SAP_TXMAP_SLOT n) else d.slotsUsed (SAP_RXMAP_EN n) (SAP_RXMAP_SLOT n)
    | none => w
  | 0xE => if a = rCBL_MSTAT then d.memberStat else w
  | 0x10 =>
    if isReg rUART_STAT 5 a then
      let u := d.uart ((a - rUART_STAT 0) / 0x20)
      setField (setField (setField w 15 8 u.rxq.length) 2 2 (b2n !u.txq.isEmpty)) 1 1 (b2n (u.rts && a == rUART_STAT 4))
    else w
  | 0x13 =>
    if a = rMEM_HW then setField w 0 0 (b2n (d.pwr.mode == .chuck || d.pwr.mode == .service))
    else if isReg rMEM_BANK 16 a then setField w 18 18 (b2n (d.bankIdle ((a - rMEM_BANK 0) / 4)))
    else w
  | 0x14 =>
    if a = rTIME_NOW then d.now
    else if a = rTIME_CNTL then w32 d.time.c
    else if a = rTIME_CTRL then (if d.isMember then setField w 5 4 2 else w)
    else w
  | _ => if d.voiceAbsent a then 0 else w

/-- A read of a register, with its side effect (R334, R353, R421). -/
def Dev.readReg (d : Dev) (a : Nat) : Word × Dev :=
  let w := d.peek a
  if a = rTIME_CNTL then (w, timeCntlRead d)
  else match (List.range 4).find? fun n => a == rSAP_FCNT n with
    | some n => (w, fcntRead n d)
    | none =>
      match (List.range 16).find? fun n => a == rTMR_CAP n with
      | some n => (w, capRead n none d)
      | none => (w, d)

/-! ### Writes of registers that act -/

/-- A write of CBL_MCMD (R386, R387, R388, R396). -/
def Dev.memberCommand (d : Dev) (v : Word) : Dev :=
  let dev := fieldOf v 7 0
  match fieldOf v 10 8 with
  | 1 => memberRelease dev d
  | 2 => memberQuarantine dev d
  | 3 => memberIsolate dev d
  | 4 => memberShip dev d
  | _ => d

/-- A write of TIME_CTRL (R400, R410): with SRC = 0 a head's chain time runs at the XREF rate. -/
def Dev.timeCtrl (d : Dev) (v : Word) : Dev :=
  let was := d.activeLocked
  let d := d.writeReg rTIME_CTRL v
  let d := if d.fg TIME_CTRL_SRC = 0 ∧ !d.isMember then d.setAdj 0 else d
  d.chooseDom was

/-- A write of NET_DOMk_CFG (R408, R409): a domain switched off, or given another number, is lost. -/
def Dev.domCfg (d : Dev) (k : Nat) (v : Word) : Dev :=
  let old := d.reg (rNET_DOM_CFG k)
  let d := d.writeReg (rNET_DOM_CFG k) v
  if d.reg (rNET_DOM_CFG k) = old then d else d.loseDom k

/-- A write of MEM_BANKk (R7, R273): flags first, so that a refusal of this write shows. -/
def Dev.bankWrite (d : Dev) (k : Nat) (v : Word) : Dev :=
  let d := if bitOf v 19 then d.fp (MEM_BANK_REFUSED k) 0 else d
  bankHandover k (fieldOf v 2 0) (d.fp (MEM_BANK_SHARE k) (fieldOf v 16 16))

/-- A write of UARTn_CFG (R424, R439). -/
def Dev.uartCfg (d : Dev) (n : Nat) (v : Word) : Dev :=
  uartDividerWrite n (fieldOf v 15 0) (d.fp (UART_CFG_EN n) (fieldOf v 31 31))

/-- A write of SYS_MODE (R46). -/
def Dev.modeReg (d : Dev) (v : Word) : Dev :=
  d.request { depth := bitOf v 8, illClr := bitOf v 15 } (fieldOf v 6 4)

/-- The index of the register at `a` in a family of `n`, if it is one of them. -/
def idxIn (r : Nat → Nat) (n a : Nat) : Option Nat := if isReg r n a then some ((a - r 0) / (r 1 - r 0)) else none

/-- A write of the register at `a`: what its own row or rule says, else each field by its code (R7). -/
def Dev.writeAct (d : Dev) (a : Nat) (v : Word) : Dev :=
  if a = rSYS_MODE then d.modeReg v
  else if a = rSYS_RESET then softwareReset v d
  else if a = rSTG_CTRL then d.stgCtrl v
  else if a = rNOTE_STAT then hwmClear v d
  else if a = rALLOC_STAT then qhwmClear v d
  else if a = rMIX_CTRL then mixSync v d
  else if a = rSAP_START then sapStart v d
  else if a = rCVO_AT_CTRL then autoTuneGo v d
  else if a = rTMR_CTRL then timerStop v (timerStart v d)
  else if a = rCBL_MCMD then d.memberCommand v
  else if a = rAGE_CTRL then d.ageCtrl v
  else if a = rTIME_CTRL then d.timeCtrl v
  else match a / 0x10000 with
  | 0x2 =>
    match idxIn rEVT_RAW 2 a with
    | some h => evtRawClear h v d
    | none => d.writeReg a v
  | 0x9 =>
    match idxIn rSPN_LOAD 16 a with
    | some n => peakClear n v d
    | none => d.writeReg a v
  | 0xA =>
    if a = rMIX_DEC_CFG 0 ∨ a = rMIX_DEC_CFG 1 then (coefficientWrite (w32 a) v d).writeStaged a v
    else if (List.range 2).any fun k => (rMIX_DEC_COEFA k 0 ≤ a && a < rMIX_DEC_COEFA k 0 + 128) ||
        (rMIX_DEC_COEFB k 0 ≤ a && a < rMIX_DEC_COEFB k 0 + 128) then coefficientWrite (w32 a) v d
    else d.writeReg a v
  | 0xC =>
    match idxIn rCVO_CH_SET 16 a with
    | some n => cvoChnSet n (fieldOf v 15 0) d
    | none => d.writeReg a v
  | 0xD =>
    match idxIn rTMR_PER 16 a, idxIn rTMR_CMP 16 a, idxIn rTMR_STAT 16 a with
    | some n, _, _ => d.tmrPerWrite n v
    | _, some n, _ => d.tmrCmpWrite n v
    | _, _, some n => d.tmrStatWrite n v
    | _, _, _ => d.writeReg a v
  | 0xE =>
    match idxIn rCBL_P_CTRL 3 a with
    | some p => portEnable p v d
    | none => d.writeReg a v
  | 0xF =>
    match idxIn rNET_DOM_CFG 2 a with
    | some k => d.domCfg k v
    | none => d.writeReg a v
  | 0x10 =>
    match idxIn rUART_CFG 5 a with
    | some n => d.uartCfg n v
    | none => d.writeReg a v
  | 0x13 =>
    match idxIn rMEM_BANK 16 a with
    | some k => d.bankWrite k v
    | none => d.writeReg a v
  | _ => d.writeReg a v

/-! ### Memory windows (R12 to R15, R271, R286, R289) -/

/-- X, Y and program memory and Heartwood are open to the host: CHUCK and SERVICE (R14, R15). -/
def Dev.memOpen (d : Dev) : Bool := d.pwr.mode == .chuck || d.pwr.mode == .service

/-- Offset of an address within its spindle's window. -/
def spnOfs (a : Nat) : Nat := (a - 0x4000000) % 0x40000

/-- The mode rules make an access at `a` read 0 or be ignored (R11, R14, R15, R436). -/
def Dev.ruled (d : Dev) (a : Nat) : Bool :=
  if a < 0x150000 then (regAt a).isNone
  else if stockBase ≤ a ∧ a < 0x4000000 then false
  else if 0x4000000 ≤ a ∧ a < 0x4400000 then
    let o := spnOfs a
    if 0x28000 ≤ o then true else if 0xF000 ≤ o ∧ o < 0x10000 then false else !d.memOpen
  else if hwBase ≤ a ∧ a < hwBase + 0x10000 then !d.memOpen
  else true

/-- What the ROM copy of Bowl fills of a spindle's memories (R221, R223): program memory and the shared tables of X and Y, as
memory and byte address. -/
def romPart (o : Nat) : Option (Nat × Nat) :=
  if 0x20000 ≤ o ∧ o < 0x28000 then some (0, o - 0x20000)
  else if 0x9000 ≤ o ∧ o < 0xF000 then some (1, o)
  else if 0x19000 ≤ o ∧ o < 0x20000 then some (2, o - 0x10000)
  else none

/-- A word of a spindle's memories as the host reads it: where the ROM copy stands and the host has not written since, its
bytes, which the spec does not give (log entry 11). -/
def Dev.spnWord (d : Dev) (a : Nat) : Word :=
  match d.pwr.rom.find? (fun r => r.1 == (a - 0x4000000) / 0x40000 && !r.2.contains a), romPart (spnOfs a) with
  | some _, some (m, o) => w32 (leNat ((List.range 4).map fun i => Config.bowlRom m (o + i)))
  | _, _ => d.rw32 a

/-- The host writes a word of a spindle's memories: the ROM copy no longer stands there. -/
def Dev.spnWrite (d : Dev) (a : Nat) (v : Word) : Dev :=
  { d with pwr := { d.pwr with rom := d.pwr.rom.map fun (r : Nat × List Nat) =>
    if r.1 = (a - 0x4000000) / 0x40000 ∧ (romPart (spnOfs a)).isSome ∧ !r.2.contains a then (r.1, a :: r.2) else r } }.ww32 a v

/-- A host read at word address `a`, where a Stock word has `bad` bits in error (R271, R276, R277). -/
def Dev.busRead (d : Dev) (a bad : Nat) : Word × Dev :=
  if d.ruled a then (0, d)
  else if a < 0x150000 then d.readReg a
  else if d.pwr.zeroFill then (0, d)
  else if a < 0x4000000 then
    let off := a - stockBase
    if d.bankCur (bankOf off) = 6 ∨ d.pwr.mode = .service then (w32 (leNat (d.stockBytes off 4 bad)), d.ecc off bad)
    else (0, d.violation 6 false off)
  else if a < hwBase then (d.spnWord a, d)
  else if d.on MEM_HW_WIPING then (0, d)
  else (d.rw32 a, d)

/-- A host write at word address `a`. -/
def Dev.busWrite (d : Dev) (a : Nat) (v : Word) : Dev :=
  if d.ruled a then d
  else if a < 0x150000 then d.writeAct a v
  else if d.pwr.zeroFill then d
  else if a < 0x4000000 then
    let off := a - stockBase
    if d.bankCur (bankOf off) = 6 then d.rmwWrite off 0 (leBytes 4 v.toNat) else d.violation 6 true off
  else if a < hwBase then d.spnWrite a v
  else if d.on MEM_HW_WIPING then d
  else d.ww32 a v

/-- REGISTER_WRITE (R3, R7). -/
def registerWrite (addr value : Word) (d : Dev) : Dev := d.busWrite (addr.toNat / 4 * 4) value

def execRegisterWrite (addr value : Word) (s : State) : Host.Outcome State Fault Refusal := done s (s.dev.heard (registerWrite addr value))
def execEvtRawClear (h : Nat) (v : Word) (s : State) : Host.Outcome State Fault Refusal := done s (s.dev.heard (evtRawClear h v))
def execHoldoffEnd (k : Nat) (s : State) : Host.Outcome State Fault Refusal := done s (holdoffEnd k s.dev)
def execUartDividerWrite (n div : Nat) (s : State) : Host.Outcome State Fault Refusal := done s (s.dev.heard (uartDividerWrite n div))

end Sys2Proof.Machine
end

