-- ==== Sys2Proof/Machine/RegLink.lean ====
section
/-! DEFINITION. Register access over the link (R394) and image shipping (R388, R389). -/
namespace Sys2Proof.Machine

/-! ### Register access (R394) -/

/-- The head sends the next access of the command that waits, or answers the host once all are done. -/
def Dev.forwardNext (d : Dev) : Dev :=
  match d.host.wait with
  | none => d
  | some w =>
    match w.todo with
    | [] => d.respondWait w.dev w.st (w.got.flatMap fun x => leBytes 4 x.toNat)
    | (wr, a, v) :: _ =>
      let t := d.cbl.reqTag
      let d := { d with cbl := { d.cbl with reqs := d.cbl.reqs ++ [(t, w.dev)], reqTag := (t + 1) % 256 } }
      d.sendTo w.dev 0x04 ([BitVec.ofNat 8 t, if wr then 1 else 0, 0, 0] ++ leBytes 4 a ++ leBytes 4 v.toNat)

/-- REG_REQ: a member performs the access as its own and answers (R394). A word of Stock reads as it is stored. -/
def regReq (h : LinkHdr) (tag : Nat) (write : Bool) (addr value : Word) (d : Dev) : Dev :=
  d.onFrame h 0x04 ([BitVec.ofNat 8 tag, if write then 1 else 0, 0, 0] ++ leBytes 4 addr.toNat ++ leBytes 4 value.toNat) fun d =>
    if !d.isMember then d
    else
      let a := addr.toNat / 4 * 4
      let st : Byte := if d.ruled a then 1 else 0
      let r := if write then ((0 : Word), d.busWrite a value) else d.busRead a 0
      r.2.sendUp 0x05 ([BitVec.ofNat 8 tag, st, 0, 0] ++ leBytes 4 r.1.toNat)

/-- REG_RSP at the head (R394): the next access, or the answer to the host. -/
def regRsp (h : LinkHdr) (tag status : Nat) (value : Word) (d : Dev) : Dev :=
  d.onFrame h 0x05 ([BitVec.ofNat 8 tag, BitVec.ofNat 8 status, 0, 0] ++ leBytes 4 value.toNat) fun d =>
    match d.host.wait with
    | none => d
    | some w =>
      if !d.isHead || !d.cbl.reqs.contains (tag, h.src) then d
      else
        let read := (w.todo.head?.map fun x => !x.1).getD false
        let w := { w with todo := w.todo.drop 1, got := if read then w.got ++ [value] else w.got, st := max w.st status }
        let d := { d with cbl := { d.cbl with reqs := d.cbl.reqs.filter (· != (tag, h.src)) },
                          host := { d.host with wait := some w } }
        d.forwardNext

/-- MEMBER_RESPONSE_TIMEOUT (R394): status 3. -/
def memberResponseTimeout (tag : Nat) (d : Dev) : Dev :=
  if d.cbl.reqs.any (·.1 == tag) && d.alive then
    ({ d with cbl := { d.cbl with reqs := d.cbl.reqs.filter (·.1 != tag) } }).respondWait d.devid 3 []
  else d

/-! ### Shipping (R388, R389) -/

/-- The pieces of an image in the order of R388: the header, then the sections in table order, as offset and length. -/
def imagePieces (h : List Byte) : List (Nat × Nat) := (0, 0x800) :: (sectEnts h).map fun e => (e.offset, e.length)

/-- One IMG frame of the oldest shipment, where the path to the member is quiet (R388). -/
def Dev.shipStep (d : Dev) : Dev :=
  match d.cbl.ship with
  | [] => d
  | (id, k, pos) :: rest =>
    if !d.isHead || !d.alive then d
    else match d.portTo id, d.region (d.fg STG_BOOT_SLOT) with
      | some p, some (s, _) =>
        if !(d.lport p).replay.isEmpty || (d.lport p).credit == 0 then d
        else
          let base := s * 0x10000
          let set := fun (l : List (Nat × Nat × Nat)) (d : Dev) => { d with cbl := { d.cbl with ship := l } }
          match (imagePieces (d.fbs base 0x800))[k]? with
          | none => set rest d
          | some (o, n) =>
            if n ≤ pos then set ((id, k + 1, 0) :: rest) d
            else
              let m := min 120 (n - pos)
              let d := set ((id, k, pos + m) :: rest) d
              d.sendOn p 0x18 id d.devid (leBytes 4 (o + pos) ++ leBytes 2 m ++ [0, 0] ++ d.fbs (base + o + pos) m)
      | _, _ => d

/-- The header a member has received. -/
def Dev.imgHead (d : Dev) : List Byte := (List.range 0x800).map fun i => tget 0xFF d.cbl.img i

/-- Every piece of the image has arrived. -/
def Dev.imgWhole (d : Dev) : Bool :=
  decide (0x800 ≤ d.cbl.imgEnd) && decide ((imagePieces d.imgHead).foldl (fun a p => a + p.2) 0 ≤ d.cbl.imgEnd)

/-- What arrives is the second copy of R389: the image that already runs from RAM. -/
def Dev.imgSecond (d : Dev) : Bool :=
  d.fg CBL_POL0_SHIP == 2 && d.fg STG_BOOT_SLOT == 3 && imageDigest d.imgHead == d.imgDigest

/-- The copy goes into slot B by steps 1 to 5 of R68: erase, write, verify, GEN, LOADED (R389). -/
def Dev.imgToFlash (d : Dev) : Dev :=
  match d.region 2 with
  | none => d
  | some (s, n) =>
    let gen := 1 + max (if d.loaded 1 then d.gen 1 else 0) (if d.loaded 2 then d.gen 2 else 0)
    let d := each (List.range n) (fun k d => d.ferase (s + k)) d
    let d := each (d.cbl.img.filter fun e => decide (e.1 < (n - 1) * 0x10000)) (fun e d => d.fprog (s * 0x10000 + e.1) [e.2]) d
    if d.slotCode 2 ≠ 0 then d
    else (d.fprog (d.ctlAt 2 + 0xC) (leBytes 4 gen)).fprog (d.ctlAt 2) (leBytes 4 0x4C4F4144)

/-- No piece of a shipped image is held. -/
def Dev.clearImg (d : Dev) : Dev := { d with cbl := { d.cbl with img := [], imgEnd := 0 } }

/-- A piece of the shipped image joins what is held. -/
def Dev.addPiece (d : Dev) (offset : Nat) (data : List Byte) : Dev :=
  let t := data.zipIdx.foldl (fun (t : Tbl Byte) b => tput 0xFF t (offset + b.2) b.1) d.cbl.img
  { d with cbl := { d.cbl with img := t, imgEnd := d.cbl.imgEnd + data.length } }

/-- IMG at a member (R388, R389): a piece of the shipped image; its first byte starts it anew, with source 35. -/
def img (h : LinkHdr) (offset : Nat) (data : List Byte) (d : Dev) : Dev :=
  d.onFrame h 0x18 (leBytes 4 offset ++ leBytes 2 data.length ++ [0, 0] ++ data) fun d =>
    if !d.isMember then d
    else
      let d := (if offset = 0 then d.clearImg.raise 35 else d).addPiece offset data
      if d.imgWhole && d.imgSecond then d.imgToFlash.clearImg else d

/-- A pair that gives an LK field a value different from its live one (R388). -/
def Dev.changesLk (d : Dev) (p : Nat × Word) : Bool :=
  let m := accMask p.1 .lk
  p.2 &&& m != d.reg p.1 &&& m

/-- The sections of an image from entry k on, as CHUCK loads them (R388). -/
def Dev.shipSections (d : Dev) (es : List SectEnt) : Nat → Nat → Except Nat Dev
  | 0, _ => .ok d
  | n + 1, k =>
    match es[k]? with
    | none => .ok d
    | some e =>
      if e.ty = 1 ∧ (pairsOf ((d.sectBytes 0 e).drop 8)).any d.changesLk then .error 0x0B
      else match d.loadSection 0 es k with
        | .error c => .error c
        | .ok d => d.shipSections es n (k + 1)

/-- The sections of the held image are read in place of the flash; the patch store starts anew. -/
def Dev.useImg (d : Dev) : Dev :=
  { d with flash := d.cbl.img, note := { d.note with patchSlots := 0, patchBase := 0, patchDir := [], patchAct := [] } }

/-- What follows the sections of the image with header `h`: the flash is back, the set is checked, the image is named. -/
def Dev.shipNamed (d : Dev) (kept : Tbl Byte) (h : List Byte) : Except Nat Dev :=
  let d := { d with flash := kept }.romSpindles
  if (d.checkSet [] (d.fg AGE_PLAN_VOICES) (d.fg AGE_PLAN_STEP)).isSome then .error 0x0C
  else
    let d := d.setReg rSTG_IMGVER (w32 (le h 0xC 4))
    let d := each (List.range 8) (fun i d => d.setReg (rSTG_IMGDIG i) (w32 (le (imageDigest h) (4 * i) 4))) d
    .ok ((d.fp STG_BOOT_SLOT 3).fp STG_BOOT_CONF 0)

/-- Load the image in RAM (R388): the flash is set aside for it while its sections are read. -/
def Dev.shipLoad (d : Dev) : Except Nat Dev :=
  let h := d.imgHead
  let c := d.headerCode h (2 ^ 32)
  if c ≠ 0 then .error c
  else if sectionCode h ≠ 0 then .error 0x09
  else
    let s := each (List.range 16) (fun k d => d.fp (MEM_BANK_CUR k) 5) d.clearMemory
    let s := each (List.range 16) (fun n d => d.setSpn n { d.spn n with rom := true }) s
    (s.useImg.shipSections (sectEnts h) 33 0).bind fun y => y.shipNamed d.flash h

/-- Every Stock bank passes to the owner named for it (R272). -/
def Dev.banksToOwners (d : Dev) : Dev := each (List.range 16) (fun k d => d.giveBank k (d.fg (MEM_BANK_OWNER k))) d

/-- The load puts content into Stock (R55). -/
def Dev.shipsStock (d : Dev) : Bool :=
  d.headerCode d.imgHead (2 ^ 32) == 0 && sectionCode d.imgHead == 0 && (sectEnts d.imgHead).any fun e => e.ty == 3 || e.ty == 4

/-- IMAGE_LOAD (R388): joining goes on at the lock step; a failure isolates the member with reason 11 until BLANK. An
uncorrectable error on the way into Stock is fatal (R486). -/
def imageLoad (env : BootEnv) (d : Dev) : Dev :=
  if !d.isMember || !d.running || !d.allFree || !d.imgWhole || d.imgSecond then d
  else
    if env.stockBad && d.shipsStock then d.clearMemory.raise 54
    else match d.shipLoad with
    | .ok d' =>
      let d := d'.clearImg.banksToOwners.fp CBL_CENSUS_SHIPCODE 0
      (d.setChain 3 0).sendStatus
    | .error c =>
      let d := d.clearMemory.clearImg.banksToOwners.fp CBL_CENSUS_SHIPCODE c
      ((d.clearVoices.setChain 7 11).sendStatus).portIsolate 0 11

def execRegReq (h : LinkHdr) (tag : Nat) (write : Bool) (addr value : Word) (s : State) : Host.Outcome State Fault Refusal :=
  done s (regReq h tag write addr value s.dev)
def execRegRsp (h : LinkHdr) (tag status : Nat) (value : Word) (s : State) : Host.Outcome State Fault Refusal :=
  done s (regRsp h tag status value s.dev)
def execMemberResponseTimeout (tag : Nat) (s : State) : Host.Outcome State Fault Refusal := done s (memberResponseTimeout tag s.dev)
def execImg (h : LinkHdr) (offset : Nat) (data : List Byte) (s : State) : Host.Outcome State Fault Refusal :=
  done s (img h offset data s.dev)
def execImageLoad (env : BootEnv) (s : State) : Host.Outcome State Fault Refusal := done s (imageLoad env s.dev)

end Sys2Proof.Machine
end

