-- ==== Sys2Proof/Machine/Uart.lean ====
section
/-! DEFINITION. The UARTs (R423 to R432): characters, breaks and dead lines, transmitting; the Swilum frame parser (R433,
R434). -/
namespace Sys2Proof.Machine

/-! ### The frame parser (R433, R434) -/

/-- A discarded frame (R434): the search goes on at the byte after its SOF. -/
def Dev.dropSof (d : Dev) (f : Fld) : Dev :=
  ({ d with host := { d.host with part := d.host.part.drop 1 } }.count f).raise 16

/-- Look at the partial frame until it is empty, a valid frame stands, or bytes are missing; `n` bounds the SOFs looked at. -/
def Dev.settle : Nat → Dev → Dev
  | 0, d => d
  | n + 1, d =>
    let l := d.host.part
    let b := l.map (·.1)
    match b with
    | [] => d
    | s :: body =>
      if s ≠ 0xA5 then Dev.settle n { d with host := { d.host with part := l.drop 1 } }
      else if b.length < 3 then d
      else
        let len := leNat (body.take 2)
        if 1024 < len then Dev.settle n (d.dropSof UART_HCNT_CRC)
        else if b.length < 8 + len then d
        else if crc16 (body.take (5 + len)) = leNat ((body.drop (5 + len)).take 2) then
          { d with host := { d.host with frame := some (l.take (8 + len)), part := l.drop (8 + len) } }
        else Dev.settle n (d.dropSof UART_HCNT_CRC)

/-- Bytes of the receive queue into the parser until a valid frame waits (R432): what is left of them. -/
def Dev.drainBytes : List (Byte × Word × Word) → Dev → List (Byte × Word × Word) × Dev
  | [], d => ([], d)
  | x :: t, d =>
    if d.host.frame.isSome then (x :: t, d)
    else
      let d := { d with host := { d.host with part := d.host.part ++ [x] } }
      Dev.drainBytes t (Dev.settle (d.host.part.length + 1) d)

/-- HOST_RTS_N by the queue level (R432): low in BLANK and CHUCK. -/
def Dev.showRts (d : Dev) : Dev :=
  let u := d.uart 4
  let n := u.rxq.length
  let r := if d.pwr.mode == .blank || d.pwr.mode == .chuck then false
    else if 48 ≤ n then true else if n ≤ 16 then false else u.rts
  d.setUart 4 { u with rts := r }

/-- The parser drains the receive queue as far as it can (R432, R435). -/
def Dev.hostDrain (d : Dev) : Dev :=
  let d := if d.host.frame.isSome then d else Dev.settle (d.host.part.length + 1) d
  let r := Dev.drainBytes (d.uart 4).rxq d
  (r.2.setUart 4 { r.2.uart 4 with rxq := r.1 }).showRts

/-! ### Receiving (R425 to R428) -/

/-- The majority of three samples. -/
def samplesMaj (s : Samples) : Bool := (s.a && s.b) || (s.a && s.c) || (s.b && s.c)

/-- The three samples disagree. -/
def samplesNoisy (s : Samples) : Bool := !(s.a == s.b && s.b == s.c)

/-- Bit i of a character: the line rests high. -/
def charBit (bits : List Samples) (i : Nat) : Samples := bits.getD i ⟨true, true, true⟩

/-- The data bits, least significant first (R423). -/
def charData (bits : List Samples) : Nat :=
  (List.range 8).foldl (fun a i => a + if samplesMaj (charBit bits (i + 1)) then 2 ^ i else 0) 0

/-- Receiver n works: powered, enabled, not dead, its device not frozen (R427, R439, R486). -/
def Dev.receives (d : Dev) (n : Nat) : Bool :=
  decide (n < 5) && d.hears && !d.pwr.frozen && d.on (UART_CFG_EN n) && !d.on (UART_STAT_DEAD n)

/-- The receive-error source of a port (R425). -/
def rxError (n : Nat) : Nat := if n = 4 then 16 else 8 + n

/-- The stop bit is judged at its sample 9: 153 samples of DIV PCLK periods after the start edge (R424, R425). -/
def Dev.charDone (d : Dev) (n : Nat) (start : Word) : Word := start + w32 (153 * d.fg (UART_CFG_DIV n) * 10)

/-- A byte for the queue of port n (R113, R428). -/
def Dev.takeByte (d : Dev) (n : Nat) (x : Byte × Word × Word) : Dev :=
  let u := d.uart n
  if (if n = 4 then 64 else 16) ≤ u.rxq.length then
    let d := (d.fp (UART_STAT_OVR n) 1).count (UART_CNT_OVR n)
    let d := if n < 4 ∧ 8 ≤ (d.waiting (2 + n)).length then d.count NOTE_CNT0_OVFL else d
    d.raise (rxError n)
  else
    let d := d.setUart n { u with rxq := u.rxq ++ [x] }
    if n = 4 then d.hostDrain else d

/-- CHARACTER: one character from its start edge on (R423 to R428). -/
def character (n : Nat) (start : Word) (bits : List Samples) (d : Dev) : Dev :=
  if !d.receives n || samplesMaj (charBit bits 0) then d
  else
    let stop := samplesMaj (charBit bits 9)
    let v := charData bits
    let noise := (List.range 9).any fun i => samplesNoisy (charBit bits (i + 1))
    let d := if noise then (d.fp (UART_STAT_NOISE n) 1).count (UART_CNT_NOISE n) else d
    let low := !stop && v == 0
    let d := d.setUart n { d.uart n with lowPeriod := low }
    if low then ((d.fp (UART_STAT_BRK n) 1).count (UART_CNT_BRK n)).raise (rxError n)
    else if !stop then ((d.fp (UART_STAT_FERR n) 1).count (UART_CNT_FERR n)).raise (rxError n)
    else d.takeByte n (BitVec.ofNat 8 v, start, d.charDone n start)

/-- The messages that the raw bytes of MIDI port n still complete, at most `k` (R92). -/
def Dev.flushMidi (n : Nat) : Nat → Dev → Dev
  | 0, d => d
  | k + 1, d => Dev.flushMidi n k (midiMessage n d)

/-- LINE_DEAD (R92, R427): the line is still low 10 character times after a break's start edge. -/
def lineDead (n : Nat) (d : Dev) : Dev :=
  if !d.receives n || !(d.uart n).lowPeriod then d
  else
    let d := (d.fp (UART_STAT_DEAD n) 1).raise (if n = 4 then 17 else 12 + n)
    if n = 4 then { d with host := { d.host with part := [] } }
    else if !d.alive then d
    else
      let d := Dev.flushMidi n 17 d
      let d := d.setParser n { Parser.idle with armed := (d.parser n).armed }
      d.takeAll (2 + n) (portSilence d.now)

/-- LINE_DEAD_EXIT (R427): the line has been high for 1 ms. -/
def lineDeadExit (n : Nat) (d : Dev) : Dev :=
  if decide (n < 5) && d.hears && !d.pwr.frozen && d.on (UART_STAT_DEAD n) then
    (d.setUart n { d.uart n with lowPeriod := false }).fp (UART_STAT_DEAD n) 0
  else d

/-- INTER_BYTE_TIMEOUT (R434). -/
def interByteTimeout (d : Dev) : Dev :=
  if !d.receives 4 || d.host.frame.isSome || d.host.part.isEmpty then d
  else (d.dropSof UART_HCNT_TOUT).hostDrain

/-! ### Transmitting (R430, R431) -/

/-- Transmitter n may send: enabled, not frozen; a MIDI line rests at mark outside RUN and REST and in an orphan (R20, R393,
R486); an open role and a member not admitted leave it alone (R363). -/
def Dev.transmits (d : Dev) (n : Nat) : Bool :=
  decide (n < 5) && d.hears && !d.pwr.frozen && d.on (UART_CFG_EN n) &&
  (n == 4 || ((d.pwr.mode == .run || d.pwr.mode == .rest) && !d.cbl.orphan))

/-- TRANSMIT_CHARACTER (R424, R431): the oldest byte of the queue. A divider that waits takes effect behind the last one. -/
def transmitCharacter (n : Nat) (ctsHigh : Bool) (d : Dev) : Dev :=
  let u := d.uart n
  match u.txq with
  | [] => d
  | b :: rest =>
    if !d.transmits n || (n == 4 && ctsHigh && d.on UART_HCFG_CTSEN) then d
    else
      let d := d.setUart n { u with txq := rest, tx := some b }
      if !rest.isEmpty then d
      else
        let d := d.fp (UART_STAT_TXBUSY n) 0
        match u.divWait with
        | some v => (d.setUart n { d.uart n with divWait := none }).fp (UART_CFG_DIV n) v
        | none => d

def execCharacter (n : Nat) (start : Word) (bits : List Samples) (s : State) : Host.Outcome State Fault Refusal :=
  done s (character n start bits s.dev)
def execLineDead (n : Nat) (s : State) : Host.Outcome State Fault Refusal := done s (lineDead n s.dev)
def execLineDeadExit (n : Nat) (s : State) : Host.Outcome State Fault Refusal := done s (lineDeadExit n s.dev)
def execInterByteTimeout (s : State) : Host.Outcome State Fault Refusal := done s (interByteTimeout s.dev)
def execTransmitCharacter (n : Nat) (ctsHigh : Bool) (s : State) : Host.Outcome State Fault Refusal :=
  done s (transmitCharacter n ctsHigh s.dev)

end Sys2Proof.Machine
end

