-- ==== Sys2Proof/Machine/Host.lean ====
section
/-! DEFINITION. The commands of the host port (R108, R115, R175, R433 to R438, R463, R494, R525). A command row stands for a
whole frame that has arrived. -/
namespace Sys2Proof.Machine

/-! ### Executing a frame (R115, R434 to R436, R525) -/

/-- The host port can take a frame: powered, enabled, the line not dead, the device not frozen. -/
def Dev.hostOn (d : Dev) : Bool := d.receives 4

/-- A frame that the parser discards (R434). -/
def Dev.badFrame (d : Dev) : Dev := (d.count UART_HCNT_CRC).raise 16

/-- The transmit queue has room for a response of `n` payload bytes behind the status (R435). -/
def Dev.txRoom (d : Dev) (n : Nat) : Bool := decide ((d.uart 4).txq.length + 9 + n ≤ 2048)

/-- The frame that stood for this command is used up, and the parser goes on. -/
def Dev.frameDone (d : Dev) : Dev := { d with host := { d.host with frame := none } }.hostDrain

/-- Present modes of R525. -/
def Dev.inRun (d : Dev) : Bool := d.pwr.mode == .run
def Dev.inService (d : Dev) : Bool := d.pwr.mode == .service
def Dev.inFlashModes (d : Dev) : Bool := d.pwr.mode == .run || d.pwr.mode == .rest || d.pwr.mode == .service
def Dev.inJournalModes (d : Dev) : Bool := d.pwr.mode == .run || d.pwr.mode == .service

/-- A valid frame for a member: its register accesses are forwarded (R394, R435). -/
def Dev.forwardHost (d : Dev) (h : HostHdr) (op : Nat) (todo : List (Bool × Nat × Word)) : Dev :=
  if !(d.isHead && d.censusIds.contains h.devid) then d.respond h.tag op 2 []
  else if todo.isEmpty then d.respond h.tag op 4 []
  else
    { d with host := { d.host with
      wait := some { tag := h.tag, op := op, dev := h.devid, todo := todo, got := [], st := 0, again := 0 } } }.forwardNext

/-- Execute a frame (R115, R434, R435): `room` is the payload of the largest response it can give behind the status,
`modes` whether R525 permits it now, `todo` the accesses to forward when it is for a member, `f` what it does here. A frame
that wakes the device executes in RUN (R525). -/
def Dev.onHost (d : Dev) (h : HostHdr) (op room : Nat) (modes : Dev → Bool) (todo : List (Bool × Nat × Word)) (f : Dev → Dev) :
    Dev :=
  if !d.hostOn then d
  else
    let d := d.wake 7 0
    if !h.ok then d.badFrame
    else match d.host.wait with
      | some w =>
        if w.tag = h.tag ∧ h.tag ≠ 0 then
          { d with host := { d.host with wait := some { w with again := w.again + 1 } } }.frameDone
        else d
      | none =>
        match d.host.cache.find? fun c => h.tag != 0 && c.1 == h.tag with
        | some c => if d.txRoom (c.2.length - 9) then ((d.count NOTE_CNT0_DUP).txPush 4 c.2).frameDone else d
        | none =>
          if !d.txRoom room then d
          else if h.devid ≠ 0 ∧ h.devid ≠ d.devid then (d.forwardHost h op todo).frameDone
          else if !modes d then (d.respond h.tag op 1 []).frameDone
          else (f d).frameDone

/-- Every mode that has a host port. -/
def anyMode (_d : Dev) : Bool := true

/-! ### Registers (R437) -/

/-- PING: SYS_ID and CBL_STAT. -/
def ping (h : HostHdr) (d : Dev) : Dev :=
  d.onHost h 0x01 8 anyMode [(false, rSYS_ID, 0), (false, rCBL_STAT, 0)] fun d =>
    d.respond h.tag 0x01 0 (leBytes 4 (d.peek rSYS_ID).toNat ++ leBytes 4 (d.peek rCBL_STAT).toNat)

/-- The word addresses of an access. -/
def wordsFrom (addr : Word) (n : Nat) : List Nat := (List.range n).map fun i => addr.toNat / 4 * 4 + 4 * i

/-- Read words in turn; the first is the one that `bad` belongs to. -/
def Dev.readWords (d : Dev) (bad : Nat) : List Nat → List Word × Dev
  | [] => ([], d)
  | a :: l =>
    let r := d.busRead a bad
    let s := r.2.readWords 0 l
    (r.1 :: s.1, s.2)

/-- REG_READ: 1 to 64 words; status 1 where the mode rules made one of them 0. -/
def regRead (h : HostHdr) (addr : Word) (count : Nat) (bad : Nat) (d : Dev) : Dev :=
  let as := wordsFrom addr count
  let ok := decide (1 ≤ count) && decide (count ≤ 64)
  d.onHost h 0x02 256 anyMode (if ok then as.map fun a => (false, a, 0) else []) fun d =>
    if !ok then d.respond h.tag 0x02 4 []
    else
      let st := b2n (as.any d.ruled)
      let r := d.readWords bad as
      r.2.respond h.tag 0x02 st (r.1.flatMap fun w => leBytes 4 w.toNat)

/-- The write resets the device (R21, R46). -/
def resets (a : Nat) (v : Word) : Bool := a == rSYS_RESET && fieldOf v 31 16 == 0xC1A5 && bitOf v 0

/-- Write words in turn until one resets the device or takes it to SERVICE: whether all were written (R521). -/
def Dev.writeWords (d : Dev) : List (Nat × Word) → Bool × Dev
  | [] => (true, d)
  | (a, v) :: l =>
    let d' := d.busWrite a v
    if resets a v || (d'.pwr.mode == .service && d.pwr.mode != .service) then (false, d') else d'.writeWords l

/-- REG_WRITE: 1 to 64 words; no response where a write resets the device or takes it to SERVICE (R521). -/
def regWrite (h : HostHdr) (addr : Word) (words : List Word) (d : Dev) : Dev :=
  let l := (wordsFrom addr words.length).zip words
  let ok := decide (1 ≤ words.length) && decide (words.length ≤ 64)
  d.onHost h 0x03 0 anyMode (if ok then l.map fun p => (true, p.1, p.2) else []) fun d =>
    if !ok then d.respond h.tag 0x03 4 []
    else
      let st := b2n (l.any fun p => d.ruled p.1)
      let r := d.writeWords l
      if r.1 then r.2.respond h.tag 0x03 st [] else r.2

/-! ### Music (R107, R108, R113, R175, R430) -/

/-- Split words into whole packets, none where the last is cut short. -/
def splitUmp : Nat → List UmpWord → Option (List (List UmpWord))
  | 0, _ => none
  | n + 1, l =>
    match l with
    | [] => some []
    | u :: _ =>
      let k := umpLen (fieldOf u.w 31 28)
      if l.length < k then none else (splitUmp n (l.drop k)).map fun r => l.take k :: r

/-- Packets to intake; a configuration message writes the ST fields of its register in staging, or counts in UNSUP (R94). -/
def Dev.packets (d : Dev) (l : List (List UmpWord)) (ts : Option Word) : Dev :=
  each l (fun p d =>
    let r := d.packet p ts
    match r.2 with
    | none => r.1
    | some (a, v) =>
      let a := a.toNat / 4 * 4
      if isStaged a then r.1.writeStaged a v else r.1.count NOTE_CNT1_UNSUP) d

/-- Words of the UMP or TIMED_UMP command. A frame waits while the holding stage waits for a full pipeline (R113). -/
def Dev.umpWords (d : Dev) (h : HostHdr) (op : Nat) (ts : Option Word) (words : List UmpWord) : Dev :=
  if !d.pipeFree && !(d.waiting 6).isEmpty then d
  else d.onHost h op 0 Dev.inRun [] fun d =>
    match splitUmp (words.length + 1) words with
    | some l =>
      if words.isEmpty ∨ 64 < words.length then d.respond h.tag op 4 [] else (d.packets l ts).respond h.tag op 0 []
    | none => d.respond h.tag op 4 []

/-- UMP: live or JR stamps. -/
def ump (h : HostHdr) (words : List UmpWord) (d : Dev) : Dev := d.umpWords h 0x08 none words

/-- TIMED_UMP: the supplied stamp (R108). -/
def timedUmp (h : HostHdr) (t : Word) (words : List UmpWord) (d : Dev) : Dev := d.umpWords h 0x09 (some t) words

/-- MIDI_OUT: a message that does not fit is answered with status 7 (R430, R436). -/
def midiOut (h : HostHdr) (port : Nat) (data : List Byte) (d : Dev) : Dev :=
  d.onHost h 0x0A 0 Dev.inRun [] fun d =>
    if 4 ≤ port ∨ data.isEmpty ∨ 64 < data.length then d.respond h.tag 0x0A 4 []
    else if 64 < (d.uart port).txq.length + data.length then d.respond h.tag 0x0A 7 []
    else (d.txPush port data).respond h.tag 0x0A 0 []

/-- A write to patch slot `slot` waits for C to pass its sample (R175). -/
def Dev.patchBusy (d : Dev) (slot : Nat) : Bool :=
  d.note.pipe.any (fun e => e.ev.kind == 0x21 && e.ev.index == 1 && e.ev.value.toNat % 1024 == slot) ||
  (d.waiting 8).any fun m => m.kind == 0x21 && m.index == 1 && m.value.toNat % 1024 == slot

/-- Submit a patch write (R175): the slice loader writes the inactive copy, and a service event carries the stamp. -/
def Dev.submitPatch (d : Dev) (slot : Nat) (stamp : Word) (data : List Byte) : Dev :=
  let off := d.patchAt slot (1 - tget 0 d.note.patchAct slot % 2)
  let d := each (List.range (data.length / 4)) (fun i d =>
    d.fabricWrite (off + 4 * i) 0 (w32 (leNat ((data.drop (4 * i)).take 4)))) d
  d.post 8 (Msg.ofPart 0x21 0 0 0 slot 1 stamp)

/-- PATCH_WRITE (R175): held while a write to the slot is in flight. -/
def patchWrite (h : HostHdr) (slot : Nat) (stamp : Word) (data : List Byte) (d : Dev) : Dev :=
  d.onHost h 0x18 0 Dev.inRun [] fun d =>
    if d.note.patchSlots ≤ slot ∨ data.length ≠ 912 then d.respond h.tag 0x18 4 []
    else if d.patchBusy slot || d.note.patchHeld.any (fun x => x.1 == slot) then
      ({ d with note := { d.note with patchHeld := d.note.patchHeld ++ [(slot, stamp, data)] } }).respond h.tag 0x18 0 []
    else (d.submitPatch slot stamp data).respond h.tag 0x18 0 []

/-- HELD_PATCH_WRITE (R175): the oldest held write to the slot, once C has passed the one before. -/
def heldPatchWrite (slot : Nat) (d : Dev) : Dev :=
  if !d.running || d.patchBusy slot then d
  else match d.note.patchHeld.find? fun x => x.1 == slot with
    | none => d
    | some x =>
      { d with note := { d.note with patchHeld := d.note.patchHeld.erase x } }.submitPatch slot x.2.1 x.2.2

/-! ### Flash (R52, R65, R68, R69) -/

/-- Bytes of the flash. -/
def Dev.flashBytes (d : Dev) : Nat := d.flashSectors * 0x10000

/-- Sector k lies in the region of type `ty`. -/
def Dev.inRegion (d : Dev) (ty k : Nat) : Bool :=
  match d.region ty with
  | some (s, n) => decide (s ≤ k) && decide (k < s + n)
  | none => false

/-- A journal record is open: queued, or of an open transaction. -/
def Dev.journalOpen (d : Dev) : Bool := !d.nvj.queue.isEmpty || !d.nvj.open_.isEmpty

/-- R52 and R69 refuse to erase or program sector k. -/
def Dev.flashRefused (d : Dev) (k : Nat) : Bool :=
  if d.pwr.mode = .service then d.inRegion 3 k && d.journalOpen
  else
    let run := d.fg STG_BOOT_SLOT
    k == 0 || d.inRegion 3 k || d.inRegion 4 k || ((run == 1 || run == 2) && d.inRegion run k)

/-- FLASH_READ. -/
def flashRead (h : HostHdr) (offset len : Nat) (d : Dev) : Dev :=
  d.onHost h 0x20 1000 Dev.inFlashModes [] fun d =>
    if len = 0 ∨ 1000 < len ∨ d.flashBytes < offset + len then d.respond h.tag 0x20 4 []
    else d.respond h.tag 0x20 0 (d.fbs offset len)

/-- FLASH_ERASE. -/
def flashErase (h : HostHdr) (first count : Nat) (d : Dev) : Dev :=
  d.onHost h 0x21 0 Dev.inFlashModes [] fun d =>
    if count = 0 ∨ d.flashSectors < first + count then d.respond h.tag 0x21 4 []
    else
      let l := (List.range count).map (first + ·)
      if l.any d.flashRefused then d.respond h.tag 0x21 6 []
      else ((each l (fun k d => d.ferase k) d).showErased).respond h.tag 0x21 0 []

/-- FLASH_PROG: 1 to 256 bytes within one page. -/
def flashProg (h : HostHdr) (offset : Nat) (data : List Byte) (d : Dev) : Dev :=
  d.onHost h 0x22 0 Dev.inFlashModes [] fun d =>
    if data.isEmpty ∨ 256 < offset % 256 + data.length ∨ d.flashBytes < offset + data.length then d.respond h.tag 0x22 4 []
    else if d.flashRefused (offset / 0x10000) then d.respond h.tag 0x22 6 []
    else ((d.fprog offset data).showErased).respond h.tag 0x22 0 []

/-- VERIFY (R68). -/
def verify (h : HostHdr) (slot : Nat) (d : Dev) : Dev :=
  d.onHost h 0x23 1 Dev.inFlashModes [] fun d =>
    if slot ≠ 1 ∧ slot ≠ 2 then d.respond h.tag 0x23 4 []
    else d.respond h.tag 0x23 0 [BitVec.ofNat 8 (d.slotCode slot)]

/-- CONFIRM (R65, R525). -/
def confirm (h : HostHdr) (d : Dev) : Dev :=
  d.onHost h 0x24 0 (fun d => d.inFlashModes && (d.fg STG_BOOT_SLOT == 1 || d.fg STG_BOOT_SLOT == 2)) [] fun d =>
    d.confirmSlot.respond h.tag 0x24 0 []

/-! ### JOURNAL (R463) -/

/-- A JOURNAL frame: in RUN and SERVICE. -/
def Dev.onJournal (d : Dev) (h : HostHdr) (room : Nat) (f : Dev → Dev) : Dev := d.onHost h 0x28 room Dev.inJournalModes [] f

/-- The response of a JOURNAL sub-command: its result, and what follows. -/
def Dev.jreply (d : Dev) (h : HostHdr) (result : Nat) (pay : List Byte) : Dev :=
  d.respond h.tag 0x28 0 (BitVec.ofNat 8 result :: pay)

/-- Types that the host may write (R463). -/
def hostType (ty : Nat) : Bool :=
  ty == 0x10 || ty == 0x20 || ty == 0x21 || ty == 0x30 || (decide (0x8000 ≤ ty) && decide (ty ≤ 0xFFFF))

/-- The host's command waits for the read-back of its record (R463). -/
def Dev.jwait (d : Dev) (h : HostHdr) : Dev :=
  { d with host := { d.host with wait := some { tag := h.tag, op := 0x28, dev := 0, todo := [], got := [], st := 0, again := 0 } } }

/-- Queue a record for the host (R463): result 2 under PFAIL_N, 3 read-only or with no journal, 4 an unknown TXID. -/
def Dev.jhost (d : Dev) (h : HostHdr) (ty key txid : Nat) (pay : List Byte) : Dev :=
  if d.on NVJ_STAT_PFAIL then d.jreply h 2 []
  else if !d.nvj.ready then d.jreply h 3 []
  else if txid ≠ 0 ∧ !d.txIsOpen txid then d.jreply h 4 []
  else
    let waits := txid == 0 || ty == 1
    let seq := (d.nvj.seq + d.nvj.queue.length) % 2 ^ 32
    let r := d.jpost ty key txid pay waits
    if r.1 ≠ 0 then r.2.jreply h r.1 []
    else if waits then r.2.jwait h
    else r.2.jreply h 0 (leBytes 4 seq)

/-- JOURNAL STAT. -/
def journalStat (h : HostHdr) (d : Dev) : Dev :=
  d.onJournal h 17 fun d =>
    d.jreply h 0 ([rNVJ_STAT, rNVJ_LIVE, rNVJ_LIMIT, rNVJ_LIFE].flatMap fun a => leBytes 4 (d.peek a).toNat)

/-- JOURNAL READ: part of the live record of a type and key. -/
def journalRead (h : HostHdr) (type key offset len : Nat) (d : Dev) : Dev :=
  d.onJournal h 1007 fun d =>
    if len = 0 ∨ 1000 < len then d.respond h.tag 0x28 4 []
    else match d.jfind type key with
      | none => d.jreply h 1 []
      | some r => d.jreply h 0 (leBytes 2 r.pay.length ++ leBytes 4 r.seq ++ (r.pay.drop offset).take len)

/-- JOURNAL NEXT of a keyed type: the next live key. -/
def Dev.nextKey (d : Dev) (type key : Nat) : Option Nat :=
  (d.jlives.filter fun r => r.ty == type && decide (key < r.key)).foldl (fun (a : Option Nat) r =>
    match a with
    | none => some r.key
    | some k => if r.key < k then some r.key else a) none

/-- JOURNAL NEXT of an appended type: the next record newer than the live one of that key, or the oldest where no record
has that key. -/
def Dev.nextNewer (d : Dev) (type key : Nat) : Option JRec :=
  let l := d.jlives.filter fun r => r.ty == type
  match d.jfind type key with
  | none => l.head?
  | some r => l.find? fun x => decide (seqCmp x.seq r.seq > 0)

/-- JOURNAL NEXT. -/
def journalNext (h : HostHdr) (type key : Nat) (d : Dev) : Dev :=
  d.onJournal h 7 fun d =>
    if jappended type then
      match d.nextNewer type key with
      | none => d.jreply h 1 []
      | some r => d.jreply h 0 (leBytes 2 r.key ++ leBytes 4 r.seq)
    else match d.nextKey type key with
      | none => d.jreply h 1 []
      | some k => d.jreply h 0 (leBytes 2 k)

/-- JOURNAL WRITE. -/
def journalWrite (h : HostHdr) (type key txid : Nat) (data : List Byte) (d : Dev) : Dev :=
  d.onJournal h 5 fun d =>
    if 1008 < data.length then d.respond h.tag 0x28 4 []
    else if !hostType type then d.jreply h 5 []
    else d.jhost h type key txid data

/-- JOURNAL DELETE. -/
def journalDelete (h : HostHdr) (type key txid : Nat) (d : Dev) : Dev :=
  d.onJournal h 5 fun d =>
    if !hostType type then d.jreply h 5 [] else d.jhost h 2 0 txid (leBytes 2 type ++ leBytes 2 key)

/-- JOURNAL TXOPEN: result 4 with four open. -/
def journalTxopen (h : HostHdr) (d : Dev) : Dev :=
  d.onJournal h 3 fun d =>
    if !d.nvj.ready || d.on NVJ_STAT_RO then d.jreply h 3 []
    else match d.txOpen with
      | none => d.jreply h 4 []
      | some (t, d) => d.jreply h 0 (leBytes 2 t)

/-- JOURNAL TXCOMMIT: answers once the COMMIT has passed its read-back. -/
def journalTxcommit (h : HostHdr) (txid : Nat) (d : Dev) : Dev :=
  d.onJournal h 5 fun d => if txid = 0 then d.jreply h 4 [] else d.jhost h 1 0 txid []

/-- JOURNAL TXABORT: writes nothing; the transaction's records never take effect, and it counts as abandoned. -/
def journalTxabort (h : HostHdr) (txid : Nat) (d : Dev) : Dev :=
  d.onJournal h 1 fun d =>
    if !d.txIsOpen txid then d.jreply h 4 []
    else
      let d := { d with nvj := { d.nvj with open_ := d.nvj.open_.filter (fun t => t.1 != txid),
                                            queue := d.nvj.queue.filter fun q => q.txid != txid } }
      ((d.count NVJ_CNT_TXDROP).jshow).jreply h 0 []

/-- JOURNAL RECALL: a PRESET's pairs to the staging copy. -/
def journalRecall (h : HostHdr) (preset : Nat) (d : Dev) : Dev :=
  d.onJournal h 3 fun d =>
    match d.jfind 0x21 preset with
    | none => d.jreply h 1 []
    | some r =>
      let l := (pairsOf r.pay).filter fun p => isStaged p.1
      (each l (fun p d => d.writeStaged p.1 p.2) d).jreply h 0 (leBytes 2 l.length)

/-- JOURNAL FORMAT, in SERVICE only: both superblock sectors erased, then R451. -/
def journalFormat (h : HostHdr) (d : Dev) : Dev :=
  d.onHost h 0x28 1 Dev.inService [] fun d =>
    match d.region 3 with
    | none => d.jreply h 3 []
    | some (s, n) =>
      if d.on NVJ_STAT_PFAIL then d.jreply h 2 []
      else
        let d := ((d.ferase s).ferase (s + 1)).fp NVJ_STAT_RO 0
        ((d.jreplay s n).getD d).jreply h 0 []

/-! ### Dumps and fuses (R438, R494) -/

/-- The bytes that DUMP_READ reads from: the RAM copy in bank 15, or a flash slot. -/
def Dev.dumpBytes (d : Dev) (source offset len : Nat) : List Byte :=
  if source = 0 then d.rbs (stockBase + 15 * 0x300000 + offset) len else d.fbs (d.dumpAt source + offset) len

/-- DUMP_READ (R494): status 1 for a slot in erasure, 4 where there is no such copy. -/
def dumpRead (h : HostHdr) (source offset len : Nat) (d : Dev) : Dev :=
  d.onHost h 0x30 1000 (fun d => d.inService || (d.inRun && source != 0)) [] fun d =>
    if 2 < source ∨ len = 0 ∨ 1000 < len ∨ 0x200000 < offset + len then d.respond h.tag 0x30 4 []
    else if source = 0 ∧ !d.evt.dumpValid ∨ source ≠ 0 ∧ (d.region 4).isNone then d.respond h.tag 0x30 4 []
    else if source ≠ 0 ∧ d.evt.erase.any (fun e => e.1 == source) then d.respond h.tag 0x30 1 []
    else d.respond h.tag 0x30 0 (d.dumpBytes source offset len)

/-- A FUSE_BURN frame, in SERVICE only: status 4 and no burn where `ok` fails (R438). -/
def Dev.burn (d : Dev) (h : HostHdr) (ok : Dev → Bool) (f : Dev → Dev) : Dev :=
  d.onHost h 0x38 0 Dev.inService [] fun d => if ok d then (f d).respond h.tag 0x38 0 [] else d.respond h.tag 0x38 4 []

/-- FUSE_BURN field 0. -/
def fuseBurnKeyHash (h : HostHdr) (index : Nat) (value : List Byte) (d : Dev) : Dev :=
  d.burn h (fun d => decide (index < 4) && value.length == 32 && (tfind d.fuses.hash index).isNone) fun d =>
    { d with fuses := { d.fuses with hash := tins d.fuses.hash index value } }

/-- FUSE_BURN field 1. -/
def fuseBurnRevoke (h : HostHdr) (index : Nat) (d : Dev) : Dev :=
  d.burn h (fun _ => decide (index < 4)) fun d =>
    if d.fuses.revoked.contains index then d else { d with fuses := { d.fuses with revoked := d.fuses.revoked ++ [index] } }

/-- FUSE_BURN field 2: the count of burned bits of a 32-bit thermometer field. -/
def fuseBurnMinVersion (h : HostHdr) (index : Nat) (d : Dev) : Dev :=
  d.burn h (fun d => decide (index ≤ 32) && decide (d.fuses.minVer ≤ index)) fun d =>
    { d with fuses := { d.fuses with minVer := index } }

/-- FUSE_BURN field 3: a change of the life cycle wipes Heartwood with cause 4 (R286). -/
def fuseBurnLifeCycle (h : HostHdr) (index : Nat) (d : Dev) : Dev :=
  d.burn h (fun d => decide (index ≤ 3) && decide (d.fuses.lcs ≤ index)) fun d =>
    if d.fuses.lcs = index then d
    else { d with fuses := { d.fuses with lcs := index, lcChanges := d.fuses.lcChanges + 1 } }.wipe 4

/-- A valid frame with an unknown opcode (R436). -/
def unknownOpcode (h : HostHdr) (opcode : Nat) (d : Dev) : Dev :=
  d.onHost h opcode 0 anyMode [] fun d => d.respond h.tag opcode 5 []

/-! ### Meanings -/

def execPing (h : HostHdr) (s : State) : Host.Outcome State Fault Refusal := done s (ping h s.dev)
def execRegRead (h : HostHdr) (addr : Word) (count : Nat) (bad : Nat) (s : State) : Host.Outcome State Fault Refusal :=
  done s (regRead h addr count bad s.dev)
def execRegWrite (h : HostHdr) (addr : Word) (words : List Word) (s : State) : Host.Outcome State Fault Refusal :=
  done s (regWrite h addr words s.dev)
def execUmp (h : HostHdr) (words : List UmpWord) (s : State) : Host.Outcome State Fault Refusal := done s (ump h words s.dev)
def execTimedUmp (h : HostHdr) (t : Word) (words : List UmpWord) (s : State) : Host.Outcome State Fault Refusal :=
  done s (timedUmp h t words s.dev)
def execMidiOut (h : HostHdr) (port : Nat) (data : List Byte) (s : State) : Host.Outcome State Fault Refusal :=
  done s (midiOut h port data s.dev)
def execPatchWrite (h : HostHdr) (slot : Nat) (stamp : Word) (data : List Byte) (s : State) : Host.Outcome State Fault Refusal :=
  done s (patchWrite h slot stamp data s.dev)
def execHeldPatchWrite (slot : Nat) (s : State) : Host.Outcome State Fault Refusal := done s (heldPatchWrite slot s.dev)
def execFlashRead (h : HostHdr) (offset len : Nat) (s : State) : Host.Outcome State Fault Refusal :=
  done s (flashRead h offset len s.dev)
def execFlashErase (h : HostHdr) (first count : Nat) (s : State) : Host.Outcome State Fault Refusal :=
  done s (flashErase h first count s.dev)
def execFlashProg (h : HostHdr) (offset : Nat) (data : List Byte) (s : State) : Host.Outcome State Fault Refusal :=
  done s (flashProg h offset data s.dev)
def execVerify (h : HostHdr) (slot : Nat) (s : State) : Host.Outcome State Fault Refusal := done s (verify h slot s.dev)
def execConfirm (h : HostHdr) (s : State) : Host.Outcome State Fault Refusal := done s (confirm h s.dev)
def execJournalStat (h : HostHdr) (s : State) : Host.Outcome State Fault Refusal := done s (journalStat h s.dev)
def execJournalRead (h : HostHdr) (type key offset len : Nat) (s : State) : Host.Outcome State Fault Refusal :=
  done s (journalRead h type key offset len s.dev)
def execJournalNext (h : HostHdr) (type key : Nat) (s : State) : Host.Outcome State Fault Refusal :=
  done s (journalNext h type key s.dev)
def execJournalWrite (h : HostHdr) (type key txid : Nat) (data : List Byte) (s : State) : Host.Outcome State Fault Refusal :=
  done s (journalWrite h type key txid data s.dev)
def execJournalDelete (h : HostHdr) (type key txid : Nat) (s : State) : Host.Outcome State Fault Refusal :=
  done s (journalDelete h type key txid s.dev)
def execJournalTxopen (h : HostHdr) (s : State) : Host.Outcome State Fault Refusal := done s (journalTxopen h s.dev)
def execJournalTxcommit (h : HostHdr) (txid : Nat) (s : State) : Host.Outcome State Fault Refusal :=
  done s (journalTxcommit h txid s.dev)
def execJournalTxabort (h : HostHdr) (txid : Nat) (s : State) : Host.Outcome State Fault Refusal :=
  done s (journalTxabort h txid s.dev)
def execJournalRecall (h : HostHdr) (preset : Nat) (s : State) : Host.Outcome State Fault Refusal :=
  done s (journalRecall h preset s.dev)
def execJournalFormat (h : HostHdr) (s : State) : Host.Outcome State Fault Refusal := done s (journalFormat h s.dev)
def execDumpRead (h : HostHdr) (source offset len : Nat) (s : State) : Host.Outcome State Fault Refusal :=
  done s (dumpRead h source offset len s.dev)
def execFuseBurnKeyHash (h : HostHdr) (index : Nat) (value : List Byte) (s : State) : Host.Outcome State Fault Refusal :=
  done s (fuseBurnKeyHash h index value s.dev)
def execFuseBurnRevoke (h : HostHdr) (index : Nat) (s : State) : Host.Outcome State Fault Refusal :=
  done s (fuseBurnRevoke h index s.dev)
def execFuseBurnMinVersion (h : HostHdr) (index : Nat) (s : State) : Host.Outcome State Fault Refusal :=
  done s (fuseBurnMinVersion h index s.dev)
def execFuseBurnLifeCycle (h : HostHdr) (index : Nat) (s : State) : Host.Outcome State Fault Refusal :=
  done s (fuseBurnLifeCycle h index s.dev)
def execUnknownOpcode (h : HostHdr) (opcode : Nat) (s : State) : Host.Outcome State Fault Refusal :=
  done s (unknownOpcode h opcode s.dev)

end Sys2Proof.Machine
end

