-- ==== Sys2Proof/Machine/Fatal.lean ====
section
/-! DEFINITION. Fatal faults (R486 to R494): the watchdog, the Shavings dump with its layout, entry to SERVICE, erasing a
dump slot. -/
namespace Sys2Proof.Machine

/-! ### The watchdog (R489) -/

/-- WATCHDOG_EXPIRY: by mode; it is not armed in BLANK and SHELF, and holds while PCLK is stopped. -/
def watchdogExpiry (d : Dev) : Dev :=
  match d.pwr.mode with
  | .blank | .shelf => d
  | .chuck => (((d.count EVT_WDT_RESTARTS).raise 57).bootCode 0x10).enterService
  | .service => ((d.count EVT_WDT_RESTARTS).raise 57).serviceActions
  | .run | .rest =>
    if !d.pclk && !d.on MEM_HW_WIPING then d
    else
      let was := d.pwr.frozen
      let again := was && d.evt.wdt
      let d := (d.count EVT_WDT_RESTARTS).raise 57
      if again then d.enterService.fp EVT_DUMP_RES 5
      else if was then { d with evt := { d.evt with wdt := true }, pwr := { d.pwr with fatalStep := 1 } }
      else d

/-! ### The dump's sections (R491, R493) -/

/-- Bytes filled up with zeros to length `n`. -/
def padTo (n : Nat) (l : List Byte) : List Byte := l.take n ++ List.replicate (n - l.length) 0

/-- The blocks from SYS to TIME but for the VOICE window. -/
def dumpBlocks : List (List RegGroup) :=
  [regsSys, regsStg, regsEvt, regsNote, regsAlloc, regsSpn, regsMix, regsSap, regsCvo, regsTmr, regsCbl, regsNet, regsUart,
   regsNvj, regsAge, regsMem, regsTime]

/-- Runs of consecutive registers of a group: base address and count. -/
def groupRuns (g : RegGroup) : List (Nat × Nat) :=
  let at_ := fun (i j k : Nat) => g.base + i * g.s1 + j * g.s2 + k * g.s3
  if g.s3 = 4 then (List.range g.n1).flatMap fun i => (List.range g.n2).map fun j => (at_ i j 0, g.n3)
  else if g.n3 = 1 ∧ g.s2 = 4 then (List.range g.n1).map fun i => (at_ i 0 0, g.n2)
  else if g.n3 = 1 ∧ g.n2 = 1 ∧ g.s1 = 4 then [(g.base, g.n1)]
  else (List.range g.n1).flatMap fun i => (List.range g.n2).flatMap fun j => (List.range g.n3).map fun k => (at_ i j k, 1)

/-- A register's word in the dump: present time as latched at the freeze, a port's stamps as of its last frame (R491). -/
def Dev.dumpWord (d : Dev) (a : Nat) : Word :=
  if a = rTIME_NOW ∨ a = rTIME_SNAP then d.evt.latchT
  else if a = rTIME_CNTL then w32 d.evt.latchC
  else if a = rTIME_CNTH then w32 (d.evt.latchC / 2 ^ 32)
  else match (List.range 4).find? fun n => a == rSAP_FSTAMP n || a == rSAP_CSTAMP n with
    | some n => if a = rSAP_FSTAMP n then (d.port n).fst else (d.port n).cst
    | none => d.peek a

/-- Section 1: runs of registers, the last of count 0. -/
def Dev.dumpRegs (d : Dev) : List Byte :=
  (dumpBlocks.flatMap fun b => b.flatMap fun g => (groupRuns g).flatMap fun r =>
    leBytes 4 r.1 ++ leBytes 4 r.2 ++ (List.range r.2).flatMap fun i => leBytes 4 (d.dumpWord (r.1 + 4 * i)).toNat) ++
  leBytes 8 0

/-- The pipeline in the order of application (R88). -/
def Dev.pipeOrder (d : Dev) : List PipeEnt :=
  d.note.pipe.foldl (fun (l : List PipeEnt) e =>
    let (a, b) := l.span fun x => !d.evBefore e.sample e.ev x.sample x.ev
    a ++ e :: b) []

/-- Section 2. -/
def Dev.dumpPipe (d : Dev) : List Byte := padTo 2048 (d.pipeOrder.flatMap fun e => Sys2Proof.Machine.recBytes e.ev)

/-- Section 3. -/
def Dev.dumpLast (d : Dev) : List Byte := padTo 4096 (d.note.last.flatMap Sys2Proof.Machine.recBytes)

/-- Section 4: queued requests, summaries by device, the note table; the latter two on the head only. -/
def Dev.dumpAlloc (d : Dev) : List Byte :=
  let q := padTo 256 (d.alloc.queue.flatMap fun k => ((d.entry k).map fun e => Sys2Proof.Machine.recBytes e.ev).getD [])
  let summ := (List.range 254).flatMap fun i => summClasses.flatMap fun c =>
    let s := if d.isHead then d.summOf (i + 1) c else Summ.none
    leBytes 4 s.score.toNat ++ leBytes 2 s.count ++ [0, 0]
  let notes := if d.isHead then d.alloc.notes else []
  let tab := notes.flatMap fun x =>
    leBytes 2 x.tag ++ [BitVec.ofNat 8 x.part, BitVec.ofNat 8 x.chan, BitVec.ofNat 8 x.key, BitVec.ofNat 8 x.target,
      BitVec.ofNat 8 (b2n x.sustained + 2 * b2n x.lost), 0]
  padTo 65536 (padTo 0x4000 (q ++ summ) ++ leBytes 4 notes.length ++ tab.take (6143 * 8))

/-- An entry of section 5. -/
def censusBytes (id state reason depth parent lstate err : Nat) (epoch : Word) : List Byte :=
  [BitVec.ofNat 8 id, BitVec.ofNat 8 state, BitVec.ofNat 8 reason, BitVec.ofNat 8 depth, BitVec.ofNat 8 parent,
   BitVec.ofNat 8 lstate, 0, 0] ++ leBytes 4 err ++ leBytes 4 epoch.toNat

/-- The device's own entry. -/
def Dev.ownCensus (d : Dev) : List Byte :=
  censusBytes d.devid (d.fg CBL_STAT_STATE) (d.fg CBL_STAT_REASON) d.depth (d.fg (CBL_P_STAT_PEER 0)) (d.fg (CBL_P_STAT_LSTATE 0))
    (d.fg CBL_TIME_ERR) (d.reg rSTG_EPOCH)

/-- Section 5: by device ID; on a member its own entry only. A member of the census has CB0 up, an isolated one isolated. -/
def Dev.dumpCensus (d : Dev) : List Byte :=
  (List.range 256).flatMap fun i =>
    if i + 1 = d.devid then d.ownCensus
    else if !d.isHead then List.replicate 16 0
    else match d.cbl.census.find? fun m => m.id == i + 1 with
      | some m => censusBytes m.id m.state m.reason m.depth m.parent (if m.state = 7 then 3 else 2) m.err m.epoch
      | none => List.replicate 16 0

/-- Section 6: time, frontiers, the last 16 AGE_TREND payloads. -/
def Dev.dumpTime (d : Dev) : List Byte :=
  let t := leBytes 9 d.time.off ++ [0, 0, 0] ++ leBytes 4 d.eng.s0.toNat ++ leBytes 4 d.eng.tau0.toNat ++ leBytes 4 d.eng.c.toNat ++
    leBytes 4 d.outPoint.toNat
  let f := (List.range 32).flatMap fun p => leBytes 4 (d.frontier p).toNat
  padTo 4096 (padTo 0x180 (padTo 0x100 t ++ f) ++ d.age.trend.flatMap (padTo 32))

/-- The 256 bytes of a context's registers; `susp` tells that it is suspended. -/
def regImage (r : Regs) (susp : Bool) : List Byte :=
  let h := fun (f : Nat → Nat) (n k : Nat) => (List.range k).flatMap fun i => leBytes n (f i)
  padTo 256 (
    h (fun i => (tget 0 r.d i).toNat) 4 16 ++ h (fun i => (tget 0 r.a i).toNat) 12 4 ++ h (fun i => (tget 0 r.i i).toNat) 2 8 ++
    h (fun i => (tget 0 r.m i).toNat) 2 8 ++ h (fun i => (tget 0 r.wb i).toNat + 65536 * (tget 0 r.wl i).toNat) 4 4 ++
    h (fun i => (tget 0 r.rp i).toNat) 4 4 ++ leBytes 2 r.lc.toNat ++ leBytes 2 r.ls.toNat ++ leBytes 2 r.le.toNat ++ [0, 0] ++
    leBytes 4 r.sr.toNat ++ leBytes 2 r.pc.toNat ++ h (fun i => (r.stack.getD i 0).toNat) 2 4 ++
    [BitVec.ofNat 8 r.stack.length, if susp then 1 else 0])

/-- One context of section 7: X slice, Y slice, registers; an absent one reads 0. -/
def Dev.dumpCtx (d : Dev) (i : Nat) : List Byte :=
  let n := i / 18
  let j := i % 18
  if j < 16 ∧ !d.present (16 * n + j) then List.replicate 4352 0
  else d.rbs (xBase n + 0x800 * j) 2048 ++ d.rbs (yBase n + 0x800 * j) 2048 ++ regImage (d.ctx i).regs ((d.spn n).susp == some i)

/-- The sections with their offsets (R493). -/
def Dev.dumpSections (d : Dev) : List (Nat × Nat × List Byte) :=
  [(1, 0x1000, d.dumpRegs), (2, 0x41000, d.dumpPipe), (3, 0x41800, d.dumpLast), (4, 0x42800, d.dumpAlloc),
   (5, 0x52800, d.dumpCensus), (6, 0x53800, d.dumpTime), (7, 0x54800, (List.range 288).flatMap d.dumpCtx)]

/-- The header of a dump with sequence `q` over the sections `l` (R493). -/
def Dev.dumpHeader (d : Dev) (q : Nat) (l : List (Nat × Nat × List Byte)) : List Byte :=
  let t := d.reg rEVT_FTIME
  let ext := d.extSecAt t
  let ns := (later t (d.reg rTIME_EXTC) % 1000000000).toNat
  let flags := b2n (d.isHead && decide (6143 < d.alloc.notes.length)) + 2 * b2n d.evt.later
  let tab := l.flatMap fun s => leBytes 2 s.1 ++ [0, 0] ++ leBytes 4 s.2.1 ++ leBytes 4 s.2.2.length ++ leBytes 4 (crc32c s.2.2)
  let h := padTo 0xFFC (padTo 0x80 (
    leBytes 4 0x44564853 ++ leBytes 2 1 ++ leBytes 2 0x1000 ++ leBytes 4 q ++ leBytes 4 (d.reg rSYS_ID).toNat ++
    (List.range 16).map Config.deviceUid ++ leBytes 4 (d.reg rSTG_IMGVER).toNat ++ d.imgDigest ++
    [BitVec.ofNat 8 (d.fg EVT_FATAL_SRC), BitVec.ofNat 8 (d.fg EVT_FATAL_MODE), BitVec.ofNat 8 d.devid, BitVec.ofNat 8 flags] ++
    leBytes 4 (d.reg (rEVT_RAW 0)).toNat ++ leBytes 4 (d.reg (rEVT_RAW 1)).toNat ++ leBytes 4 t.toNat ++ leBytes 6 ext ++ [0, 0] ++
    leBytes 4 ns ++ d.nvj.counters.flatMap fun v => leBytes 4 v) ++ tab)
  h ++ leBytes 4 (crc32c h)

/-- Bytes placed at `base`, without those that equal what an unlisted address reads as. -/
def placed (dflt : Byte) (base : Nat) (l : List Byte) : Tbl Byte :=
  (l.zipIdx.map fun p => (base + p.2, p.1)).filter fun p => p.2 != dflt

/-- The range of `n` bytes from `base` in table `t`, whose unlisted bytes read `dflt`, holds just `l`. -/
def putRange (dflt : Byte) (t : Tbl Byte) (base n : Nat) (l : Tbl Byte) : Tbl Byte :=
  t.filter (fun p => decide (p.1 < base)) ++
    (l.foldr (fun p r => tput dflt r p.1 p.2) []).filter (fun p => decide (base ≤ p.1) && decide (p.1 < base + n)) ++
    t.filter fun p => decide (base + n ≤ p.1)

/-- The image of a dump as a table from `base` on, its sections in ascending order behind the header. -/
def dumpTable (dflt : Byte) (base : Nat) (head : List Byte) (l : List (Nat × Nat × List Byte)) : Tbl Byte :=
  placed dflt base head ++ l.flatMap fun s => placed dflt (base + s.2.1) s.2.2

/-! ### The sequence (R486, R490 to R492) -/

/-- In REST the device starts its clocks, without a wake (R486). -/
def Dev.startClocks (d : Dev) : Dev :=
  if d.pwr.mode == .rest then (d.handover 0).setClocks true false true true true else d

/-- The next DSEQ, and the slot for a dump: the erased one, slot 1 where both are (R490). -/
def Dev.nextDseq (d : Dev) : Nat := 1 + max ((d.dumpSeq 1).getD 0) ((d.dumpSeq 2).getD 0)
def Dev.dumpSlot (d : Dev) : Option Nat := [1, 2].find? d.dumpErased

/-- The dump stands in bank 15 (R491): only its bytes are new. -/
def Dev.dumpToRam (d : Dev) (h : List Byte) (l : List (Nat × Nat × List Byte)) : Dev :=
  let ram := stockBase + 15 * 0x300000
  { d with mem := putRange 0 d.mem ram 0x200000 (dumpTable 0 ram h l) }

/-- The dump goes into the flash slot at byte offset `a`, its header last (R492). -/
def Dev.dumpToFlash (d : Dev) (a : Nat) (head : List Byte) (l : List (Nat × Nat × List Byte)) : Dev :=
  { d with flash := putRange 0xFF d.flash a 0x200000 (dumpTable 0xFF a head l) }

/-- The outcome of a dump and its slot. -/
def Dev.dumpOut (d : Dev) (res slot : Nat) : Dev := { d with evt := { d.evt with res := res } }.fp EVT_DUMP_SLOT slot

/-- SHAVINGS_DUMP: steps 2 and 3 (R486): the journal stops, the dump stands in bank 15 and goes into an erased slot, its
header last. `readBackOk` tells whether every page passes its read-back (R492). -/
def shavingsDump (readBackOk : Bool) (d : Dev) : Dev :=
  if !d.pwr.frozen || d.pwr.fatalStep != 1 then d
  else
    let d := d.startClocks.jabandon.addCounter 3 1
    let q := d.nextDseq % 2 ^ 32
    let l := d.dumpSections
    let h := d.dumpHeader q l
    let d := d.dumpToRam h l
    let d := { d with pwr := { d.pwr with fatalStep := 3 }, evt := { d.evt with dumpValid := true } }
    let d := d.fp EVT_DUMP_DSEQ q
    if d.on NVJ_STAT_PFAIL then d.dumpOut 4 0
    else match d.dumpSlot with
      | none => d.dumpOut 3 0
      | some k =>
        let d := (d.dumpToFlash (d.dumpAt k) (if readBackOk then h else []) l).showErased
        if readBackOk then (d.dumpOut 2 k).addCounter 4 1 else d.dumpOut 6 0

/-- DUMP_WRITTEN: step 4 (R486, R492). -/
def dumpWritten (d : Dev) : Dev :=
  if !d.pwr.frozen || d.pwr.fatalStep != 3 then d
  else ({ d with pwr := { d.pwr with fatalStep := 4 } }.fp EVT_DUMP_RES d.evt.res).raise 63

/-- FATAL_SERVICE_ENTRY: step 5 (R486), 1 ms after step 4. -/
def fatalServiceEntry (d : Dev) : Dev := if d.pwr.frozen && d.pwr.fatalStep == 4 then d.enterService else d

/-- The dump slot to erase (R490): the one with no valid dump, else the one with the lower DSEQ, else slot 1. -/
def Dev.slotToErase (d : Dev) : Nat :=
  match d.dumpSeq 1, d.dumpSeq 2 with
  | some _, none => 2
  | some a, some b => if b < a then 2 else 1
  | _, _ => 1

/-- DUMP_SLOT_ERASE (R490): one of the 32 sectors of the slot chosen at entry to RUN with no slot erased. -/
def dumpSlotErase (d : Dev) : Dev :=
  if d.pwr.frozen || !(d.pwr.mode == .run || d.pwr.mode == .rest) || (d.region 4).isNone then d
  else
    let cur := match d.evt.erase with
      | some e => some e
      | none => if d.pwr.mode == .run && d.dumpSlot.isNone then some (d.slotToErase, 0) else none
    match cur with
    | none => d
    | some (k, n) =>
      let d := d.ferase (d.dumpAt k / 0x10000 + n)
      if n + 1 < 32 then { d with evt := { d.evt with erase := some (k, n + 1) } }
      else { d with evt := { d.evt with erase := none } }.showErased

def execWatchdogExpiry (s : State) : Host.Outcome State Fault Refusal := done s (watchdogExpiry s.dev)
def execShavingsDump (readBackOk : Bool) (s : State) : Host.Outcome State Fault Refusal := done s (shavingsDump readBackOk s.dev)
def execDumpWritten (s : State) : Host.Outcome State Fault Refusal := done s (dumpWritten s.dev)
def execFatalServiceEntry (s : State) : Host.Outcome State Fault Refusal := done s (fatalServiceEntry s.dev)
def execDumpSlotErase (s : State) : Host.Outcome State Fault Refusal := done s (dumpSlotErase s.dev)

end Sys2Proof.Machine
end

