-- ==== Sys2Proof/Machine/Isa.lean ====
section
/-! DEFINITION. The meanings of the spindle instruction set, one for each operation of a slot (chapter 8). Each puts its
operation into the bundle of the running context; `last` says that the bundle is complete and issues. What the operation
does when its bundle issues stands in Machine/Bundle.lean. -/
namespace Sys2Proof.Machine

/-- NOP (R241). -/
def execNop (n : Nat) (slot : Slot) (last : Bool) (s : State) : Host.Outcome State Fault Refusal :=
  done s (slotOp n (.nop slot) last s.dev)

/-- LD (R245). -/
def execLd (n : Nat) (f : MemF) (last : Bool) (s : State) : Host.Outcome State Fault Refusal :=
  done s (slotOp n (.mem 1 f) last s.dev)

/-- ST (R245). -/
def execSt (n : Nat) (f : MemF) (last : Bool) (s : State) : Host.Outcome State Fault Refusal :=
  done s (slotOp n (.mem 2 f) last s.dev)

/-- MOD (R246). -/
def execMod (n : Nat) (f : MemF) (last : Bool) (s : State) : Host.Outcome State Fault Refusal :=
  done s (slotOp n (.mem 3 f) last s.dev)

/-- RMAC1 (R249, R250). -/
def execRmac1 (n : Nat) (f : MacF) (last : Bool) (s : State) : Host.Outcome State Fault Refusal :=
  done s (slotOp n (.mac 1 f) last s.dev)

/-- RMAC4 (R249, R250). -/
def execRmac4 (n : Nat) (f : MacF) (last : Bool) (s : State) : Host.Outcome State Fault Refusal :=
  done s (slotOp n (.mac 2 f) last s.dev)

/-- CMAC1 (R249, R250). -/
def execCmac1 (n : Nat) (f : MacF) (last : Bool) (s : State) : Host.Outcome State Fault Refusal :=
  done s (slotOp n (.mac 3 f) last s.dev)

/-- CMAC2 (R249, R250). -/
def execCmac2 (n : Nat) (f : MacF) (last : Bool) (s : State) : Host.Outcome State Fault Refusal :=
  done s (slotOp n (.mac 4 f) last s.dev)

/-- CRMAC2 (R249, R250). -/
def execCrmac2 (n : Nat) (f : MacF) (last : Bool) (s : State) : Host.Outcome State Fault Refusal :=
  done s (slotOp n (.mac 5 f) last s.dev)

/-- RND1 (R252). -/
def execRnd1 (n : Nat) (f : MacF) (last : Bool) (s : State) : Host.Outcome State Fault Refusal :=
  done s (slotOp n (.mac 8 f) last s.dev)

/-- RND4 (R252). -/
def execRnd4 (n : Nat) (f : MacF) (last : Bool) (s : State) : Host.Outcome State Fault Refusal :=
  done s (slotOp n (.mac 9 f) last s.dev)

/-- LDA (R249, R251). -/
def execLda (n : Nat) (f : MacF) (last : Bool) (s : State) : Host.Outcome State Fault Refusal :=
  done s (slotOp n (.mac 10 f) last s.dev)

/-- CLRA (R249). -/
def execClra (n : Nat) (f : MacF) (last : Bool) (s : State) : Host.Outcome State Fault Refusal :=
  done s (slotOp n (.mac 11 f) last s.dev)

/-- ASHA (R249, R251). -/
def execAsha (n : Nat) (f : MacF) (last : Bool) (s : State) : Host.Outcome State Fault Refusal :=
  done s (slotOp n (.mac 12 f) last s.dev)

/-- ADD (R253, R254). -/
def execAdd (n : Nat) (f : AluF) (last : Bool) (s : State) : Host.Outcome State Fault Refusal :=
  done s (slotOp n (.alu 0x1 f 0) last s.dev)

/-- SUB (R253, R254). -/
def execSub (n : Nat) (f : AluF) (last : Bool) (s : State) : Host.Outcome State Fault Refusal :=
  done s (slotOp n (.alu 0x2 f 0) last s.dev)

/-- AND (R253). -/
def execAnd (n : Nat) (f : AluF) (last : Bool) (s : State) : Host.Outcome State Fault Refusal :=
  done s (slotOp n (.alu 0x3 f 0) last s.dev)

/-- OR (R253). -/
def execOr (n : Nat) (f : AluF) (last : Bool) (s : State) : Host.Outcome State Fault Refusal :=
  done s (slotOp n (.alu 0x4 f 0) last s.dev)

/-- XOR (R253). -/
def execXor (n : Nat) (f : AluF) (last : Bool) (s : State) : Host.Outcome State Fault Refusal :=
  done s (slotOp n (.alu 0x5 f 0) last s.dev)

/-- ASL (R253, R254). -/
def execAsl (n : Nat) (f : AluF) (last : Bool) (s : State) : Host.Outcome State Fault Refusal :=
  done s (slotOp n (.alu 0x6 f 0) last s.dev)

/-- ASR (R253). -/
def execAsr (n : Nat) (f : AluF) (last : Bool) (s : State) : Host.Outcome State Fault Refusal :=
  done s (slotOp n (.alu 0x7 f 0) last s.dev)

/-- LSR (R253). -/
def execLsr (n : Nat) (f : AluF) (last : Bool) (s : State) : Host.Outcome State Fault Refusal :=
  done s (slotOp n (.alu 0x8 f 0) last s.dev)

/-- MIN (R253). -/
def execMin (n : Nat) (f : AluF) (last : Bool) (s : State) : Host.Outcome State Fault Refusal :=
  done s (slotOp n (.alu 0x9 f 0) last s.dev)

/-- MAX (R253). -/
def execMax (n : Nat) (f : AluF) (last : Bool) (s : State) : Host.Outcome State Fault Refusal :=
  done s (slotOp n (.alu 0xa f 0) last s.dev)

/-- ABS (R254). -/
def execAbs (n : Nat) (f : AluF) (last : Bool) (s : State) : Host.Outcome State Fault Refusal :=
  done s (slotOp n (.alu 0xb f 0) last s.dev)

/-- NEG (R253, R254). -/
def execNeg (n : Nat) (f : AluF) (last : Bool) (s : State) : Host.Outcome State Fault Refusal :=
  done s (slotOp n (.alu 0xc f 0) last s.dev)

/-- MUL (R253). -/
def execMul (n : Nat) (f : AluF) (last : Bool) (s : State) : Host.Outcome State Fault Refusal :=
  done s (slotOp n (.alu 0xd f 0) last s.dev)

/-- FMUL (R252, R253). -/
def execFmul (n : Nat) (f : AluF) (last : Bool) (s : State) : Host.Outcome State Fault Refusal :=
  done s (slotOp n (.alu 0xe f 0) last s.dev)

/-- CMP (R253). -/
def execCmp (n : Nat) (f : AluF) (last : Bool) (s : State) : Host.Outcome State Fault Refusal :=
  done s (slotOp n (.alu 0xf f 0) last s.dev)

/-- MOV (R253). -/
def execMov (n : Nat) (f : AluF) (last : Bool) (s : State) : Host.Outcome State Fault Refusal :=
  done s (slotOp n (.alu 0x10 f 0) last s.dev)

/-- MOVL (R253). -/
def execMovl (n : Nat) (f : AluF) (last : Bool) (s : State) : Host.Outcome State Fault Refusal :=
  done s (slotOp n (.alu 0x11 f 0) last s.dev)

/-- MOVH (R253). -/
def execMovh (n : Nat) (f : AluF) (last : Bool) (s : State) : Host.Outcome State Fault Refusal :=
  done s (slotOp n (.alu 0x12 f 0) last s.dev)

/-- ADDI (R253, R254). -/
def execAddi (n : Nat) (f : AluF) (last : Bool) (s : State) : Host.Outcome State Fault Refusal :=
  done s (slotOp n (.alu 0x13 f 0) last s.dev)

/-- ASLI (R253, R254). -/
def execAsli (n : Nat) (f : AluF) (last : Bool) (s : State) : Host.Outcome State Fault Refusal :=
  done s (slotOp n (.alu 0x14 f 0) last s.dev)

/-- ASRI (R253). -/
def execAsri (n : Nat) (f : AluF) (last : Bool) (s : State) : Host.Outcome State Fault Refusal :=
  done s (slotOp n (.alu 0x15 f 0) last s.dev)

/-- LSRI (R253). -/
def execLsri (n : Nat) (f : AluF) (last : Bool) (s : State) : Host.Outcome State Fault Refusal :=
  done s (slotOp n (.alu 0x16 f 0) last s.dev)

/-- MVT (R253, R263). -/
def execMvt (n : Nat) (f : AluF) (last : Bool) (s : State) : Host.Outcome State Fault Refusal :=
  done s (slotOp n (.alu 0x18 f 0) last s.dev)

/-- MVF (R253). -/
def execMvf (n : Nat) (f : AluF) (last : Bool) (s : State) : Host.Outcome State Fault Refusal :=
  done s (slotOp n (.alu 0x19 f 0) last s.dev)

/-- RDSYS (R256). -/
def execRdsys (n : Nat) (f : AluF) (last : Bool) (s : State) : Host.Outcome State Fault Refusal :=
  done s (slotOp n (.alu 0x1a f 0) last s.dev)

/-- EVPOP (R257). -/
def execEvpop (n : Nat) (f : AluF) (last : Bool) (s : State) : Host.Outcome State Fault Refusal :=
  done s (slotOp n (.alu 0x1b f 0) last s.dev)

/-- BR (R255, R259). -/
def execBr (n : Nat) (f : AluF) (last : Bool) (s : State) : Host.Outcome State Fault Refusal :=
  done s (slotOp n (.alu 0x20 f 0) last s.dev)

/-- CALL (R259). -/
def execCall (n : Nat) (f : AluF) (last : Bool) (s : State) : Host.Outcome State Fault Refusal :=
  done s (slotOp n (.alu 0x21 f 0) last s.dev)

/-- RET (R259). -/
def execRet (n : Nat) (f : AluF) (last : Bool) (s : State) : Host.Outcome State Fault Refusal :=
  done s (slotOp n (.alu 0x22 f 0) last s.dev)

/-- REP (R260). -/
def execRep (n : Nat) (f : AluF) (last : Bool) (s : State) : Host.Outcome State Fault Refusal :=
  done s (slotOp n (.alu 0x24 f 0) last s.dev)

/-- REPR (R260). -/
def execRepr (n : Nat) (f : AluF) (last : Bool) (s : State) : Host.Outcome State Fault Refusal :=
  done s (slotOp n (.alu 0x25 f 0) last s.dev)

/-- LOOP (R261). -/
def execLoop (n : Nat) (f : AluF) (last : Bool) (s : State) : Host.Outcome State Fault Refusal :=
  done s (slotOp n (.alu 0x26 f 0) last s.dev)

/-- LOOPR (R261). -/
def execLoopr (n : Nat) (f : AluF) (last : Bool) (s : State) : Host.Outcome State Fault Refusal :=
  done s (slotOp n (.alu 0x27 f 0) last s.dev)

/-- ENDS (R262). -/
def execEnds (n : Nat) (f : AluF) (last : Bool) (s : State) : Host.Outcome State Fault Refusal :=
  done s (slotOp n (.alu 0x28 f 0) last s.dev)

/-- SLD (R258); `bad` bits of the Stock word read are in error (R276, R277). -/
def execSld (n : Nat) (f : AluF) (bad : Nat) (last : Bool) (s : State) : Host.Outcome State Fault Refusal :=
  done s (slotOp n (.alu 0x1c f bad) last s.dev)

/-- RLD (R258); `bad` bits of the Stock word read are in error (R276, R277). -/
def execRld (n : Nat) (f : AluF) (bad : Nat) (last : Bool) (s : State) : Host.Outcome State Fault Refusal :=
  done s (slotOp n (.alu 0x1d f bad) last s.dev)

/-- RAPP (R258, R278); `bad` bits of the Stock word read are in error (R276, R277). -/
def execRapp (n : Nat) (f : AluF) (bad : Nat) (last : Bool) (s : State) : Host.Outcome State Fault Refusal :=
  done s (slotOp n (.alu 0x1e f bad) last s.dev)

end Sys2Proof.Machine
end

