-- ==== Sys2Proof/Machine/Dispatch.lean ====
section
/-! DEFINITION. The dispatch: one arm per command, each a call of its meaning. -/
namespace Sys2Proof.Machine

def exec (i : Instr) (s : State) : Host.Outcome State Fault Refusal :=
  match i with
  | .powerOn vaonLost straps => Sys2Proof.Machine.execPowerOn vaonLost straps s
  | .zeroFillComplete => Sys2Proof.Machine.execZeroFillComplete s
  | .pinReset => Sys2Proof.Machine.execPinReset s
  | .softwareReset v => Sys2Proof.Machine.execSoftwareReset v s
  | .blankAdvance env => Sys2Proof.Machine.execBlankAdvance env s
  | .modeRequestChuck w => Sys2Proof.Machine.execModeRequestChuck w s
  | .modeRequestRun w => Sys2Proof.Machine.execModeRequestRun w s
  | .modeRequestRest w => Sys2Proof.Machine.execModeRequestRest w s
  | .modeRequestShelf w => Sys2Proof.Machine.execModeRequestShelf w s
  | .modeRequestService w => Sys2Proof.Machine.execModeRequestService w s
  | .modeRequest6 w => Sys2Proof.Machine.execModeRequest6 w s
  | .modeRequestCancel w => Sys2Proof.Machine.execModeRequestCancel w s
  | .illClr depth => Sys2Proof.Machine.execIllClr depth s
  | .pendingRequestEntry => Sys2Proof.Machine.execPendingRequestEntry s
  | .idleEntry => Sys2Proof.Machine.execIdleEntry s
  | .restWake src hfrcNs => Sys2Proof.Machine.execRestWake src hfrcNs s
  | .pwrEnLow => Sys2Proof.Machine.execPwrEnLow s
  | .shelfWake src => Sys2Proof.Machine.execShelfWake src s
  | .pwrEnHigh => Sys2Proof.Machine.execPwrEnHigh s
  | .check v => Sys2Proof.Machine.execCheck v s
  | .checkComplete => Sys2Proof.Machine.execCheckComplete s
  | .commit v => Sys2Proof.Machine.execCommit v s
  | .discard v => Sys2Proof.Machine.execDiscard v s
  | .commitAbort v => Sys2Proof.Machine.execCommitAbort v s
  | .stagedWrite addr value => Sys2Proof.Machine.execStagedWrite addr value s
  | .registerWrite addr value => Sys2Proof.Machine.execRegisterWrite addr value s
  | .commitApply => Sys2Proof.Machine.execCommitApply s
  | .prepare h epoch t => Sys2Proof.Machine.execPrepare h epoch t s
  | .vote h epoch yes rule reg => Sys2Proof.Machine.execVote h epoch yes rule reg s
  | .chainCommitDeadline => Sys2Proof.Machine.execChainCommitDeadline s
  | .go h epoch => Sys2Proof.Machine.execGo h epoch s
  | .abort h epoch => Sys2Proof.Machine.execAbort h epoch s
  | .selfConfirmation => Sys2Proof.Machine.execSelfConfirmation s
  | .character n start bits => Sys2Proof.Machine.execCharacter n start bits s
  | .lineDead n => Sys2Proof.Machine.execLineDead n s
  | .lineDeadExit n => Sys2Proof.Machine.execLineDeadExit n s
  | .transmitCharacter n ctsHigh => Sys2Proof.Machine.execTransmitCharacter n ctsHigh s
  | .uartDividerWrite n div => Sys2Proof.Machine.execUartDividerWrite n div s
  | .midiMessage n => Sys2Proof.Machine.execMidiMessage n s
  | .activeSensingTimeout n => Sys2Proof.Machine.execActiveSensingTimeout n s
  | .eventEntry src => Sys2Proof.Machine.execEventEntry src s
  | .hwmClear v => Sys2Proof.Machine.execHwmClear v s
  | .eventApply seq => Sys2Proof.Machine.execEventApply seq s
  | .heldPatchWrite slot => Sys2Proof.Machine.execHeldPatchWrite slot s
  | .rollbackOrder n c sample => Sys2Proof.Machine.execRollbackOrder n c sample s
  | .vsBoundary => Sys2Proof.Machine.execVsBoundary s
  | .contextSwitch n c => Sys2Proof.Machine.execContextSwitch n c s
  | .peakClear n v => Sys2Proof.Machine.execPeakClear n v s
  | .allocationRequest => Sys2Proof.Machine.execAllocationRequest s
  | .qhwmClear v => Sys2Proof.Machine.execQhwmClear v s
  | .nop n slot last => Sys2Proof.Machine.execNop n slot last s
  | .ld n f last => Sys2Proof.Machine.execLd n f last s
  | .st n f last => Sys2Proof.Machine.execSt n f last s
  | .mod n f last => Sys2Proof.Machine.execMod n f last s
  | .rmac1 n f last => Sys2Proof.Machine.execRmac1 n f last s
  | .rmac4 n f last => Sys2Proof.Machine.execRmac4 n f last s
  | .cmac1 n f last => Sys2Proof.Machine.execCmac1 n f last s
  | .cmac2 n f last => Sys2Proof.Machine.execCmac2 n f last s
  | .crmac2 n f last => Sys2Proof.Machine.execCrmac2 n f last s
  | .rnd1 n f last => Sys2Proof.Machine.execRnd1 n f last s
  | .rnd4 n f last => Sys2Proof.Machine.execRnd4 n f last s
  | .lda n f last => Sys2Proof.Machine.execLda n f last s
  | .clra n f last => Sys2Proof.Machine.execClra n f last s
  | .asha n f last => Sys2Proof.Machine.execAsha n f last s
  | .add n f last => Sys2Proof.Machine.execAdd n f last s
  | .sub n f last => Sys2Proof.Machine.execSub n f last s
  | .and n f last => Sys2Proof.Machine.execAnd n f last s
  | .or n f last => Sys2Proof.Machine.execOr n f last s
  | .xor n f last => Sys2Proof.Machine.execXor n f last s
  | .asl n f last => Sys2Proof.Machine.execAsl n f last s
  | .asr n f last => Sys2Proof.Machine.execAsr n f last s
  | .lsr n f last => Sys2Proof.Machine.execLsr n f last s
  | .min n f last => Sys2Proof.Machine.execMin n f last s
  | .max n f last => Sys2Proof.Machine.execMax n f last s
  | .abs n f last => Sys2Proof.Machine.execAbs n f last s
  | .neg n f last => Sys2Proof.Machine.execNeg n f last s
  | .mul n f last => Sys2Proof.Machine.execMul n f last s
  | .fmul n f last => Sys2Proof.Machine.execFmul n f last s
  | .cmp n f last => Sys2Proof.Machine.execCmp n f last s
  | .mov n f last => Sys2Proof.Machine.execMov n f last s
  | .movl n f last => Sys2Proof.Machine.execMovl n f last s
  | .movh n f last => Sys2Proof.Machine.execMovh n f last s
  | .addi n f last => Sys2Proof.Machine.execAddi n f last s
  | .asli n f last => Sys2Proof.Machine.execAsli n f last s
  | .asri n f last => Sys2Proof.Machine.execAsri n f last s
  | .lsri n f last => Sys2Proof.Machine.execLsri n f last s
  | .mvt n f last => Sys2Proof.Machine.execMvt n f last s
  | .mvf n f last => Sys2Proof.Machine.execMvf n f last s
  | .rdsys n f last => Sys2Proof.Machine.execRdsys n f last s
  | .evpop n f last => Sys2Proof.Machine.execEvpop n f last s
  | .sld n f bad last => Sys2Proof.Machine.execSld n f bad last s
  | .rld n f bad last => Sys2Proof.Machine.execRld n f bad last s
  | .rapp n f bad last => Sys2Proof.Machine.execRapp n f bad last s
  | .br n f last => Sys2Proof.Machine.execBr n f last s
  | .call n f last => Sys2Proof.Machine.execCall n f last s
  | .ret n f last => Sys2Proof.Machine.execRet n f last s
  | .rep n f last => Sys2Proof.Machine.execRep n f last s
  | .repr n f last => Sys2Proof.Machine.execRepr n f last s
  | .loop n f last => Sys2Proof.Machine.execLoop n f last s
  | .loopr n f last => Sys2Proof.Machine.execLoopr n f last s
  | .ends n f last => Sys2Proof.Machine.execEnds n f last s
  | .bankHandover k owner => Sys2Proof.Machine.execBankHandover k owner s
  | .scrubRead bad => Sys2Proof.Machine.execScrubRead bad s
  | .tamper => Sys2Proof.Machine.execTamper s
  | .voltageGlitch => Sys2Proof.Machine.execVoltageGlitch s
  | .clockGlitch => Sys2Proof.Machine.execClockGlitch s
  | .heartwoodRefill tamperHigh => Sys2Proof.Machine.execHeartwoodRefill tamperHigh s
  | .decimatorSettled => Sys2Proof.Machine.execDecimatorSettled s
  | .dsync rising => Sys2Proof.Machine.execDsync rising s
  | .mixSync v => Sys2Proof.Machine.execMixSync v s
  | .syncSample => Sys2Proof.Machine.execSyncSample s
  | .coefficientWrite addr value => Sys2Proof.Machine.execCoefficientWrite addr value s
  | .pdmControlSample k bits => Sys2Proof.Machine.execPdmControlSample k bits s
  | .frameStart n bclks rx => Sys2Proof.Machine.execFrameStart n bclks rx s
  | .frameLost n => Sys2Proof.Machine.execFrameLost n s
  | .osBoundary => Sys2Proof.Machine.execOsBoundary s
  | .sapStart v => Sys2Proof.Machine.execSapStart v s
  | .portStart n => Sys2Proof.Machine.execPortStart n s
  | .fcntRead n => Sys2Proof.Machine.execFcntRead n s
  | .cvoChnSet n code => Sys2Proof.Machine.execCvoChnSet n code s
  | .cvDrain => Sys2Proof.Machine.execCvDrain s
  | .overTemperature k => Sys2Proof.Machine.execOverTemperature k s
  | .overTemperatureRelease k => Sys2Proof.Machine.execOverTemperatureRelease k s
  | .timerStart v => Sys2Proof.Machine.execTimerStart v s
  | .timerStop v => Sys2Proof.Machine.execTimerStop v s
  | .matchHit n => Sys2Proof.Machine.execMatchHit n s
  | .wrap n => Sys2Proof.Machine.execWrap n s
  | .triggerPulseEnd n => Sys2Proof.Machine.execTriggerPulseEnd n s
  | .gateEdge n => Sys2Proof.Machine.execGateEdge n s
  | .capture n rising count time => Sys2Proof.Machine.execCapture n rising count time s
  | .capRead n sameCycle => Sys2Proof.Machine.execCapRead n sameCycle s
  | .stuck n => Sys2Proof.Machine.execStuck n s
  | .autoTuneGo v => Sys2Proof.Machine.execAutoTuneGo v s
  | .autoTuneDue ch => Sys2Proof.Machine.execAutoTuneDue ch s
  | .autoTuneClaim => Sys2Proof.Machine.execAutoTuneClaim s
  | .autoTuneSettle => Sys2Proof.Machine.execAutoTuneSettle s
  | .autoTuneGate => Sys2Proof.Machine.execAutoTuneGate s
  | .headwaitExpiry => Sys2Proof.Machine.execHeadwaitExpiry s
  | .squelchBreak p => Sys2Proof.Machine.execSquelchBreak p s
  | .beacon p => Sys2Proof.Machine.execBeacon p s
  | .trainingSet p role lpvMin lpvMax set count => Sys2Proof.Machine.execTrainingSet p role lpvMin lpvMax set count s
  | .trainingTimeout p => Sys2Proof.Machine.execTrainingTimeout p s
  | .ack p seq credit => Sys2Proof.Machine.execAck p seq credit s
  | .nak p seq => Sys2Proof.Machine.execNak p seq s
  | .replayTimeout p => Sys2Proof.Machine.execReplayTimeout p s
  | .eventUp h ev => Sys2Proof.Machine.execEventUp h ev s
  | .eventDn h entries => Sys2Proof.Machine.execEventDn h entries s
  | .summary h tag epoch sample sums => Sys2Proof.Machine.execSummary h tag epoch sample sums s
  | .regReq h tag write addr value => Sys2Proof.Machine.execRegReq h tag write addr value s
  | .regRsp h tag status value => Sys2Proof.Machine.execRegRsp h tag status value s
  | .memberResponseTimeout tag => Sys2Proof.Machine.execMemberResponseTimeout tag s
  | .hello h m => Sys2Proof.Machine.execHello h m s
  | .assign h m => Sys2Proof.Machine.execAssign h m s
  | .status h m => Sys2Proof.Machine.execStatus h m s
  | .linkAdmit h sample epoch gen => Sys2Proof.Machine.execLinkAdmit h sample epoch gen s
  | .admission => Sys2Proof.Machine.execAdmission s
  | .img h offset data => Sys2Proof.Machine.execImg h offset data s
  | .imageLoad env => Sys2Proof.Machine.execImageLoad env s
  | .sync h t err => Sys2Proof.Machine.execSync h t err s
  | .syncInterval => Sys2Proof.Machine.execSyncInterval s
  | .pdReq h t2 t3 => Sys2Proof.Machine.execPdReq h t2 t3 s
  | .pdRsp h t1 t2 t3 t4 => Sys2Proof.Machine.execPdRsp h t1 t2 t3 t4 s
  | .pdInterval => Sys2Proof.Machine.execPdInterval s
  | .lockTimeout => Sys2Proof.Machine.execLockTimeout s
  | .sum h sample first vals => Sys2Proof.Machine.execSum h sample first vals s
  | .lost h depth t path => Sys2Proof.Machine.execLost h depth t path s
  | .headlost h => Sys2Proof.Machine.execHeadlost h s
  | .linkLoss p => Sys2Proof.Machine.execLinkLoss p s
  | .orphanEntry => Sys2Proof.Machine.execOrphanEntry s
  | .memberRelease dev => Sys2Proof.Machine.execMemberRelease dev s
  | .memberQuarantine dev => Sys2Proof.Machine.execMemberQuarantine dev s
  | .memberIsolate dev => Sys2Proof.Machine.execMemberIsolate dev s
  | .memberShip dev => Sys2Proof.Machine.execMemberShip dev s
  | .portEnable p v => Sys2Proof.Machine.execPortEnable p v s
  | .timeStep => Sys2Proof.Machine.execTimeStep s
  | .alarm => Sys2Proof.Machine.execAlarm s
  | .gptpSync d m => Sys2Proof.Machine.execGptpSync d m s
  | .announce d gm => Sys2Proof.Machine.execAnnounce d gm s
  | .peerDelay capable ns => Sys2Proof.Machine.execPeerDelay capable ns s
  | .domainLost d => Sys2Proof.Machine.execDomainLost d s
  | .networkLinkChange up speed => Sys2Proof.Machine.execNetworkLinkChange up speed s
  | .msrp n ready failed => Sys2Proof.Machine.execMsrp n ready failed s
  | .mvrp vid joined => Sys2Proof.Machine.execMvrp vid joined s
  | .avtpFrame n f => Sys2Proof.Machine.execAvtpFrame n f s
  | .talkerLaunch n creditOk => Sys2Proof.Machine.execTalkerLaunch n creditOk s
  | .streamTimeout n => Sys2Proof.Machine.execStreamTimeout n s
  | .extensionAnchor => Sys2Proof.Machine.execExtensionAnchor s
  | .timeCntlRead => Sys2Proof.Machine.execTimeCntlRead s
  | .interByteTimeout => Sys2Proof.Machine.execInterByteTimeout s
  | .ping h => Sys2Proof.Machine.execPing h s
  | .regRead h addr count bad => Sys2Proof.Machine.execRegRead h addr count bad s
  | .regWrite h addr words => Sys2Proof.Machine.execRegWrite h addr words s
  | .ump h words => Sys2Proof.Machine.execUmp h words s
  | .timedUmp h t words => Sys2Proof.Machine.execTimedUmp h t words s
  | .midiOut h port data => Sys2Proof.Machine.execMidiOut h port data s
  | .patchWrite h slot stamp data => Sys2Proof.Machine.execPatchWrite h slot stamp data s
  | .flashRead h offset len => Sys2Proof.Machine.execFlashRead h offset len s
  | .flashErase h first count => Sys2Proof.Machine.execFlashErase h first count s
  | .flashProg h offset data => Sys2Proof.Machine.execFlashProg h offset data s
  | .verify h slot => Sys2Proof.Machine.execVerify h slot s
  | .confirm h => Sys2Proof.Machine.execConfirm h s
  | .journalStat h => Sys2Proof.Machine.execJournalStat h s
  | .journalRead h type key offset len => Sys2Proof.Machine.execJournalRead h type key offset len s
  | .journalNext h type key => Sys2Proof.Machine.execJournalNext h type key s
  | .journalWrite h type key txid data => Sys2Proof.Machine.execJournalWrite h type key txid data s
  | .journalDelete h type key txid => Sys2Proof.Machine.execJournalDelete h type key txid s
  | .journalTxopen h => Sys2Proof.Machine.execJournalTxopen h s
  | .journalTxcommit h txid => Sys2Proof.Machine.execJournalTxcommit h txid s
  | .journalTxabort h txid => Sys2Proof.Machine.execJournalTxabort h txid s
  | .journalRecall h preset => Sys2Proof.Machine.execJournalRecall h preset s
  | .journalFormat h => Sys2Proof.Machine.execJournalFormat h s
  | .dumpRead h source offset len => Sys2Proof.Machine.execDumpRead h source offset len s
  | .fuseBurnKeyHash h index value => Sys2Proof.Machine.execFuseBurnKeyHash h index value s
  | .fuseBurnRevoke h index => Sys2Proof.Machine.execFuseBurnRevoke h index s
  | .fuseBurnMinVersion h index => Sys2Proof.Machine.execFuseBurnMinVersion h index s
  | .fuseBurnLifeCycle h index => Sys2Proof.Machine.execFuseBurnLifeCycle h index s
  | .unknownOpcode h opcode => Sys2Proof.Machine.execUnknownOpcode h opcode s
  | .recordWrite env => Sys2Proof.Machine.execRecordWrite env s
  | .sectorErase env => Sys2Proof.Machine.execSectorErase env s
  | .superblockSave env => Sys2Proof.Machine.execSuperblockSave env s
  | .powerFail => Sys2Proof.Machine.execPowerFail s
  | .powerFailClear => Sys2Proof.Machine.execPowerFailClear s
  | .countersRecord => Sys2Proof.Machine.execCountersRecord s
  | .eventLogRecord => Sys2Proof.Machine.execEventLogRecord s
  | .ageCheck v => Sys2Proof.Machine.execAgeCheck v s
  | .scheduledMeasurement => Sys2Proof.Machine.execScheduledMeasurement s
  | .temperatureSample temp => Sys2Proof.Machine.execTemperatureSample temp s
  | .measurement m => Sys2Proof.Machine.execMeasurement m s
  | .measurementLate => Sys2Proof.Machine.execMeasurementLate s
  | .voltageStep avs m => Sys2Proof.Machine.execVoltageStep avs m s
  | .clockStepBegin => Sys2Proof.Machine.execClockStepBegin s
  | .contextRemoval => Sys2Proof.Machine.execContextRemoval s
  | .clockStepApply => Sys2Proof.Machine.execClockStepApply s
  | .ageClear v => Sys2Proof.Machine.execAgeClear v s
  | .evtRawClear h v => Sys2Proof.Machine.execEvtRawClear h v s
  | .holdoffEnd k => Sys2Proof.Machine.execHoldoffEnd k s
  | .watchdogExpiry => Sys2Proof.Machine.execWatchdogExpiry s
  | .shavingsDump readBackOk => Sys2Proof.Machine.execShavingsDump readBackOk s
  | .dumpWritten => Sys2Proof.Machine.execDumpWritten s
  | .fatalServiceEntry => Sys2Proof.Machine.execFatalServiceEntry s
  | .dumpSlotErase => Sys2Proof.Machine.execDumpSlotErase s
  | .resetNRisingEdge straps => Sys2Proof.Machine.execResetNRisingEdge straps s
  | .xo32Qualified => Sys2Proof.Machine.execXo32Qualified s
  | .xrefLeavesRange inRange => Sys2Proof.Machine.execXrefLeavesRange inRange s

end Sys2Proof.Machine
end

