-- ==== Sys2Proof/Machine/Tick.lean ====
section
/-! DEFINITION. What passes where no command waits (log entry 30): one PCLK period of 10 ns (R34), or one period of XO32 where
only that runs (R33, R38). -/
namespace Sys2Proof.Machine

/-- One second in the unit of `time.xo` and `time.tick`, 1/32,768 ns. -/
def secondUnits : Nat := 32768 * 1000000000

/-- Timers that XO32 clocks tick; a match in REST wakes the device (R39, R347). -/
def Dev.xoTimers (d : Dev) : Dev :=
  if d.pwr.frozen then d
  else
    let d' := d.tmrTicks 1
    if (List.range 16).any fun n => d.fg (TMR_CFG_CLK n) == 1 && d'.on (TMR_STAT_MATCH n) && !d.on (TMR_STAT_MATCH n) then
      d'.wake 9 0
    else d'

/-- An edge of XO32: the always-on seconds (R47), the timers it clocks. -/
def Dev.xoEdge (d : Dev) : Dev :=
  let n := d.time.aonXo + 1
  let d := if n < 32768 then { d with time := { d.time with aonXo := n } }
    else { d with time := { d.time with aonXo := 0 } }.setReg rSYS_AON_SEC (d.reg rSYS_AON_SEC + 1)
  d.xoTimers

/-- `u` units of powered time pass: the journal counts seconds (R457, R461). -/
def Dev.pass (d : Dev) (u : Nat) : Dev :=
  let t := d.time.tick + u
  if t < secondUnits then { d with time := { d.time with tick := t } }
  else
    let d := { d with time := { d.time with tick := t - secondUnits } }
    if d.nvj.ready then d.jsecond else d

/-- XO32 moves on by 10 ns, where it runs. -/
def Dev.xoPhase (d : Dev) : Dev :=
  if !d.on SYS_CLKSTAT_XO32_OK then d
  else
    let x := d.time.xo + 327680
    if x < 1000000000 then { d with time := { d.time with xo := x } }
    else { d with time := { d.time with xo := x - 1000000000 } }.xoEdge

/-- One PCLK period: c gains 2 and 3 cycles of LCLK in turn where that runs (R397), timers on PCLK tick, a piece of an image
is shipped (R388). -/
def Dev.pclkTick (d : Dev) : Dev :=
  let t := d.time
  let d := if d.lclk then { d with time := { t with c := (t.c + 2 + b2n t.half) % 2 ^ 64, half := !t.half } } else d
  let d := if d.pwr.frozen then d else d.tmrTicks 0
  (d.shipStep.xoPhase).pass 327680

/-- One XO32 period in idle REST-COLD: chain time goes on by 10^9 / 32,768 ns (R38). -/
def Dev.coldTick (d : Dev) : Dev :=
  let d := match d.time.cold with
    | some (ns, f) =>
      let g := f + 18944
      { d with time := { d.time with cold := some ((ns + 30517 + g / 32768) % 2 ^ 32, g % 32768) } }
    | none => d
  d.xoEdge.pass 1000000000

/-- The step of an empty queue. -/
def Dev.idle (d : Dev) : Dev :=
  if d.pwr.mode = .shelf then (if d.on SYS_CLKSTAT_XO32_OK then d.xoEdge else d)
  else if d.pclk then d.pclkTick
  else d.coldTick

end Sys2Proof.Machine
end

