-- ==== Sys2Proof/Machine/Step.lean ====
section
/-! DEFINITION. One step: the command at the front of the queue, or one idle cycle where none waits. -/
namespace Sys2Proof.Machine

/-- Take the command at the front and run it with the queue's rest; on an empty queue, let time pass (log entry 30). -/
def step (s : State) : Host.Outcome State Fault Refusal :=
  match s.pending with
  | [] => done s s.dev.idle
  | c :: rest => exec c { s with pending := rest }

/-- The state with the command that the word spells in front of its queue; the table gives no word a command. -/
def State.withFetchWord (s : State) (nbits w : Nat) : State :=
  match decodeTableWord nbits w with
  | some c => { s with pending := c :: s.pending }
  | none => s

end Sys2Proof.Machine
end

