-- ==== Sys2Proof/WellFormed.lean ====
section
/-! DEFINITION. Well-formed commands: what an event of the environment can carry by the spec's own ranges. Every command has its
meaning whether well formed or not. -/
namespace Sys2Proof

/-- `x` lies below `n`. -/
def below (n x : Nat) : Bool := decide (x < n)

/-- A link frame's carrier (R370): one of three ports, 8-bit IDs, a 16-bit SEQ. -/
def linkOk (h : LinkHdr) : Bool := below 3 h.port && below 256 h.dst && below 256 h.src && below 65536 h.seq

/-- A Swilum frame's carrier (R433). -/
def hostOk (h : HostHdr) : Bool := below 256 h.tag && below 256 h.devid

/-- One of the 16 spindles, of the five UARTs, of four like ports, of the three link ports. -/
def spnOk (n : Nat) : Bool := below 16 n
def uartOk (n : Nat) : Bool := below 5 n
def quadOk (n : Nat) : Bool := below 4 n
def linkPort (p : Nat) : Bool := below 3 p

/-- A Stock word has no bit in error, one, or more (R275, R276). -/
def wordBad (bad : Nat) : Bool := below 3 bad

/-- The sources that can leave SHELF (R39): MIDI0, host, pin. -/
def shelfSrc (src : Nat) : Bool := src == 0 || src == 7 || src == 8

/-- An opcode that R437 does not list, and no response's. -/
def unlisted (op : Nat) : Bool :=
  below 128 op && !([0x01, 0x02, 0x03, 0x08, 0x09, 0x0A, 0x18, 0x20, 0x21, 0x22, 0x23, 0x24, 0x28, 0x30, 0x38].contains op)

/-- The operands of a command lie in their ranges. -/
def Instr.wf (i : Instr) : Bool :=
  match i with
  | .powerOn _ _ => true
  | .zeroFillComplete => true
  | .pinReset => true
  | .softwareReset _ => true
  | .blankAdvance _ => true
  | .modeRequestChuck _ => true
  | .modeRequestRun _ => true
  | .modeRequestRest _ => true
  | .modeRequestShelf _ => true
  | .modeRequestService _ => true
  | .modeRequest6 _ => true
  | .modeRequestCancel _ => true
  | .illClr _ => true
  | .pendingRequestEntry => true
  | .idleEntry => true
  | .restWake src _ => below 11 src
  | .pwrEnLow => true
  | .shelfWake src => shelfSrc src
  | .pwrEnHigh => true
  | .check _ => true
  | .checkComplete => true
  | .commit _ => true
  | .discard _ => true
  | .commitAbort _ => true
  | .stagedWrite _ _ => true
  | .registerWrite _ _ => true
  | .commitApply => true
  | .prepare h _ _ => linkOk h
  | .vote h _ _ _ _ => linkOk h
  | .chainCommitDeadline => true
  | .go h _ => linkOk h
  | .abort h _ => linkOk h
  | .selfConfirmation => true
  | .character n _ bits => uartOk n && (bits.length == 10)
  | .lineDead n => uartOk n
  | .lineDeadExit n => uartOk n
  | .transmitCharacter n _ => uartOk n
  | .uartDividerWrite n div => uartOk n && (below 65536 div && div != 0)
  | .midiMessage n => quadOk n
  | .activeSensingTimeout n => quadOk n
  | .eventEntry src => below 9 src
  | .hwmClear _ => true
  | .eventApply seq => below 65536 seq
  | .heldPatchWrite slot => below 1024 slot
  | .rollbackOrder n c _ => spnOk n && below 18 c
  | .vsBoundary => true
  | .contextSwitch n c => spnOk n && below 18 c
  | .peakClear n _ => spnOk n
  | .allocationRequest => true
  | .qhwmClear _ => true
  | .nop n _ _ => spnOk n
  | .ld n _ _ => spnOk n
  | .st n _ _ => spnOk n
  | .mod n _ _ => spnOk n
  | .rmac1 n _ _ => spnOk n
  | .rmac4 n _ _ => spnOk n
  | .cmac1 n _ _ => spnOk n
  | .cmac2 n _ _ => spnOk n
  | .crmac2 n _ _ => spnOk n
  | .rnd1 n _ _ => spnOk n
  | .rnd4 n _ _ => spnOk n
  | .lda n _ _ => spnOk n
  | .clra n _ _ => spnOk n
  | .asha n _ _ => spnOk n
  | .add n _ _ => spnOk n
  | .sub n _ _ => spnOk n
  | .and n _ _ => spnOk n
  | .or n _ _ => spnOk n
  | .xor n _ _ => spnOk n
  | .asl n _ _ => spnOk n
  | .asr n _ _ => spnOk n
  | .lsr n _ _ => spnOk n
  | .min n _ _ => spnOk n
  | .max n _ _ => spnOk n
  | .abs n _ _ => spnOk n
  | .neg n _ _ => spnOk n
  | .mul n _ _ => spnOk n
  | .fmul n _ _ => spnOk n
  | .cmp n _ _ => spnOk n
  | .mov n _ _ => spnOk n
  | .movl n _ _ => spnOk n
  | .movh n _ _ => spnOk n
  | .addi n _ _ => spnOk n
  | .asli n _ _ => spnOk n
  | .asri n _ _ => spnOk n
  | .lsri n _ _ => spnOk n
  | .mvt n _ _ => spnOk n
  | .mvf n _ _ => spnOk n
  | .rdsys n _ _ => spnOk n
  | .evpop n _ _ => spnOk n
  | .sld n _ bad _ => spnOk n && wordBad bad
  | .rld n _ bad _ => spnOk n && wordBad bad
  | .rapp n _ bad _ => spnOk n && wordBad bad
  | .br n _ _ => spnOk n
  | .call n _ _ => spnOk n
  | .ret n _ _ => spnOk n
  | .rep n _ _ => spnOk n
  | .repr n _ _ => spnOk n
  | .loop n _ _ => spnOk n
  | .loopr n _ _ => spnOk n
  | .ends n _ _ => spnOk n
  | .bankHandover k owner => below 16 k && below 8 owner
  | .scrubRead bad => wordBad bad
  | .tamper => true
  | .voltageGlitch => true
  | .clockGlitch => true
  | .heartwoodRefill _ => true
  | .decimatorSettled => true
  | .dsync _ => true
  | .mixSync _ => true
  | .syncSample => true
  | .coefficientWrite _ _ => true
  | .pdmControlSample k _ => below 8 k
  | .frameStart n _ rx => quadOk n && below 33 rx.length
  | .frameLost n => quadOk n
  | .osBoundary => true
  | .sapStart _ => true
  | .portStart n => quadOk n
  | .fcntRead n => quadOk n
  | .cvoChnSet n code => below 16 n && below 65536 code
  | .cvDrain => true
  | .overTemperature k => below 2 k
  | .overTemperatureRelease k => below 2 k
  | .timerStart _ => true
  | .timerStop _ => true
  | .matchHit n => below 16 n
  | .wrap n => below 16 n
  | .triggerPulseEnd n => below 16 n
  | .gateEdge n => below 16 n
  | .capture n _ _ _ => below 16 n
  | .capRead n _ => below 16 n
  | .stuck n => below 16 n
  | .autoTuneGo _ => true
  | .autoTuneDue ch => below 16 ch
  | .autoTuneClaim => true
  | .autoTuneSettle => true
  | .autoTuneGate => true
  | .headwaitExpiry => true
  | .squelchBreak p => linkPort p
  | .beacon p => linkPort p
  | .trainingSet p _ _ _ set _ => linkPort p && (set == 1 || set == 2)
  | .trainingTimeout p => linkPort p
  | .ack p seq _ => linkPort p && below 65536 seq
  | .nak p seq => linkPort p && below 65536 seq
  | .replayTimeout p => linkPort p
  | .eventUp h _ => linkOk h
  | .eventDn h entries => linkOk h && (entries != [])
  | .summary h tag _ _ sums => linkOk h && below 65536 tag && (sums.length == 5)
  | .regReq h tag _ _ _ => linkOk h && below 256 tag
  | .regRsp h tag _ _ => linkOk h && below 256 tag
  | .memberResponseTimeout tag => below 256 tag
  | .hello h _ => linkOk h
  | .assign h _ => linkOk h
  | .status h _ => linkOk h
  | .linkAdmit h _ _ gen => linkOk h && below 65536 gen
  | .admission => true
  | .img h _ data => linkOk h && (below 121 data.length && data != [])
  | .imageLoad _ => true
  | .sync h _ _ => linkOk h
  | .syncInterval => true
  | .pdReq h _ _ => linkOk h
  | .pdRsp h _ _ _ _ => linkOk h
  | .pdInterval => true
  | .lockTimeout => true
  | .sum h _ first vals => linkOk h && (first % 16 == 0 && below 64 first) && vals.all (fun v => decide (first ≤ v.1) && below (first + 16) v.1)
  | .lost h depth _ _ => linkOk h && below 256 depth
  | .headlost h => linkOk h
  | .linkLoss p => linkPort p
  | .orphanEntry => true
  | .memberRelease dev => below 256 dev
  | .memberQuarantine dev => below 256 dev
  | .memberIsolate dev => below 256 dev
  | .memberShip dev => below 256 dev
  | .portEnable p _ => linkPort p
  | .timeStep => true
  | .alarm => true
  | .gptpSync d _ => below 2 d
  | .announce d _ => below 2 d
  | .peerDelay _ _ => true
  | .domainLost d => below 2 d
  | .networkLinkChange _ _ => true
  | .msrp n _ _ => below 8 n
  | .mvrp _ _ => true
  | .avtpFrame n _ => below 8 n
  | .talkerLaunch n _ => below 8 n
  | .streamTimeout n => below 8 n
  | .extensionAnchor => true
  | .timeCntlRead => true
  | .interByteTimeout => true
  | .ping h => hostOk h
  | .regRead h _ count bad => hostOk h && below 256 count && wordBad bad
  | .regWrite h _ words => hostOk h && below 256 words.length
  | .ump h words => hostOk h && below 257 words.length
  | .timedUmp h _ words => hostOk h && below 256 words.length
  | .midiOut h port data => hostOk h && below 256 port && below 1021 data.length
  | .patchWrite h slot _ data => hostOk h && below 65536 slot && below 1017 data.length
  | .flashRead h offset len => hostOk h && below 4294967296 offset && below 65536 len
  | .flashErase h first count => hostOk h && below 4294967296 first && below 65536 count
  | .flashProg h offset data => hostOk h && below 4294967296 offset && below 1021 data.length
  | .verify h slot => hostOk h && below 256 slot
  | .confirm h => hostOk h
  | .journalStat h => hostOk h
  | .journalRead h type key offset len => hostOk h && below 65536 type && below 65536 key && below 65536 offset && below 65536 len
  | .journalNext h type key => hostOk h && below 65536 type && below 65536 key
  | .journalWrite h type key txid data => hostOk h && below 65536 type && below 65536 key && below 65536 txid && below 1018 data.length
  | .journalDelete h type key txid => hostOk h && below 65536 type && below 65536 key && below 65536 txid
  | .journalTxopen h => hostOk h
  | .journalTxcommit h txid => hostOk h && below 65536 txid
  | .journalTxabort h txid => hostOk h && below 65536 txid
  | .journalRecall h preset => hostOk h && below 65536 preset
  | .journalFormat h => hostOk h
  | .dumpRead h source offset len => hostOk h && below 256 source && below 4294967296 offset && below 65536 len
  | .fuseBurnKeyHash h index _ => hostOk h && below 256 index
  | .fuseBurnRevoke h index => hostOk h && below 256 index
  | .fuseBurnMinVersion h index => hostOk h && below 256 index
  | .fuseBurnLifeCycle h index => hostOk h && below 256 index
  | .unknownOpcode h opcode => hostOk h && unlisted opcode
  | .recordWrite _ => true
  | .sectorErase _ => true
  | .superblockSave _ => true
  | .powerFail => true
  | .powerFailClear => true
  | .countersRecord => true
  | .eventLogRecord => true
  | .ageCheck _ => true
  | .scheduledMeasurement => true
  | .temperatureSample _ => true
  | .measurement _ => true
  | .measurementLate => true
  | .voltageStep _ _ => true
  | .clockStepBegin => true
  | .contextRemoval => true
  | .clockStepApply => true
  | .ageClear _ => true
  | .evtRawClear h _ => below 2 h
  | .holdoffEnd k => below 64 k
  | .watchdogExpiry => true
  | .shavingsDump _ => true
  | .dumpWritten => true
  | .fatalServiceEntry => true
  | .dumpSlotErase => true
  | .resetNRisingEdge _ => true
  | .xo32Qualified => true
  | .xrefLeavesRange _ => true

end Sys2Proof
end

