-- ==== Sys2Proof/Safety.lean ====
section
/-! DEFINITION. What counts as a sound state, in the terms the claims use: memories, register file and flash in canonical
form, fuses that only ever gain burned bits, commands that wait in their ranges, what a statement lets a command leave alone, and
what each command may change at all. -/
namespace Sys2Proof.Machine

/-- A memory whose unlisted bytes read `b` is in canonical form: addresses rise, no entry says what an unlisted one reads as. -/
def Memory.wf (b : Byte) (m : Tbl Byte) : Bool := twf (fun _ => b) m

/-- The register file, memory, flash and the image a member receives are in canonical form. -/
def Dev.canonical (d : Dev) : Bool :=
  twf resetWord d.live && Memory.wf 0 d.mem && Memory.wf 0xFF d.flash && Memory.wf 0xFF d.cbl.img

/-- The fuse fields hold what fuses can hold (R57, R58, R285): hashes of 32 bytes in slots 0 to 3 in rising order, at most
32 burned version bits, a life-cycle state of 0 to 3. -/
def Fuses.sound (f : Fuses) : Bool :=
  tsorted none f.hash && f.hash.all (fun p => decide (p.1 < 4) && p.2.length == 32) && f.revoked.all (fun k => decide (k < 4)) &&
  decide (f.minVer ≤ 32) && decide (f.lcs ≤ 3)

/-- `g` is `f` with more burned, never less (R438): hashes stay, revocations stay, version and life cycle do not fall. -/
def Fuses.burnedFrom (f g : Fuses) : Prop :=
  (∀ k h, tfind f.hash k = some h → tfind g.hash k = some h) ∧ (∀ k, k ∈ f.revoked → k ∈ g.revoked) ∧ f.minVer ≤ g.minVer ∧
  f.lcs ≤ g.lcs ∧ f.lcChanges ≤ g.lcChanges

/-- Every command that waits is well formed. -/
def State.queueOk (s : State) : Bool := s.pending.all Instr.wf

/-- Operation `o` issues as a bundle of its own in context j of spindle n: the spindle runs it, no other operation of the
bundle is there yet, no repetition is pending, no result is in flight, and the bundle does not trap (R236 to R238). -/
abbrev Dev.issuesAlone (d : Dev) (n j : Nat) (o : Op) : Prop :=
  d.running = true ∧ n < 16 ∧ d.on (SPN_STATUS_TRAPPED n) = false ∧ (d.spn n).cur = some j ∧ (d.spn n).bundle = [] ∧
  (d.ctx (18 * n + j)).rep = none ∧ (d.ctx (18 * n + j)).flight = [] ∧ d.trapCause n (d.ctx (18 * n + j)) [o] = 0

/-- From `s` to `t`, context `i` sees each result (register, value) of the list `dist` issue cycles after the bundle, and no other
D register then differs; before that it sees the old values (R263). -/
def State.lands (s t : State) (i dist : Nat) (l : List (Nat × Word)) : Prop :=
  let c := s.dev.ctx i
  let now := ((t.dev.ctx i).landTo (c.cyc + dist)).regs
  (∀ p ∈ l, now.rd p.1 = p.2) ∧ (∀ k, (∀ p ∈ l, k % 16 ≠ p.1 % 16) → now.rd k = c.regs.rd k) ∧
  (2 ≤ dist → ∀ k, ((t.dev.ctx i).landTo (c.cyc + dist - 1)).regs.rd k = c.regs.rd k)

/-- A register of the event unit: raising a source writes there (R482, R485). -/
def isEvtReg (a : Nat) : Bool := decide (0x20000 ≤ a) && decide (a < 0x30000)

/-- From `s` to `t` every register keeps its value but those of the list and, where a source was raised, the event unit's. -/
def State.keepsRegisters (s t : State) (l : List Nat) : Prop :=
  ∀ a, a ∉ l → isEvtReg a = false → t.dev.reg a = s.dev.reg a

/-- From `s` to `t` one bundle issued in context i of spindle n and worked on that context only: every byte of memory, every
register but the overrun count (R236) and the event unit's, every other context and the rest of the state are as they
were; of the context itself only registers, cycle, results in flight and control have moved. -/
def State.keepsElse (s t : State) (n i : Nat) : Prop :=
  (∀ a, t.dev.rb a = s.dev.rb a) ∧ s.keepsRegisters t [rSPN_OVRUN n] ∧ (∀ k, k ≠ i → t.dev.ctx k = s.dev.ctx k) ∧
  (∀ m, m ≠ n → t.dev.spn m = s.dev.spn m) ∧
  t = { s with dev := { s.dev with live := t.dev.live, evt := t.dev.evt, ctxs := t.dev.ctxs, spns := t.dev.spns } }

/-- Context i from `s` to `t`: one more issue cycle, and nothing changed but registers, cycle, flight and control. -/
def State.keepsCtx (s t : State) (i : Nat) : Prop :=
  let c := s.dev.ctx i
  let c' := t.dev.ctx i
  c'.cyc = c.cyc + 1 ∧ c' = { c with
    regs := c'.regs, cyc := c'.cyc, flight := c'.flight, acc := c'.acc, rep := c'.rep, delay := c'.delay,
    lastStock := c'.lastStock }

/-- Of the registers of context `i`, from `s` to `t` only D, SR, PC and LC may differ. -/
def State.keepsRegs (s t : State) (i : Nat) : Prop :=
  let r := (s.dev.ctx i).regs
  let r' := (t.dev.ctx i).regs
  r'.a = r.a ∧ r'.i = r.i ∧ r'.m = r.m ∧ r'.wb = r.wb ∧ r'.wl = r.wl ∧ r'.rp = r.rp ∧ r'.ls = r.ls ∧ r'.le = r.le ∧
  r'.stack = r.stack

/-! ### Frames of the link (chapter 12) -/

/-- The header and the TYPE of the link frame that a command brings (R376); none for every other command. -/
def linkFrame : Instr → Option (LinkHdr × Nat)
  | .eventUp h _ => some (h, 0x01)
  | .eventDn h _ => some (h, 0x02)
  | .summary h _ _ _ _ => some (h, 0x03)
  | .regReq h _ _ _ _ => some (h, 0x04)
  | .regRsp h _ _ _ => some (h, 0x05)
  | .prepare h _ _ => some (h, 0x08)
  | .vote h _ _ _ _ => some (h, 0x09)
  | .go h _ => some (h, 0x0A)
  | .abort h _ => some (h, 0x0B)
  | .hello h _ => some (h, 0x10)
  | .assign h _ => some (h, 0x11)
  | .status h _ => some (h, 0x12)
  | .linkAdmit h _ _ _ => some (h, 0x13)
  | .img h _ _ => some (h, 0x18)
  | .sync h _ _ => some (h, 0x20)
  | .pdReq h _ _ => some (h, 0x21)
  | .pdRsp h _ _ _ _ => some (h, 0x22)
  | .sum h _ _ _ => some (h, 0x28)
  | .lost h _ _ _ => some (h, 0x29)
  | .headlost h => some (h, 0x2A)
  | _ => none

/-- Frame h is accepted and is for this device (R372, R375): its port is up, it is good and the next in sequence. -/
abbrev Dev.takes (d : Dev) (h : LinkHdr) : Prop :=
  d.linkUp h.port = true ∧ h.ok = true ∧ seqLater h.seq (d.lport h.port).rx = 0 ∧ d.mine h = true

/-- The oldest-first list of ordered sets after one more (R372). -/
def LPort.acksWith (x : LPort) (a : Nat × Nat) : List (Nat × Nat) := (x.acks ++ [a]).drop (x.acks.length + 1 - 16)

/-- From `s` to `t` frame h has been acknowledged (R372). -/
def State.acked (s t : State) (h : LinkHdr) : Prop :=
  let x := s.dev.lport h.port
  let y := t.dev.lport h.port
  y.rx = (x.rx + 1) % 0x10000 ∧ y.nakOut = false ∧ y.acks = x.acksWith (0, h.seq)

/-- From `s` to `t` one frame more waits on port p for its acknowledgement, the given one under the port's next SEQ (R372). -/
def State.sent (s t : State) (p ty dst src : Nat) (pay : List Byte) : Prop :=
  let x := s.dev.lport p
  (t.dev.lport p).replay = x.replay ++ [{ ty := ty, dst := dst, src := src, seq := x.tx, pay := pay }] ∧
  (t.dev.lport p).tx = (x.tx + 1) % 0x10000

/-! ### Frames of the host port (chapter 14) -/

/-- The header, the OPCODE and the payload of the largest response, of the Swilum frame that a command stands for (R437). -/
def hostFrame : Instr → Option (HostHdr × Nat × Nat)
  | .ping h => some (h, 0x01, 8)
  | .regRead h _ _ _ => some (h, 0x02, 256)
  | .regWrite h _ _ => some (h, 0x03, 0)
  | .ump h _ => some (h, 0x08, 0)
  | .timedUmp h _ _ => some (h, 0x09, 0)
  | .midiOut h _ _ => some (h, 0x0A, 0)
  | .patchWrite h _ _ _ => some (h, 0x18, 0)
  | .flashRead h _ _ => some (h, 0x20, 1000)
  | .flashErase h _ _ => some (h, 0x21, 0)
  | .flashProg h _ _ => some (h, 0x22, 0)
  | .verify h _ => some (h, 0x23, 1)
  | .confirm h => some (h, 0x24, 0)
  | .journalStat h => some (h, 0x28, 17)
  | .journalRead h _ _ _ _ => some (h, 0x28, 1007)
  | .journalNext h _ _ => some (h, 0x28, 7)
  | .journalWrite h _ _ _ _ => some (h, 0x28, 5)
  | .journalDelete h _ _ _ => some (h, 0x28, 5)
  | .journalTxopen h => some (h, 0x28, 3)
  | .journalTxcommit h _ => some (h, 0x28, 5)
  | .journalTxabort h _ => some (h, 0x28, 1)
  | .journalRecall h _ => some (h, 0x28, 3)
  | .journalFormat h => some (h, 0x28, 1)
  | .dumpRead h _ _ _ => some (h, 0x30, 1000)
  | .fuseBurnKeyHash h _ _ => some (h, 0x38, 0)
  | .fuseBurnRevoke h _ => some (h, 0x38, 0)
  | .fuseBurnMinVersion h _ => some (h, 0x38, 0)
  | .fuseBurnLifeCycle h _ => some (h, 0x38, 0)
  | .unknownOpcode h op => some (h, op, 0)
  | _ => none

/-- The table of R525: whether the device executes a host command in its present mode. -/
def Dev.permits (d : Dev) (c : Instr) : Bool :=
  let run := d.pwr.mode == .run
  let service := d.pwr.mode == .service
  let flash := run || service || d.pwr.mode == .rest
  match c with
  | .ump _ _ | .timedUmp _ _ _ | .midiOut _ _ _ | .patchWrite _ _ _ _ => run
  | .flashRead _ _ _ | .flashErase _ _ _ | .flashProg _ _ _ | .verify _ _ => flash
  | .confirm _ => flash && (d.fg STG_BOOT_SLOT == 1 || d.fg STG_BOOT_SLOT == 2)
  | .journalStat _ | .journalRead _ _ _ _ _ | .journalNext _ _ _ | .journalWrite _ _ _ _ _ | .journalDelete _ _ _ _ |
    .journalTxopen _ | .journalTxcommit _ _ | .journalTxabort _ _ | .journalRecall _ _ => run || service
  | .dumpRead _ source _ _ => service || (run && source != 0)
  | .journalFormat _ | .fuseBurnKeyHash _ _ _ | .fuseBurnRevoke _ _ | .fuseBurnMinVersion _ _ | .fuseBurnLifeCycle _ _ => service
  | _ => true

/-- The host port takes frame c at once: no wake is due, and no event waits for a full pipeline (R39, R113). -/
abbrev Dev.listening (d : Dev) : Prop :=
  d.hostOn = true ∧ (d.pwr.mode = .rest → d.wakeOn 7 = false) ∧ (d.pipeFree = true ∨ d.waiting 6 = [])

/-- Frame c is valid, its tag is new, and no other command waits (R115, R435). -/
abbrev Dev.freshFrame (d : Dev) (h : HostHdr) : Prop :=
  d.listening ∧ h.ok = true ∧ d.host.wait = none ∧ ∀ e ∈ d.host.cache, h.tag = 0 ∨ e.1 ≠ h.tag

/-- Command c executes on this device now (R435, R525): its frame is new, there is room for its response, it is meant for this
device, and the mode permits it. -/
abbrev Dev.executes (d : Dev) (c : Instr) : Prop :=
  (hostFrame c).any (fun x => decide (d.freshFrame x.1 ∧ d.txRoom x.2.2 = true ∧ (x.1.devid = 0 ∨ x.1.devid = d.devid) ∧
    d.permits c = true)) = true

/-- From `s` to `t` the host has been answered (R115, R435): one response frame, kept for a repeat of its tag. -/
def State.answered (s t : State) (h : HostHdr) (op status : Nat) (pay : List Byte) : Prop :=
  let f := swilum h.tag (op % 128 + 128) s.dev.devid (BitVec.ofNat 8 status :: pay)
  (t.dev.uart 4).txq = (s.dev.uart 4).txq ++ f ∧ (h.tag ≠ 0 → (h.tag, f) ∈ t.dev.host.cache) ∧
  (0x20 ≤ op → t.dev.raw 61 = true) ∧ t.dev.host.wait = none

/-- From `s` to `t` only the host port and its UART have moved, with the registers of the list (R432, R434). -/
def State.onlyHost (s t : State) (l : List Nat) : Prop :=
  s.keepsRegisters t ([rUART_HCNT, rUART_STAT 4] ++ l) ∧ (∀ n, n ≠ 4 → t.dev.uart n = s.dev.uart n) ∧
  t = { s with dev := { s.dev with live := t.dev.live, evt := t.dev.evt, uarts := t.dev.uarts, host := t.dev.host } }

end Sys2Proof.Machine

namespace Sys2Proof

/-! ### What a command may change -/

/-- Commands that may reset the device or cut its power: the resets, the fall of PWR_EN, and the register writes, of which a
SYS_SWRST write is one (R10, R11, R21, R43). -/
def Instr.resets (c : Instr) : Bool :=
  match c with
  | .powerOn _ _ | .pinReset | .softwareReset _ | .pwrEnLow | .registerWrite _ _ | .regReq _ _ _ _ _ | .regWrite _ _ _ => true
  | _ => false

/-- Commands that may change the staging copies: writes, checks and commits, and what the firmware stages itself (R70, R176). -/
def Instr.mayStage (c : Instr) : Bool :=
  c.resets || match c with
    | .blankAdvance _ | .check _ | .commit _ | .discard _ | .commitAbort _ | .stagedWrite _ _ | .commitApply | .imageLoad _ |
      .ump _ _ | .timedUmp _ _ _ | .journalRecall _ _ => true
    | _ => false

/-- Commands that may program or erase flash (R61, R389, R441, R491 and the flash commands of the host port). -/
def Instr.mayFlash (c : Instr) : Bool :=
  c.resets || match c with
    | .blankAdvance _ | .selfConfirmation | .img _ _ _ | .imageLoad _ | .flashErase _ _ _ | .flashProg _ _ _ | .confirm _ |
      .journalFormat _ | .recordWrite _ | .sectorErase _ | .superblockSave _ | .shavingsDump _ | .dumpSlotErase => true
    | _ => false

/-- Commands that may change the journal or queue a record for it (chapter 15). -/
def Instr.mayJournal (c : Instr) : Bool :=
  c.resets || match c with
    | .blankAdvance _ | .vsBoundary | .cvDrain | .autoTuneClaim | .autoTuneGate | .journalWrite _ _ _ _ _ |
      .journalDelete _ _ _ _ | .journalTxopen _ | .journalTxcommit _ _ | .journalTxabort _ _ | .journalFormat _ |
      .recordWrite _ | .sectorErase _ | .superblockSave _ | .powerFailClear | .countersRecord | .eventLogRecord |
      .ageCheck _ | .scheduledMeasurement | .measurement _ | .voltageStep _ _ | .clockStepApply | .ageClear _ |
      .shavingsDump _ => true
    | _ => false

/-- Commands that may move the auto-tune engine (R334 to R341). -/
def Instr.mayTune (c : Instr) : Bool :=
  c.resets || match c with
    | .vsBoundary | .cvDrain | .capture _ _ _ _ | .stuck _ | .autoTuneGo _ | .autoTuneDue _ | .autoTuneClaim |
      .autoTuneSettle | .autoTuneGate => true
    | _ => false

/-- Commands that may change the allocator: allocation itself, note events, link summaries, commits that remove voices. -/
def Instr.mayAllocate (c : Instr) : Bool :=
  c.resets || match c with
    | .check _ | .checkComplete | .commit _ | .discard _ | .commitAbort _ | .prepare _ _ _ | .eventEntry _ | .vsBoundary |
      .contextSwitch _ _ | .allocationRequest | .nak _ _ | .replayTimeout _ | .eventDn _ _ | .summary _ _ _ _ _ |
      .regRsp _ _ _ _ | .hello _ _ | .assign _ _ | .status _ _ | .admission | .imageLoad _ | .lost _ _ _ _ | .linkLoss _ |
      .orphanEntry | .memberIsolate _ | .portEnable _ _ => true
    | _ => false

/-- Commands that may change the ageing service or its plan (chapter 16). -/
def Instr.mayAge (c : Instr) : Bool :=
  c.resets || match c with
    | .blankAdvance _ | .cvDrain | .imageLoad _ | .ageCheck _ | .scheduledMeasurement | .temperatureSample _ |
      .measurement _ | .measurementLate | .voltageStep _ _ | .clockStepBegin | .contextRemoval | .clockStepApply |
      .ageClear _ => true
    | _ => false

/-- Commands that may move the scrubber (R279). -/
def Instr.mayMoveScrubber (c : Instr) : Bool :=
  c.resets || match c with
    | .scrubRead _ => true
    | _ => false

/-- The commands that burn fuses (R58, R438). -/
def Instr.burnsFuses (c : Instr) : Bool :=
  match c with
  | .fuseBurnKeyHash _ _ _ | .fuseBurnRevoke _ _ | .fuseBurnMinVersion _ _ | .fuseBurnLifeCycle _ _ => true
  | _ => false

end Sys2Proof
end

