-- ==== Sys2Proof/Certificates/Slice0/Obligations.lean ====
section
/-! DEFINITION. The statements for the provers, chapter by chapter: what each command does, what it leaves alone, and what every
step keeps. A statement about several commands names them. -/
open Sys2Proof Sys2Proof.Machine

/-! ### The whole block -/

/-- A step takes the command at the front of the queue and runs it with the queue's rest; no command touches the queue. On
an empty queue time passes (the model's choice, log entry 30): in RUN, one PCLK period, in which c gains 2 and 3 cycles of
LCLK in turn; in SHELF without XO32, nothing. -/
def Obligations.StepRunsFrontCommand : Prop :=
  (∀ (s : State) (c : Instr) (rest : List Instr), s.pending = c :: rest →
    step s = exec c { s with pending := rest } ∧ ∃ t, step s = .next t ∧ t.pending = rest) ∧
  ∀ s : State, s.pending = [] → ∃ t, step s = .next t ∧ t.pending = [] ∧ t.dev.flash = s.dev.flash ∧
    t.dev.fuses = s.dev.fuses ∧ t.dev.voices = s.dev.voices ∧ t.dev.ctxs = s.dev.ctxs ∧ t.dev.mem = s.dev.mem ∧
    (s.dev.pwr.mode = .shelf → s.dev.on SYS_CLKSTAT_XO32_OK = false → t = s) ∧
    (s.dev.pwr.mode = .run → s.dev.lclk = true →
      t.dev.time.c = (s.dev.time.c + if s.dev.time.half = true then 3 else 2) % 2 ^ 64 ∧
      t.dev.time.half = !s.dev.time.half)

/-- The state after reset (R10, R21, R25): BLANK, every register at its reset value, the zero-fill under way, outputs inert,
no command waiting; and it meets every invariant stated below. That unlisted flash reads 0xFF is the model's choice (log 4). -/
def Obligations.ResetState : Prop :=
  let d := State.reset.dev
  State.reset.pending = [] ∧ d.pwr.mode = .blank ∧ d.pwr.zeroFill = true ∧ d.pins.inert = true ∧ d.eng.on = false ∧
  (∀ a, d.reg a = resetWord a) ∧ (∀ a, d.rb a = 0) ∧ (∀ a, tget 0xFF d.flash a = 0xFF) ∧
  d.canonical = true ∧ d.fuses.sound = true ∧ State.reset.queueOk = true

/-- Every step, idle ones too, keeps the register file, the memories, the flash and a member's image in canonical form, and
a queue of well-formed commands stays one. -/
def Obligations.CanonicalFormIsKept : Prop :=
  ∀ s t : State, step s = .next t →
    (s.dev.canonical = true → t.dev.canonical = true) ∧ (s.queueOk = true → t.queueOk = true)

/-- Fuses only go forward (R438, R57): whatever step is taken, resets and power cycles among them, a burned hash, revocation
or version bit stays burned and the life cycle never goes back; sound fuses stay sound; and only the four fuse burns change
any. -/
def Obligations.FusesOnlyGrow : Prop :=
  ∀ s t : State, step s = .next t →
    s.dev.fuses.burnedFrom t.dev.fuses ∧
    (s.dev.fuses.sound = true → t.dev.fuses.sound = true) ∧
    ((∀ c rest, s.pending = c :: rest → c.burnsFuses = false) → t.dev.fuses = s.dev.fuses)

/-- What a command cannot reach: outside the commands that Safety names for each, the staging copies, the flash, the
journal, the auto-tune engine, the allocator, the ageing service and the scrubber stay exactly as they are. -/
def Obligations.CommandsKeepOtherParts : Prop :=
  ∀ (c : Instr) (s t : State), exec c s = .next t →
    (c.mayStage = false → t.dev.staged = s.dev.staged) ∧
    (c.mayFlash = false → t.dev.flash = s.dev.flash) ∧
    (c.mayJournal = false → t.dev.nvj = s.dev.nvj) ∧
    (c.mayTune = false → t.dev.tune = s.dev.tune) ∧
    (c.mayAllocate = false → t.dev.alloc = s.dev.alloc) ∧
    (c.mayAge = false → t.dev.age = s.dev.age) ∧
    (c.mayMoveScrubber = false → t.dev.scrubAt = s.dev.scrubAt) ∧
    t.pending = s.pending

/-! ### Registers and events (chapters 0 and 18) -/

/-- The access codes of a register write (R6, R7, R520): an RW field takes the written value unless its table does not allow
it, an LK field so in BLANK and CHUCK only, a W1C or W1S bit clears or sets where a 1 is written, a counter clears whole at
any 1, and an RO, WO or ST field, as every other bit of the register, keeps its value. -/
def Obligations.AccessCodesOfAWrite : Prop :=
  ∀ (a : Nat) (lkOpen : Bool) (v w : Word) (f : FieldDesc), f.lo ≤ f.hi → f.hi < 32 →
    let x := fieldOf v f.hi f.lo
    let r := fieldWrite a lkOpen v w f
    (∀ i, i < 32 → i < f.lo ∨ f.hi < i → bitOf r i = bitOf w i) ∧
    (f.acc = .rw → fieldOf r f.hi f.lo = if fieldAllows a f.lo x then x else fieldOf w f.hi f.lo) ∧
    (f.acc = .lk → fieldOf r f.hi f.lo = if lkOpen && fieldAllows a f.lo x then x else fieldOf w f.hi f.lo) ∧
    (f.acc = .w1c → ∀ i, f.lo ≤ i → i ≤ f.hi → bitOf r i = (bitOf w i && !bitOf v i)) ∧
    (f.acc = .w1s → ∀ i, f.lo ≤ i → i ≤ f.hi → bitOf r i = (bitOf w i || bitOf v i)) ∧
    (f.acc = .cnt → fieldOf r f.hi f.lo = if x = 0 then fieldOf w f.hi f.lo else 0) ∧
    (f.acc = .ro ∨ f.acc = .wo ∨ f.acc = .st → r = w)

/-- REGISTER_WRITE (R3, R7, R11, R14, R15, R271): a register of intake (the block at 0x30000, NOTE_STAT aside) takes the
write field by field by its access codes and its ST fields go to staging; address bits 1 and 0 do not count; a write where
no register is changes nothing; X, Y and program memory take a word, lowest byte first, in CHUCK and SERVICE and ignore it
in other modes; the mailbox takes it in every mode; Stock takes it where the bank is owner 6's. -/
def Obligations.RegisterWriteReachesItsTarget : Prop :=
  ∀ (s : State) (addr v : Word),
    let d := s.dev
    let a := addr.toNat / 4 * 4
    let open_ : Prop := d.pwr.mode = .chuck ∨ d.pwr.mode = .service
    let space : Prop := 0x4000000 ≤ a ∧ a < 0x4400000
    let mailbox : Prop := space ∧ 0xF000 ≤ spnOfs a ∧ spnOfs a < 0x10000
    let byteOf (i : Nat) : Byte := BitVec.ofNat 8 (v.toNat / 256 ^ i)
    d.hears = true →
    (a / 0x10000 = 3 → a ≠ rNOTE_STAT → (regAt a).isSome = true →
      ∃ t, exec (.registerWrite addr v) s = .next t ∧
        (isStaged a = false → t.dev.reg a = (regFields a).foldl (fieldWrite a d.lkOpen v) (d.reg a)) ∧
        (isStaged a = true → d.pwr.mode ≠ .chuck →
          (∀ f ∈ regFields a, f.acc = .st) → t.dev.reg a = d.reg a ∧
          accMask a .st &&& t.dev.stagingReg a = accMask a .st &&& stagedWord a v (d.stagingReg a)) ∧
        s.keepsRegisters t [a, rSTG_STATUS] ∧ (∀ b, t.dev.rb b = d.rb b) ∧
        t = { s with dev := { d with live := t.dev.live, staged := t.dev.staged, stg := t.dev.stg } }) ∧
    (a < 0x150000 → (regAt a).isNone = true → exec (.registerWrite addr v) s = .next s) ∧
    ((space ∧ spnOfs a < 0x28000 ∧ open_) ∨ mailbox → d.pwr.zeroFill = false → ∃ t, exec (.registerWrite addr v) s = .next t ∧
      (∀ i, i < 4 → t.dev.rb (a + i) = byteOf i) ∧ (∀ b, b < a ∨ a + 4 ≤ b → t.dev.rb b = d.rb b) ∧
      t = { s with dev := { d with live := t.dev.live, mem := t.dev.mem, pwr := { d.pwr with rom := t.dev.pwr.rom } } }) ∧
    (space → ¬open_ → ¬mailbox → exec (.registerWrite addr v) s = .next s) ∧
    (stockBase ≤ a → a < 0x4000000 → d.pwr.zeroFill = false → d.bankCur (bankOf (a - stockBase)) = 6 →
      ∃ t, exec (.registerWrite addr v) s = .next t ∧ (∀ i, i < 4 → t.dev.rb (a + i) = byteOf i) ∧
        (∀ b, b < a ∨ a + 4 ≤ b → t.dev.rb b = d.rb b))

/-- A raise of a source that is not fatal (R482, R485, R488): a counted source adds 1 to its TOTAL, which stops at its
largest value; its RAW bit sets, but where it is set already or held off the raise adds 1 to SUPP in its place; any other
source sets its RAW bit. Nothing else changes but what the firmware has noted. Clearing event flags (R482, R483, R485): a
W1C write of EVT_RAW clears the flags where a 1 is written but for an asserted level source; a counted source that is
cleared is held off where HOLDOFF is not 0, until the hold-off's end. -/
def Obligations.EventSourcesAreRaisedAndCleared : Prop :=
  (
    ∀ (d : Dev) (k : Nat), k < 64 → fatalSource k = false →
      let e := d.raise k
      let held : Prop := d.raw k = true ∨ d.evt.hold.contains k = true
      (countIdx k = none → e.raw k = true ∧ ∀ a, a ≠ rEVT_RAW (k / 32) → e.reg a = d.reg a) ∧
      (∀ i, countIdx k = some i →
        e.fg (EVT_COUNT_TOTAL i) = min (d.fg (EVT_COUNT_TOTAL i) + 1) 0xFFFF ∧
        (held → e.fg (EVT_COUNT_SUPP i) = min (d.fg (EVT_COUNT_SUPP i) + 1) 0xFFFF ∧ e.raw k = d.raw k) ∧
        (¬held → e.fg (EVT_COUNT_SUPP i) = d.fg (EVT_COUNT_SUPP i) ∧ e.raw k = true) ∧
        ∀ a, a ≠ rEVT_COUNT i → a ≠ rEVT_RAW (k / 32) → e.reg a = d.reg a) ∧
      (∀ j, j < 64 → j ≠ k → e.raw j = d.raw j) ∧
      e = { d with live := e.live, evt := { d.evt with fw := e.evt.fw } }) ∧
  (
    ∀ (s : State) (h k : Nat) (v : Word),
      let d := s.dev
      let level (j : Nat) : Prop := d.evt.level.contains (32 * h + j) = true
      (d.hears = true → h < 2 → ∃ t, exec (.evtRawClear h v) s = .next t ∧
        (∀ j, j < 32 → (t.dev.raw (32 * h + j) = true ↔ d.raw (32 * h + j) = true ∧ (bitOf v j = false ∨ level j))) ∧
        (∀ j, j < 32 → (32 * h + j ∈ t.dev.evt.hold ↔ 32 * h + j ∈ d.evt.hold ∨
          (d.raw (32 * h + j) = true ∧ bitOf v j = true ∧ ¬level j ∧ (countIdx (32 * h + j)).isSome = true ∧
            d.fg EVT_CTRL_HOLDOFF ≠ 0))) ∧
        (∀ a, a ≠ rEVT_RAW h → t.dev.reg a = d.reg a) ∧ (∀ a, t.dev.rb a = d.rb a) ∧
        t = { s with dev := { d with live := t.dev.live, evt := { d.evt with hold := t.dev.evt.hold } } }) ∧
      (∃ t, exec (.holdoffEnd k) s = .next t ∧ k ∉ t.dev.evt.hold ∧ (∀ j, j ≠ k → (j ∈ t.dev.evt.hold ↔ j ∈ d.evt.hold)) ∧
        t = { s with dev := { d with evt := { d.evt with hold := t.dev.evt.hold } } }))

/-- Fatal faults (R486 to R493): the watchdog by mode; in a frozen device the dump goes to bank 15 and into an erased slot,
where one is; its result shows with source 63; SERVICE follows; a slot is erased sector by sector where none is erased. -/
def Obligations.FatalFaultsLeadToService : Prop :=
  ∀ (s : State) (ok : Bool) (k n : Nat),
    let d := s.dev
    let mode := d.pwr.mode
    let ram := stockBase + 15 * 0x300000
    let magic (i : Nat) : Byte := (leBytes 4 0x44564853).getD i 0
    let dumps : Prop := d.pwr.frozen = true ∧ d.pwr.fatalStep = 1
    let res (t : State) (r slot : Nat) : Prop := t.dev.evt.res = r ∧ t.dev.fg EVT_DUMP_SLOT = slot
    let up : Prop := d.pwr.frozen = false ∧ (mode = .run ∨ mode = .rest) ∧ (d.region 4).isSome = true
    let byte (t : State) (a : Nat) : Byte := tget 0xFF t.dev.flash a
    let counted (t : State) : Prop :=
      t.dev.fg EVT_WDT_RESTARTS = min (d.fg EVT_WDT_RESTARTS + 1) (2 ^ (EVT_WDT_RESTARTS.hi + 1 - EVT_WDT_RESTARTS.lo) - 1)
    (mode = .run → d.pwr.frozen = false → d.pclk = true → ∃ t, exec .watchdogExpiry s = .next t ∧ counted t ∧ t.dev.raw 57 = true ∧
      t.dev.pwr.frozen = true ∧ t.dev.pwr.mode = .run ∧ t.dev.pins.inert = true ∧ t.dev.fg EVT_FATAL_SRC = 57 ∧
      t.pending = s.pending ∧ t.dev.mem = d.mem ∧ t.dev.flash = d.flash) ∧
    (mode = .run → d.pwr.frozen = true → d.evt.wdt = true → d.pclk = true → ∃ t, exec .watchdogExpiry s = .next t ∧
      t.dev.pwr.mode = .service ∧ t.dev.fg EVT_DUMP_RES = 5 ∧ t.pending = s.pending) ∧
    (mode = .service → ∃ t, exec .watchdogExpiry s = .next t ∧ counted t ∧ t.dev.pwr.mode = .service ∧ t.dev.raw 57 = true ∧
      t.pending = s.pending ∧ t.dev.flash = d.flash) ∧
    (mode = .blank ∨ mode = .shelf → exec .watchdogExpiry s = .next s) ∧
    (dumps → ∃ t, exec (.shavingsDump ok) s = .next t ∧ t.dev.pwr.fatalStep = 3 ∧ t.dev.evt.dumpValid = true ∧
      (∀ i, i < 4 → t.dev.rb (ram + i) = magic i) ∧ t.dev.fg EVT_DUMP_RES = d.fg EVT_DUMP_RES ∧
      (d.on NVJ_STAT_PFAIL = true → res t 4 0 ∧ t.dev.flash = d.flash) ∧
      (d.on NVJ_STAT_PFAIL = false → d.dumpSlot = none → res t 3 0 ∧ t.dev.flash = d.flash) ∧
      (d.on NVJ_STAT_PFAIL = false → d.dumpSlot = some k → ok = true → res t 2 k ∧
        (∀ i, i < 4 → byte t (d.dumpAt k + i) = magic i) ∧
        (∀ a, a < d.dumpAt k ∨ d.dumpAt k + 0x200000 ≤ a → byte t a = byte s a)) ∧
      (d.on NVJ_STAT_PFAIL = false → d.dumpSlot = some k → ok = false → res t 6 0 ∧
        (∀ i, i < 0x1000 → byte t (d.dumpAt k + i) = 0xFF)) ∧
      (∀ a, hwBase ≤ a → t.dev.rb a = d.rb a) ∧ t.dev.voices = d.voices ∧ t.dev.ctxs = d.ctxs ∧ t.pending = s.pending) ∧
    (¬dumps → exec (.shavingsDump ok) s = .next s) ∧
    (d.pwr.frozen = true → d.pwr.fatalStep = 3 → ∃ t, exec .dumpWritten s = .next t ∧ t.dev.pwr.fatalStep = 4 ∧
      t.dev.fg EVT_DUMP_RES = d.evt.res % 2 ^ (EVT_DUMP_RES.hi + 1 - EVT_DUMP_RES.lo) ∧ t.dev.raw 63 = true ∧
      t = { s with dev := { d with live := t.dev.live, evt := t.dev.evt, pwr := { d.pwr with fatalStep := 4 } } }) ∧
    (d.pwr.fatalStep ≠ 3 → exec .dumpWritten s = .next s) ∧
    (d.pwr.frozen = true → d.pwr.fatalStep = 4 → ∃ t, exec .fatalServiceEntry s = .next t ∧ t.dev.pwr.mode = .service ∧
      t.dev.pwr.prev = mode ∧ t.dev.pins.inert = true ∧ t.pending = s.pending ∧ t.dev.flash = d.flash) ∧
    (d.pwr.frozen = false → exec .fatalServiceEntry s = .next s ∧ exec .dumpWritten s = .next s) ∧
    (up → d.evt.erase = some (k, n) → n + 1 < 32 → ∃ t, exec .dumpSlotErase s = .next t ∧ t.dev.evt.erase = some (k, n + 1) ∧
      (∀ a, byte t a = if a / 0x10000 = d.dumpAt k / 0x10000 + n then 0xFF else byte s a) ∧ s.keepsRegisters t [] ∧
      t = { s with dev := { d with flash := t.dev.flash, evt := { d.evt with erase := some (k, n + 1) } } }) ∧
    (up → mode = .run → d.evt.erase = none → d.dumpSlot = none → ∃ t, exec .dumpSlotErase s = .next t ∧
      t.dev.evt.erase = some (d.slotToErase, 1)) ∧
    (up → d.evt.erase = none → d.dumpSlot.isSome = true → exec .dumpSlotErase s = .next s)

/-! ### Modes, resets and clocks (chapter 1) -/

/-- The three events that enter BLANK, and the straps (R10, R21 to R23, R25, R47). Registers take their reset values, but
the always-on ones, the straps and the qualified clocks; engines and services are as at reset; outputs are inert; flash and
fuses stay. A pin or software reset leaves the memories, a power-on clears them and starts the zero-fill. SYS_RSTCAUSE keeps
what it holds and gains the cause, or reads 1 where VAON was lost. The straps are sampled at the power-on unless RESET_N is
low, and at its rising edge. In SHELF RESET_N is ignored; a wrong key is too. -/
def Obligations.ResetsEnterBlank : Prop :=
  ∀ (s : State) (lost : Bool) (st : Straps) (v : Word),
    let blank (t : State) : Prop :=
      t.pending = s.pending ∧ t.dev.pwr.mode = .blank ∧ t.dev.pwr.frozen = false ∧ t.dev.pwr.boot = none ∧
      t.dev.pins.inert = true ∧ t.dev.flash = s.dev.flash ∧ t.dev.fuses = s.dev.fuses ∧
      (∀ a, a ∉ [rSYS_RSTCAUSE, rSYS_AON_SEC, rSYS_STRAP, rSYS_CLKSTAT] → t.dev.reg a = resetWord a) ∧
      t.dev = { State.reset.dev with
        live := t.dev.live, mem := t.dev.mem, flash := t.dev.flash, free := t.dev.free, pwr := t.dev.pwr, time := t.dev.time,
        fuses := t.dev.fuses, pins := t.dev.pins }
    let cause (t : State) (l : List Nat) : Prop :=
      ∀ b, b < 32 → bitOf (t.dev.reg rSYS_RSTCAUSE) b = (bitOf (s.dev.reg rSYS_RSTCAUSE) b || decide (b ∈ l))
    let strapped (t : State) : Prop :=
      t.dev.pwr.sampled = true ∧ t.dev.on SYS_STRAP_SVC = st.svc ∧ t.dev.on SYS_STRAP_HEAD = st.head ∧
      t.dev.fg SYS_STRAP_BOOTSEL = 2 * st.bootsel1.toNat + st.bootsel0.toNat
    let held (t : State) : Prop :=
      t.dev.mem = s.dev.mem ∧ t.dev.reg rSYS_AON_SEC = s.dev.reg rSYS_AON_SEC ∧ t.dev.reg rSYS_STRAP = s.dev.reg rSYS_STRAP
    (s.dev.pwr.mode ≠ .shelf →
      (∃ t, exec .pinReset s = .next t ∧ blank t ∧ held t ∧ cause t [2] ∧ t.dev.pwr.resetLow = true) ∧
      (fieldOf v 31 16 = 0xC1A5 → bitOf v 0 = true → ∃ t, exec (.softwareReset v) s = .next t ∧ blank t ∧ held t ∧ cause t [3])) ∧
    (s.dev.pwr.mode = .shelf → exec .pinReset s = .next s) ∧
    (fieldOf v 31 16 ≠ 0xC1A5 → exec (.softwareReset v) s = .next s) ∧
    (s.dev.pwr.mode ≠ .shelf ∨ s.dev.pwr.pwrEn = true ∨ lost = true →
      ∃ t, exec (.powerOn lost st) s = .next t ∧ blank t ∧ t.dev.mem = [] ∧ t.dev.pwr.zeroFill = true ∧ t.dev.pwr.por = true ∧
        (lost = true → t.dev.reg rSYS_RSTCAUSE = 1 ∧ t.dev.reg rSYS_AON_SEC = 0) ∧
        (lost = false → t.dev.reg rSYS_AON_SEC = s.dev.reg rSYS_AON_SEC) ∧
        (lost = false → s.dev.pwr.mode ≠ .shelf → cause t [4]) ∧
        (lost = false → s.dev.pwr.mode = .shelf → s.dev.pwr.latch = some 8 → cause t [1, 8]) ∧
        (lost = false → s.dev.pwr.mode = .shelf → s.dev.pwr.latch = some 0 → cause t [1, 9]) ∧
        (lost = false → s.dev.pwr.mode = .shelf → s.dev.pwr.latch = some 7 → cause t [1, 10]) ∧
        (s.dev.pwr.resetLow = false → strapped t)) ∧
    (s.dev.pwr.resetLow = true → s.dev.pwr.mode ≠ .shelf →
      ∃ t, exec (.resetNRisingEdge st) s = .next t ∧ strapped t ∧ t.dev.pwr.resetLow = false ∧ s.keepsRegisters t [rSYS_STRAP] ∧
        t = { s with dev := { s.dev with live := t.dev.live, pwr := { s.dev.pwr with resetLow := false, sampled := true } } }) ∧
    (s.dev.pwr.mode = .blank → s.dev.pwr.zeroFill = true → s.dev.pwr.pend = none →
      ∃ t, exec .zeroFillComplete s = .next t ∧ t.dev.on MEM_STAT_FILLED = true ∧ s.keepsRegisters t [rMEM_STAT] ∧
        t = { s with dev := { s.dev with live := t.dev.live, pwr := { s.dev.pwr with zeroFill := false } } })

/-- A write of SYS_MODE with a request (R26 to R30, R43, R46, R57, R272, R521). A request without an edge from the mode is
counted, after ILL_CLR where the write sets it, and changes nothing but DEPTH; 6 always is. A legal one acts where its
conditions hold, else it waits: CHUCK from hosted BLANK starts the boot with every bank at the loader; RUN from REST starts
the engine; REST stops it, cold where DEPTH, XO32_OK and no joined port say so; SHELF copies the wake enables; SERVICE stops
the engines, makes the outputs inert and passes every bank but those of owner 7 to the firmware. 7 cancels a waiting REST or
SHELF and is never counted; REQ = 0 only sets DEPTH and clears. -/
def Obligations.ModeRequests : Prop :=
  ∀ (s : State) (w : ModeWrite),
    let p := s.dev.pwr
    let ill (t : State) : Nat := t.dev.fg SYS_MODE_ILL_CNT
    let base : Nat := if w.illClr then 0 else ill s
    let joined : Prop := ∃ k, k < 3 ∧ (s.dev.lport k).joined = true
    let hosted : Prop := p.mode = .blank ∧ s.dev.fg SYS_STRAP_BOOTSEL % 2 = 1 ∧ s.dev.on SYS_STRAP_SVC = false
    let ready : Prop := p.sampled = true ∧ p.zeroFill = false
    let kept (t : State) : Prop :=
      t.pending = s.pending ∧ t.dev.flash = s.dev.flash ∧ t.dev.fuses = s.dev.fuses ∧ t.dev.voices = s.dev.voices ∧
      t.dev.ctxs = s.dev.ctxs ∧ t.dev.alloc = s.dev.alloc ∧ t.dev.age = s.dev.age ∧ t.dev.nvj = s.dev.nvj
    let only (t : State) (q : Pwr) (n : Nat) : Prop :=
      t.dev.pwr = q ∧ ill t = n ∧ t.dev.on SYS_MODE_DEPTH = w.depth ∧ s.keepsRegisters t [rSYS_MODE] ∧
      t = { s with dev := { s.dev with live := t.dev.live, pwr := q } }
    let counted (o : Instr) : Prop := ∃ t, exec o s = .next t ∧ only t p (min (base + 1) 255)
    let waits (o : Instr) (m : Mode) : Prop := ∃ t, exec o s = .next t ∧ only t { p with pend := some m } base
    let enters (o : Instr) (m : Mode) (more : State → Prop) : Prop :=
      ∃ t, exec o s = .next t ∧ t.dev.pwr.mode = m ∧ t.dev.pwr.prev = p.mode ∧ t.dev.pwr.pend = none ∧ kept t ∧ more t
    let shelving (o : Instr) : Prop :=
      ∃ t, exec o s = .next t ∧ t.dev.pwr.mode = p.mode ∧ t.dev.pwr.shelf = .entering ∧ t.dev.pwr.latch = none ∧
        t.dev.pwr.wakePin = s.dev.on SYS_WAKE_EN_PIN ∧
        t.dev.pwr.wakeHost = (s.dev.on SYS_WAKE_EN_HOST && s.dev.on (UART_CFG_EN 4)) ∧
        t.dev.pwr.wakeMidi = (bitOf (s.dev.reg rSYS_WAKE_EN) 0 && s.dev.on (UART_CFG_EN 0)) ∧
        t.dev.pwr.shelfXo = s.dev.on SYS_PWR_SHELF_XO32 ∧ t.dev.eng.on = false ∧ kept t ∧ s.keepsRegisters t [rSYS_MODE]
    let runs : Prop := p.mode = .run ∨ p.mode = .rest
    s.dev.hears = true → p.frozen = false → p.shelf = .no →
    (¬hosted → counted (.modeRequestChuck w)) ∧ (p.mode ≠ .rest → counted (.modeRequestRun w)) ∧
    (p.mode ≠ .run ∨ (w.depth = true ∧ (s.dev.on SYS_CLKSTAT_XO32_OK = false ∨ joined)) → counted (.modeRequestRest w)) ∧
    (¬runs → counted (.modeRequestShelf w)) ∧ (¬runs → ¬hosted → counted (.modeRequestService w)) ∧
    counted (.modeRequest6 w) ∧
    (hosted → ready → enters (.modeRequestChuck w) .chuck fun t =>
      t.dev.pwr.boot = some { step := .clocks, por := p.por, slot := 0, fellBack := false, wipes := 0 } ∧ t.dev.pins.inert = true ∧
      ∀ k, k < 16 → t.dev.fg (MEM_BANK_CUR k) = 5) ∧
    (hosted → ¬ready → waits (.modeRequestChuck w) .chuck) ∧
    (p.mode = .rest → enters (.modeRequestRun w) .run fun t => t.dev.eng.on = true ∧ t.dev.pwr.cold = false) ∧
    (p.mode = .run → s.dev.restOk = true → (w.depth = true → s.dev.on SYS_CLKSTAT_XO32_OK = true ∧ ¬joined) →
      enters (.modeRequestRest w) .rest fun t =>
        t.dev.eng.on = false ∧ t.dev.pwr.cold = w.depth ∧ t.dev.fg SYS_GATE_OPEN = 0) ∧
    (p.mode = .run → s.dev.restOk = false → (w.depth = true → s.dev.on SYS_CLKSTAT_XO32_OK = true ∧ ¬joined) →
      waits (.modeRequestRest w) .rest) ∧
    (p.mode = .rest ∨ (p.mode = .run ∧ s.dev.restOk = true) → shelving (.modeRequestShelf w)) ∧
    (p.mode = .run → s.dev.restOk = false → waits (.modeRequestShelf w) .shelf) ∧
    (runs ∨ (hosted ∧ ready) → enters (.modeRequestService w) .service fun t =>
      t.dev.eng.on = false ∧ t.dev.pins.inert = true ∧ t.dev.host.frame = none ∧ t.dev.host.part = [] ∧
      ∀ k, k < 16 → t.dev.fg (MEM_BANK_CUR k) = if s.dev.fg (MEM_BANK_CUR k) = 7 then 7 else 6) ∧
    (p.pend = some .rest ∨ p.pend = some .shelf → ∃ t, exec (.modeRequestCancel w) s = .next t ∧ only t { p with pend := none } base) ∧
    (p.pend = none → ∃ t, exec (.modeRequestCancel w) s = .next t ∧ only t p base) ∧
    (∃ t, exec (.illClr w.depth) s = .next t ∧ only t p 0)

/-- Entry to REST or SHELF at a VS boundary, by a request that waited or by idleness (R28 to R30): the conditions hold; REST
is cold where DEPTH, XO32_OK and no joined port say so at that boundary, else warm, and neither ILL_CNT nor DEPTH changes. A
wake edge in REST whose source is enabled is latched in SYS_WAKE_SRC, raises source 62 and returns the device to RUN (R38,
R39): here the WAKE pin (8), a UART start edge on an enabled receiver whose line is not dead, and the match of a timer on
XO32 (9). With the enable bit 0 nothing happens. -/
def Obligations.RestIsEnteredAndLeft : Prop :=
  (
    ∀ (s : State),
      let p := s.dev.pwr
      let cold : Bool := s.dev.on SYS_MODE_DEPTH && s.dev.on SYS_CLKSTAT_XO32_OK && !(List.range 3).any fun k => (s.dev.lport k).joined
      let rests (o : Instr) : Prop :=
        ∃ t, exec o s = .next t ∧ t.dev.pwr.mode = .rest ∧ t.dev.pwr.prev = .run ∧ t.dev.pwr.pend = none ∧ t.dev.pwr.cold = cold ∧
          t.dev.eng.on = false ∧ t.dev.fg SYS_GATE_OPEN = 0 ∧ t.dev.time.cold.isSome = (cold || s.dev.time.cold.isSome) ∧
          t.dev.reg rSYS_MODE = s.dev.reg rSYS_MODE ∧ t.pending = s.pending ∧ t.dev.flash = s.dev.flash ∧
          t.dev.mem = s.dev.mem ∧ t.dev.voices = s.dev.voices ∧ t.dev.ctxs = s.dev.ctxs ∧ t.dev.fuses = s.dev.fuses
      s.dev.running = true → s.dev.restOk = true →
      (p.pend = some .rest → rests .pendingRequestEntry) ∧
      (s.dev.fg SYS_PWR_IDLE_MS ≠ 0 → rests .idleEntry) ∧
      (s.dev.fg SYS_PWR_IDLE_MS = 0 → exec .idleEntry s = .next s) ∧
      (p.pend = some .shelf → ∃ t, exec .pendingRequestEntry s = .next t ∧ t.dev.pwr.shelf = .entering ∧ t.dev.pwr.pend = none ∧
        t.dev.eng.on = false ∧ t = { s with dev := { s.dev with pwr := t.dev.pwr, eng := t.dev.eng } }) ∧
      (p.pend = none → exec .pendingRequestEntry s = .next s)) ∧
  (
    ∀ (s : State) (k n ns : Nat),
      let p := s.dev.pwr
      let wakes (t : State) (src : Nat) : Prop :=
        t.dev.pwr.mode = .run ∧ t.dev.pwr.prev = .rest ∧ t.dev.pwr.cold = false ∧ t.dev.eng.on = true ∧ t.dev.time.cold = none ∧
        bitOf (t.dev.reg rSYS_WAKE_SRC) src = true ∧ t.dev.raw 62 = true ∧
        t.pending = s.pending ∧ t.dev.flash = s.dev.flash ∧ t.dev.mem = s.dev.mem ∧ t.dev.fuses = s.dev.fuses ∧
        t.dev.voices = s.dev.voices ∧ t.dev.ctxs = s.dev.ctxs ∧ t.dev.uarts = s.dev.uarts
      let on (src : Nat) : Prop := bitOf (s.dev.reg rSYS_WAKE_EN) src = true
      p.mode = .rest → p.frozen = false → p.shelf = .no →
      (on 8 → ∃ t, exec (.restWake 8 ns) s = .next t ∧ wakes t 8) ∧
      (k < 4 → on k → s.dev.on (UART_CFG_EN k) = true → s.dev.on (UART_STAT_DEAD k) = false →
        ∃ t, exec (.restWake k ns) s = .next t ∧ wakes t k) ∧
      (k < 11 → ¬on k → exec (.restWake k ns) s = .next s) ∧
      (k < 4 → s.dev.on (UART_STAT_DEAD k) = true → exec (.restWake k ns) s = .next s) ∧
      (n < 16 → on 9 → s.dev.fg (TMR_CFG_CLK n) = 1 → s.dev.on (TMR_STAT_MATCH n) = false → (s.dev.tmr n).run = true →
        (s.dev.tmr n).cmp.toNat ≤ (s.dev.tmr n).per.toNat →
        ∃ t, exec (.matchHit n) s = .next t ∧ t.dev.pwr.mode = .run ∧ t.dev.pwr.prev = .rest ∧ t.dev.eng.on = true ∧
          bitOf (t.dev.reg rSYS_WAKE_SRC) 9 = true ∧ t.dev.raw 62 = true ∧ t.dev.on (TMR_STAT_MATCH n) = true))

/-- SHELF (R22, R33, R39, R43, R44, R522): the fall of PWR_EN leaves only the always-on domain, XO32 running where
SHELF_XO32 is 1; an edge on an input whose copied enable is 1 sets the power latch, also before PWR_EN has fallen, and
PWR_EN then returns high; an edge whose copied enable is 0 does nothing. The clocks that come and go (R508, R522): XO32
qualifies; XREF leaves or returns to its range. Only their bits of SYS_CLKSTAT change; while XREF is gated, in REST-COLD,
XREF_OK stays as it is. -/
def Obligations.ShelfHandshakeAndClockStatus : Prop :=
  (
    ∀ (s : State) (k : Nat),
      let p := s.dev.pwr
      let enabled : Prop := (k = 8 ∧ p.wakePin = true) ∨ (k = 7 ∧ p.wakeHost = true) ∨ (k = 0 ∧ p.wakeMidi = true)
      (p.shelf = .entering → ∃ t, exec .pwrEnLow s = .next t ∧ t.dev.pwr.mode = .shelf ∧ t.dev.pwr.prev = p.mode ∧
        t.dev.pwr.pwrEn = false ∧ t.dev.pwr.shelf = (if p.latch.isSome then .waking else .off) ∧ t.dev.pwr.latch = p.latch ∧
        t.dev.pwr.wakePin = p.wakePin ∧ t.dev.pwr.wakeHost = p.wakeHost ∧ t.dev.pwr.wakeMidi = p.wakeMidi ∧
        t.dev.reg rSYS_AON_SEC = s.dev.reg rSYS_AON_SEC ∧ t.dev.reg rSYS_RSTCAUSE = s.dev.reg rSYS_RSTCAUSE ∧
        t.dev.on SYS_CLKSTAT_XO32_OK = (p.shelfXo && s.dev.on SYS_CLKSTAT_XO32_OK) ∧ t.dev.on SYS_CLKSTAT_HFRC_ON = false ∧
        t.dev.mem = [] ∧ t.dev.flash = s.dev.flash ∧ t.dev.fuses = s.dev.fuses ∧ t.dev.voices = [] ∧ t.pending = s.pending) ∧
      (p.shelf ≠ .entering → exec .pwrEnLow s = .next s) ∧
      (enabled → p.latch = none → p.shelf = .off →
        exec (.shelfWake k) s = .next { s with dev := { s.dev with pwr := { p with latch := some k, shelf := .waking } } }) ∧
      (enabled → p.latch = none → p.shelf = .entering →
        exec (.shelfWake k) s = .next { s with dev := { s.dev with pwr := { p with latch := some k } } }) ∧
      (¬enabled → exec (.shelfWake k) s = .next s) ∧
      (p.shelf = .waking → exec .pwrEnHigh s = .next { s with dev := { s.dev with pwr := { p with pwrEn := true } } }) ∧
      (p.shelf ≠ .waking → exec .pwrEnHigh s = .next s)) ∧
  (
    ∀ (s : State) (inRange : Bool),
      let p := s.dev.pwr
      let only (t : State) (f : Fld) : Prop :=
        s.keepsRegisters t [rSYS_CLKSTAT] ∧ t = { s with dev := { s.dev with live := t.dev.live } } ∧
        ∀ g : Fld, g.addr = rSYS_CLKSTAT → g.hi < f.lo ∨ f.hi < g.lo → t.dev.fg g = s.dev.fg g
      (p.mode ≠ .shelf ∨ p.shelfXo = true →
        ∃ t, exec .xo32Qualified s = .next t ∧ t.dev.on SYS_CLKSTAT_XO32_OK = true ∧ only t SYS_CLKSTAT_XO32_OK) ∧
      (p.mode ≠ .shelf → ¬(p.mode = .rest ∧ p.cold = true) →
        ∃ t, exec (.xrefLeavesRange inRange) s = .next t ∧ t.dev.on SYS_CLKSTAT_XREF_OK = inRange ∧ only t SYS_CLKSTAT_XREF_OK) ∧
      (p.mode = .rest → p.cold = true → exec (.xrefLeavesRange inRange) s = .next s))

/-! ### Boot and staged change (chapter 2) -/

/-- BLANK_ADVANCE in BLANK (R24, R26, R272, R521): with the straps sampled and the memories filled, an autonomous start
enters CHUCK with every Stock bank at the boot loader and the boot at its first step; strap SVC goes to SERVICE; a hosted
start, or a BLANK that is not ready, waits. One step of a boot (R24, R50, R51, R58 to R67, R288): the steps follow one
another in the order of R66; one that fails puts its code into FAIL1, or FAIL2 where FAIL1 holds one, and the device goes to
SERVICE, or, from the header check to journal replay, to the other slot where that is eligible and no slot has failed yet. -/
def Obligations.BootStepsInOrder : Prop :=
  (
    ∀ (s : State) (env : BootEnv),
      let p := s.dev.pwr
      let ready : Prop := p.mode = .blank ∧ p.sampled = true ∧ p.zeroFill = false ∧ p.resetLow = false
      let svc : Prop := s.dev.on SYS_STRAP_SVC = true
      let hosted : Prop := s.dev.fg SYS_STRAP_BOOTSEL % 2 = 1
      (ready → ¬svc → ¬hosted → env.steps = 0 → ∃ t, exec (.blankAdvance env) s = .next t ∧
        t.dev.pwr.mode = .chuck ∧ t.dev.pwr.prev = .blank ∧ (∀ k, k < 16 → t.dev.bankCur k = 5) ∧
        t.dev.pwr.boot = some { step := .clocks, por := p.por, slot := 0, fellBack := false, wipes := 0 } ∧
        t.dev.pins.inert = true ∧ t.pending = s.pending ∧ t.dev.flash = s.dev.flash ∧ t.dev.fuses = s.dev.fuses) ∧
      (ready → svc → ∃ t, exec (.blankAdvance env) s = .next t ∧ t.dev.pwr.mode = .service ∧ t.dev.pwr.prev = .blank ∧
        t.dev.pwr.boot = none ∧ t.dev.pins.inert = true ∧
        (∀ k, k < 16 → t.dev.bankCur k = if s.dev.bankCur k = 7 then 7 else 6) ∧
        t.dev.host = { part := [], frame := none, cache := [], wait := none } ∧ t.pending = s.pending ∧ t.dev.flash = s.dev.flash) ∧
      (ready → ¬svc → hosted → exec (.blankAdvance env) s = .next s) ∧
      (p.mode ≠ .chuck → ¬ready → exec (.blankAdvance env) s = .next s)) ∧
  (
    ∀ (s : State) (env : BootEnv) (b : Boot),
      let d := s.dev
      let goes (step : BootStep) (more : State → Prop) : Prop := ∃ t, exec (.blankAdvance env) s = .next t ∧
        (∃ c, t.dev.pwr.boot = some c ∧ c.step = step) ∧ t.dev.pwr.mode = .chuck ∧ t.dev.fuses = d.fuses ∧ t.pending = s.pending ∧ more t
      let code (t : State) (c : Nat) : Prop :=
        if d.fg STG_BOOT_FAIL1 = 0 then t.dev.fg STG_BOOT_FAIL1 = c else t.dev.fg STG_BOOT_FAIL2 = c
      let fails (c : Nat) : Prop := ∃ t, exec (.blankAdvance env) s = .next t ∧ t.dev.pwr.mode = .service ∧ t.dev.pwr.boot = none ∧
        code t c ∧ t.dev.fuses = d.fuses ∧ t.pending = s.pending
      let head := d.slotHead b.slot
      let hcode := d.headerCode head ((d.region b.slot).elim 0 fun r => (r.2 - 1) * 0x10000)
      let other : Prop := b.fellBack = false ∧ (d.chooseSlot (some b.slot)).isSome = true
      d.pwr.mode = .chuck → d.pwr.boot = some b → b.wipes = 0 → env.steps = 1 → env.stockBad = false →
      (b.step = .clocks → env.clocksOk = true → goes .probe fun t => t.dev.on SYS_CLKSTAT_LPLL_LOCK = true) ∧
      (b.step = .clocks → env.clocksOk = false → fails 0x0E) ∧
      (b.step = .probe → FlashIdUsable env.flash = true → goes .ptable fun t => t.dev.fg NVJ_FLASH_SECTORS = env.flash.sectors) ∧
      (b.step = .probe → FlashIdUsable env.flash = false → fails 0x01) ∧
      (b.step = .ptable → env.readOk = true → tableCode d.tableBytes d.flashSectors = 0 → goes .slot fun t => t.dev.flash = d.flash) ∧
      (b.step = .ptable → env.readOk = true → tableCode d.tableBytes d.flashSectors ≠ 0 →
        fails (tableCode d.tableBytes d.flashSectors)) ∧
      (b.step = .header → env.readOk = true → hcode = 0 → sectionCode head = 0 → goes .clear fun t =>
        t.dev.rbs (hwBase + 0xC0) 64 = part head 0x620 64 ∧ t.dev.reg rSTG_IMGVER = w32 (le head 0xC 4) ∧ t.dev.flash = d.flash) ∧
      (b.step = .header → env.readOk = true → hcode ≠ 0 → ¬other → fails hcode) ∧
      (b.step = .header → env.readOk = true → hcode ≠ 0 → other → d.fg STG_BOOT_FAIL1 = 0 →
        goes .slot fun t => t.dev.fg STG_BOOT_FAIL1 = hcode ∧ t.dev.staged = [] ∧ t.dev.flash = d.flash) ∧
      (b.step = .check → env.readOk = true → (d.checkSet [] (d.voicesAt d.age.fstart) d.age.fstart).isNone = true →
        goes .journal fun t => t.dev.fg STG_STATUS_RESULT = 1 ∧ t.dev.flash = d.flash) ∧
      (b.step = .check → env.readOk = true → (d.checkSet [] (d.voicesAt d.age.fstart) d.age.fstart).isSome = true → ¬other → fails 0x0C))

/-- The end of CHUCK (R57, R66, R70, R147, R272, R363): the device enters RUN with the engine on; every bank passes to its
OWNER; staging equals the live values; outputs stay inert while the role is open. SELF_CONFIRMATION (R61, R65) then programs
CONFIRMED of the running slot, unless a fatal source was raised or CONFIRM_S waits for the host. -/
def Obligations.BootEndsInRun : Prop :=
  ∀ (s : State) (env : BootEnv) (b : Boot),
    let d := s.dev
    let slot := d.fg STG_BOOT_SLOT
    let due : Prop := d.alive = true ∧ d.stg.fatalSeen = false ∧ d.stg.confirmSec ≠ 0xFFFF ∧ d.on STG_BOOT_CONF = false
    (d.pwr.mode = .chuck → d.pwr.boot = some b → b.wipes = 0 → b.step = .start → env.steps = 1 → env.readOk = true →
      ∃ t, exec (.blankAdvance env) s = .next t ∧ t.dev.pwr.mode = .run ∧ t.dev.pwr.prev = .chuck ∧ t.dev.pwr.boot = none ∧
        t.dev.eng.on = true ∧ t.dev.staged = [] ∧
        (t.dev.pins.inert = false ↔ d.on SYS_STRAP_HEAD = true ∨ d.fg CBL_POL0_HEADWAIT = 0) ∧
        (∀ k, k < 16 → t.dev.bankCur k = d.fg (MEM_BANK_OWNER k)) ∧ t.dev.fg STG_BOOT_SLOT = b.slot % 4 ∧
        t.dev.on SYS_CLKSTAT_APLL_LOCK = true ∧ t.dev.on SYS_CLKSTAT_HFRC_ON = false ∧
        t.dev.mem = d.mem ∧ t.dev.fuses = d.fuses ∧ t.pending = s.pending) ∧
    (due → slot = 1 ∨ slot = 2 → ∃ t, exec .selfConfirmation s = .next t ∧ t.dev.on STG_BOOT_CONF = true ∧
      (∀ i, i < 4 → tget 0xFF t.dev.flash (d.ctlAt slot + 4 + i) =
        (tget 0xFF d.flash (d.ctlAt slot + 4 + i) &&& BitVec.ofNat 8 (0x434F4E46 / 256 ^ i))) ∧
      (∀ a, a < d.ctlAt slot + 4 ∨ d.ctlAt slot + 8 ≤ a → tget 0xFF t.dev.flash a = tget 0xFF d.flash a) ∧
      s.keepsRegisters t [rSTG_BOOT] ∧
      t = { s with dev := { d with live := t.dev.live, flash := t.dev.flash, stg := { d.stg with confirmed := true } } }) ∧
    (¬due → exec .selfConfirmation s = .next s)

/-- A write of STG_CTRL with CHECK (R72, R73, R75, R76): the snapshot of the whole staging copy and BUSY, and at its
completion the first failing rule with its register, RESULT 0 where an ST register was written meanwhile. A check that
passes says what the rules of the table say of the checked set: here rules 2, 3, 5 and 16 in full. A COMMIT that does not
meet the conditions of R74 is refused: REJ names the condition, source 33 is raised, and staging is as it was. Where several
fail, REJ names the first in the order mode, check, pending, headstock, clock step, WHEN (the model's choice). -/
def Obligations.CheckAndCommitRefusals : Prop :=
  (
    ∀ (s : State) (v : Word),
      let g := s.dev.stg
      let found := s.dev.checkSet g.snap (s.dev.fg AGE_PLAN_VOICES) (s.dev.fg AGE_PLAN_STEP)
      let set := s.dev.withSet g.snap
      let parts (t : State) : Prop := t = { s with dev := { s.dev with live := t.dev.live, stg := t.dev.stg } }
      (s.dev.hears = true → bitOf v 0 = true → bitOf v 2 = false → bitOf v 3 = false →
        ∃ t, exec (.check v) s = .next t ∧ parts t ∧ s.keepsRegisters t [rSTG_CTRL, rSTG_STATUS] ∧
          t.dev.stg.snap = s.dev.staged ∧ t.dev.stg.checking = true ∧ t.dev.stg.dirty = false ∧
          t.dev.stg.thenCommit = bitOf v 1 ∧ t.dev.on STG_STATUS_BUSY = true ∧ t.dev.fg STG_STATUS_RESULT = 0 ∧
          t.dev.fg STG_CTRL_WHEN = fieldOf v 5 4) ∧
      (g.checking = true → g.thenCommit = false →
        ∃ t, exec .checkComplete s = .next t ∧ parts t ∧ s.keepsRegisters t [rSTG_STATUS, rSTG_FAIL_ADDR] ∧
          t.dev.stg.checking = false ∧ t.dev.on STG_STATUS_BUSY = false ∧
          t.dev.fg STG_STATUS_RESULT = (if g.dirty then 0 else if found.isSome then 2 else 1) ∧
          t.dev.fg STG_STATUS_RULE = (found.getD (0, 0)).1 ∧ t.dev.reg rSTG_FAIL_ADDR = w32 (found.getD (0, 0)).2 ∧
          (t.dev.fg STG_STATUS_RESULT = 1 →
            (∀ p, p < 32 → set.on (NOTE_PART_MAP_EN p) = true →
              set.fg (NOTE_PART_ALLOC_RESERVE p) ≤ set.fg (NOTE_PART_ALLOC_LIMIT p) ∧
              set.fg (NOTE_PART_ALLOC_LIMIT p) ≤ s.dev.fg AGE_PLAN_VOICES ∧
              set.fg (NOTE_PART_MODE_UNISON p) ≤ set.fg (NOTE_PART_ALLOC_LIMIT p)) ∧
            8 ≤ set.fg NOTE_HORIZON_H ∧ set.fg NOTE_HORIZON_H ≤ 64 ∧
            ∀ n, n < 16 → (set.reg (rTMR_PHASE n)).toNat ≤ (set.reg (rTMR_PER n)).toNat)) ∧
      (g.checking = false → exec .checkComplete s = .next s)) ∧
  (
    ∀ (s : State) (v : Word),
      let d := s.dev
      let refused (n : Nat) : Prop := ∃ t, exec (.commit v) s = .next t ∧ t.dev.fg STG_STATUS_REJ = n ∧ t.dev.raw 33 = true ∧
        t.dev.fg STG_CTRL_WHEN = fieldOf v 5 4 ∧ s.keepsRegisters t [rSTG_CTRL, rSTG_STATUS] ∧ t.dev.staged = d.staged ∧
        t.dev.fg STG_STATUS_RESULT = d.fg STG_STATUS_RESULT ∧ t.dev.on STG_STATUS_PENDING = d.on STG_STATUS_PENDING ∧
        t = { s with dev := { d with live := t.dev.live, evt := t.dev.evt } }
      let run : Prop := d.pwr.mode = .run
      let pass : Prop := d.fg STG_STATUS_RESULT = 1
      let idle : Prop := d.on STG_STATUS_PENDING = false
      let head : Prop := d.isHead = true
      let still : Prop := d.on AGE_STAT_CLKSEQ = false
      let free : Prop := 2 ≤ fieldOf v 5 4
      d.hears = true → bitOf v 1 = true → bitOf v 0 = false → bitOf v 2 = false → bitOf v 3 = false →
      (¬run → refused 2) ∧ (run → ¬pass → refused 1) ∧ (run → pass → ¬idle → refused 4) ∧ (run → pass → idle → ¬head → refused 5) ∧
      (run → pass → idle → head → ¬still → refused 6) ∧ (run → pass → idle → head → still → free → refused 3))

/-- An accepted COMMIT of a device without members, WHEN = 0 (R74, R77): the checked snapshot is in the commit buffer,
PENDING and CSTATE say so, staging stays; where no voice sounds its sample is the first beyond every part's frontier. A
commit applies at its sample (R70, R80): STG_EPOCH and STG_LAST, source 32, the part registers of the set (rings that wait
for pins aside), and a staging copy that follows the live values but for later writes. Before its sample nothing happens.
DISCARD, ABORT and staged writes (R7, R70, R73, R75, R83, R85). DISCARD alone: staging takes every live value, a pending
commit stays. ABORT before the sample empties the commit buffer and keeps staging. A staged write goes to the staging copy
and not to the live register, and voids the check. -/
def Obligations.CommitAppliesAtItsSample : Prop :=
  (
    ∀ (s : State) (v : Word),
      let d := s.dev
      d.hears = true → bitOf v 1 = true → bitOf v 0 = false → bitOf v 2 = false → bitOf v 3 = false → fieldOf v 5 4 = 0 →
      d.pwr.mode = .run → d.fg STG_STATUS_RESULT = 1 → d.on STG_STATUS_PENDING = false → d.isHead = true →
      d.on AGE_STAT_CLKSEQ = false → d.cbl.census = [] →
      ∃ t, exec (.commit v) s = .next t ∧ t.dev.stg.buffer = some d.stg.snap ∧ t.dev.stg.epochT = d.reg rSTG_EPOCH + 1 ∧
        t.dev.on STG_STATUS_PENDING = true ∧ t.dev.fg STG_STATUS_CSTATE = 1 ∧ t.dev.staged = d.staged ∧
        t.dev.reg rSTG_EPOCH = d.reg rSTG_EPOCH ∧ t.pending = s.pending ∧ t.dev.mem = d.mem ∧ t.dev.flash = d.flash ∧
        ((∀ k, k < 256 → (d.voice k).cls = clsFree) → t.dev.stg.sample = d.unrendered)) ∧
  (
    ∀ (s : State) (set : List (Nat × Word)),
      let d := s.dev
      let g := d.stg
      let state := d.fg STG_STATUS_CSTATE
      g.buffer = some set →
      (d.running = true → later d.eng.c g.sample ≥ 0 → (∀ m ∈ d.waiting 0, m.kind ≠ 0x20) → state = 1 ∨ state = 3 →
        ∃ t, exec .commitApply s = .next t ∧ t.dev.reg rSTG_EPOCH = g.epochT ∧ t.dev.reg rSTG_LAST = d.tau g.sample ∧
          t.dev.on STG_STATUS_PENDING = false ∧ t.dev.fg STG_STATUS_CSTATE = 0 ∧ t.dev.raw 32 = true ∧ t.dev.stg.buffer = none ∧
          (∀ a, tfind t.dev.staged a = if g.since.contains a then tfind d.staged a else none) ∧
          (g.atC = [] → tsorted none set = true → ∀ a w, tfind set a = some w → a / 0x10000 = 3 → t.dev.reg a = d.staged1 a w) ∧
          t.pending = s.pending ∧ t.dev.mem = d.mem ∧ t.dev.flash = d.flash ∧ t.dev.voices = d.voices ∧ t.dev.ctxs = d.ctxs ∧
          t.dev.alloc = d.alloc ∧ t.dev.time = d.time ∧ t.dev.eng = d.eng) ∧
      (later d.eng.c g.sample < 0 → exec .commitApply s = .next s)) ∧
  (
    ∀ (s : State) (v addr : Word),
      let d := s.dev
      let a := addr.toNat
      let m := accMask a .st
      (d.hears = true → bitOf v 2 = true →
        exec (.discard v) s = .next { s with dev := { d with staged := [], stg := { d.stg with since := [] } } }) ∧
      (d.hears = true → bitOf v 3 = true → bitOf v 2 = false → bitOf v 1 = false → bitOf v 0 = false →
        (d.on STG_STATUS_PENDING = true → d.isHead = true → d.fg STG_STATUS_CSTATE = 1 → d.stg.buffer.isSome = true →
          later d.stg.sample d.eng.c > 0 →
          ∃ t, exec (.commitAbort v) s = .next t ∧ t.dev.stg.buffer = none ∧ t.dev.on STG_STATUS_PENDING = false ∧
            t.dev.fg STG_STATUS_CSTATE = 4 ∧ t.dev.staged = d.staged ∧ t.dev.reg rSTG_EPOCH = d.reg rSTG_EPOCH ∧
            t.pending = s.pending ∧ t.dev.mem = d.mem ∧ t.dev.flash = d.flash) ∧
        (d.on STG_STATUS_PENDING = false ∨ d.isHead = false →
          ∃ t, exec (.commitAbort v) s = .next t ∧ t.dev.fg STG_CTRL_WHEN = fieldOf v 5 4 ∧
            s.keepsRegisters t [rSTG_CTRL] ∧ t = { s with dev := { d with live := t.dev.live } })) ∧
      (d.hears = true → isStaged a = true → d.voiceAbsent a = false → d.pwr.mode ≠ .chuck →
        ∃ t, exec (.stagedWrite addr v) s = .next t ∧
          m &&& t.dev.stagingReg a = m &&& stagedWord a v (d.stagingReg a) ∧
          (∀ b, b ≠ a → tfind t.dev.staged b = tfind d.staged b) ∧ s.keepsRegisters t [rSTG_STATUS] ∧
          (d.on STG_STATUS_BUSY = true → t.dev.stg.dirty = true) ∧
          (d.on STG_STATUS_BUSY = false → t.dev.fg STG_STATUS_RESULT = 0) ∧
          t = { s with dev := { d with live := t.dev.live, staged := t.dev.staged, stg := t.dev.stg } }) ∧
      (d.hears = true → isStaged a = false → exec (.stagedWrite addr v) s = .next s))

/-! ### Intake, run-ahead and allocation (chapters 3 to 5) -/

/-- The MIDI byte stream (R89 to R91, R106): a note-on, note-off or control change, its status given or running, joins its
source's holding stage with values upscaled, the arrival of its first and last byte, and leaves the rest of the bytes; with
eight messages held the bytes wait. 0xFE arms active sensing where the source has it on; its timeout lets everything go
once. -/
def Obligations.MidiMessagesAreParsed : Prop :=
  ∀ (s : State) (n c a b : Nat) (t0 f0 t1 f1 t2 f2 : Word) (rest : List (Byte × Word × Word)),
    let d := s.dev
    let src := 2 + n
    let by_ (x : Nat) : Byte := BitVec.ofNat 8 x
    let p := d.parser n
    let q := d.waiting src
    let quiet (r st : Nat) : Prop := p.running = r ∧ p.status = st ∧ p.data = [] ∧ p.sysex = none
    let on (st fin : Word) : Prop := d.srcOn src (d.arrival src st fin) = true
    let msg (k : Nat) (st fin : Word) : Msg := Msg.live k 0 c st fin
    let gets (m : Msg) : Prop := ∃ t, exec (.midiMessage n) s = .next t ∧ t.dev.waiting src = q ++ [m] ∧
      (t.dev.uart n).rxq = rest ∧ (∀ k, k ≠ src → t.dev.waiting k = d.waiting k) ∧ s.keepsRegisters t [] ∧
      t = { s with dev := { d with live := t.dev.live, note := t.dev.note, uarts := t.dev.uarts } }
    d.alive = true → n < 4 → c < 16 → a < 128 → b < 128 →
    (q.length < 8 → quiet 0 0 → on t0 f2 → (d.uart n).rxq = [(by_ (0x90 + c), t0, f0), (by_ a, t1, f1), (by_ b, t2, f2)] ++ rest →
      (0 < b → gets { msg 1 t0 f2 with key := a, value := w32 (upscale b 7 16 * 65536) }) ∧
      (b = 0 → gets { msg 2 t0 f2 with key := a, value := 0x80000000 })) ∧
    (q.length < 8 → quiet (0x90 + c) 0 → 0 < b → on t1 f2 → (d.uart n).rxq = [(by_ a, t1, f1), (by_ b, t2, f2)] ++ rest →
      gets { msg 1 t1 f2 with key := a, value := w32 (upscale b 7 16 * 65536) }) ∧
    (q.length < 8 → quiet 0 0 → on t0 f2 → 64 ≤ a → a < 96 →
      (d.uart n).rxq = [(by_ (0xB0 + c), t0, f0), (by_ a, t1, f1), (by_ b, t2, f2)] ++ rest →
      gets { msg 0x10 t0 f2 with index := a, value := w32 (upscale b 7 32) }) ∧
    (q.length < 8 → (d.uart n).rxq = (0xFE, t0, f0) :: rest → d.on (NOTE_SRC_ASENSE n) = true →
      ∃ t, exec (.midiMessage n) s = .next t ∧ t.dev.parser n = { p with armed := true } ∧ t.dev.waiting src = q ∧
        (t.dev.uart n).rxq = rest) ∧
    (8 ≤ q.length → exec (.midiMessage n) s = .next s) ∧
    (p.armed = true → on d.now d.now → ∃ t, exec (.activeSensingTimeout n) s = .next t ∧
      t.dev.parser n = { p with armed := false } ∧ t.dev.waiting src = q ++ portSilence d.now ∧
      t = { s with dev := { d with note := t.dev.note } }) ∧
    (p.armed = false → exec (.activeSensingTimeout n) s = .next s)

/-- Entry into the pipeline on a device without a chain (R87, R98, R106, R111 to R114): the front message of a source, here
a control change that one part takes, becomes an entry with its stamp, sample and arrival sequence; one whose stamp has
passed C is late, applies at C, is counted and raises source 27. A full pipeline makes it wait. A write of NOTE_STAT sets
the high-water mark to the occupancy. -/
def Obligations.EventsEnterThePipeline : Prop :=
  ∀ (s : State) (src p : Nat) (m : Msg) (rest : List Msg) (v : Word),
    let d := s.dev
    let t0 := d.stampOf src m
    let late : Prop := later t0 (d.tau d.eng.c) < 0
    let takes (q : Nat) : Prop := m.nextPart ≤ q ∧ d.partTakes q src m t0 = true
    (d.running = true → d.isMember = false → (d.isHead && d.hasMembers) = false → 2 ≤ src → src ≤ 6 → d.waiting src = m :: rest →
      m.kind = 0x10 → p < 32 → takes p → (∀ q, q < 32 → takes q → q = p) → d.note.pipe.length < 128 →
      ∃ t e, exec (.eventEntry src) s = .next t ∧ t.dev.note.pipe = d.note.pipe ++ [e] ∧ t.dev.waiting src = rest ∧
        e.ev.stamp = t0 ∧ e.ev.kind = 0x10 ∧ e.ev.part = p ∧ e.ev.src = src ∧ e.ev.value = m.value ∧ e.ev.index = m.index ∧
        e.ev.seq = d.note.seq ∧ t.dev.note.seq = (d.note.seq + 1) % 0x10000 ∧ e.applied = false ∧ e.refused = false ∧
        (late → e.ev.late = true ∧ e.sample = d.eng.c ∧ t.dev.fg NOTE_CNT0_LATE = min (d.fg NOTE_CNT0_LATE + 1) 0xFF ∧
          t.dev.fg (EVT_COUNT_TOTAL 13) = min (d.fg (EVT_COUNT_TOTAL 13) + 1) 0xFFFF) ∧
        (¬late → e.ev.late = false ∧ e.sample = (d.sampleOf t0).1 ∧ e.phi = (d.sampleOf t0).2 ∧ t.dev.evt = d.evt) ∧
        t.dev.fg NOTE_STAT_OCC = d.note.pipe.length + 1 ∧ s.keepsRegisters t [rNOTE_STAT, rNOTE_CNT0] ∧
        t = { s with dev := { d with live := t.dev.live, evt := t.dev.evt, note := t.dev.note } }) ∧
    (d.isMember = false → 128 ≤ d.note.pipe.length → exec (.eventEntry src) s = .next s) ∧
    (d.running = false → exec (.eventEntry src) s = .next s) ∧
    (d.hears = true → ∃ t, exec (.hwmClear v) s = .next t ∧ t.dev.fg NOTE_STAT_HWM = d.note.pipe.length % 256 ∧
      t.dev.fg NOTE_STAT_OCC = d.fg NOTE_STAT_OCC ∧ s.keepsRegisters t [rNOTE_STAT] ∧
      t = { s with dev := { d with live := t.dev.live } })

/-- An entry whose sample the frontier of its part has reached, its voices assigned, is applied (R124): it is marked so, and
the voices of a note-on each get it in their logs, with its tag. Until then nothing happens. -/
def Obligations.EventsApplyAtTheFrontier : Prop :=
  ∀ (s : State) (seq : Nat) (e : PipeEnt),
    let d := s.dev
    d.entry seq = some e →
    (d.running = true → e.applied = false → e.queued = false → e.refused = false → later e.sample (d.frontier e.ev.part) ≤ 0 →
      ∃ t x, exec (.eventApply seq) s = .next t ∧ t.dev.entry seq = some x ∧ x.applied = true ∧
        (e.ev.kind = 1 → x.voices = e.voices ∧
          ∀ v ∈ e.voices, v < 256 → ∃ l ∈ (t.dev.ctx (ctxOf v)).log, l.ev.seq = e.ev.seq ∧ l.ev.kind = 1 ∧ l.tag = e.tag) ∧
        (e.ev.kind = 2 → x.voices = d.matchOff e.sample e.ev e.tag) ∧
        t.pending = s.pending ∧ t.dev.mem = d.mem ∧ t.dev.voices = d.voices ∧ t.dev.alloc = d.alloc ∧ t.dev.spns = d.spns) ∧
    (e.applied = true ∨ e.queued = true ∨ e.refused = true ∨ later e.sample (d.frontier e.ev.part) > 0 →
      exec (.eventApply seq) s = .next s)

/-- A pass of the allocation tree (R153): the eligible present voice of the highest score, and of equal scores the lowest
number; no voice where every eligible score is 0. -/
def Obligations.TreeTakesHighestScore : Prop :=
  ∀ (d : Dev) (ok : Nat → Bool),
    let score (v : Nat) : Nat := (d.reg (rALLOC_SCORE v)).toNat
    let may (v : Nat) : Prop := d.present v = true ∧ ok v = true ∧ score v ≠ 0
    (∀ v, d.treePass ok = some v → may v ∧ ∀ w, may w → score w < score v ∨ (score w = score v ∧ v ≤ w)) ∧
    (d.treePass ok = none → ∀ v, ¬may v)

/-- A request at the front of the allocator's queue on a device without a chain, for a polyphonic part with RETRIG = 0 (R152
to R156, R161, R168): the leaves found become the note's voices, pending for its new tag; where none is found the note is
refused, counted, and raises source 31. A write of ALLOC_STAT sets the queue's high-water mark to its occupancy. -/
def Obligations.AllocatorServesTheFront : Prop :=
  ∀ (s : State) (q : Nat) (rest : List Nat) (e : PipeEnt) (vs : List Nat) (v : Word),
    let d := s.dev
    let p := e.ev.part
    let u := max 1 (d.fgAlloc (NOTE_PART_MODE_UNISON p))
    let front : Prop := d.running = true ∧ d.alloc.queue = q :: rest ∧ d.entry q = some e ∧ e.ev.seq = q ∧
      (d.isHead && d.hasMembers) = false ∧ d.fgAlloc (NOTE_PART_MODE_VOICING p) = 0 ∧ d.fgAlloc (NOTE_PART_STEAL_RETRIG p) = 0
    (front → d.findLeaves p u false = some (vs, false) → ∃ t x, exec .allocationRequest s = .next t ∧
      t.dev.entry q = some x ∧ x.voices = vs ∧ x.queued = false ∧ x.refused = e.refused ∧ x.tag = d.alloc.tag ∧ x.starts = true ∧
      t.dev.alloc.queue = rest ∧ t.dev.alloc.tag = nextTag d.alloc.tag ∧ t.dev.fg ALLOC_STAT_QOCC = rest.length % 32 ∧
      (∀ w ∈ vs, d.alloc.tag ≠ 0 → t.dev.pendOf w = (d.alloc.tag, p)) ∧
      t.dev.on ALLOC_LAST_REFUSED = false ∧ t.dev.evt = d.evt ∧
      t = { s with dev := { d with live := t.dev.live, note := t.dev.note, alloc := t.dev.alloc } }) ∧
    (front → d.findLeaves p u false = none → ∃ t x, exec .allocationRequest s = .next t ∧
      t.dev.entry q = some x ∧ x.refused = true ∧ x.queued = false ∧ t.dev.alloc.queue = rest ∧
      t.dev.fg ALLOC_CNT_REFUSED = min (d.fg ALLOC_CNT_REFUSED + 1) 0xFF ∧ t.dev.on ALLOC_LAST_REFUSED = true ∧
      t.dev.fg (EVT_COUNT_TOTAL 17) = min (d.fg (EVT_COUNT_TOTAL 17) + 1) 0xFFFF ∧
      s.keepsRegisters t [rALLOC_STAT, rALLOC_CNT, rALLOC_LAST] ∧
      t = { s with dev := { d with live := t.dev.live, evt := t.dev.evt, note := t.dev.note,
                                   alloc := { d.alloc with queue := rest } } }) ∧
    (d.alloc.queue = [] → exec .allocationRequest s = .next s) ∧
    (d.hears = true → ∃ t, exec (.qhwmClear v) s = .next t ∧ t.dev.fg ALLOC_STAT_QHWM = d.alloc.queue.length % 32 ∧
      t.dev.fg ALLOC_STAT_QOCC = d.fg ALLOC_STAT_QOCC ∧ s.keepsRegisters t [rALLOC_STAT] ∧
      t = { s with dev := { d with live := t.dev.live } })

/-- A context's turn (R228 to R230, R233): a suspended one goes on; a voice context that sounds, may render its next sample,
and has no event there begins it at the program's ENTRY with an empty call stack, after a checkpoint at a multiple of 16,
for 1 cycle or 65. A spindle that is trapped or runs a context, and a context beyond its frontier, do nothing. -/
def Obligations.ContextSwitchBeginsSample : Prop :=
  ∀ (s : State) (n c : Nat),
    let d := s.dev
    let i := 18 * n + c
    let x := d.ctx i
    let sp := d.spn n
    let open_ : Prop := d.running = true ∧ n < 16 ∧ d.on (SPN_STATUS_TRAPPED n) = false ∧ sp.cur = none
    let full : Prop := x.next.toNat % 16 = 0
    (open_ → c < 18 → sp.susp = some c → ∃ t, exec (.contextSwitch n c) s = .next t ∧
      t.dev.spn n = { sp with cur := some c, susp := none } ∧ t.dev.fg (SPN_STATUS_CUR n) = c ∧
      t.dev.fg (SPN_ORDERS_SUSP n) = 31 ∧ s.keepsRegisters t [rSPN_STATUS n, rSPN_ORDERS n] ∧
      (∀ m, m ≠ n → t.dev.spn m = d.spn m) ∧ t = { s with dev := { d with live := t.dev.live, spns := t.dev.spns } }) ∧
    (open_ → c < 16 → sp.susp ≠ some c → sp.rom = false → (d.noteOf i).cls ≠ clsFree → x.roll = none → d.mayRender i x.next = true →
      (∀ e ∈ x.log, e.sample ≠ x.next) → ∃ t, exec (.contextSwitch n c) s = .next t ∧
        (t.dev.spn n).cur = some c ∧ (t.dev.spn n).bundle = [] ∧
        (t.dev.spn n).cycles = sp.cycles + (if x.next.toNat % 16 = 0 then 65 else 1) ∧ t.dev.fg (SPN_STATUS_CUR n) = c ∧
        (t.dev.ctx i).regs.pc = BitVec.ofNat 11 (fieldOf (d.regAtSample (rSPN_PROG n) x.next) 26 16) ∧
        (t.dev.ctx i).regs.stack = [] ∧ (t.dev.ctx i).cyc = 0 ∧ (t.dev.ctx i).flight = [] ∧ (t.dev.ctx i).next = x.next ∧
        (t.dev.ctx i).log = x.log ∧ (t.dev.ctx i).evq = [] ∧ (∀ k, (t.dev.ctx i).regs.rd k = x.regs.rd k) ∧
        (full → ∃ k ∈ (t.dev.ctx i).ckpts, k.sample = x.next ∧ k.regs = x.regs ∧ k.voice = d.noteOf i) ∧
        (¬full → (t.dev.ctx i).ckpts = x.ckpts) ∧ (∀ k, k ≠ i → t.dev.ctx k = d.ctx k) ∧ (∀ m, m ≠ n → t.dev.spn m = d.spn m) ∧
        t = { s with dev := { d with live := t.dev.live, ctxs := t.dev.ctxs, spns := t.dev.spns } }) ∧
    (¬open_ → exec (.contextSwitch n c) s = .next s) ∧
    (c < 16 → sp.susp ≠ some c → (d.noteOf i).cls ≠ clsFree → later x.next (d.frontier (d.noteOf i).part) > 0 →
      exec (.contextSwitch n c) s = .next s)

/-- A rollback order arrives (R129, R132, R133, R232): for a voice that sounds, and whose rendering again is forecast in
time, its context goes back to the checkpoint at or before the sample, for 65 cycles; an order at or behind what is being
rendered again anyway is merged; a trapped spindle drops it. The load counters of a spindle (R239): at a boundary the cycles
of the VS become LAST, PEAK follows it up, and counting begins anew; a write of SPNn_LOAD clears PEAK to LAST. -/
def Obligations.RollbackAndSpindleLoad : Prop :=
  (
    ∀ (s : State) (n c : Nat) (sample : Word) (seq : Nat) (k : Ckpt),
      let d := s.dev
      let i := 18 * n + c
      let x := d.ctx i
      let found : Prop := (d.eng.transit.find? fun o => o.1 == n && o.2.1 == c && o.2.2.1 == sample) = some (n, c, sample, seq)
      let ok : Prop := d.running = true ∧ n < 16 ∧ c < 16 ∧ d.on (SPN_STATUS_TRAPPED n) = false
      let gone := d.eng.transit.erase (n, c, sample, seq)
      let rest : Eng := { d.eng with transit := gone }
      (found → ok → (d.noteOf i).cls ≠ clsFree → x.roll = none → d.ckptFor i sample = some k → (d.spn n).cur = none →
        (d.spn n).susp = none → d.forecast n c sample (x.next - 1) false = true →
        ∃ t, exec (.rollbackOrder n c sample) s = .next t ∧ (t.dev.ctx i).next = k.sample ∧ (t.dev.ctx i).regs = k.regs ∧
          (t.dev.ctx i).roll = some { stale := sample, front := x.next - 1 } ∧ t.dev.noteOf i = k.voice ∧
          (∀ q ∈ (t.dev.ctx i).ckpts, later q.sample k.sample ≤ 0) ∧ t.dev.eng.transit = gone ∧ t.dev.eng.c = d.eng.c ∧
          t.dev.fg (SPN_RBCNT_ORDERS n) = min (d.fg (SPN_RBCNT_ORDERS n) + 1) 0xFFFF ∧
          t.dev.fg (SPN_ORDERS_PEND n) = (d.fg (SPN_ORDERS_PEND n) ||| 2 ^ c) ∧
          (t.dev.spn n).cycles = (d.spn n).cycles + 65 ∧ t.pending = s.pending ∧ t.dev.flash = d.flash ∧ t.dev.fuses = d.fuses) ∧
      (found → ok → ∀ r, x.roll = some r → later sample x.next ≥ 0 → ∃ t, exec (.rollbackOrder n c sample) s = .next t ∧
        t.dev.fg (SPN_RBCNT_ORDERS n) = min (d.fg (SPN_RBCNT_ORDERS n) + 1) 0xFFFF ∧
        t.dev.fg (SPN_RBCNT_MERGED n) = min (d.fg (SPN_RBCNT_MERGED n) + 1) 0xFFFF ∧ s.keepsRegisters t [rSPN_RBCNT n] ∧
        t = { s with dev := { d with live := t.dev.live, eng := rest } }) ∧
      (found → d.running = true → d.on (SPN_STATUS_TRAPPED n) = true →
        exec (.rollbackOrder n c sample) s = .next { s with dev := { d with eng := rest } }) ∧
      ((∀ o ∈ d.eng.transit, ¬(o.1 = n ∧ o.2.1 = c)) → exec (.rollbackOrder n c sample) s = .next s)) ∧
  (
    ∀ (s : State) (n : Nat) (v : Word), n < 16 →
      let d := s.dev
      let e := d.spnBoundary n
      let last := min 0xFFFF (d.spn n).cycles
      (e.fg (SPN_LOAD_LAST n) = last ∧ e.fg (SPN_LOAD_PEAK n) = max (d.fg (SPN_LOAD_PEAK n)) last ∧ (e.spn n).cycles = 0 ∧
        (e.spn n).used = [] ∧ (e.spn n).rollUsed = 0 ∧ ∀ a, a ≠ rSPN_LOAD n → e.reg a = d.reg a) ∧
      (d.hears = true → ∃ t, exec (.peakClear n v) s = .next t ∧ t.dev.fg (SPN_LOAD_PEAK n) = d.fg (SPN_LOAD_LAST n) ∧
        t.dev.fg (SPN_LOAD_LAST n) = d.fg (SPN_LOAD_LAST n) ∧ s.keepsRegisters t [rSPN_LOAD n] ∧
        t = { s with dev := { d with live := t.dev.live } }))

/-- The VS boundary (R32, R120, R228, R403, R404): in RUN the commit point moves on by one sample, and the residual of the
APLL discipline stays within 4 ns; in REST-WARM only the grid and the timers on it go on; elsewhere, and while frozen,
nothing happens. -/
def Obligations.VsBoundaryAdvancesC : Prop :=
  ∀ (s : State),
    let d := s.dev
    let warm : Prop := d.pwr.mode = .rest ∧ d.pwr.cold = false ∧ d.pwr.frozen = false
    (d.running = true → ∃ t, exec .vsBoundary s = .next t ∧ t.dev.eng.c = d.eng.c + 1 ∧ t.dev.eng.crel = d.eng.crel + 1 ∧
      (-4 ≤ t.dev.fs TIME_APLL_RESID ∧ t.dev.fs TIME_APLL_RESID ≤ 4) ∧
      t.pending = s.pending ∧ t.dev.mem = d.mem ∧ t.dev.flash = d.flash ∧ t.dev.fuses = d.fuses ∧ t.dev.voices = d.voices ∧
      t.dev.staged = d.staged ∧ t.dev.time = d.time ∧ t.dev.uarts = d.uarts ∧ t.dev.host = d.host ∧ t.dev.age = d.age) ∧
    (warm → ∃ t, exec .vsBoundary s = .next t ∧ t.dev.eng = { d.eng with c := d.eng.c + 1, crel := d.eng.crel + 1 } ∧
      (∀ n, d.fg (TMR_CFG_CLK n) ≠ 2 → t.dev.tmr n = d.tmr n) ∧
      t = { s with dev := { d with
        live := t.dev.live, evt := t.dev.evt, note := t.dev.note, eng := t.dev.eng, tmrs := t.dev.tmrs } }) ∧
    (d.running = false → ¬warm → exec .vsBoundary s = .next s)

/-! ### The spindle instruction set (chapter 8) -/

/-- Every ALU operation of 0x01 to 0x16 but CMP: the value of R253, narrowed as S says, lands in RD one cycle later; Z, N, C
and V follow with F = 1 and stay with F = 0; NOV sets with a clamp and GOV stays (R253, R254, R263). Nothing else of the
context, no byte of memory and no other context changes, but PC, LC and the loop's LACT. -/
def Obligations.AluOperationsWriteResultAndFlags : Prop :=
  ∀ (s : State) (n j : Nat) (f : AluF),
    let i := 18 * n + j
    let r := (s.dev.ctx i).regs
    let x := r.rd f.ra.toNat
    let y := r.rd (aluRb f)
    let k := y.toNat % 32
    let m := f.low.toNat % 32
    let imm : Word := f.low.signExtend 32
    let out (v : Int) : Bool := decide (v < -2147483648) || decide (2147483647 < v)
    let fit (v : Int) : Word := if f.s then w32i (max (-2147483648) (min 2147483647 v)) else w32i v
    let gives (o : Instr) (code : Nat) (w : Word) (cy ov clamped : Bool) : Prop :=
      s.dev.issuesAlone n j (.alu code f 0) →
      ∃ t, exec o s = .next t ∧ s.lands t i 1 [(f.rd.toNat, w)] ∧ s.keepsElse t n i ∧ s.keepsCtx t i ∧ s.keepsRegs t i ∧
        (let sr := (t.dev.ctx i).regs.sr
         bitOf sr 0 = (if f.f then w == 0 else bitOf r.sr 0) ∧ bitOf sr 1 = (if f.f then bitOf w 31 else bitOf r.sr 1) ∧
         bitOf sr 2 = (if f.f then cy else bitOf r.sr 2) ∧ bitOf sr 3 = (if f.f then ov else bitOf r.sr 3) ∧
         bitOf sr 4 = bitOf r.sr 4 ∧ bitOf sr 5 = bitOf r.sr 5 ∧ bitOf sr 6 = (bitOf r.sr 6 || clamped))
    let exact (o : Instr) (code : Nat) (v : Int) : Prop := gives o code (fit v) false false (f.s && out v)
    let plain (o : Instr) (code : Nat) (w : Word) : Prop := gives o code w false false false
    gives (.add n f true) 0x01 (fit (x.toInt + y.toInt)) (decide (2 ^ 32 ≤ x.toNat + y.toNat)) (out (x.toInt + y.toInt))
      (f.s && out (x.toInt + y.toInt)) ∧
    gives (.sub n f true) 0x02 (fit (x.toInt - y.toInt)) (decide (y.toNat ≤ x.toNat)) (out (x.toInt - y.toInt))
      (f.s && out (x.toInt - y.toInt)) ∧
    plain (.and n f true) 0x03 (x &&& y) ∧ plain (.or n f true) 0x04 (x ||| y) ∧ plain (.xor n f true) 0x05 (x ^^^ y) ∧
    exact (.asl n f true) 0x06 (x.toInt * 2 ^ k) ∧ plain (.asr n f true) 0x07 (w32i (x.toInt / 2 ^ k)) ∧
    plain (.lsr n f true) 0x08 (w32 (x.toNat / 2 ^ k)) ∧
    plain (.min n f true) 0x09 (w32i (min x.toInt y.toInt)) ∧ plain (.max n f true) 0x0A (w32i (max x.toInt y.toInt)) ∧
    exact (.abs n f true) 0x0B (x.toInt.natAbs : Int) ∧
    gives (.neg n f true) 0x0C (fit (-x.toInt)) (decide (x.toNat = 0)) (out (-x.toInt)) (f.s && out (-x.toInt)) ∧
    plain (.mul n f true) 0x0D (w32i (x.toInt * y.toInt)) ∧
    exact (.fmul n f true) 0x0E ((2 * (x.toInt * y.toInt) + 2 ^ 31) / 2 ^ 32) ∧
    plain (.mov n f true) 0x10 x ∧
    plain (.movl n f true) 0x11 ((r.rd f.rd.toNat).extractLsb' 16 16 ++ f.low) ∧
    plain (.movh n f true) 0x12 (f.low ++ (r.rd f.rd.toNat).extractLsb' 0 16) ∧
    gives (.addi n f true) 0x13 (fit (x.toInt + imm.toInt)) (decide (2 ^ 32 ≤ x.toNat + imm.toNat)) (out (x.toInt + imm.toInt))
      (f.s && out (x.toInt + imm.toInt)) ∧
    exact (.asli n f true) 0x14 (x.toInt * 2 ^ m) ∧ plain (.asri n f true) 0x15 (w32i (x.toInt / 2 ^ m)) ∧
    plain (.lsri n f true) 0x16 (w32 (x.toNat / 2 ^ m))

/-- CMP sets the flags of RA − RB whatever F is and writes no register; MVF reads the class register that bits [15:12] and
[19:16] name into RD; RDSYS reads the value its selector names, 0 for one that names none (R253, R256). Each lands one cycle
later (R263); the rest stays. The sign extension of M is the model's reading (log entry 16). MVT moves D[RA] into the class
register that bits [15:12] and [23:20] name: I and M are seen 2 issue cycles later, a window base or length 3 later, LC, SR
and a ring pointer 1 later, and not before (R253, R263). SR takes its defined bits but LACT. The distance of LC and of a
ring pointer is the model's reading (log entry 16). -/
def Obligations.MovesComparesAndSystemReads : Prop :=
  (
    ∀ (s : State) (n j : Nat) (f : AluF),
      let i := 18 * n + j
      let c := s.dev.ctx i
      let r := c.regs
      let x := r.rd f.ra.toNat
      let y := r.rd (aluRb f)
      let dif := x.toInt - y.toInt
      let idx := f.ra.toNat
      let gives (o : Instr) (code : Nat) (l : List (Nat × Word)) (flag : Nat → Bool) : Prop :=
        s.dev.issuesAlone n j (.alu code f 0) →
        ∃ t, exec o s = .next t ∧ s.lands t i 1 l ∧ s.keepsElse t n i ∧ s.keepsCtx t i ∧ s.keepsRegs t i ∧
          ∀ b, b < 7 → bitOf (t.dev.ctx i).regs.sr b = flag b
      let same (b : Nat) : Bool := bitOf r.sr b
      let mvf (cls : Nat) (w : Word) : Prop := aluRb f = cls → gives (.mvf n f true) 0x19 [(f.rd.toNat, w)] same
      let rdsys (sel : Nat) (w : Word) : Prop := f.low.toNat = sel → gives (.rdsys n f true) 0x1A [(f.rd.toNat, w)] same
      gives (.cmp n f true) 0x0F [] (fun b => match b with
        | 0 => w32i dif == 0
        | 1 => bitOf (w32i dif) 31
        | 2 => decide (y.toNat ≤ x.toNat)
        | 3 => decide (dif < -2147483648) || decide (2147483647 < dif)
        | _ => same b) ∧
      mvf 0 ((r.ri idx).setWidth 32) ∧ mvf 1 ((r.rm idx).signExtend 32) ∧ mvf 2 ((r.rwb idx).setWidth 32) ∧
      mvf 3 ((r.rwl idx).setWidth 32) ∧ mvf 4 (r.lc.setWidth 32) ∧ mvf 5 r.sr ∧ mvf 6 (r.rrp idx) ∧
      rdsys 0 c.next ∧ rdsys 1 (w32 (n * 256 + j)) ∧ rdsys 2 (w32 s.dev.voiceRate) ∧
      rdsys 3 (w32 (s.dev.noteOf i).part) ∧ rdsys 8 (w32 c.cyc) ∧ rdsys 9 s.dev.now ∧
      (∀ sel, sel ∉ [0, 1, 2, 3, 8, 9] → rdsys sel 0)) ∧
  (
    ∀ (s : State) (n j : Nat) (f : AluF),
      let i := 18 * n + j
      let c := s.dev.ctx i
      let r := c.regs
      let x := r.rd f.ra.toNat
      let idx := f.rd.toNat
      let cls := aluRb f
      s.dev.issuesAlone n j (.alu 0x18 f 0) →
      ∃ t, exec (.mvt n f true) s = .next t ∧ s.keepsElse t n i ∧ s.keepsCtx t i ∧
        let now (k : Nat) : Regs := ((t.dev.ctx i).landTo (c.cyc + k)).regs
        (cls = 0 → (now 2).ri idx = x.setWidth 16 ∧ (now 1).ri idx = r.ri idx) ∧
        (cls = 1 → (now 2).rm idx = x.setWidth 16 ∧ (now 1).rm idx = r.rm idx) ∧
        (cls = 2 → (now 3).rwb idx = x.setWidth 16 ∧ (now 2).rwb idx = r.rwb idx) ∧
        (cls = 3 → (now 3).rwl idx = x.setWidth 16 ∧ (now 2).rwl idx = r.rwl idx) ∧
        (cls = 4 → (now 1).lc = x.setWidth 11) ∧
        (cls = 5 → ∀ b, b < 7 → bitOf (now 1).sr b = (bitOf x b && b != 4)) ∧
        (cls = 6 → (now 1).rrp idx = x &&& 0xFF00FFFF) ∧
        (now 3).d = r.d ∧ (now 3).a = r.a ∧ (now 3).ls = r.ls ∧ (now 3).le = r.le ∧ (now 3).stack = r.stack ∧
        (∀ q, cls ≠ 0 ∨ q ≠ idx → (now 3).ri q = r.ri q) ∧ (∀ q, cls ≠ 1 ∨ q ≠ idx → (now 3).rm q = r.rm q) ∧
        (∀ q, cls ≠ 2 ∨ q ≠ idx → (now 3).rwb q = r.rwb q) ∧ (∀ q, cls ≠ 3 ∨ q ≠ idx → (now 3).rwl q = r.rwl q) ∧
        (∀ q, cls ≠ 6 ∨ q ≠ idx → (now 3).rrp q = r.rrp q) ∧
        (cls ≠ 5 → ∀ b, b < 7 → bitOf (now 3).sr b = bitOf r.sr b))

/-- The MAC slot forms each accumulator's exact value (R249, R250) and writes it modulo 2^72, or with S = 1 the nearer end
of the range; GOV sets three issue cycles later where a value leaves the range, and stays as it was until then (R251, R263).
The new values are there for the next MAC operation at once and for RND1 and RND4 three cycles later. No D register, no
other accumulator, no byte of memory and no other context changes. -/
def Obligations.AccumulatorOperations : Prop :=
  ∀ (s : State) (n j : Nat) (f : MacF),
    let i := 18 * n + j
    let c := s.dev.ctx i
    let r := c.regs
    let d (k : Nat) : Int := (r.rd k).toInt
    let a := f.ra.toNat
    let b := f.rb.toNat
    let k := f.an.toNat
    let acc (q : Nat) (t : Int) : Nat × Int :=
      (q, if f.acc = 0 then t else if f.acc = 1 then (r.ra q).toInt + t else if f.acc = 2 then (r.ra q).toInt - t else -t)
    let im (q : Nat) : Int := if f.cj then -d (q + 1) else d (q + 1)
    let pair (q p1 p2 : Nat) : List (Nat × Int) :=
      [acc (2 * q) (2 * (d p1 * d p2 - d (p1 + 1) * im p2)), acc (2 * q + 1) (2 * (d p1 * im p2 + d (p1 + 1) * d p2))]
    let byReal (q p1 : Nat) : List (Nat × Int) := [acc (2 * q) (2 * (d p1 * d b)), acc (2 * q + 1) (2 * (d (p1 + 1) * d b))]
    let sh : Int := signed 6 f.imm.toNat
    let out (x : Int) : Bool := decide (x < -(2 ^ 71)) || decide (2 ^ 71 ≤ x)
    let gives (o : Instr) (code : Nat) (sat : Bool) (l : List (Nat × Int)) : Prop :=
      let w (p : Nat × Int) : BitVec 72 := BitVec.ofInt 72 (if sat then max (-(2 ^ 71)) (min (2 ^ 71 - 1) p.2) else p.2)
      s.dev.issuesAlone n j (.mac code f) →
      ∃ t, exec o s = .next t ∧ s.keepsElse t n i ∧ s.keepsCtx t i ∧
        (let r' := (t.dev.ctx i).regs
         r' = { r with a := r'.a, sr := r'.sr, pc := r'.pc, lc := r'.lc } ∧
         (∀ p ∈ l, r'.ra p.1 = w p) ∧ (∀ q, (∀ p ∈ l, q ≠ p.1) → r'.ra q = r.ra q)) ∧
        (let at_ (m : Nat) : Ctx := { (t.dev.ctx i).landTo (c.cyc + m) with cyc := c.cyc + m }
         (∀ b, b < 7 → bitOf (at_ 2).regs.sr b = bitOf r.sr b ∧
           bitOf (at_ 3).regs.sr b = (bitOf r.sr b || (b == 5 && l.any fun p => out p.2))) ∧
         (c.acc = [] → ∀ p ∈ l, (at_ 2).rndView p.1 = r.ra p.1 ∧ (at_ 3).rndView p.1 = w p))
    gives (.rmac1 n f true) 1 f.s [acc k (2 * (d a * d b))] ∧
    gives (.rmac4 n f true) 2 f.s ((List.range 4).map fun q => acc q (2 * (d (a + q) * d (b + q)))) ∧
    gives (.cmac1 n f true) 3 f.s (pair k a b) ∧
    gives (.cmac2 n f true) 4 f.s (pair 0 a b ++ pair 1 (a + 2) (b + 2)) ∧
    gives (.crmac2 n f true) 5 f.s (byReal 0 a ++ byReal 1 (a + 2)) ∧
    gives (.lda n f true) 10 f.s [(k, d a * 2 ^ 32)] ∧
    gives (.clra n f true) 11 false (((List.range 4).filter fun q => f.imm.getLsbD q).map fun q => (q, 0)) ∧
    gives (.asha n f true) 12 f.s
      [(k, if 0 ≤ sh then (r.ra k).toInt * 2 ^ sh.toNat else (r.ra k).toInt / 2 ^ (-sh).toNat)]

/-- EVPOP takes the next event of the queue into quad RD and Z, two issue cycles later; an empty queue gives zeros and Z = 1
(R257, R263). RND1 and RND4 round the accumulators as RND sees them half up into D registers two cycles later, saturated
with S = 1, and set NOV where the value does not fit (R252, R263); that NOV is seen with the result is the model's reading
(log entry 16). The rest stays. -/
def Obligations.EventPopAndRounding : Prop :=
  ∀ (s : State) (n j : Nat) (f : AluF) (m : MacF),
    let i := 18 * n + j
    let c := s.dev.ctx i
    let r := c.regs
    let round (k : Nat) : Int := ((c.rndView k).toInt + 2 ^ 31) / 2 ^ 32
    let fit (v : Int) : Word := if m.s then w32i (max (-2147483648) (min 2147483647 v)) else w32i v
    let out (k : Nat) : Bool := decide (round k < -2147483648) || decide (2147483647 < round k)
    let rounds (o : Instr) (code : Nat) (l : List (Nat × Word)) (nov : Bool) : Prop :=
      s.dev.issuesAlone n j (.mac code m) →
      ∃ t, exec o s = .next t ∧ s.lands t i 2 l ∧ s.keepsElse t n i ∧ s.keepsCtx t i ∧ s.keepsRegs t i ∧
        (let now (k : Nat) : Word := ((t.dev.ctx i).landTo (c.cyc + k)).regs.sr
         ∀ b, b < 7 → bitOf (now 1) b = bitOf r.sr b ∧ bitOf (now 2) b = (bitOf r.sr b || (b == 6 && nov)))
    (s.dev.issuesAlone n j (.alu 0x1B f 0) →
      ∃ t, exec (.evpop n f true) s = .next t ∧
        s.lands t i 2 ((List.range 4).map fun q => (f.rd.toNat + q, (c.evq.headD []).getD q 0)) ∧
        s.keepsElse t n i ∧ s.keepsRegs t i ∧
        (let c' := t.dev.ctx i
         c' = { c with
           regs := c'.regs, cyc := c.cyc + 1, flight := c'.flight, acc := c'.acc, rep := c'.rep, delay := c'.delay,
           lastStock := c'.lastStock, evq := c.evq.drop 1 }) ∧
        (let now (k : Nat) : Word := ((t.dev.ctx i).landTo (c.cyc + k)).regs.sr
         ∀ b, b < 7 → bitOf (now 1) b = bitOf r.sr b ∧ bitOf (now 2) b = if b = 0 then c.evq.isEmpty else bitOf r.sr b)) ∧
    rounds (.rnd1 n m true) 8 [(m.rd.toNat, fit (round m.an.toNat))] (out m.an.toNat) ∧
    rounds (.rnd4 n m true) 9 ((List.range 4).map fun q => (m.rd.toNat + q, fit (round q))) (out 0 || out 1 || out 2 || out 3)

/-- LD reads 1, 2 or 4 words at issue from the address its mode gives, seen in D two cycles later; ST stores D registers
there; MOD does neither. The address register steps by R246 to R248, seen one cycle later (R245, R263). Words are
little-endian, the lowest address in the first register. ST changes the stored bytes and no others; LD and MOD none. A step
in a window of length 0 (MOD only) has a free result (log entry 32). SLD reads 64 bits of Stock at D[RA] + 8 IMM into pair
RD, RLD the entry of its ring D[RA] samples back into RD, both seen 24 cycles later (R258, R263); a read of a bank that the
spindle fabric neither owns nor shares gives 0 and is a violation (R271), an uncorrectable word gives 0 (R277), a single-bit
error is corrected and counted (R276). RAPP writes D[RA] at the position its ring pointer held at the start of the sample.
Nothing else of the context or of memory changes. -/
def Obligations.MemorySlotAndStockOperations : Prop :=
  (
    ∀ (s : State) (n j : Nat) (f : MemF),
      let i := 18 * n + j
      let c := s.dev.ctx i
      let r := c.regs
      let cnt := 2 ^ f.size.toNat
      let a := viewAddr n j f.y (memAddr r f)
      let x := r.ri f.ireg.toNat
      let m := r.rm f.mreg.toNat
      let b : Int := (r.rwb f.wreg.toNat).toNat
      let l : Int := (r.rwl f.wreg.toNat).toNat
      let size : BitVec 16 := BitVec.ofNat 16 (4 * cnt)
      let circ (step : Int) (v : BitVec 16) : Prop := l = 0 ∨ v = BitVec.ofInt 16 (b + ((x.toNat : Int) - b + step) % l)
      let seen (t : State) (k : Nat) : Regs := ((t.dev.ctx i).landTo (c.cyc + k)).regs
      let steps (t : State) : Prop :=
        s.keepsCtx t i ∧ (∀ q, q ≠ f.ireg.toNat → (seen t 1).ri q = r.ri q) ∧
        (let v := (seen t 1).ri f.ireg.toNat
         match f.mode.toNat with
         | 1 => v = x + size
         | 2 => v = x + m
         | 3 => v = x - m
         | 4 => circ m.toInt v
         | 5 => circ (4 * cnt : Nat) v
         | 6 => v = BitVec.ofNat 16 (rev14 ((rev14 (x.toNat / 4) + rev14 (m.toNat / 4)) % 2 ^ 14) * 4 + x.toNat % 4)
         | _ => v = x) ∧
        (∀ b, b < 7 → bitOf (seen t 2).sr b = bitOf r.sr b) ∧
        (let r' := seen t 2
         r' = { r with d := r'.d, i := (seen t 1).i, sr := r'.sr, pc := r'.pc, lc := r'.lc })
      (s.dev.issuesAlone n j (.mem 1 f) →
        ∃ t, exec (.ld n f true) s = .next t ∧ steps t ∧ s.keepsElse t n i ∧
          s.lands t i 2 ((List.range cnt).map fun q => (f.reg.toNat + q, s.dev.rw32 (a + 4 * q)))) ∧
      (s.dev.issuesAlone n j (.mem 2 f) →
        ∃ t, exec (.st n f true) s = .next t ∧ steps t ∧ s.lands t i 1 [] ∧
          (∀ q, q < cnt → t.dev.rw32 (a + 4 * q) = r.rd (f.reg.toNat + q)) ∧
          (∀ k, k < a ∨ a + 4 * cnt ≤ k → t.dev.rb k = s.dev.rb k) ∧
          (∀ k, k ≠ rSPN_OVRUN n → isEvtReg k = false → k < 0x50000 ∨ 0x90000 ≤ k → t.dev.reg k = s.dev.reg k) ∧
          (∀ k, k ≠ i → t.dev.ctx k = s.dev.ctx k) ∧
          t = { s with dev := { s.dev with
            live := t.dev.live, evt := t.dev.evt, mem := t.dev.mem, ctxs := t.dev.ctxs, spns := t.dev.spns } }) ∧
      (s.dev.issuesAlone n j (.mem 3 f) →
        ∃ t, exec (.mod n f true) s = .next t ∧ steps t ∧ s.lands t i 1 [] ∧
          (∀ k, t.dev.rb k = s.dev.rb k) ∧ s.keepsRegisters t [rSPN_OVRUN n] ∧ (∀ k, k ≠ i → t.dev.ctx k = s.dev.ctx k) ∧
          t = { s with dev := { s.dev with
            live := t.dev.live, evt := t.dev.evt, free := t.dev.free, ctxs := t.dev.ctxs, spns := t.dev.spns } })) ∧
  (
    ∀ (s : State) (n j bad : Nat) (f : AluF),
      let i := 18 * n + j
      let c := s.dev.ctx i
      let r := c.regs
      let rd := f.rd.toNat
      let x := (r.rd f.ra.toNat).toNat
      let ring := f.low.toNat / 4096 % 4
      let win := (r.rrp ring).toNat / 2 ^ 24
      let p : Nat := (tget 0 c.p0 ring).toNat % 2 ^ 16
      let len := s.dev.fg (MEM_WIN_B_LEN win) + 16
      let base := s.dev.fg (MEM_WIN_A_BASE win)
      let owner (off : Nat) : Nat := s.dev.fg (MEM_BANK_CUR (off / 0x300000))
      let sees (off : Nat) : Prop := owner off = 0 ∨ s.dev.on (MEM_BANK_SHARE (off / 0x300000)) = true
      let count (t : State) (g : Fld) (top : Nat) : Prop := t.dev.fg g = min (s.dev.fg g + 1) top
      let errs (t : State) (wr : Nat) (mine : Prop) (off : Nat) : Prop :=
        (mine → bad = 0 → s.keepsRegisters t [rSPN_OVRUN n]) ∧
        (mine → bad = 1 → count t MEM_CNT_CORR 65535 ∧ t.dev.fg MEM_ECCADDR_OFFSET = off / 8 * 8 % 2 ^ 26 ∧
          t.dev.on MEM_ECCADDR_UNCORR = false ∧ s.keepsRegisters t [rSPN_OVRUN n, rMEM_CNT, rMEM_ECCADDR]) ∧
        (mine → 2 ≤ bad → t.dev.pwr.frozen = true ∧ t.dev.on MEM_ECCADDR_UNCORR = true) ∧
        (¬mine → count t MEM_CNT_VIOL 255 ∧ t.dev.fg MEM_VIOL_REQ = 0 ∧ t.dev.fg MEM_VIOL_WRITE = wr ∧
          t.dev.fg MEM_VIOL_OFFSET = off % 2 ^ 26 ∧ s.keepsRegisters t [rSPN_OVRUN n, rMEM_CNT, rMEM_VIOL])
      let rest (t : State) : Prop :=
        s.keepsRegs t i ∧ (∀ b, b < 7 → bitOf (t.dev.ctx i).regs.sr b = bitOf r.sr b) ∧ (∀ k, k ≠ i → t.dev.ctx k = s.dev.ctx k) ∧
        t.pending = s.pending ∧ t.dev.flash = s.dev.flash ∧ t.dev.voices = s.dev.voices
      (s.dev.issuesAlone n j (.alu 0x1C f bad) →
        let off := ((x : Int) + 8 * (f.low.setWidth 12).toInt).toNat
        ∃ t, exec (.sld n f bad true) s = .next t ∧ rest t ∧ s.keepsCtx t i ∧ (∀ k, t.dev.rb k = s.dev.rb k) ∧ errs t 0 (sees off) off ∧
          (sees off ∧ bad < 2 → s.lands t i 24 [(rd, s.dev.rw32 (stockBase + off)), (rd + 1, s.dev.rw32 (stockBase + off + 4))]) ∧
          (¬(sees off ∧ bad < 2) → s.lands t i 24 [(rd, 0), (rd + 1, 0)])) ∧
      (s.dev.issuesAlone n j (.alu 0x1D f bad) →
        let off := base + 4 * (((p : Int) - x) % len).toNat
        ∃ t, exec (.rld n f bad true) s = .next t ∧ rest t ∧ s.keepsCtx t i ∧ (∀ k, t.dev.rb k = s.dev.rb k) ∧ errs t 0 (sees off) off ∧
          (sees off ∧ bad < 2 → s.lands t i 24 [(rd, s.dev.rw32 (stockBase + off))]) ∧
          (¬(sees off ∧ bad < 2) → s.lands t i 24 [(rd, 0)])) ∧
      (s.dev.issuesAlone n j (.alu 0x1E f bad) →
        let off := base + 4 * (p % len)
        ∃ t, exec (.rapp n f bad true) s = .next t ∧ rest t ∧ errs t 1 (owner off = 0) off ∧ s.lands t i 1 [] ∧
          (owner off = 0 → t.dev.rw32 (stockBase + off) = r.rd f.ra.toNat ∧
            ∀ k, (k < stockBase + off ∨ stockBase + off + 4 ≤ k) → bad < 2 → t.dev.rb k = s.dev.rb k) ∧
          (owner off ≠ 0 → ∀ k, t.dev.rb k = s.dev.rb k) ∧
          (let c' := t.dev.ctx i
           c' = { c with
             regs := c'.regs, cyc := c.cyc + 1, flight := c'.flight, acc := c'.acc, rep := c'.rep, delay := c'.delay,
             lastStock := some c.cyc, appended := ring :: c.appended })))

/-- Program control (R253, R255, R259 to R261). A taken BR, CALL or RET goes on in sequence for two more bundles; CALL
pushes the address after them and RET takes the last one off. REP and REPR repeat the next bundle, or with a count of 0 pass
it over. LOOP and LOOPR open a body of length bundles, or with a count of 0 pass it over. An empty bundle goes on in
sequence, to the target where it is the second delay bundle, to the start of the body at its end while passes are left.
Nothing else of the state changes. ENDS ends the sample (R262, R138, R229): the context stops running on its spindle; the
send unit stores, for the sample just rendered, the pair D[RA], D[RA + 1], the send map D[RA + 2] and the gains D[RB] to
D[RB + 3], for a parting context with the gains multiplied by its fade gain (R158); a voice context goes on to its next
sample. What is silent (a re-run before the stale sample, R132) or fades in place (R148) is not spoken of here. Other
contexts, the queue and the flash stay. -/
def Obligations.ProgramControlAndEndOfSample : Prop :=
  (
    ∀ (s : State) (n j : Nat) (f : AluF) (slot : Slot),
      let i := 18 * n + j
      let c := s.dev.ctx i
      let r := c.regs
      let z := bitOf r.sr 0
      let m := bitOf r.sr 1
      let cy := bitOf r.sr 2
      let v := bitOf r.sr 3
      let lact := bitOf r.sr 7
      let holds : Bool :=
        ([true, z, !z, m, !m, v, !v, cy, !cy, !z && m == v, m == v, m != v, z || m != v, bitOf r.sr 5, bitOf r.sr 6] : List Bool).getD
          f.rd.toNat false
      let target : BitVec 11 := BitVec.ofNat 11 f.low.toNat
      let x := (r.rd f.ra.toNat).toNat
      let len := f.low.toNat % 64 + 1
      let times (k : Nat) : Nat := if k = 0 then 1024 else k
      let becomes (o : Instr) (op : Op) (r' : Regs) (delay : Option (Nat × BitVec 11)) (rep : Option Nat) : Prop :=
        s.dev.issuesAlone n j op →
        ∃ t, exec o s = .next t ∧ s.keepsElse t n i ∧ s.keepsCtx t i ∧ (t.dev.ctx i).regs = r' ∧ (t.dev.ctx i).delay = delay ∧
          (t.dev.ctx i).rep = rep
      let next : Regs := { r with pc := r.pc + 1 }
      let loop (k : Nat) : Regs :=
        { r with ls := r.pc + 1, le := r.pc + BitVec.ofNat 11 len, lc := BitVec.ofNat 11 k, sr := r.sr ||| 0x80, pc := r.pc + 1 }
      becomes (.br n f true) (.alu 0x20 f 0) next (if holds then some (2, target) else none) none ∧
      becomes (.call n f true) (.alu 0x21 f 0) { next with stack := r.stack ++ [r.pc + 3] } (some (2, target)) none ∧
      becomes (.ret n f true) (.alu 0x22 f 0) { next with stack := r.stack.dropLast } (some (2, r.stack.getLastD 0)) none ∧
      becomes (.rep n f true) (.alu 0x24 f 0) next none (some (times f.low.toNat)) ∧
      (x ≠ 0 → becomes (.repr n f true) (.alu 0x25 f 0) next none (some (min x 1024))) ∧
      becomes (.loop n f true) (.alu 0x26 f 0) (loop (times (f.ra.toNat * 64 + f.low.toNat / 1024))) none none ∧
      (x ≠ 0 → becomes (.loopr n f true) (.alu 0x27 f 0) (loop (min x 1024)) none none) ∧
      (x = 0 → becomes (.loopr n f true) (.alu 0x27 f 0) { r with pc := r.pc + BitVec.ofNat 11 (len + 1) } none none) ∧
      (x = 0 → (lact = true → r.pc + 1 ≠ r.le) → becomes (.repr n f true) (.alu 0x25 f 0) { r with pc := r.pc + 2 } none none) ∧
      (∀ a, c.delay = some (2, a) → (lact = true → r.pc ≠ r.le) → becomes (.nop n slot true) (.nop slot) next (some (1, a)) none) ∧
      (∀ a, c.delay = some (1, a) →
        becomes (.nop n slot true) (.nop slot)
          { r with pc := a, sr := if lact && (decide (a.toNat < r.ls.toNat) || decide (r.le.toNat < a.toNat)) then r.sr &&& ~~~0x80 else r.sr }
          none none) ∧
      (c.delay = none → (lact = true → r.pc ≠ r.le) → becomes (.nop n slot true) (.nop slot) next none none) ∧
      (c.delay = none → lact = true → r.pc = r.le → 1 < r.lc.toNat →
        becomes (.nop n slot true) (.nop slot) { r with pc := r.ls, lc := r.lc - 1 } none none) ∧
      (c.delay = none → lact = true → r.pc = r.le → r.lc.toNat ≤ 1 →
        becomes (.nop n slot true) (.nop slot) { r with pc := r.pc + 1, lc := 0, sr := r.sr &&& ~~~0x80 } none none)) ∧
  (
    ∀ (s : State) (n j : Nat) (f : AluF),
      let i := 18 * n + j
      let c := s.dev.ctx i
      let r := c.regs
      let ra := f.ra.toNat
      let rb := f.low.toNat / 4096
      let fade (w : Word) : Word := w32 (min (w.toNat % 2 ^ 24) 0x800000 * (s.dev.partK n (j - 16)).gain / 2 ^ 23)
      let stored (t : State) (g : Word → Word) : Prop :=
        ∃ x, t.dev.sendAt i c.next = some x ∧ x.l = r.rd ra ∧ x.r = r.rd (ra + 1) ∧ x.map = r.rd (ra + 2) ∧
          x.g = (List.range 4).map fun k => g (r.rd (rb + k))
      j < 18 → s.dev.issuesAlone n j (.alu 0x28 f 0) →
      ∃ t, exec (.ends n f true) s = .next t ∧ (t.dev.spn n).cur = none ∧ (t.dev.spn n).bundle = [] ∧
        t.dev.fg (SPN_STATUS_CUR n) = 31 ∧
        (j < 16 → (t.dev.ctx i).next = c.next + 1) ∧
        (j < 16 → c.roll = none → (s.dev.noteOf i).cls ≠ clsParting → stored t id) ∧
        (16 ≤ j → stored t fade) ∧
        t.pending = s.pending ∧ t.dev.flash = s.dev.flash ∧ t.dev.fuses = s.dev.fuses ∧
        (∀ k, k ≠ i → t.dev.ctx k = s.dev.ctx k) ∧ (∀ m, m ≠ n → t.dev.spn m = s.dev.spn m))

/-- A trapping bundle has no effect (R238): no context and no byte of memory changes. The cause (the lowest code), the
context, the PC and the words of the bundle are recorded, SPNn_STATUS.TRAPPED sets, the spindle stops and source 56 is
raised. Causes 1 and 2 are shown by one condition of R265 or R266 each; cause 3 needs OVTRAP = 1 and the count at its budget
(R236); cause 4 is the run limit (R237). Only the overrun count and the event unit move beside. An operation that does not
complete its bundle only joins it, in place of an earlier one for the same slot; without a running context on the spindle,
or on a trapped one, no operation has an effect (R241; the model's commands give a bundle one operation at a time, log entry
34). -/
def Obligations.BundlesJoinAndTrap : Prop :=
  (
    ∀ (s : State) (n j : Nat) (f : AluF) (g : MemF),
      let c := s.dev.ctx (18 * n + j)
      let r := c.regs
      let legal (op : Op) : Prop := illegalBundle c [op] = false ∧ s.dev.windowBad c [op] = false
      let past : Prop := c.cyc = s.dev.fg (SPN_VBUDGET_VOICE n) ∧ s.dev.on (SPN_CTRL_OVTRAP n) = true
      let traps (o : Instr) (op : Op) (cause : Nat) : Prop :=
        ∃ t, exec o s = .next t ∧ t.dev.fg (SPN_TRAP_CAUSE n) = cause ∧ t.dev.fg (SPN_TRAP_CTX n) = j ∧
          t.dev.fg (SPN_TRAP_PC n) = r.pc.toNat ∧
          (∀ k, k < 4 → t.dev.reg (rSPN_TRAPB n k) = if op.slot = k then op.word else 0) ∧
          t.dev.on (SPN_STATUS_TRAPPED n) = true ∧ t.dev.on (SPN_STATUS_RUN n) = false ∧ t.dev.raw 56 = true ∧
          (∀ k, t.dev.ctx k = s.dev.ctx k) ∧ (∀ a, t.dev.rb a = s.dev.rb a) ∧ t.pending = s.pending ∧
          s.keepsRegisters t ([rSPN_TRAP n, rSPN_STATUS n, rSPN_OVRUN n, rMEM_BANK 15] ++ (List.range 4).map (rSPN_TRAPB n))
      n < 16 → j < 18 → s.dev.running = true → s.dev.on (SPN_STATUS_TRAPPED n) = false → (s.dev.spn n).cur = some j →
      (s.dev.spn n).bundle = [] → c.rep = none →
      (bitOf r.sr 7 = true → traps (.loop n f true) (.alu 0x26 f 0) 1 ∧ traps (.ends n f true) (.alu 0x28 f 0) 1) ∧
      (4 ≤ r.stack.length → traps (.call n f true) (.alu 0x21 f 0) 1) ∧
      (r.stack = [] → traps (.ret n f true) (.alu 0x22 f 0) 1) ∧
      (c.delay.isSome = true → traps (.br n f true) (.alu 0x20 f 0) 1) ∧
      (c.delay = none → bitOf r.sr 7 = false → r.pc = 2047 → traps (.add n f true) (.alu 0x01 f 0) 1) ∧
      (g.size = 3 → traps (.ld n g true) (.mem 1 g) 1) ∧
      (illegalBundle c [.mem 1 g] = false → memAddr r g % (4 * 2 ^ g.size.toNat) ≠ 0 → traps (.ld n g true) (.mem 1 g) 2) ∧
      (legal (.alu 0x01 f 0) → past → traps (.add n f true) (.alu 0x01 f 0) 3) ∧
      (legal (.alu 0x01 f 0) → ¬past → c.cyc + 1 = s.dev.fg (SPN_BUDGET_CYCLES n) → traps (.add n f true) (.alu 0x01 f 0) 4)) ∧
  (
    ∀ (s : State) (n j : Nat) (f : AluF) (g : MemF) (h : MacF) (last : Bool),
      let joins (o : Instr) (op : Op) : Prop :=
        let rest := (s.dev.spn n).bundle.filter fun p => decide (p.slot ≠ op.slot)
        exec o s = .next { s with dev := s.dev.setSpn n { s.dev.spn n with bundle := rest ++ [op] } }
      (s.dev.running = true → n < 16 → s.dev.on (SPN_STATUS_TRAPPED n) = false → (s.dev.spn n).cur = some j →
        joins (.nop n .xmem false) (.nop .xmem) ∧ joins (.ld n g false) (.mem 1 g) ∧ joins (.st n g false) (.mem 2 g) ∧
        joins (.rmac1 n h false) (.mac 1 h) ∧ joins (.add n f false) (.alu 0x01 f 0) ∧ joins (.br n f false) (.alu 0x20 f 0) ∧
        joins (.ends n f false) (.alu 0x28 f 0)) ∧
      ((s.dev.spn n).cur = none ∨ s.dev.on (SPN_STATUS_TRAPPED n) = true →
        exec (.ld n g last) s = .next s ∧ exec (.rmac1 n h last) s = .next s ∧ exec (.add n f last) s = .next s ∧
        exec (.ends n f last) s = .next s))

/-! ### Memory (chapter 9) -/

/-- A write of OWNER (R272 to R274). Outside CHUCK it hands an idle bank over at once; a bank that is not idle keeps its
owner, and the refusal is shown and counted; the present owner, and 5, change nothing. In CHUCK it is only recorded. A bank
of the fabric is idle where no enabled window has storage in it, one of the host always. -/
def Obligations.BankHandoverNeedsIdleBank : Prop :=
  ∀ (s : State) (k owner : Nat), s.dev.hears = true → k < 16 → owner < 8 →
    let d := s.dev
    let chuck : Prop := d.pwr.mode = .chuck
    let bank (l : List Nat) (p : State → Prop) : Prop := ∃ t, exec (.bankHandover k owner) s = .next t ∧ p t ∧
      s.keepsRegisters t l ∧ t = { s with dev := { d with live := t.dev.live } }
    (owner = 5 → exec (.bankHandover k owner) s = .next s) ∧
    (owner ≠ 5 → chuck → bank [rMEM_BANK k] fun t => t.dev.fg (MEM_BANK_OWNER k) = owner ∧ t.dev.bankCur k = d.bankCur k) ∧
    (¬chuck → owner = d.bankCur k → exec (.bankHandover k owner) s = .next s) ∧
    (owner ≠ 5 → ¬chuck → owner ≠ d.bankCur k → d.bankIdle k = true → bank [rMEM_BANK k] fun t =>
      t.dev.fg (MEM_BANK_OWNER k) = owner ∧ t.dev.bankCur k = owner ∧ t.dev.on (MEM_BANK_REFUSED k) = d.on (MEM_BANK_REFUSED k)) ∧
    (owner ≠ 5 → ¬chuck → owner ≠ d.bankCur k → d.bankIdle k = false → bank [rMEM_BANK k, rMEM_CNT] fun t =>
      t.dev.fg (MEM_BANK_OWNER k) = d.fg (MEM_BANK_OWNER k) ∧ t.dev.bankCur k = d.bankCur k ∧
      t.dev.on (MEM_BANK_REFUSED k) = true ∧ t.dev.fg MEM_CNT_REFUSED = min (d.fg MEM_CNT_REFUSED + 1) 0xFF) ∧
    (d.bankCur k = 0 → (d.bankIdle k = true ↔ ∀ n, n < 256 → d.on (MEM_WIN_A_EN n) = true →
      let b := d.fg (MEM_WIN_A_BASE n)
      b + 4 * d.winL n ≤ k * 0x300000 ∨ (k + 1) * 0x300000 ≤ b)) ∧
    (d.bankCur k = 6 → d.bankIdle k = true)

/-- The scrubber (R276, R277, R279): while it runs it reads the words of Stock in ascending order and counts a pass at the
wrap. One bit in error is corrected, counted and recorded; two or more raise source 54, which is fatal. Otherwise it does
nothing. Heartwood (R285 to R287): each trigger clears all of it, begins the wipe with its cause and raises source 58, and
nothing else in memory changes; the refill puts the fuses' bytes at 0x0000 to 0x00BF and ends the wipe, and is withheld
while TAMPER_N is low. In SHELF nothing is wiped. -/
def Obligations.ScrubberAndHeartwood : Prop :=
  (
    ∀ (s : State) (bad : Nat),
      let d := s.dev
      let on : Prop := d.on MEM_SCRUB_EN = true ∧ d.pwr.frozen = false ∧ (d.pwr.mode = .run ∨ (d.pwr.mode = .rest ∧ d.pwr.cold = false))
      let last : Prop := stockSize ≤ d.scrubAt + 8
      (on → d.scrubAt < stockSize → ∃ t, exec (.scrubRead bad) s = .next t ∧
        (¬last → t.dev.scrubAt = d.scrubAt + 8) ∧ (last → t.dev.scrubAt = 0) ∧
        t.dev.fg MEM_STAT_PASSES = (if stockSize ≤ d.scrubAt + 8 then min (d.fg MEM_STAT_PASSES + 1) 0xFFFF else d.fg MEM_STAT_PASSES) ∧
        (bad = 0 → s.keepsRegisters t [rMEM_STAT] ∧ t.dev.pwr = d.pwr) ∧
        (bad = 1 → s.keepsRegisters t [rMEM_STAT, rMEM_ECCADDR, rMEM_CNT] ∧ t.dev.on MEM_ECCADDR_UNCORR = false ∧
          t.dev.fg MEM_ECCADDR_OFFSET = d.scrubAt / 8 * 8 ∧ t.dev.fg MEM_CNT_CORR = min (d.fg MEM_CNT_CORR + 1) 0xFFFF ∧
          t.dev.pwr = d.pwr) ∧
        (2 ≤ bad → t.dev.on MEM_ECCADDR_UNCORR = true ∧ t.dev.fg MEM_ECCADDR_OFFSET = d.scrubAt / 8 * 8 ∧ t.dev.raw 54 = true ∧
          t.dev.pwr.frozen = true ∧ t.dev.fg EVT_FATAL_SRC = 54) ∧
        (∀ a, t.dev.rb a = d.rb a) ∧ t.pending = s.pending ∧ t.dev.flash = d.flash ∧ t.dev.ctxs = d.ctxs) ∧
      (¬on → exec (.scrubRead bad) s = .next s)) ∧
  (
    ∀ (s : State) (high : Bool),
      let d := s.dev
      let inHw (a : Nat) : Prop := hwBase ≤ a ∧ a < hwBase + 0x10000
      let powered : Prop := d.pwr.mode ≠ .shelf
      let wipes (c : Instr) (cause : Nat) (low : Bool) : Prop := ∃ t, exec c s = .next t ∧
        (∀ a, inHw a → t.dev.rb a = 0) ∧ (∀ a, ¬inHw a → t.dev.rb a = d.rb a) ∧ t.dev.on MEM_HW_WIPING = true ∧
        t.dev.fg MEM_HW_CAUSE = cause ∧ t.dev.raw 58 = true ∧ s.keepsRegisters t [rMEM_HW] ∧
        t.dev.pins = { d.pins with tamperLow := low || d.pins.tamperLow } ∧ (d.pwr.boot = none → t.dev.pwr = d.pwr) ∧
        t = { s with dev := { d with live := t.dev.live, mem := t.dev.mem, pwr := t.dev.pwr, evt := t.dev.evt, pins := t.dev.pins } }
      (powered → wipes .tamper 1 true ∧ wipes .voltageGlitch 2 false ∧ wipes .clockGlitch 3 false) ∧
      (¬powered → exec .voltageGlitch s = .next s ∧ exec .clockGlitch s = .next s) ∧
      (high = true → d.on MEM_HW_WIPING = true → ∃ t, exec (.heartwoodRefill high) s = .next t ∧
        t.dev.rbs hwBase 0xC0 = d.fuseBytes ∧ (∀ a, a < hwBase ∨ hwBase + 0xC0 ≤ a → t.dev.rb a = d.rb a) ∧
        t.dev.on MEM_HW_WIPING = false ∧ t.dev.fg MEM_HW_LCS = d.fuses.lcs % 4 ∧ s.keepsRegisters t [rMEM_HW] ∧
        t = { s with dev := { d with live := t.dev.live, mem := t.dev.mem, pins := { d.pins with tamperLow := false } } }) ∧
      (high = false → exec (.heartwoodRefill high) s = .next { s with dev := { d with pins := { d.pins with tamperLow := true } } }))

/-! ### Mix, ports, control voltages and timers (chapters 10 to 12) -/

/-- Syncs and settling (R305 to R308, R340): an edge of DSYNC of the right polarity, or MIX_CTRL.SYNC, registers a request,
one where several come; at the sync sample SYNCT takes its chain time and CV ticks count from it, and with oversampling
every enabled bus starts from an empty history with its settling counters loaded; the end of settling raises source 52. A
control sample of the PDM path (R310 to R313): four integrators over the bits of its period, four combs, the gain of RSEL,
clamped to 32 bits; a clamp sets the channel's overload bit and raises source 51; channel 0 sets the stamp. With the path
off nothing happens. -/
def Obligations.SyncsAndPdmControlSamples : Prop :=
  (
    ∀ (s : State) (rising : Bool) (v : Word),
      let d := s.dev
      let asks : Prop := d.on MIX_CTRL_DSEN = true ∧ rising = !d.on MIX_CTRL_DSPOL
      let due : Prop := d.running = true ∧ d.mix.syncWait = some 0 ∧ later d.eng.c d.mix.osBase % (d.osf : Int) = 0
      (asks → d.mix.syncWait = none →
        exec (.dsync rising) s = .next { s with dev := { d with mix := { d.mix with syncWait := some 1 } } }) ∧
      (¬asks ∨ d.mix.syncWait.isSome = true → exec (.dsync rising) s = .next s) ∧
      (d.hears = true → ∃ t, exec (.mixSync v) s = .next t ∧ t.dev.on MIX_CTRL_DSPOL = bitOf v 2 ∧
        t.dev.on MIX_CTRL_DSEN = bitOf v 1 ∧
        t.dev.mix = { d.mix with syncWait := if bitOf v 0 && d.mix.syncWait.isNone then some 1 else d.mix.syncWait } ∧
        s.keepsRegisters t [rMIX_CTRL] ∧ t = { s with dev := { d with live := t.dev.live, mix := t.dev.mix } }) ∧
      (due → ∃ t, exec .syncSample s = .next t ∧ t.dev.reg rMIX_SYNCT = d.tau d.eng.c ∧ t.dev.mix.syncWait = none ∧
        t.dev.cv = { d.cv with origin := d.eng.c } ∧ (d.osf = 1 → s.keepsRegisters t [rMIX_SYNCT]) ∧
        (d.osf ≠ 1 → d.fg MIX_RATE_OSF ≤ 2 → ∀ b, b < 64 → d.on (MIX_BUS_CFG_EN b) = true →
          t.dev.busHist b 0 = [] ∧ t.dev.busHist b 1 = [] ∧
          ∀ k, k < d.busStages b → t.dev.fg (unsFld b k) = (t.dev.ntap k (t.dev.bank k) - 1) / 2) ∧
        t = { s with dev := { d with live := t.dev.live, mix := t.dev.mix, cv := t.dev.cv } }) ∧
      (¬due → exec .syncSample s = .next s) ∧
      (d.mix.settled = true → ∃ t, exec .decimatorSettled s = .next t ∧ t.dev.raw 52 = true ∧ t.dev.mix = { d.mix with settled := false } ∧
        s.keepsRegisters t [] ∧ t = { s with dev := { d with live := t.dev.live, evt := t.dev.evt, mix := t.dev.mix } }) ∧
      (d.mix.settled = false → exec .decimatorSettled s = .next s)) ∧
  (
    ∀ (s : State) (k : Nat) (bits : List Bool),
      let d := s.dev
      let r := cicOut (bits.foldl cicIn (tget [] d.mix.pdm k))
      let sel := d.fg MIX_PDM_CFG_RSEL
      let v : Int := if sel ≤ 2 then r.1 * 2 ^ (11 - 4 * sel) else r.1 / 2
      let c : Int := max (-2147483648) (min 2147483647 v)
      let ratio := 2 ^ (5 + sel)
      (d.pdmOn = true → k < 8 → ∃ t, exec (.pdmControlSample k bits) s = .next t ∧ t.dev.reg (rMIX_PDM_VAL k) = w32i c ∧
        tget [] t.dev.mix.pdm k = r.2 ∧ (k = 0 → t.dev.reg rMIX_PDM_TIME = d.now - w32i (d.pdmNs (16 * (ratio - 1)))) ∧
        (c ≠ v → bitOf (t.dev.reg rMIX_PDM_STAT) k = true ∧
          t.dev.fg (EVT_COUNT_TOTAL 18) = min (d.fg (EVT_COUNT_TOTAL 18) + 1) 0xFFFF) ∧
        (c = v → t.dev.reg rMIX_PDM_STAT = d.reg rMIX_PDM_STAT ∧ t.dev.evt = d.evt) ∧
        s.keepsRegisters t [rMIX_PDM_VAL k, rMIX_PDM_TIME, rMIX_PDM_STAT] ∧
        t = { s with dev := { d with live := t.dev.live, evt := t.dev.evt, note := t.dev.note, mix := t.dev.mix } }) ∧
      (d.pdmOn = false → exec (.pdmControlSample k bits) s = .next s))

/-- Coefficient banks (R302, R303): a coefficient written to an open bank is stored and its FILL bit set; an allowed tap
count that differs is stored and clears FILL; in RUN and REST the bank named by ACTIVE, or by a pending commit, is closed:
the write sets WIGN and is ignored. A tap count that is even or outside 15 to 63 is no write. -/
def Obligations.CoefficientBanksAreGuarded : Prop :=
  ∀ (s : State) (k i : Nat) (b : Bool) (v : Word), s.dev.hears = true → k < 2 → i < 32 →
    let d := s.dev
    let bank : Nat := if b then 1 else 0
    let reg := if b then rMIX_DEC_COEFB k i else rMIX_DEC_COEFA k i
    let fill := if b then rMIX_DEC_FILLB k else rMIX_DEC_FILLA k
    let taps := if b then fieldOf v 13 8 else fieldOf v 5 0
    let other := if b then fieldOf v 5 0 else fieldOf v 13 8
    let cfg := rMIX_DEC_CFG k
    let only (t : State) : Prop := t = { s with dev := { d with live := t.dev.live } }
    (d.bankLocked k bank = false → ∃ t, exec (.coefficientWrite (w32 reg) v) s = .next t ∧ fieldOf (t.dev.reg reg) 23 0 = v.toNat % 2 ^ 24 ∧
      bitOf (t.dev.reg fill) i = true ∧ (∀ j, j < 32 → j ≠ i → bitOf (t.dev.reg fill) j = bitOf (d.reg fill) j) ∧
      s.keepsRegisters t [reg, fill] ∧ only t) ∧
    (d.bankLocked k bank = true → ∃ t, exec (.coefficientWrite (w32 reg) v) s = .next t ∧ t.dev.on (MIX_DEC_CFG_WIGN k) = true ∧
      s.keepsRegisters t [cfg] ∧ only t) ∧
    (ntapOk taps = true → taps ≠ d.ntap k bank → d.bankLocked k bank = false → ntapOk other = false → ∃ t,
      exec (.coefficientWrite (w32 cfg) v) s = .next t ∧ t.dev.ntap k bank = taps ∧ t.dev.reg fill = 0 ∧
      t.dev.ntap k (1 - bank) = d.ntap k (1 - bank) ∧ s.keepsRegisters t [cfg, fill] ∧ only t) ∧
    (ntapOk taps = true → taps ≠ d.ntap k bank → d.bankLocked k bank = true → ntapOk other = false → ∃ t,
      exec (.coefficientWrite (w32 cfg) v) s = .next t ∧ t.dev.ntap k bank = d.ntap k bank ∧ t.dev.on (MIX_DEC_CFG_WIGN k) = true ∧
      s.keepsRegisters t [cfg] ∧ only t) ∧
    (ntapOk taps = false → ntapOk other = false → bitOf v 31 = false → exec (.coefficientWrite (w32 cfg) v) s = .next s) ∧
    (∀ n, ntapOk n = true ↔ n % 2 = 1 ∧ 15 ≤ n ∧ n ≤ 63)

/-- Starting and stopping serial ports (R322, R320, R334): SAP_START arms; with GO the armed, enabled, stopped ports wait
for their OS boundary and ARM clears; at the boundary a waiting port runs, frames counted from 0; a slave that loses its
frame sync shows LOST; a read of FCNT copies the frame's stamps. A frame of a running port in RUN with no committed change
waiting for it (R316, R324, R325, R327, R334): it is counted and stamped; a slot with an enabled channel sends the sample
queued for the frame's index, rounded to the data width, from the top bit, and takes it from the queue; with none queued it
sends 0 and shows an underrun. -/
def Obligations.PortsStartAndSendFrames : Prop :=
  (
    ∀ (s : State) (n : Nat) (v w : Word), n < 4 →
      let d := s.dev
      let p := d.port n
      let go (k : Nat) : Prop := bitOf v k = true ∧ d.on (SAP_CTRL_EN k) = true ∧ (d.port k).run = false ∧
        (d.port k).startWait = none ∧ d.running = true
      let boundary : Prop := d.running = true ∧ later d.outPoint d.mix.osBase % (d.osf : Int) = 0 ∧ later d.eng.c w ≥ 0
      let frame (t : State) (l : List Nat) : Prop := s.keepsRegisters t l ∧
        t = { s with dev := { d with live := t.dev.live, ports := t.dev.ports } }
      (d.hears = true → ∃ t, exec (.sapStart v) s = .next t ∧
        t.dev.fg SAP_START_ARM = (if bitOf v 4 then 0 else v.toNat % 16) ∧
        (t.dev.on (SAP_STATUS_ARMED n) = (bitOf v n && !bitOf v 4)) ∧
        (bitOf v 4 = false → t.dev.ports = d.ports) ∧
        (bitOf v 4 = true → go n → t.dev.port n = { p with startWait := some (d.eng.c + w32 (2 * d.osf + 1)) }) ∧
        (bitOf v 4 = true → ¬go n → t.dev.port n = p) ∧
        frame t [rSAP_START, rSAP_STATUS 0, rSAP_STATUS 1, rSAP_STATUS 2, rSAP_STATUS 3]) ∧
      (p.startWait = some w → boundary → ∃ t, exec (.portStart n) s = .next t ∧
        (t.dev.port n).run = true ∧ (t.dev.port n).startWait = none ∧ (t.dev.port n).frames = 0 ∧ (t.dev.port n).txq = [] ∧
        (t.dev.port n).rxq = [] ∧ (t.dev.port n).first = !d.on (SAP_CTRL_MASTER n) ∧
        (t.dev.port n).o0 = d.idxAt d.outPoint (d.portStep n) ∧ t.dev.on (SAP_STATUS_RUN n) = true ∧
        t.dev.reg (rSAP_FCNT n) = 0 ∧ t.dev.on (SAP_STATUS_LOST n) = false ∧ (∀ k, k ≠ n → t.dev.port k = d.port k) ∧
        frame t [rSAP_STATUS n, rSAP_FCNT n]) ∧
      (p.startWait = some w → ¬boundary → exec (.portStart n) s = .next s) ∧
      (p.startWait = none → exec (.portStart n) s = .next s) ∧
      (p.run = true → d.on (SAP_CTRL_MASTER n) = false → ∃ t, exec (.frameLost n) s = .next t ∧ t.dev.on (SAP_STATUS_LOST n) = true ∧
        frame t [rSAP_STATUS n] ∧ t.dev.ports = d.ports) ∧
      (p.run = false ∨ d.on (SAP_CTRL_MASTER n) = true → exec (.frameLost n) s = .next s) ∧
      (d.hears = true → ∃ t, exec (.fcntRead n) s = .next t ∧ t.dev.reg (rSAP_FSTAMP n) = p.fst ∧ t.dev.reg (rSAP_CSTAMP n) = p.cst ∧
        frame t [rSAP_FSTAMP n, rSAP_CSTAMP n] ∧ t.dev.ports = d.ports)) ∧
  (
    ∀ (s : State) (n k c bclks : Nat) (rx : List Word) (x : Word) (rest : List (Nat × Word)),
      let d := s.dev
      let p := d.port n
      let o := p.o0 + p.frames
      let limit := if d.on (SAP_CTRL_MASTER n) then d.fg (SAP_FRAME_BITS n) else bclks
      let m := d.slotBits n k limit
      let runs : Prop := d.running = true ∧ n < 4 ∧ p.run = true ∧ p.first = false ∧ d.stg.atC = []
      let sends (t : State) : Prop := (t.dev.port n).frames = p.frames + 1 ∧ t.dev.reg (rSAP_FCNT n) = w32 p.frames ∧
        (t.dev.port n).fst = d.now ∧ (t.dev.port n).run = true ∧ (∀ q, q ≠ n → t.dev.port q = d.port q) ∧ t.pending = s.pending ∧
        t.dev.flash = d.flash ∧ t.dev.note = d.note ∧ t.dev.ctxs = d.ctxs
      (runs → k < d.fg (SAP_FRAME_SLOTS n) → d.slotChan n k = some c → m ≠ 0 → d.fg (SAP_TXMAP_TYPE n c) ≠ 3 →
        tget [] p.txq c = (o, x) :: rest → (∀ e ∈ rest, o ≤ e.1) → ∃ t, exec (.frameStart n bclks rx) s = .next t ∧ sends t ∧
          (t.dev.port n).sdout[k]? = some (some (topBits (d.wire n x) m)) ∧ tget [] (t.dev.port n).txq c = rest) ∧
      (runs → k < d.fg (SAP_FRAME_SLOTS n) → d.slotChan n k = some c → m ≠ 0 → d.fg (SAP_TXMAP_TYPE n c) ≠ 3 →
        tget [] p.txq c = [] → ∃ t, exec (.frameStart n bclks rx) s = .next t ∧ sends t ∧
          (t.dev.port n).sdout[k]? = some (some 0) ∧ bitOf (t.dev.reg (rSAP_TXUND n)) c = true ∧
          t.dev.fg (SAP_CNT_UND n) = min (d.fg (SAP_CNT_UND n) + 1) 0xFFFF ∧
          t.dev.fg (EVT_COUNT_TOTAL n) = min (d.fg (EVT_COUNT_TOTAL n) + 1) 0xFFFF) ∧
      (p.run = false → exec (.frameStart n bclks rx) s = .next s))

/-- At an OS boundary (R326, R328, R329) a running port delivers, for the index at the output point, the sample its receive
channel has queued: with VIN and no oversampling, to the channel's ring in Stock at its place by sample number, as value and
number, where the bank is the port's recorder's. A channel with nothing queued delivers 0 and shows an underrun. -/
def Obligations.OsBoundaryFillsInputRing : Prop :=
  ∀ (s : State) (n c : Nat) (x : Word) (rest : List (Nat × Word)),
    let d := s.dev
    let p := d.port n
    let o := d.idxAt d.outPoint (d.portStep n)
    let v := d.sampleAt o 1 + w32 (d.fg MIX_DOUT_DOUT) + 65
    let off := d.fg (SAP_VIN_BASE n) + 8 * (c * d.vinLen n + v.toNat % d.vinLen n)
    let due : Prop := d.running = true ∧ n < 4 ∧ p.run = true ∧ d.portStep n = 1 ∧ d.osf = 1 ∧ p.lastO ≤ o ∧ p.o0 ≤ o ∧
      (∀ m, m < 4 → m ≠ n → (d.port m).run = false) ∧ d.net.streams = []
    let one : Prop := c < 32 ∧ d.on (SAP_RXMAP_EN n c) = true ∧ (∀ q, q < 32 → d.on (SAP_RXMAP_EN n q) = true → q = c) ∧
      d.on (SAP_RXMAP_VIN n c) = true ∧ p.recRun = false
    (due → one → tget [] p.rxq c = (o, x) :: rest → d.bankCur (bankOf off) = n + 1 → off + 8 ≤ stockSize →
      ∃ t, exec .osBoundary s = .next t ∧ (t.dev.port n).lastO = o + 1 ∧ t.dev.rw32 (stockBase + off) = x ∧
        t.dev.rw32 (stockBase + off + 4) = v ∧ (∀ a, a < stockBase + off ∨ stockBase + off + 8 ≤ a → t.dev.rb a = d.rb a) ∧
        t.pending = s.pending ∧ t.dev.flash = d.flash ∧ t.dev.ctxs = d.ctxs ∧ t.dev.eng = d.eng) ∧
    (due → one → tget [] p.rxq c = [] → ∃ t, exec .osBoundary s = .next t ∧ (t.dev.port n).lastO = o + 1 ∧
      bitOf (t.dev.reg (rSAP_RXUND n)) c = true ∧ t.pending = s.pending ∧ t.dev.flash = d.flash ∧ t.dev.ctxs = d.ctxs) ∧
    (d.running = false → exec .osBoundary s = .next s)

/-- CV outputs (R338 to R345): a write of VAL queues its code for the first tick at or after C and replaces one for the same
tick; at a tick all latches load their due codes together through curve, trim and clamp; over-temperature makes a bank
inert, source 45 or 46, until its release and the next drain. Auto-tune (R356 to R359): a run becomes due by GO or by its
schedule; of the due ones the lowest channel whose outputs have been quiet for a second, or that GO asked for, is claimed; a
wrong timer or range ends it with result 4 or 6 and source 48; the gate opens after the settling time; a gate with too few
captures, or a stuck input, ends the run with result 1. -/
def Obligations.CvOutputsAndAutoTune : Prop :=
  (
    ∀ (s : State) (n code k : Nat),
      let d := s.dev
      let q := tget [] d.cv.queue n
      let lag : Int := d.fg CVO_STAT_LAG
      let idle : Prop := d.tune.phase = .idle
      let due (e : Word × Nat) : Bool := decide (later d.eng.c e.1 ≥ lag)
      let sets : Prop := d.hears = true ∧ n < 16 ∧ d.running = true ∧ (d.fg (CVO_CH_CFG_SRC n) = 1 ∨ d.claimed n = true)
      let trimmed (x : Nat) : Int := (x : Int) * (d.fg (CVO_CH_TRIM_GAIN n) : Int) / 32768 + d.fs (CVO_CH_TRIM_OFS n)
      let curved (x : Nat) : Int :=
        let a : Int := d.fg (CVO_CAL_K n (x / 2048))
        (a + ((d.fg (CVO_CAL_K n (x / 2048 + 1)) : Int) - a) * ((x : Int) - 2048 * (x / 2048 : Nat)) / 2048) *
          (d.fg (CVO_CH_TRIM_GAIN n) : Int) / 32768 + d.fs (CVO_CH_TRIM_OFS n)
      let clamp (v : Int) : Nat := (max 0 (min 65535 v)).toNat
      (sets → ∃ t, exec (.cvoChnSet n code) s = .next t ∧
        tget [] t.dev.cv.queue n = q.filter (fun e => e.1 != d.nextTick) ++ [(d.nextTick, code % 65536)] ∧
        (∀ m, m ≠ n → tget [] t.dev.cv.queue m = tget [] d.cv.queue m) ∧
        t = { s with dev := { d with cv := { d.cv with queue := t.dev.cv.queue } } }) ∧
      (¬sets → exec (.cvoChnSet n code) s = .next s) ∧
      (d.running = true → d.cvTick d.eng.c = true → idle → n < 16 → ∃ t, exec .cvDrain s = .next t ∧
        tget [] t.dev.cv.queue n = q.filter (fun e => !due e) ∧
        (∀ e, q.filter due = [e] → t.dev.fg (CVO_CH_VAL_IN n) = e.2 % 65536) ∧
        (q.filter due = [] → t.dev.fg (CVO_CH_VAL_IN n) = d.fg (CVO_CH_VAL_IN n)) ∧
        t.dev.fg (CVO_CH_VAL_OUT n) = clamp (if d.on (CVO_CH_CFG_CURVE n) then curved (t.dev.fg (CVO_CH_VAL_IN n))
          else trimmed (t.dev.fg (CVO_CH_VAL_IN n))) ∧
        (k < 2 → d.fg CVO_STAT_OT / 2 ^ k % 2 = 0 → k ∉ t.dev.pins.otInert) ∧
        t = { s with dev := { d with live := t.dev.live, cv := t.dev.cv, pins := { d.pins with otInert := t.dev.pins.otInert } } }) ∧
      (d.running = false ∨ d.cvTick d.eng.c = false → exec .cvDrain s = .next s) ∧
      (k < 2 → ∃ t, exec (.overTemperature k) s = .next t ∧ bitOf (t.dev.reg rCVO_STAT) (2 + k) = true ∧
        bitOf (t.dev.reg rCVO_STAT) (4 + k) = true ∧ k ∈ t.dev.pins.otInert ∧ t.dev.raw (45 + k) = true ∧
        (∀ m, m < 16 → m / 8 = k → t.dev.cvInert m = true) ∧ s.keepsRegisters t [rCVO_STAT] ∧
        t = { s with dev := { d with live := t.dev.live, evt := t.dev.evt, pins := { d.pins with otInert := t.dev.pins.otInert } } }) ∧
      (k < 2 → ∃ t, exec (.overTemperatureRelease k) s = .next t ∧ bitOf (t.dev.reg rCVO_STAT) (2 + k) = false ∧
        (∀ j, j ≠ 2 + k → bitOf (t.dev.reg rCVO_STAT) j = bitOf (d.reg rCVO_STAT) j) ∧ t.dev.pins = d.pins ∧
        s.keepsRegisters t [rCVO_STAT] ∧ t = { s with dev := { d with live := t.dev.live } })) ∧
  (
    ∀ (s : State) (v : Word) (ch : Nat),
      let d := s.dev
      let ready (c : Nat) : Bool := d.tune.due.any fun e => e.1 == c && (e.2 || decide (d.voiceRate ≤ tget 0 d.tune.quiet c))
      let first : Prop := ch < 16 ∧ ready ch = true ∧ ∀ c, c < ch → ready c = false
      let claims : Prop := d.running = true ∧ d.tune.phase = .idle ∧ first
      let n := d.fg (CVO_ATJ_TMR ch)
      let timer : Prop := d.fg (TMR_CFG_CLK n) = 0 ∧ d.fg (TMR_CFG_MODE n) = 5
      let range : Prop := d.fg (CVO_ATL_LO ch) + (d.fg CVO_AT_CFG_P - 1) ≤ d.fg (CVO_ATL_HI ch)
      let kept (t : State) : Prop := t.pending = s.pending ∧ t.dev.mem = d.mem ∧ t.dev.flash = d.flash ∧ t.dev.voices = d.voices ∧
        t.dev.ctxs = d.ctxs ∧ t.dev.note = d.note
      let fails (t : State) (res c : Nat) : Prop := t.dev.tune.phase = .idle ∧ t.dev.on CVO_AT_STAT_BUSY = false ∧
        t.dev.fg CVO_AT_STAT_RES = res ∧ t.dev.fg CVO_AT_STAT_CH = c % 16 ∧ t.dev.raw 48 = true ∧ kept t
      (d.hears = true → bitOf v 4 = true → fieldOf v 3 0 = ch → d.on (CVO_ATJ_EN ch) = true → ∃ t, exec (.autoTuneGo v) s = .next t ∧
        (ch, true) ∈ t.dev.tune.due ∧ t.dev.fg CVO_AT_CTRL_CH = ch ∧ s.keepsRegisters t [rCVO_AT_CTRL] ∧
        t = { s with dev := { d with live := t.dev.live, tune := { d.tune with due := t.dev.tune.due } } }) ∧
      (ch < 16 → d.running = true → d.on (CVO_ATJ_EN ch) = true → (∀ e ∈ d.tune.due, e.1 ≠ ch) →
        exec (.autoTuneDue ch) s = .next { s with dev := { d with tune := { d.tune with due := (ch, false) :: d.tune.due } } }) ∧
      (d.running = false ∨ d.on (CVO_ATJ_EN ch) = false → exec (.autoTuneDue ch) s = .next s) ∧
      (claims → timer → range → ∃ t, exec .autoTuneClaim s = .next t ∧ t.dev.tune.phase = .settle ∧ t.dev.tune.ch = ch ∧
        t.dev.tune.point = 0 ∧ t.dev.tune.pitches = [] ∧ (∀ e ∈ t.dev.tune.due, e.1 ≠ ch) ∧ t.dev.on CVO_AT_STAT_BUSY = true ∧
        tget [] t.dev.cv.queue ch = [(d.nextTick, d.tuneCode ch 0 % 65536)] ∧ kept t) ∧
      (claims → ¬timer → ∃ t, exec .autoTuneClaim s = .next t ∧ fails t 4 ch) ∧
      (claims → timer → ¬range → ∃ t, exec .autoTuneClaim s = .next t ∧ fails t 6 ch) ∧
      (d.running = false ∨ d.tune.phase ≠ .idle ∨ (∀ c, c < 16 → ready c = false) → exec .autoTuneClaim s = .next s) ∧
      (d.running = true → d.tune.phase = .settle →
        exec .autoTuneSettle s = .next { s with dev := { d with tune := { d.tune with phase := .gate, caps := 0, stuck := false } } }) ∧
      (d.running = true → d.tune.phase = .gate → d.tune.caps < 2 ∨ d.tune.stuck = true → ∃ t, exec .autoTuneGate s = .next t ∧
        fails t 1 d.tune.ch) ∧
      (d.running = true → d.tune.phase = .gate → 2 ≤ d.tune.caps → d.tune.stuck = false → d.tune.last ≠ d.tune.first →
        d.tune.point + 1 < d.fg CVO_AT_CFG_P → ∃ t, exec .autoTuneGate s = .next t ∧ t.dev.tune.phase = .settle ∧
          t.dev.tune.point = d.tune.point + 1 ∧ t.dev.tune.pitches = d.tune.pitches ++ [d.tunePitch.1] ∧ t.dev.tune.caps = 0 ∧
          (d.nextTick, d.tuneCode d.tune.ch (d.tune.point + 1) % 65536) ∈ tget [] t.dev.cv.queue d.tune.ch ∧ kept t))

/-- Timers start, stop, match and wrap (R347 to R350). A start loads CNT with PHASE and runs the timer from its next tick; a
stop keeps the count and lets the pin go. At its match CNT equals CMP and MATCH sets; a wrap sets OVF, puts CNT to 0, takes
the preloads into use, and stops a one-shot with its pin inactive. A timer that does not run does neither. Gates and
triggers of timer pins (R348, R351): the oldest waiting edge of the timer, once the output point has reached its sample,
sets a gate's pin to its level; a rising one starts or restarts a trigger's pulse of CMP ticks; in another mode the edge is
discarded. The end of a pulse lets the pin go. Input capture (R352 to R354). An edge that EDGE counts and that is the (PRESC
+ 1)-th since the last captured one stores CNT and chain time and sets NEW, and OVER where NEW stood; an edge in between
only counts. A read of CAP clears NEW, unless a capture falls in its cycle, which is stored. STUCK sets its flag and
captures nothing. -/
def Obligations.TimersAndGatePins : Prop :=
  (
    ∀ (s : State) (v : Word) (n : Nat),
      let x := s.dev.tmr n
      let runs (k : Nat) : Prop := k < 16 ∧ (s.dev.tmr k).run = true ∧ s.dev.tmrClock k = true
      let parts (t : State) : Prop := t = { s with dev := { s.dev with live := t.dev.live, tmrs := t.dev.tmrs } }
      let same (t : State) (k : Nat) : Prop := t.dev.tmr k = s.dev.tmr k ∧ t.dev.reg (rTMR_CNT k) = s.dev.reg (rTMR_CNT k) ∧
        t.dev.reg (rTMR_STAT k) = s.dev.reg (rTMR_STAT k)
      let alone (t : State) : Prop :=
        (∀ k, k ≠ n → t.dev.tmr k = s.dev.tmr k) ∧ s.keepsRegisters t [rTMR_CNT n, rTMR_STAT n] ∧ (∀ a, t.dev.rb a = s.dev.rb a) ∧
        t = { s with dev := { s.dev with live := t.dev.live, evt := t.dev.evt, tmrs := t.dev.tmrs } }
      (s.dev.hears = true → s.dev.alive = true → ∃ t, exec (.timerStart v) s = .next t ∧ parts t ∧
        (∀ k, k < 16 → if bitOf v k then
          t.dev.tmr k = { s.dev.tmr k with run := true, cnt := s.dev.reg (rTMR_PHASE k), held := true, edges := 0 } ∧
          t.dev.reg (rTMR_CNT k) = s.dev.reg (rTMR_PHASE k) ∧ t.dev.on (TMR_STAT_RUN k) = true else same t k) ∧
        (∀ a, (∀ k, k < 16 → a ≠ rTMR_CNT k ∧ a ≠ rTMR_STAT k) → t.dev.reg a = s.dev.reg a)) ∧
      (s.dev.hears = true → s.dev.alive = true → ∃ t, exec (.timerStop v) s = .next t ∧ parts t ∧
        (∀ k, k < 16 → if bitOf v (16 + k) then
          t.dev.tmr k = { s.dev.tmr k with run := false, pin := false, pulse := 0, held := false } ∧
          t.dev.reg (rTMR_CNT k) = s.dev.reg (rTMR_CNT k) ∧ t.dev.on (TMR_STAT_RUN k) = false else same t k) ∧
        (∀ a, (∀ k, k < 16 → a ≠ rTMR_STAT k) → t.dev.reg a = s.dev.reg a)) ∧
      (s.dev.alive = false → exec (.timerStart v) s = .next s ∧ exec (.timerStop v) s = .next s) ∧
      (runs n → x.cmp.toNat ≤ x.per.toNat → s.dev.pwr.mode ≠ .rest →
        ∃ t, exec (.matchHit n) s = .next t ∧ alone t ∧ (t.dev.tmr n).cnt = x.cmp ∧ t.dev.reg (rTMR_CNT n) = x.cmp ∧
          t.dev.on (TMR_STAT_MATCH n) = true ∧ (t.dev.tmr n).run = true) ∧
      (runs n → ∃ t, exec (.wrap n) s = .next t ∧ alone t ∧ (t.dev.tmr n).cnt = 0 ∧ t.dev.reg (rTMR_CNT n) = 0 ∧
        t.dev.on (TMR_STAT_OVF n) = true ∧
        (t.dev.tmr n).per = (if x.perNew then s.dev.reg (rTMR_PER n) else x.per) ∧
        (t.dev.tmr n).cmp = (if x.cmpNew then s.dev.reg (rTMR_CMP n) else x.cmp) ∧
        (t.dev.tmr n).perNew = false ∧ (t.dev.tmr n).cmpNew = false ∧
        (s.dev.fg (TMR_CFG_MODE n) = 1 → (t.dev.tmr n).run = true ∧ (t.dev.tmr n).pin = decide ((t.dev.tmr n).cmp ≠ 0)) ∧
        (s.dev.fg (TMR_CFG_MODE n) = 2 → (t.dev.tmr n).run = false ∧ (t.dev.tmr n).pin = false ∧ t.dev.on (TMR_STAT_RUN n) = false)) ∧
      (¬runs n → exec (.matchHit n) s = .next s ∧ exec (.wrap n) s = .next s)) ∧
  (
    ∀ (s : State) (n : Nat),
      let x := s.dev.tmr n
      let mode := s.dev.fg (TMR_CFG_MODE n)
      (s.dev.running = true → ∀ at_ phi high, (s.dev.cv.edges.find? fun e => e.1 == n) = some (n, at_, phi, high) →
        later at_ s.dev.outPoint ≤ 0 → ∃ t, exec (.gateEdge n) s = .next t ∧
          t.dev.cv.edges = s.dev.cv.edges.erase (n, at_, phi, high) ∧
          (mode = 3 → t.dev.tmr n = { x with pin := high }) ∧
          (mode = 4 → high = true → t.dev.tmr n = { x with pin := decide (x.cmp ≠ 0), pulse := x.cmp.toNat }) ∧
          (mode = 4 → high = false → t.dev.tmr n = x) ∧ (mode ≠ 3 → mode ≠ 4 → t.dev.tmr n = x) ∧
          (∀ k, k ≠ n → t.dev.tmr k = s.dev.tmr k) ∧
          t = { s with dev := { s.dev with cv := { s.dev.cv with edges := t.dev.cv.edges }, tmrs := t.dev.tmrs } }) ∧
      ((∀ e ∈ s.dev.cv.edges, e.1 ≠ n) → exec (.gateEdge n) s = .next s) ∧
      (x.pulse ≠ 0 → s.dev.tmrClock n = true → ∃ t, exec (.triggerPulseEnd n) s = .next t ∧
        t.dev.tmr n = { x with pulse := 0, pin := false } ∧ (∀ k, k ≠ n → t.dev.tmr k = s.dev.tmr k) ∧
        t = { s with dev := { s.dev with tmrs := t.dev.tmrs } }) ∧
      (x.pulse = 0 → exec (.triggerPulseEnd n) s = .next s)) ∧
  (
    ∀ (s : State) (n : Nat) (rising : Bool) (count time : Word) (same : Option (Word × Word)),
      let x := s.dev.tmr n
      let listens : Prop := n < 16 ∧ x.run = true ∧ s.dev.tmrClock n = true ∧ s.dev.fg (TMR_CFG_MODE n) = 5
      let e := s.dev.fg (TMR_CAPCFG_EDGE n)
      let counts : Prop := e = 2 ∨ (e = 0 ∧ rising = true) ∨ (e = 1 ∧ rising = false)
      let last : Prop := (x.edges + 1) % (s.dev.fg (TMR_CAPCFG_PRESC n) + 1) = 0
      let note : Prop := s.dev.on (NOTE_GATE_EN n) = true
      let parts (t : State) : Prop := t = { s with dev := { s.dev with
        live := t.dev.live, evt := t.dev.evt, note := t.dev.note, tune := t.dev.tune, tmrs := t.dev.tmrs } }
      let regs (t : State) : Prop := s.keepsRegisters t [rTMR_CAP n, rTMR_CAPT n, rTMR_STAT n, rNOTE_CNT0]
      (listens → counts → last → ∃ t, exec (.capture n rising count time) s = .next t ∧ parts t ∧ regs t ∧
        t.dev.reg (rTMR_CAP n) = count ∧ t.dev.reg (rTMR_CAPT n) = time ∧ t.dev.on (TMR_STAT_NEW n) = true ∧
        t.dev.on (TMR_STAT_OVER n) = (s.dev.on (TMR_STAT_OVER n) || s.dev.on (TMR_STAT_NEW n)) ∧
        (t.dev.tmr n).edges = 0 ∧ (∀ k, k ≠ n → t.dev.tmr k = s.dev.tmr k) ∧ (¬note → t.dev.note = s.dev.note)) ∧
      (listens → counts → ¬last → ∃ t, exec (.capture n rising count time) s = .next t ∧
        t.dev.tmr n = { x with edges := (x.edges + 1) % (s.dev.fg (TMR_CAPCFG_PRESC n) + 1) } ∧
        (∀ k, k ≠ n → t.dev.tmr k = s.dev.tmr k) ∧ t = { s with dev := { s.dev with tmrs := t.dev.tmrs } }) ∧
      (¬(listens ∧ (e = 3 ∨ counts)) → exec (.capture n rising count time) s = .next s) ∧
      (s.dev.hears = true → n < 16 → ∃ t, exec (.capRead n same) s = .next t ∧
        s.keepsRegisters t [rTMR_CAP n, rTMR_CAPT n, rTMR_STAT n] ∧
        t = { s with dev := { s.dev with live := t.dev.live, evt := t.dev.evt } } ∧
        t.dev.on (TMR_STAT_NEW n) = same.isSome ∧
        t.dev.reg (rTMR_CAP n) = ((same.map (·.1)).getD (s.dev.reg (rTMR_CAP n))) ∧
        t.dev.reg (rTMR_CAPT n) = ((same.map (·.2)).getD (s.dev.reg (rTMR_CAPT n)))) ∧
      (listens → s.dev.fg (TMR_CAPCFG_TOUT n) ≠ 0 → ∃ t, exec (.stuck n) s = .next t ∧ parts t ∧ regs t ∧
        t.dev.on (TMR_STAT_STUCK n) = true ∧ t.dev.reg (rTMR_CAP n) = s.dev.reg (rTMR_CAP n) ∧
        (t.dev.tmr n).run = true ∧ (x.lastOn = false → t.dev.note = s.dev.note)) ∧
      (s.dev.fg (TMR_CAPCFG_TOUT n) = 0 → exec (.stuck n) s = .next s))

/-! ### The link (chapter 13) -/

/-- Frames in sequence (R371 to R373, R375), for every command that brings one: a discarded frame is counted and makes one
NAK of the expected SEQ, a frame too early the NAK alone; a duplicate is counted and the latest ACK repeated; the expected
frame of another device is acknowledged and goes on, its TYPE, DST and SRC unchanged, under the next SEQ of its way out. -/
def Obligations.LinkFramesAreOrdered : Prop :=
  ∀ (s : State) (c : Instr) (h : LinkHdr) (ty q : Nat), linkFrame c = some (h, ty) →
    let d := s.dev
    let p := h.port
    let x := d.lport p
    let up : Prop := d.linkUp p = true
    let k := seqLater h.seq x.rx
    let only (t : State) (y : LPort) (l : List Nat) : Prop :=
      t.dev.lport p = y ∧ (∀ q, q ≠ p → t.dev.lport q = d.lport q) ∧ s.keepsRegisters t l ∧
      t = { s with dev := { d with live := t.dev.live, cbl := { d.cbl with ports := t.dev.cbl.ports } } }
    let nak : LPort := if x.nakOut then x else { x with nakOut := true, acks := x.acksWith (1, x.rx) }
    (up → h.ok = false → ∃ t, exec c s = .next t ∧ only t nak [rCBL_P_CNT0 p] ∧
      t.dev.fg (CBL_P_CNT0_CRCERR p) = min (d.fg (CBL_P_CNT0_CRCERR p) + 1) 0xFFFF ∧
      t.dev.fg (CBL_P_CNT0_REPLAY p) = d.fg (CBL_P_CNT0_REPLAY p)) ∧
    (up → h.ok = true → k > 0 → ∃ t, exec c s = .next t ∧ only t nak []) ∧
    (up → h.ok = true → k < 0 → ∃ t, exec c s = .next t ∧
      only t { x with acks := x.acksWith (0, (x.rx + 0xFFFF) % 0x10000) } [rCBL_P_CNT1 p] ∧
      t.dev.fg (CBL_P_CNT1_DUP p) = min (d.fg (CBL_P_CNT1_DUP p) + 1) 0xFFFF ∧
      t.dev.fg (CBL_P_CNT1_SUMLATE p) = d.fg (CBL_P_CNT1_SUMLATE p)) ∧
    (up → h.ok = true → k = 0 → d.mine h = false → d.isolated = false → q ≠ p → (d.lport q).joined = true →
      (h.dst = 1 ∧ q = 0) ∨ (h.dst ≠ 1 ∧ d.portTo h.dst = some q) → ∃ t pay, exec c s = .next t ∧ s.acked t h ∧
      s.sent t q ty h.dst h.src pay ∧ (∀ r, r ≠ p → r ≠ q → t.dev.lport r = d.lport r) ∧ s.keepsRegisters t [] ∧
      t = { s with dev := { d with cbl := { d.cbl with ports := t.dev.cbl.ports } } }) ∧
    (¬up → exec c s = .next s)

/-- Training and roles (R363, R367, R368, R387, R390): an open role ends as headstock at the time-out or as member candidate
at a squelch break on CB0; eight TS1 and then eight TS2 bring the port up at version 1, or isolate it where no version is
agreed or both ends have one role; a training not finished starts anew; EN = 0 holds electrical idle. What is acknowledged
is done with, and what is not is sent again (R372, R390 to R393): an ACK takes the frames up to its SEQ from the replay
buffer; a NAK resends from its SEQ and a time-out from the oldest frame, each counted, and the eighth from one SEQ loses the
link; a lost link fades, is reported, and on a head its members leave the census. -/
def Obligations.LinkTrainingAndReplay : Prop :=
  (
    ∀ (s : State) (p role lo hi count : Nat) (v : Word),
      let d := s.dev
      let x := d.lport p
      let kept (t : State) : Prop := t.pending = s.pending ∧ t.dev.mem = d.mem ∧ t.dev.flash = d.flash ∧ t.dev.ctxs = d.ctxs ∧
        t.dev.voices = d.voices ∧ t.dev.spns = d.spns
      let one (t : State) (y : LPort) (l : List Nat) : Prop :=
        t.dev.lport p = y ∧ (∀ q, q ≠ p → t.dev.lport q = d.lport q) ∧ s.keepsRegisters t l ∧
        t = { s with dev := { d with live := t.dev.live, cbl := { d.cbl with ports := t.dev.cbl.ports } } }
      let ready : Prop := d.alive = true ∧ d.portOpen p = true
      let fresh : Prop := d.cbl.roleOpen = true ∨ d.cbl.orphan = true
      let trains : Prop := d.alive = true ∧ p < 3 ∧ d.fg (CBL_P_STAT_LSTATE p) = 1
      let ends : Prop := trains ∧ 8 ≤ x.ts.1 ∧ 8 ≤ x.ts.2 + count
      let set (n : Nat) : Instr := .trainingSet p role lo hi n count
      let isolates (t : State) (r : Nat) : Prop := t.dev.fg (CBL_P_STAT_LSTATE p) = 3 ∧ (t.dev.lport p).joined = false ∧
        (t.dev.lport p).isol = r ∧ (p = 0 → t.dev.fg CBL_STAT_STATE = 7 ∧ t.dev.fg CBL_STAT_REASON = r) ∧ kept t
      (d.cbl.roleOpen = true → d.alive = true → ∃ t, exec .headwaitExpiry s = .next t ∧ t.dev.fg CBL_STAT_DEVID = 1 ∧
        t.dev.fg CBL_STAT_STATE = 1 ∧ t.dev.fg CBL_STAT_REASON = 0 ∧ t.dev.cbl.roleOpen = false ∧ kept t) ∧
      (d.cbl.roleOpen = false ∨ d.alive = false → exec .headwaitExpiry s = .next s) ∧
      (ready → p = 0 → fresh → ∃ t, exec (.squelchBreak p) s = .next t ∧ t.dev.fg CBL_STAT_STATE = 2 ∧
        t.dev.fg CBL_STAT_REASON = 0 ∧ t.dev.fg (CBL_P_STAT_LSTATE 0) = 1 ∧ t.dev.lport 0 = LPort.idle ∧
        t.dev.cbl.roleOpen = false ∧ t.dev.cbl.orphan = false ∧ kept t) ∧
      (ready → (p ≠ 0 ∧ d.beacons = true) ∨ (p = 0 ∧ ¬fresh ∧ d.isMember = true ∧ d.cbl.fade = none) →
        ∃ t, exec (.squelchBreak p) s = .next t ∧ t.dev.fg (CBL_P_STAT_LSTATE p) = 1 ∧ one t LPort.idle [rCBL_P_STAT p]) ∧
      (¬ready → exec (.squelchBreak p) s = .next s ∧ exec (.beacon p) s = .next s) ∧
      (ready → p ≠ 0 → d.beacons = true → ∃ t, exec (.beacon p) s = .next t ∧ one t { x with beacon := true } []) ∧
      (trains → ∃ t, exec (set 1) s = .next t ∧ one t { x with ts := (min 8 (x.ts.1 + count), 0) } []) ∧
      (trains → 8 ≤ x.ts.1 → x.ts.2 + count < 8 → ∃ t, exec (set 2) s = .next t ∧ one t { x with ts := (x.ts.1, x.ts.2 + count) } []) ∧
      (ends → hi = 0 ∨ 2 ≤ lo → ∃ t, exec (set 2) s = .next t ∧ isolates t 8) ∧
      (ends → 1 ≤ hi → lo ≤ 1 → role = roleOf p → ∃ t, exec (set 2) s = .next t ∧ isolates t 9) ∧
      (ends → 1 ≤ hi → lo ≤ 1 → role ≠ roleOf p → ∃ t, exec (set 2) s = .next t ∧ t.dev.fg (CBL_P_STAT_LSTATE p) = 2 ∧
        t.dev.fg (CBL_P_STAT_LPV p) = 1 ∧ t.dev.raw (18 + p) = true ∧ (p ≠ 0 → t.dev.lport p = { LPort.idle with joined := true }) ∧
        (p = 0 → ∃ f, t.dev.lport 0 = { LPort.idle with joined := true, tx := 1, replay := [f] } ∧ f.ty = 0x10 ∧ f.dst = 1 ∧
          f.seq = 0) ∧ s.keepsRegisters t [rCBL_P_STAT p] ∧ kept t) ∧
      (p < 3 → d.fg (CBL_P_STAT_LSTATE p) = 1 → ∃ t, exec (.trainingTimeout p) s = .next t ∧
        t.dev.fg (CBL_P_STAT_LSTATE p) = 0 ∧ one t LPort.idle [rCBL_P_STAT p]) ∧
      (d.fg (CBL_P_STAT_LSTATE p) ≠ 1 → exec (.trainingTimeout p) s = .next s ∧ exec (set 1) s = .next s ∧ exec (set 2) s = .next s) ∧
      (d.hears = true → p < 3 → d.on (CBL_P_CTRL_EN p) = true → bitOf v 31 = false → ∃ t, exec (.portEnable p v) s = .next t ∧
        t.dev.on (CBL_P_CTRL_EN p) = false ∧ t.dev.fg (CBL_P_STAT_LSTATE p) = 0 ∧ t.dev.lport p = { LPort.idle with isol := x.isol } ∧
        (x.joined = true → t.dev.raw (18 + p) = true) ∧ kept t) ∧
      (d.hears = true → p < 3 → d.on (CBL_P_CTRL_EN p) = false → bitOf v 31 = true → x.isol ≠ 11 →
        ∃ t, exec (.portEnable p v) s = .next t ∧ t.dev.on (CBL_P_CTRL_EN p) = true ∧ t.dev.fg (CBL_P_STAT_LSTATE p) = 0 ∧
        t.dev.lport p = LPort.idle ∧ kept t) ∧
      (d.hears = true → p < 3 → d.on (CBL_P_CTRL_EN p) = bitOf v 31 → ∃ t, exec (.portEnable p v) s = .next t ∧
        t.dev.on (CBL_P_CTRL_EN p) = bitOf v 31 ∧ t.dev.fg (CBL_P_CTRL_ASYM p) = v.toNat % 65536 ∧ one t x [rCBL_P_CTRL p])) ∧
  (
    ∀ (s : State) (p seq credit : Nat),
      let d := s.dev
      let x := d.lport p
      let up : Prop := d.linkUp p = true
      let one (t : State) (y : LPort) (l : List Nat) : Prop :=
        t.dev.lport p = y ∧ (∀ q, q ≠ p → t.dev.lport q = d.lport q) ∧ s.keepsRegisters t l ∧
        t = { s with dev := { d with live := t.dev.live, cbl := { d.cbl with ports := t.dev.cbl.ports } } }
      let times (n : Nat) : Nat := if x.resendSeq = n ∧ x.resends ≠ 0 then x.resends + 1 else 1
      let resent (t : State) (n : Nat) (l : List LFrame) : Prop :=
        t.dev.fg (CBL_P_CNT0_REPLAY p) = min (d.fg (CBL_P_CNT0_REPLAY p) + 1) 0xFFFF ∧
        (times n < 8 → one t { x with replay := l, resends := times n, resendSeq := n } [rCBL_P_CNT0 p]) ∧
        (8 ≤ times n → t.dev.fg (CBL_P_STAT_LSTATE p) = 4 ∧ (t.dev.lport p).joined = false)
      let left := x.replay.filter fun f => decide (seqLater f.seq seq > 0)
      let gone (m : Member) : Bool := under (d.cbl.path ++ [p == 2]) m.path
      (up → ∃ t, exec (.ack p seq credit) s = .next t ∧ one t { x with
        replay := left, credit := credit, resends := if left.length < x.replay.length then 0 else x.resends } []) ∧
      (up → ∃ t, exec (.nak p seq) s = .next t ∧ resent t seq (x.replay.filter fun f => decide (seqLater f.seq seq ≥ 0))) ∧
      (up → ∀ f l, x.replay = f :: l → ∃ t, exec (.replayTimeout p) s = .next t ∧ resent t f.seq x.replay) ∧
      (x.replay = [] → exec (.replayTimeout p) s = .next s) ∧
      (up → ∃ t, exec (.linkLoss p) s = .next t ∧ t.dev.fg (CBL_P_STAT_LSTATE p) = 4 ∧ t.dev.fg (CBL_P_STAT_LPV p) = 0 ∧
        t.dev.fg (CBL_P_STAT_PEER p) = 0 ∧ t.dev.raw (18 + p) = true ∧
        t.dev.lport p = { LPort.idle with lastSum := x.lastSum, lastS := x.lastS, sums := x.sums, got := x.got, fade := some 0 } ∧
        (p = 0 → d.isMember = true → d.cbl.fade = none → t.dev.cbl.fade = some 0) ∧
        (p ≠ 0 → d.isHead = true → t.dev.cbl.census = d.cbl.census.filter (fun m => !gone m) ∧ t.dev.raw 22 = true) ∧
        (p ≠ 0 → d.isHead = false → (d.lport 0).joined = true → s.sent t 0 0x29 1 d.devid
          ([BitVec.ofNat 8 (d.depth + 1), 0, 0, 0] ++ leBytes 4 d.now.toNat ++ pathBytes (d.cbl.path ++ [p == 2]))) ∧
        t.pending = s.pending ∧ t.dev.mem = d.mem ∧ t.dev.ctxs = d.ctxs ∧ t.dev.voices = d.voices) ∧
      (¬up → exec (.linkLoss p) s = .next s ∧ exec (.ack p seq credit) s = .next s ∧ exec (.nak p seq) s = .next s ∧
        exec (.replayTimeout p) s = .next s))

/-- Time along the tree (R378 to R380): the child's SYNC gives residual and error bound, the first after ASSIGN steps chain
time by the residual; sixteen in a row within 100 ns lock it and over 1,000 ns a voiced member is adrift; peer delay comes
from the four stamps; a parent sends SYNC with its own error bound; a member not locked in time is quarantined with reason
4. Events along the chain (R110, R164, R377, R383, R386): EVENT_UP of an admitted member waits in the head's link source; of
EVENT_DN a member keeps the admission records for its sample, and until it is admitted no other; a SUMMARY of the head's
epoch replaces the copy, one of another epoch quarantines; a SUM is held for its sample, and discarded where C has passed
it. -/
def Obligations.TimeEventsAndSumsAlongTheTree : Prop :=
  (
    ∀ (s : State) (h : LinkHdr) (t0 : Word) (err t1 t2 t3 t4 q : Nat),
      let d := s.dev
      let takes : Prop := d.takes h
      let r : Int := later t0 d.now + (signed 24 (d.fg (CBL_P_DELAY_DELAY 0)) + 8) / 16
      let e := min 0xFFFF (err + r.natAbs + 8)
      let k := later (w32 t4) (w32 t1) - later (w32 t3) (w32 t2)
      let st := d.fg CBL_STAT_STATE
      let one (t : State) (l : List Nat) : Prop := s.keepsRegisters t l ∧
        t = { s with dev := { d with live := t.dev.live, cbl := { d.cbl with ports := t.dev.cbl.ports } } }
      (takes → d.isMember = true → d.devid ≠ 0 → ∃ t, exec (.sync h t0 err) s = .next t ∧
        t.dev.fs CBL_TIME_RESID = max (-32768) (min 32767 r) ∧ t.dev.fg CBL_TIME_ERR = e ∧
        t.dev.fg (CBL_P_STAT_PEER 0) = h.src % 256 ∧ t.dev.cbl.synced = true ∧
        (d.cbl.synced = false → d.time.cold = none → t.dev.now = d.now + w32i r) ∧
        t.dev.cbl.locks = (if e ≤ 100 then d.cbl.locks + 1 else 0) ∧
        (st = 4 → 1000 < e → t.dev.fg CBL_STAT_STATE = 6 ∧ t.dev.cbl.locked = false ∧ t.dev.raw 24 = true) ∧
        (e ≤ 100 → 15 ≤ d.cbl.locks → t.dev.cbl.locked = true ∧ (st = 5 → d.fg CBL_STAT_REASON = 4 → t.dev.fg CBL_STAT_STATE = 3)) ∧
        (e ≤ 1000 → e > 100 ∨ d.cbl.locks < 15 → t.dev.fg CBL_STAT_STATE = st ∧ t.dev.cbl.locked = d.cbl.locked) ∧
        t.pending = s.pending ∧ t.dev.mem = d.mem ∧ t.dev.voices = d.voices) ∧
      (d.alive = true → ∃ t, exec .syncInterval s = .next t ∧ one t [] ∧ t.dev.lport 0 = d.lport 0 ∧
        (q = 1 ∨ q = 2 → (d.lport q).joined = true → s.sent t q 0x20 0 d.devid
          (leBytes 4 d.now.toNat ++ leBytes 2 (if d.isHead then 0 else d.fg CBL_TIME_ERR) ++ [0, 0]))) ∧
      (d.alive = false → exec .syncInterval s = .next s ∧ exec .pdInterval s = .next s) ∧
      (takes → h.dst = 0 → h.port ≠ 0 → ∃ t, exec (.pdReq h t2 t3) s = .next t ∧ s.acked t h ∧ one t [rCBL_P_STAT h.port] ∧
        t.dev.fg (CBL_P_STAT_PEER h.port) = h.src % 256 ∧ s.sent t h.port 0x22 0 d.devid (leBytes 4 t2 ++ leBytes 4 t3)) ∧
      (takes → h.dst = 0 → h.port = 0 → ∃ t, exec (.pdRsp h t1 t2 t3 t4) s = .next t ∧ s.acked t h ∧ one t [rCBL_P_DELAY 0] ∧
        t.dev.fg (CBL_P_DELAY_DELAY 0) = ((8 * k + d.fs (CBL_P_CTRL_ASYM 0)) % 2 ^ 24).toNat) ∧
      (d.alive = true → (d.lport 0).joined = true → ∃ t, exec .pdInterval s = .next t ∧ s.sent t 0 0x21 0 d.devid [] ∧ one t []) ∧
      (st = 3 → d.cbl.locked = false → ∃ t, exec .lockTimeout s = .next t ∧ t.dev.fg CBL_STAT_STATE = 5 ∧
        t.dev.fg CBL_STAT_REASON = 4 ∧ ((d.lport 0).joined = true → (t.dev.lport 0).tx = ((d.lport 0).tx + 1) % 0x10000) ∧
        t.pending = s.pending ∧ t.dev.mem = d.mem ∧ t.dev.voices = d.voices ∧ t.dev.ctxs = d.ctxs) ∧
      (st ≠ 3 ∨ d.cbl.locked = true → exec .lockTimeout s = .next s)) ∧
  (
    ∀ (s : State) (h : LinkHdr) (ev : EvRec) (l : List DnEntry) (tag first k : Nat) (ep smp : Word) (sums : List (Word × Nat))
      (vals : List (Nat × BitVec 40)) (x : Member),
      let d := s.dev
      let known : Bool := d.cbl.census.any fun m => m.id == ev.devid && m.admitted
      let got (t : State) : Prop := s.acked t h ∧ t.pending = s.pending ∧ t.dev.mem = d.mem ∧ t.dev.flash = d.flash ∧
        t.dev.voices = d.voices ∧ t.dev.spns = d.spns
      let summing : Prop := d.takes h ∧ d.isHead = true ∧ d.member h.src = some x ∧ x.state = 4
      (d.takes h → d.isHead = true → known = true → ∃ t, exec (.eventUp h ev) s = .next t ∧ got t ∧
        t.dev.waiting 1 = d.waiting 1 ++ [d.upMsg ev] ∧ (∀ q, q ≠ 1 → t.dev.waiting q = d.waiting q) ∧ s.keepsRegisters t []) ∧
      (d.takes h → d.isHead = false ∨ known = false → ∃ t, exec (.eventUp h ev) s = .next t ∧ got t ∧ t.dev.note = d.note ∧
        s.keepsRegisters t []) ∧
      (d.takes h → d.isMember = true → d.cbl.sAdm = none → d.cbl.admitted = false → d.cbl.held = [] →
        ∃ t, exec (.eventDn h l) s = .next t ∧ got t ∧ t.dev.cbl.adm = d.cbl.adm ++ l.filter (fun e => e.adm) ∧
          t.dev.cbl.held = [] ∧ t.dev.note = d.note) ∧
      (summing → ep = d.epochAt smp → sums.length = 5 → d.alloc.targeted = [] → ∃ t, exec (.summary h tag ep smp sums) s = .next t ∧ got t ∧
        tget 0 t.dev.alloc.summTag h.src = tag ∧
        (∀ c n, summClasses[k]? = some c → sums[k]? = some n → n.2 ≠ 0 →
          tget Summ.none t.dev.alloc.summ (h.src * 8 + c) = { score := n.1, count := n.2 }) ∧ s.keepsRegisters t []) ∧
      (summing → ep ≠ d.epochAt smp → ∃ t, exec (.summary h tag ep smp sums) s = .next t ∧ got t ∧ t.dev.raw 23 = true ∧
        t.dev.alloc = d.alloc ∧ ∃ y ∈ t.dev.cbl.census, y.id = h.src ∧ y.state = 5 ∧ (y.reason = 2 ∨ y.reason = 3)) ∧
      (d.takes h → h.port ≠ 0 → later smp d.eng.c ≥ 0 → (vals.map (·.1)).Nodup → (∀ v ∈ vals, v.1 < 64) →
        ∃ t, exec (.sum h smp first vals) s = .next t ∧ got t ∧ smp ∈ (t.dev.lport h.port).got ∧
          (∀ v ∈ vals, tget 0 (t.dev.lport h.port).sums (busKey smp v.1) = v.2) ∧
          (∀ i, (∀ v ∈ vals, i ≠ busKey smp v.1) → tget 0 (t.dev.lport h.port).sums i = tget 0 (d.lport h.port).sums i) ∧
          s.keepsRegisters t []) ∧
      (d.takes h → h.port ≠ 0 → later smp d.eng.c < 0 → ∃ t, exec (.sum h smp first vals) s = .next t ∧ got t ∧
        (t.dev.lport h.port).sums = (d.lport h.port).sums ∧ (t.dev.lport h.port).got = (d.lport h.port).got))

/-- Joining (R365, R384 to R388, R396). The head gives a position its ID, the one it had or the lowest unused, and the
verdict: proceed, quarantine for another digest with source 23, isolation beyond DMAX. A member takes ID, depth, grid and
state from ASSIGN, keeps what ADMIT names, and is voiced at its sample. The head admits a locked member, and its commands
release, quarantine, isolate or ship. Leaving (R392, R393): on LOST the head drops every member at and below the position,
moves the census generation on and raises source 22; HEADLOST begins a member's fade and goes on to its ports; at the end of
the fade the member frees every voice, empties its pipeline, holds its pins inert, idles every link, and is an orphan. -/
def Obligations.JoiningAndLeavingTheChain : Prop :=
  (
    ∀ (s : State) (h : LinkHdr) (m : HelloMsg) (a : AssignMsg) (st : StatusMsg) (smp ep : Word) (gen id dev : Nat) (x : Member),
      let d := s.dev
      let head : Prop := d.takes h ∧ d.isHead = true
      let member : Prop := d.takes h ∧ d.isMember = true
      let q := if m.path.getD d.depth false then 2 else 1
      let known := d.cbl.table.find? fun e => e.1 == m.path
      let used (k : Nat) : Prop := k ∈ d.cbl.table.map (·.2)
      let isId : Prop := (∀ e, known = some e → id = e.2) ∧
        (known = none → 2 ≤ id ∧ id ≤ 254 ∧ ¬used id ∧ ∀ k, 2 ≤ k → k < id → used k)
      let has (t : State) (n state reason : Nat) : Prop := ∃ y ∈ t.dev.cbl.census, y.id = n ∧ y.state = state ∧ y.reason = reason
      let told (t : State) (verdict reason : Nat) : Prop := (d.lport q).joined = true → ∃ f ∈ (t.dev.lport q).replay, f.ty = 0x11 ∧
        f.pay.take 4 = [BitVec.ofNat 8 m.depth, BitVec.ofNat 8 verdict, BitVec.ofNat 8 id, BitVec.ofNat 8 reason]
      let kept (t : State) : Prop := t.pending = s.pending ∧ t.dev.mem = d.mem ∧ t.dev.flash = d.flash ∧ t.dev.voices = d.voices ∧
        t.dev.ctxs = d.ctxs ∧ t.dev.spns = d.spns ∧ t.dev.staged = d.staged
      let mine : Prop := d.devid = 0 ∨ a.depth ≤ d.depth
      let cmd : Prop := d.hears = true ∧ d.isHead = true ∧ d.alive = true ∧ d.member dev = some x
      let admitted (t : State) (n : Nat) : Prop := has t n 4 0 ∧ t.dev.raw 21 = true ∧
        t.dev.fg CBL_CENSUS_GEN = (d.fg CBL_CENSUS_GEN + 1) % 0x10000 ∧ kept t
      (head → m.depth ≠ 0 → isId → m.depth ≤ d.fg CBL_POL0_DMAX → m.digest = d.imgDigest →
        ∃ t, exec (.hello h m) s = .next t ∧ has t id 3 0 ∧ told t 0 0 ∧ kept t) ∧
      (head → m.depth ≠ 0 → isId → m.depth ≤ d.fg CBL_POL0_DMAX → m.digest ≠ d.imgDigest →
        ∃ t, exec (.hello h m) s = .next t ∧ has t id 5 1 ∧ told t 1 1 ∧ t.dev.raw 23 = true ∧
          (d.fg CBL_POL0_SHIP ≠ 0 → (id, 0, 0) ∈ t.dev.cbl.ship ∧ t.dev.raw 35 = true) ∧ kept t) ∧
      (head → isId → d.fg CBL_POL0_DMAX < m.depth →
        ∃ t, exec (.hello h m) s = .next t ∧ (∀ y ∈ t.dev.cbl.census, y.id ≠ id) ∧ told t 2 10 ∧ kept t) ∧
      (member → mine → ∃ t, exec (.assign h a) s = .next t ∧ t.dev.fg CBL_STAT_DEVID = a.id % 256 ∧
        t.dev.fg CBL_STAT_DEPTH = a.depth % 256 ∧ t.dev.fg CBL_CHAIN_LCHAIN = (a.lchain + 999) / 1000 % 0x10000 ∧
        t.dev.fg CBL_STAT_STATE = (if a.verdict = 2 then 7 else if a.verdict = 1 then 5 else 3) ∧
        t.dev.fg CBL_STAT_REASON = (if a.verdict = 2 ∨ a.verdict = 1 then a.reason % 16 else 0) ∧
        (a.verdict = 2 → t.dev.fg (CBL_P_STAT_LSTATE 0) = 3) ∧
        (a.verdict ≠ 2 → d.cbl.admitted = false → d.cbl.sAdm = none → t.dev.eng.s0 = a.anchor ∧ t.dev.eng.tau0 = a.tau ∧ kept t)) ∧
      (head → d.member h.src = some x → st.state = 3 → st.digest = d.imgDigest → st.err ≤ 100 →
        ¬(x.state = 5 ∧ (x.reason = 2 ∨ x.reason = 3 ∨ x.reason = 5)) → ∃ t, exec (.status h st) s = .next t ∧ admitted t h.src) ∧
      (member → ∃ t, exec (.linkAdmit h smp ep gen) s = .next t ∧ t.dev.cbl.sAdm = some smp ∧ t.dev.cbl.admEpoch = ep ∧
        t.dev.cbl.admGen = gen ∧ s.keepsRegisters t [] ∧
        t = { s with dev := { d with cbl := t.dev.cbl } }) ∧
      (d.running = true → d.cbl.sAdm = some smp → later d.eng.c smp ≥ 0 → ∃ t, exec .admission s = .next t ∧
        t.dev.reg rSTG_EPOCH = d.cbl.admEpoch ∧ t.dev.fg CBL_CENSUS_GEN = d.cbl.admGen % 0x10000 ∧ t.dev.fg CBL_STAT_STATE = 4 ∧
        t.dev.cbl.sAdm = none ∧ t.dev.cbl.admitted = true ∧ t.dev.cbl.adm = [] ∧ t.dev.raw 21 = true ∧
        t.pending = s.pending ∧ t.dev.mem = d.mem ∧ t.dev.flash = d.flash ∧ t.dev.voices = d.voices) ∧
      (d.running = true → d.cbl.sAdm = some smp → later d.eng.c smp < 0 → exec .admission s = .next s) ∧
      (cmd → x.state = 5 → x.reason = 2 ∨ x.reason = 3 ∨ x.reason = 5 →
        ∃ t, exec (.memberRelease dev) s = .next t ∧ admitted t dev) ∧
      (cmd → ∃ t, exec (.memberQuarantine dev) s = .next t ∧ has t dev 5 5 ∧ t.dev.raw 23 = true ∧ kept t) ∧
      (cmd → x.depth = d.depth + 1 → x.path = d.cbl.path ++ [x.path.getD 0 false] → ∃ t, exec (.memberIsolate dev) s = .next t ∧
        (∀ y ∈ t.dev.cbl.census, ¬under x.path y.path = true) ∧
        t.dev.fg (CBL_P_STAT_LSTATE (if x.path.getD 0 false then 2 else 1)) = 3 ∧ kept t) ∧
      (cmd → x.depth ≠ d.depth + 1 → ∃ t, exec (.memberIsolate dev) s = .next t ∧ has t dev 7 12 ∧ kept t) ∧
      (cmd → ∃ t, exec (.memberShip dev) s = .next t ∧ (dev, 0, 0) ∈ t.dev.cbl.ship ∧ t.dev.raw 35 = true ∧ kept t) ∧
      (d.isHead = false → exec (.memberRelease dev) s = .next s ∧ exec (.memberQuarantine dev) s = .next s ∧
        exec (.memberIsolate dev) s = .next s ∧ exec (.memberShip dev) s = .next s)) ∧
  (
    ∀ (s : State) (h : LinkHdr) (depth p : Nat) (t0 : Word) (path : List Bool) (j : Nat),
      let d := s.dev
      let at_ := path.take depth
      let kept (t : State) : Prop := t.pending = s.pending ∧ t.dev.mem = d.mem ∧ t.dev.flash = d.flash ∧ t.dev.staged = d.staged
      (d.takes h → d.isHead = true → ∃ t, exec (.lost h depth t0 path) s = .next t ∧ t.dev.raw 22 = true ∧
        t.dev.cbl.census = d.cbl.census.filter (fun m => !under at_ m.path) ∧
        ((∃ m ∈ d.cbl.census, under at_ m.path = true) → t.dev.fg CBL_CENSUS_GEN = (d.fg CBL_CENSUS_GEN + 1) % 0x10000 ∧
          t.dev.fg CBL_CHAIN_COUNT = t.dev.cbl.census.length % 256) ∧ s.acked t h ∧
        t.dev.voices = d.voices ∧ t.dev.ctxs = d.ctxs ∧ kept t) ∧
      (d.takes h → h.dst = 0 → h.port = 0 → d.isMember = true → d.cbl.fade = none → ∃ t, exec (.headlost h) s = .next t ∧
        t.dev.cbl.fade = some 0 ∧ (p = 1 ∨ p = 2 → (d.lport p).joined = true → s.sent t p 0x2A 0xFF d.devid []) ∧
        s.acked t h ∧ s.keepsRegisters t [] ∧ t = { s with dev := { d with cbl := { d.cbl with
          ports := t.dev.cbl.ports, fade := some 0 } } }) ∧
      (d.cbl.fade = some j → 32 ≤ j → d.isMember = true → ∃ t, exec .orphanEntry s = .next t ∧ t.dev.fg CBL_STAT_STATE = 8 ∧
        t.dev.fg CBL_STAT_DEVID = 0 ∧ t.dev.fg CBL_STAT_DEPTH = 0 ∧ t.dev.cbl.orphan = true ∧ t.dev.raw 22 = true ∧
        t.dev.note.pipe = [] ∧ t.dev.note.wait = [] ∧ t.dev.pins.inert = true ∧
        (p < 3 → t.dev.fg (CBL_P_STAT_LSTATE p) = 0 ∧ t.dev.lport p = LPort.idle) ∧
        (∀ v, v < 256 → (t.dev.voice v).cls = clsFree) ∧ kept t) ∧
      (d.cbl.fade = none ∨ (d.cbl.fade = some j ∧ j < 32) → exec .orphanEntry s = .next s))

/-- A chain commit (R81, R83, R84): a member checks its own staging copy, fills its buffer and votes; the head keeps the
votes and the first no; at the deadline GO goes out where every member voted yes and the census stands, else ABORT with
source 34; a member that voted yes takes GO, late where C has passed the sample; ABORT empties the buffer and keeps staging
and epoch. -/
def Obligations.ChainCommitPhases : Prop :=
  ∀ (s : State) (h : LinkHdr) (ep t0 reg : Word) (rule p : Nat) (x : Member),
    let d := s.dev
    let g := d.stg
    let res := d.checkSet d.staged (d.fg AGE_PLAN_VOICES) (d.fg AGE_PLAN_STEP)
    let votes (t : State) (yes rule reg : Nat) : Prop := h.port = 0 → s.sent t 0 0x09 1 d.devid
      (leBytes 4 ep.toNat ++ [BitVec.ofNat 8 yes, BitVec.ofNat 8 rule, 0, 0] ++ leBytes 4 reg)
    let kept (t : State) : Prop := t.pending = s.pending ∧ t.dev.mem = d.mem ∧ t.dev.flash = d.flash ∧ t.dev.staged = d.staged ∧
      t.dev.voices = d.voices ∧ t.dev.reg rSTG_EPOCH = d.reg rSTG_EPOCH
    let polled : Prop := d.takes h ∧ d.isHead = true ∧ d.fg STG_STATUS_CSTATE = 2
    let td := d.tau (g.sample - 1) - w32 d.lchain
    let decides : Prop := d.isHead = true ∧ d.running = true ∧ d.fg STG_STATUS_CSTATE = 2 ∧ later d.now td ≥ 0
    let agreed : Prop := g.noVote = false ∧ d.censusIds = g.census0 ∧ ∀ i ∈ g.census0, i ∈ g.votes
    let yes : Prop := d.takes h ∧ d.isMember = true ∧ g.prepared = true ∧ g.epochT = ep
    (d.takes h → d.isMember = true → d.running = true → res = none → ∃ t, exec (.prepare h ep t0) s = .next t ∧
      t.dev.stg.buffer = some d.staged ∧ t.dev.stg.epochT = ep ∧ t.dev.stg.prepared = true ∧ t.dev.on STG_STATUS_PENDING = true ∧
      t.dev.fg STG_STATUS_CSTATE = 2 ∧ (later (d.tau (d.nearest t0)) (d.tau d.eng.c) ≥ 0 → t.dev.stg.sample = d.nearest t0) ∧
      votes t 1 0 0 ∧ kept t) ∧
    (d.takes h → d.isMember = true → d.running = true → ∀ r, res = some r → ∃ t, exec (.prepare h ep t0) s = .next t ∧
      t.dev.stg = g ∧ t.dev.fg STG_STATUS_RULE = r.1 % 256 ∧ t.dev.fg STG_STATUS_RESULT = 2 ∧ votes t 0 r.1 r.2 ∧ kept t) ∧
    (polled → g.epochT = ep → ∃ t, exec (.vote h ep true rule reg) s = .next t ∧ t.dev.stg = { g with votes := h.src :: g.votes } ∧
      s.keepsRegisters t [] ∧ kept t) ∧
    (polled → g.epochT = ep → g.noVote = false → ∃ t, exec (.vote h ep false rule reg) s = .next t ∧
      t.dev.stg = { g with noVote := true } ∧ t.dev.fg STG_CHAIN_DEVID = h.src % 256 ∧ t.dev.fg STG_CHAIN_RULE = rule % 256 ∧
      s.keepsRegisters t [rSTG_CHAIN] ∧ kept t) ∧
    (polled → g.epochT ≠ ep → d.member h.src = some x → ∃ t, exec (.vote h ep true rule reg) s = .next t ∧ t.dev.stg = g ∧
      t.dev.raw 23 = true ∧ (∃ y ∈ t.dev.cbl.census, y.id = h.src ∧ y.state = 5 ∧ y.reason = 2) ∧ kept t) ∧
    (decides → agreed → ∃ t, exec .chainCommitDeadline s = .next t ∧ t.dev.fg STG_STATUS_CSTATE = 3 ∧ t.dev.stg.goGot = true ∧
      (p = 1 ∨ p = 2 → (d.lport p).joined = true → s.sent t p 0x0A 0xFF d.devid (leBytes 4 g.epochT.toNat)) ∧ kept t) ∧
    (decides → ¬agreed → ∃ t, exec .chainCommitDeadline s = .next t ∧ t.dev.raw 34 = true ∧ t.dev.stg.buffer = none ∧
      (p = 1 ∨ p = 2 → (d.lport p).joined = true → s.sent t p 0x0B 0xFF d.devid (leBytes 4 g.epochT.toNat)) ∧ kept t) ∧
    (¬decides → exec .chainCommitDeadline s = .next s) ∧
    (yes → later g.sample d.eng.c ≥ 0 → ∃ t, exec (.go h ep) s = .next t ∧ t.dev.stg = { g with goGot := true } ∧
      t.dev.fg STG_STATUS_CSTATE = 3 ∧ t.dev.fg STG_STATUS_LATE = d.fg STG_STATUS_LATE ∧ s.keepsRegisters t [rSTG_STATUS] ∧ kept t) ∧
    (yes → later g.sample d.eng.c < 0 → ∃ t, exec (.go h ep) s = .next t ∧ t.dev.stg.goGot = true ∧
      t.dev.stg.sample = d.eng.c ∧ t.dev.fg STG_STATUS_CSTATE = 3 ∧ t.dev.fg STG_STATUS_LATE = 1 ∧ t.dev.raw 23 = true ∧
      t.dev.fg (EVT_COUNT_TOTAL 13) = min (d.fg (EVT_COUNT_TOTAL 13) + 1) 0xFFFF ∧ kept t) ∧
    (d.takes h → d.isMember = true → ∃ t, exec (.abort h ep) s = .next t ∧ t.dev.raw 34 = true ∧
      (g.epochT = ep → t.dev.stg.buffer = none ∧ (g.buffer.isSome = true → t.dev.on STG_STATUS_PENDING = false)) ∧ kept t)

/-- Register access over the link (R394): a member performs the access as its own and answers, with status 1 where its mode
rules apply; the head answers the host with what the member returned, or goes on with the next access; no response within 2
ms is status 3. Image shipping (R388): a piece joins what is held, its first byte starts it anew with source 35; a member
whose voices are all free loads the whole image: on success it is in state LOCKING with the shipped version, slot 3 and no
ship code, on failure it is isolated with reason 11 and the code shows. Journal and flash stay. -/
def Obligations.LinkRegisterAccessAndShipping : Prop :=
  (
    ∀ (s : State) (h : LinkHdr) (addr v : Word) (tag st q : Nat) (w : HostWait) (b : Nat) (u : Word) (x : Bool) (todo : List (Bool × Nat × Word)),
      let d := s.dev
      let a := addr.toNat / 4 * 4
      let answers (t : State) (st : Byte) (v : Word) : Prop :=
        s.sent t 0 0x05 1 d.devid ([BitVec.ofNat 8 tag, st, 0, 0] ++ leBytes 4 v.toNat)
      let member : Prop := d.takes h ∧ h.port = 0 ∧ d.isMember = true
      let head : Prop := d.takes h ∧ d.isHead = true ∧ d.host.wait = some w ∧ (tag, h.src) ∈ d.cbl.reqs
      let got (r : Bool) : List Word := if r then w.got ++ [v] else w.got
      let status := max w.st st
      (member → a < 0x150000 → d.ruled a = false → ∃ t, exec (.regReq h tag false addr v) s = .next t ∧ answers t 0 (d.peek a) ∧
        t.pending = s.pending ∧ t.dev.mem = d.mem ∧ t.dev.flash = d.flash) ∧
      (member → d.ruled a = true → ∃ t, exec (.regReq h tag false addr v) s = .next t ∧ answers t 1 0 ∧ s.acked t h ∧
        s.keepsRegisters t [] ∧ t = { s with dev := { d with cbl := t.dev.cbl } }) ∧
      (member → a / 0x10000 = 3 → a ≠ rNOTE_STAT → (regAt a).isSome = true → isStaged a = false →
        ∃ t, exec (.regReq h tag true addr v) s = .next t ∧ answers t 0 0 ∧
          t.dev.reg a = (regFields a).foldl (fieldWrite a d.lkOpen v) (d.reg a) ∧ s.keepsRegisters t [a] ∧
          t = { s with dev := { d with live := t.dev.live, cbl := t.dev.cbl } }) ∧
      (head → w.todo = [(x, b, u)] → w.again = 0 → ∃ t, exec (.regRsp h tag st v) s = .next t ∧ t.dev.host.wait = none ∧
        (tag, h.src) ∉ t.dev.cbl.reqs ∧ (t.dev.uart 4).txq = (d.uart 4).txq ++ swilum w.tag (w.op % 128 + 128) w.dev
          (BitVec.ofNat 8 status :: (got (!x)).flatMap fun y => leBytes 4 y.toNat)) ∧
      (head → ∀ y z, w.todo = y :: z :: todo → ∃ t, exec (.regRsp h tag st v) s = .next t ∧
        t.dev.host.wait = some { w with todo := z :: todo, got := got (!y.1), st := status } ∧
        t.dev.cbl.reqTag = (d.cbl.reqTag + 1) % 256 ∧
        (d.portTo w.dev = some q → (d.lport q).joined = true → s.sent t q 0x04 w.dev d.devid
          ([BitVec.ofNat 8 d.cbl.reqTag, if z.1 then 1 else 0, 0, 0] ++ leBytes 4 z.2.1 ++ leBytes 4 z.2.2.toNat))) ∧
      (d.alive = true → d.host.wait = some w → w.again = 0 → (tag, b) ∈ d.cbl.reqs → ∃ t, exec (.memberResponseTimeout tag) s = .next t ∧
        t.dev.host.wait = none ∧ (∀ r ∈ t.dev.cbl.reqs, r.1 ≠ tag) ∧
        (t.dev.uart 4).txq = (d.uart 4).txq ++ swilum w.tag (w.op % 128 + 128) d.devid [3]) ∧
      ((∀ r ∈ d.cbl.reqs, r.1 ≠ tag) → exec (.memberResponseTimeout tag) s = .next s)) ∧
  (
    ∀ (s : State) (h : LinkHdr) (offset : Nat) (data : List Byte) (env : BootEnv),
      let d := s.dev
      let ready : Prop := d.isMember = true ∧ d.running = true ∧ d.allFree = true ∧ d.imgWhole = true ∧ d.imgSecond = false
      let kept (t : State) : Prop := t.pending = s.pending ∧ t.dev.flash = d.flash ∧ t.dev.nvj = d.nvj ∧ t.dev.fuses = d.fuses ∧
        t.dev.cbl.img = [] ∧ t.dev.cbl.imgEnd = 0
      (d.takes h → d.isMember = true → d.fg CBL_POL0_SHIP ≠ 2 → ∃ t, exec (.img h offset data) s = .next t ∧ s.acked t h ∧
        (∀ i, i < data.length → tget 0xFF t.dev.cbl.img (offset + i) = data.getD i 0) ∧
        (∀ a, a < offset ∨ offset + data.length ≤ a → tget 0xFF t.dev.cbl.img a = if offset = 0 then 0xFF else tget 0xFF d.cbl.img a) ∧
        t.dev.cbl.imgEnd = (if offset = 0 then 0 else d.cbl.imgEnd) + data.length ∧ (offset = 0 → t.dev.raw 35 = true) ∧
        s.keepsRegisters t [] ∧ t.dev.flash = d.flash ∧ t.dev.mem = d.mem) ∧
      (ready → env.stockBad = false → ∀ e, d.shipLoad = .ok e → ∃ t, exec (.imageLoad env) s = .next t ∧ t.dev.fg CBL_STAT_STATE = 3 ∧
        t.dev.fg CBL_CENSUS_SHIPCODE = 0 ∧ t.dev.fg STG_BOOT_SLOT = 3 ∧ t.dev.reg rSTG_IMGVER = w32 (le d.imgHead 0xC 4) ∧ kept t) ∧
      (ready → env.stockBad = false → ∀ c, d.shipLoad = .error c → ∃ t, exec (.imageLoad env) s = .next t ∧
        t.dev.fg CBL_STAT_STATE = 7 ∧ t.dev.fg CBL_STAT_REASON = 11 ∧ t.dev.fg CBL_CENSUS_SHIPCODE = c % 256 ∧
        t.dev.fg (CBL_P_STAT_LSTATE 0) = 3 ∧ t.dev.pins.inert = true ∧ kept t) ∧
      (¬ready → exec (.imageLoad env) s = .next s))

/-! ### Time and the network (chapter 14) -/

/-- A time domain (R408 to R410, R412): the eighth good Sync in a row locks it, and a domain that locks while none is active
becomes active and takes its difference from chain time; a poor Sync begins the count anew; another grandmaster, a timeout,
or a port no longer capable returns it to Listening; a Sync of a domain that is off does nothing. -/
def Obligations.TimeDomainsLockAndAreLost : Prop :=
  ∀ (s : State) (k gm : Nat) (m : SyncMeas) (ns : Int),
    let d := s.dev
    let x := d.dom k
    let up : Prop := d.netUp = true ∧ k < 2 ∧ d.on (NET_DOM_CFG_EN k) = true
    let open_ : Prop := up ∧ d.net.capable = true ∧ d.domLocked k = false
    let local_ : Prop := (d.isHead && d.fg TIME_CTRL_SRC == 1) = false
    let rest (t : State) : Prop := t.pending = s.pending ∧ t.dev.mem = d.mem ∧ t.dev.flash = d.flash ∧ t.dev.ctxs = d.ctxs ∧
      t.dev.voices = d.voices ∧ t.dev.note = d.note
    let listens (t : State) : Prop := (t.dev.dom k).good = 0 ∧ t.dev.fg (NET_DOM_STAT_STATE k) = 1 ∧ rest t
    (open_ → local_ → x.good = 7 → m.resid.natAbs ≤ 1000 → ∃ t, exec (.gptpSync k m) s = .next t ∧
      t.dev.fg (NET_DOM_STAT_STATE k) = 2 ∧ (t.dev.dom k).good = 8 ∧ (t.dev.dom k).time = m.domTime ∧
      (t.dev.dom k).atC = d.time.c ∧ t.dev.reg (rNET_DOM_ADJ k) = w32i m.adj ∧
      (d.net.active = none → d.domLocked (1 - k) = false → x.hasDiff = false → t.dev.net.active = some k ∧
        t.dev.reg (rNET_DOM_DIFF k) = w32i m.domTime - d.now) ∧ rest t) ∧
    (open_ → x.good < 7 → m.resid.natAbs ≤ 1000 → ∃ t, exec (.gptpSync k m) s = .next t ∧
      t.dev.fg (NET_DOM_STAT_STATE k) = 1 ∧ (t.dev.dom k).good = x.good + 1 ∧ rest t) ∧
    (open_ → 1000 < m.resid.natAbs → ∃ t, exec (.gptpSync k m) s = .next t ∧
      t.dev.fg (NET_DOM_STAT_STATE k) = 1 ∧ (t.dev.dom k).good = 0 ∧ rest t) ∧
    (¬up ∨ d.net.capable = false → exec (.gptpSync k m) s = .next s) ∧
    (up → x.gm ≠ 0 → gm ≠ x.gm → ∃ t, exec (.announce k gm) s = .next t ∧ (t.dev.dom k).gm = gm ∧ listens t) ∧
    (up → x.gm = 0 ∨ gm = x.gm → ∃ t, exec (.announce k gm) s = .next t ∧ t.dev.dom k = { x with gm := gm } ∧
      (∀ q, q ≠ k → t.dev.dom q = d.dom q) ∧ t = { s with dev := { d with net := { d.net with doms := t.dev.net.doms } } }) ∧
    (up → ∃ t, exec (.domainLost k) s = .next t ∧ listens t) ∧
    (up → ∃ t, exec (.peerDelay false ns) s = .next t ∧ t.dev.net.capable = false ∧ listens t) ∧
    (d.netUp = true → exec (.peerDelay true ns) s =
      .next { s with dev := { d with net := { d.net with capable := true, peerNs := ns } } })

/-- The step of chain time (R401, R402): every clock reading and every stamp moves by the same amount, the active domain's
time then equals chain time, and source 26 is raised. A head that has no step due does nothing. The alarm, the counter read
and the extension anchor (R405, R413, R421): the alarm sets ALM and switches itself off, once chain time has reached it; a
read of the low word latches the high word and chain time; the anchor moves on by whole seconds of chain time where no
domain has stepped it, and its sequence by 2. -/
def Obligations.ChainTimeStepsAlarmsAndAnchors : Prop :=
  (
    ∀ (s : State) (k : Nat),
      let d := s.dev
      let n := w32i (d.domTime k) - d.now
      (d.time.pendStep = some k → d.alive = true → d.isHead = true → d.time.cold = none → ∃ t, exec .timeStep s = .next t ∧
        t.dev.now = d.now + n ∧ t.dev.reg rTIME_STEP = n ∧ t.dev.on TIME_STAT_STEPPED = true ∧ t.dev.raw 26 = true ∧
        t.dev.time.pendStep = none ∧ t.dev.time.c = d.time.c ∧ t.dev.eng.tau0 = d.eng.tau0 + n ∧ t.dev.reg (rNET_DOM_DIFF k) = 0 ∧
        t.dev.note.pipe.map (·.ev.stamp) = d.note.pipe.map (fun p => p.ev.stamp + n) ∧
        (∀ v, v < 256 → (t.dev.voice v).onStamp =
          if (d.voice v).cls = clsFree then (d.voice v).onStamp else (d.voice v).onStamp + n) ∧
        t.dev.reg rTIME_ALARM = d.reg rTIME_ALARM + n ∧
        t.dev.reg rSTG_AT = (if d.on STG_STATUS_PENDING then d.reg rSTG_AT + n else d.reg rSTG_AT) ∧
        s.keepsRegisters t [rTIME_STEP, rTIME_STAT, rTIME_ALARM, rSTG_AT, rNET_DOM_DIFF k] ∧
        t.pending = s.pending ∧ t.dev.mem = d.mem ∧ t.dev.ctxs = d.ctxs) ∧
      (d.time.pendStep = none → exec .timeStep s = .next s)) ∧
  (
    ∀ (s : State),
      let d := s.dev
      let due : Prop := d.on TIME_CTRL_ALARM_EN = true ∧ d.pwr.mode ≠ .shelf ∧ later d.now (d.reg rTIME_ALARM) ≥ 0
      let only (t : State) (l : List Nat) : Prop := s.keepsRegisters t l ∧ t = { s with dev := { d with live := t.dev.live } }
      let sec (e : Dev) : Nat := e.fg TIME_EXTH_SECH * 2 ^ 32 + (e.reg rTIME_EXTS).toNat
      let gap := later d.now (d.reg rTIME_EXTC)
      let q := gap.toNat / 1000000000
      (due → d.pwr.mode ≠ .rest → ∃ t, exec .alarm s = .next t ∧ t.dev.on TIME_STAT_ALM = true ∧
        t.dev.on TIME_CTRL_ALARM_EN = false ∧ only t [rTIME_STAT, rTIME_CTRL]) ∧
      (due → d.pwr.mode = .rest → d.pwr.frozen = false → d.pwr.shelf = .no → bitOf (d.reg rSYS_WAKE_EN) 10 = true →
        ∃ t, exec .alarm s = .next t ∧ t.dev.on TIME_STAT_ALM = true ∧ t.dev.pwr.mode = .run ∧
          bitOf (t.dev.reg rSYS_WAKE_SRC) 10 = true ∧ t.dev.raw 62 = true) ∧
      (¬due → exec .alarm s = .next s) ∧
      (d.hears = true → ∃ t, exec .timeCntlRead s = .next t ∧ t.dev.reg rTIME_CNTL = w32 d.time.c ∧
        t.dev.reg rTIME_CNTH = w32 (d.time.c / 2 ^ 32) ∧ t.dev.reg rTIME_SNAP = d.now ∧
        only t [rTIME_CNTL, rTIME_CNTH, rTIME_SNAP]) ∧
      (d.alive = true → d.net.active = none ∨ d.on TIME_STAT_STEPPED = false → 0 ≤ gap → sec d + q < 2 ^ 48 →
        ∃ t, exec .extensionAnchor s = .next t ∧ sec t.dev = sec d + q ∧
          t.dev.reg rTIME_EXTC = d.reg rTIME_EXTC + w32 (q * 1000000000) ∧
          t.dev.fg TIME_EXTH_SEQ = (d.fg TIME_EXTH_SEQ + 2) % 0x10000 ∧ only t [rTIME_EXTC, rTIME_EXTS, rTIME_EXTH]) ∧
      (d.alive = false → exec .extensionAnchor s = .next s))

/-- Talkers and listeners (R406, R416 to R418, R420): a due talker with Listener Ready, or with NOSRP, launches its next
frame with its sequence number and avtp_timestamp; without Ready the frame is discarded and counted; a listener drops
untagged frames, counts and reports a wrong format or a repeated sequence number, and keeps the presentation time of one it
accepts. Links, reservations and timeouts of the network (R406, R417, R420): a change of the link shows in NET_STAT and
raises source 59; MSRP sets a stream's READY and SRPFAIL, and a new Talker Failed is a fault; MVRP joins the VLAN of an
enabled stream; a started listener that hears nothing shows TIMEOUT and raises source 60. -/
def Obligations.StreamsAndReservations : Prop :=
  (
    ∀ (s : State) (n : Nat) (credit : Bool) (f : AvtpFrame),
      let d := s.dev
      let x := d.stream n
      let spf := d.fg (NET_STREAM_SPF n)
      let due : Prop := d.netUp = true ∧ n < 4 ∧ x.started = true ∧ later d.now (d.launchAt n) ≥ -8
      let ready : Prop := d.on (NET_STREAM_NOSRP n) = true ∨ d.on (NET_STREAM_STAT_READY n) = true
      let fits : Prop := f.tagged = true ∧ d.listens n f = true ∧ d.formatFits n f = true
      let fault (t : State) : Prop := t.dev.fg (EVT_COUNT_TOTAL 21) = min (d.fg (EVT_COUNT_TOTAL 21) + 1) 0xFFFF
      let only (t : State) (l : List Nat) : Prop := s.keepsRegisters t l ∧ (∀ k, k ≠ n → t.dev.stream k = d.stream k) ∧
        t = { s with dev := { d with live := t.dev.live, free := t.dev.free, evt := t.dev.evt, net := t.dev.net } }
      (due → ready → ∃ t, exec (.talkerLaunch n credit) s = .next t ∧ only t [rNET_CNT] ∧
        (t.dev.stream n).seq = (x.seq + 1) % 256 ∧ (t.dev.stream n).nextO = x.nextO + spf ∧
        (t.dev.stream n).sent = [(x.seq, d.presentAt n + d.domDiff n, d.talkerSamples n)] ∧
        t.dev.fg NET_CNT_DELAYED = (if credit then d.fg NET_CNT_DELAYED else min (d.fg NET_CNT_DELAYED + 1) 0xFFFF)) ∧
      (due → ¬ready → ∃ t, exec (.talkerLaunch n credit) s = .next t ∧ only t [rNET_STREAM_CNT n] ∧ fault t ∧
        (t.dev.stream n).seq = x.seq ∧ (t.dev.stream n).sent = x.sent ∧ (t.dev.stream n).nextO = x.nextO + spf ∧
        t.dev.fg (NET_STREAM_CNT_FMT n) = min (d.fg (NET_STREAM_CNT_FMT n) + 1) 0xFF) ∧
      (¬due → exec (.talkerLaunch n credit) s = .next s) ∧
      (d.netUp = true → f.tagged = false → ∃ t, exec (.avtpFrame n f) s = .next t ∧
        t.dev.fg NET_CNT_RXDROP = min (d.fg NET_CNT_RXDROP + 1) 0xFFFF ∧ only t [rNET_CNT]) ∧
      (d.netUp = true → f.tagged = true → d.listens n f = true → d.formatFits n f = false → ∃ t, exec (.avtpFrame n f) s = .next t ∧
        t.dev.fg (NET_STREAM_CNT_FMT n) = min (d.fg (NET_STREAM_CNT_FMT n) + 1) 0xFF ∧ fault t ∧ t.dev.stream n = x ∧
        only t [rNET_STREAM_CNT n]) ∧
      (d.netUp = true → fits → x.lastSeq = some f.seq → f.seq < 256 → ∃ t, exec (.avtpFrame n f) s = .next t ∧
        t.dev.fg (NET_STREAM_CNT_DUP n) = min (d.fg (NET_STREAM_CNT_DUP n) + 1) 0xFF ∧ fault t ∧ t.dev.stream n = x ∧
        only t [rNET_STREAM_CNT n]) ∧
      (d.netUp = true → fits → f.tv = true → x.lastSeq = none → ∃ t, exec (.avtpFrame n f) s = .next t ∧
        (t.dev.stream n).lastSeq = some f.seq ∧ (t.dev.stream n).lastPt = f.timestamp - d.domDiff n ∧
        (t.dev.stream n).nextO = x.nextO ∧ only t [rNET_STREAM_CNT n])) ∧
  (
    ∀ (s : State) (up ready failed : Bool) (speed n vid : Nat),
      let d := s.dev
      let fault (t : State) : Prop := t.dev.fg (EVT_COUNT_TOTAL 21) = min (d.fg (EVT_COUNT_TOTAL 21) + 1) 0xFFFF
      let only (t : State) (l : List Nat) : Prop := s.keepsRegisters t l ∧
        t = { s with dev := { d with live := t.dev.live, evt := t.dev.evt } }
      (d.netUp = true → d.on NET_STAT_LINK ≠ up → ∃ t, exec (.networkLinkChange up speed) s = .next t ∧
        t.dev.on NET_STAT_LINK = up ∧ t.dev.raw 59 = true ∧ (up = true → speed < 3 → t.dev.fg NET_CTRL_SPEED = speed) ∧
        only t [rNET_STAT, rNET_CTRL]) ∧
      (d.on NET_STAT_LINK = up → exec (.networkLinkChange up speed) s = .next s) ∧
      (d.netUp = true → n < 8 → d.on (NET_STREAM_EN n) = true → ∃ t, exec (.msrp n ready failed) s = .next t ∧
        t.dev.on (NET_STREAM_STAT_READY n) = ready ∧ t.dev.on (NET_STREAM_STAT_SRPFAIL n) = failed ∧
        (failed = true → d.on (NET_STREAM_STAT_SRPFAIL n) = false → fault t) ∧ only t [rNET_STREAM_STAT n]) ∧
      (d.netUp = true → (∃ k, k < 8 ∧ d.on (NET_STREAM_EN k) = true ∧ d.fg (NET_STREAM_VID k) = vid) → ∃ t,
        exec (.mvrp vid true) s = .next t ∧ vid ∈ t.dev.net.vlans ∧ (∀ w, w ≠ vid → (w ∈ t.dev.net.vlans ↔ w ∈ d.net.vlans)) ∧
        t = { s with dev := { d with net := { d.net with vlans := t.dev.net.vlans } } }) ∧
      (d.netUp = true → ∃ t, exec (.mvrp vid false) s = .next t ∧ vid ∉ t.dev.net.vlans ∧
        (∀ w, w ≠ vid → (w ∈ t.dev.net.vlans ↔ w ∈ d.net.vlans)) ∧
        t = { s with dev := { d with net := { d.net with vlans := t.dev.net.vlans } } }) ∧
      (d.netUp = true → 4 ≤ n → n < 8 → (d.stream n).started = true → ∃ t, exec (.streamTimeout n) s = .next t ∧
        t.dev.on (NET_STREAM_STAT_TIMEOUT n) = true ∧ fault t ∧ only t [rNET_STREAM_STAT n]) ∧
      (d.netUp = false → exec (.streamTimeout n) s = .next s ∧ exec (.mvrp vid true) s = .next s ∧
        exec (.msrp n ready failed) s = .next s))

/-! ### UARTs and the host port (chapter 15) -/

/-- One character on a MIDI receiver (R423 to R428): with its start bit low and its stop bit high, the eight data bits, each
the majority of three samples and the least significant first, join the receive queue with the times of the start edge and
of the judged stop bit; samples that disagree are noise, counted apart; a full queue loses the byte as an overrun. Frames on
the host port (R432 to R434): the last byte of a frame with a correct CRC makes it stand whole and leaves nothing of it in
the search; a wrong CRC is counted, source 16, and the search goes on behind the SOF; a pause between bytes discards the
partial frame's SOF and is counted. -/
def Obligations.ReceivedCharactersAndFrames : Prop :=
  (
    ∀ (s : State) (n : Nat) (start : Word) (bits : List Samples),
      let d := s.dev
      let bit (i : Nat) : Bool := samplesMaj (charBit bits i)
      let noise : Prop := ∃ i, 1 ≤ i ∧ i < 10 ∧ samplesNoisy (charBit bits i) = true
      let q := (d.uart n).rxq
      n < 4 → d.receives n = true → bit 0 = false → bit 9 = true →
      ∃ t, exec (.character n start bits) s = .next t ∧
        (q.length < 16 → ∃ x : Byte, (t.dev.uart n).rxq = q ++ [(x, start, start + w32 (1530 * d.fg (UART_CFG_DIV n)))] ∧
          (∀ i, i < 8 → x.getLsbD i = bit (i + 1)) ∧ t.dev.fg (UART_CNT_OVR n) = d.fg (UART_CNT_OVR n) ∧
          s.keepsRegisters t [rUART_STAT n, rUART_CNT n]) ∧
        (16 ≤ q.length → (t.dev.uart n).rxq = q ∧ t.dev.on (UART_STAT_OVR n) = true ∧
          t.dev.fg (UART_CNT_OVR n) = min (d.fg (UART_CNT_OVR n) + 1) 0xFF ∧
          t.dev.fg (EVT_COUNT_TOTAL (8 + n)) = min (d.fg (EVT_COUNT_TOTAL (8 + n)) + 1) 0xFFFF ∧
          s.keepsRegisters t [rUART_STAT n, rUART_CNT n, rNOTE_CNT0]) ∧
        (noise → t.dev.on (UART_STAT_NOISE n) = true ∧ t.dev.fg (UART_CNT_NOISE n) = min (d.fg (UART_CNT_NOISE n) + 1) 0xFF) ∧
        (¬noise → t.dev.on (UART_STAT_NOISE n) = d.on (UART_STAT_NOISE n) ∧ t.dev.fg (UART_CNT_NOISE n) = d.fg (UART_CNT_NOISE n)) ∧
        (∀ k, k ≠ n → t.dev.uart k = d.uart k) ∧ (∀ a, t.dev.rb a = d.rb a) ∧
        t = { s with dev := { d with live := t.dev.live, evt := t.dev.evt, uarts := t.dev.uarts } }) ∧
  (
    ∀ (s : State) (start : Word) (bits : List Samples) (x : Byte),
      let d := s.dev
      let l := d.host.part
      let whole := l.map (·.1) ++ [x]
      let len := leNat ((whole.drop 1).take 2)
      let clean : Prop := samplesMaj (charBit bits 0) = false ∧ samplesMaj (charBit bits 9) = true ∧
        ∀ i, i < 8 → x.getLsbD i = samplesMaj (charBit bits (i + 1))
      let good : Prop := crc16 ((whole.drop 1).take (5 + len)) = leNat (whole.drop (6 + len))
      (d.receives 4 = true → clean → d.host.frame = none → (d.uart 4).rxq = [] → whole.headD 0 = 0xA5 → 3 ≤ l.length → len ≤ 1024 →
        whole.length = 8 + len → good → ∃ t, exec (.character 4 start bits) s = .next t ∧
          (t.dev.host.frame.map fun f => f.map (·.1)) = some whole ∧ t.dev.host.part = [] ∧ (t.dev.uart 4).rxq = [] ∧
          t.pending = s.pending ∧ t.dev.mem = d.mem ∧ t.dev.flash = d.flash) ∧
      (d.receives 4 = true → clean → d.host.frame = none → (d.uart 4).rxq = [] → whole.headD 0 = 0xA5 → 3 ≤ l.length → len ≤ 1024 →
        whole.length = 8 + len → ¬good → (∀ b ∈ whole.drop 1, b ≠ 0xA5) → ∃ t, exec (.character 4 start bits) s = .next t ∧
          t.dev.host.frame = none ∧ t.dev.host.part = [] ∧ t.dev.fg UART_HCNT_CRC = min (d.fg UART_HCNT_CRC + 1) 0xFFFF ∧
          t.dev.fg (EVT_COUNT_TOTAL 12) = min (d.fg (EVT_COUNT_TOTAL 12) + 1) 0xFFFF ∧ t.pending = s.pending) ∧
      (d.receives 4 = true → d.host.frame = none → l ≠ [] → ∃ t, exec .interByteTimeout s = .next t ∧
        t.dev.fg UART_HCNT_TOUT = min (d.fg UART_HCNT_TOUT + 1) 0xFFFF ∧ t.pending = s.pending ∧ t.dev.mem = d.mem ∧
        t.dev.flash = d.flash) ∧
      (l = [] ∨ d.host.frame.isSome = true → exec .interByteTimeout s = .next s))

/-- Framing errors, breaks and dead lines (R425, R427, R92): a low stop bit discards the character as FERR, or as a break
where every data bit is low; a line still low after ten character times is dead and raises its source; a dead line leaves
that state after 1 ms of high level. A receiver that is off, or dead, takes nothing. Transmitting (R424, R431): the oldest
byte of an enabled transmitter's queue leaves; the host's waits while CTS is high and CTSEN is 1; a divider written
meanwhile takes effect behind the last character. With nothing to send a written divider is taken at once, and 0 is not
allowed. -/
def Obligations.BreaksDeadLinesAndTransmission : Prop :=
  (
    ∀ (s : State) (n : Nat) (start : Word) (bits : List Samples),
      let d := s.dev
      let bit (i : Nat) : Bool := samplesMaj (charBit bits i)
      let low : Prop := ∀ i, i < 8 → bit (i + 1) = false
      let off : Prop := d.receives n = false
      let src : Nat := if n = 4 then 16 else 8 + n
      let idx : Nat := if n = 4 then 12 else 8 + n
      let raised (t : State) : Prop := t.dev.fg (EVT_COUNT_TOTAL idx) = min (d.fg (EVT_COUNT_TOTAL idx) + 1) 0xFFFF ∧
        (src ∉ d.evt.hold → t.dev.raw src = true)
      let frame (t : State) (l : List Nat) : Prop := s.keepsRegisters t l ∧
        t = { s with dev := { d with live := t.dev.live, evt := t.dev.evt, uarts := t.dev.uarts } }
      (d.receives n = true → bit 0 = false → bit 9 = false → ¬low → ∃ t, exec (.character n start bits) s = .next t ∧
        t.dev.on (UART_STAT_FERR n) = true ∧ t.dev.fg (UART_CNT_FERR n) = min (d.fg (UART_CNT_FERR n) + 1) 0xFF ∧ raised t ∧
        (t.dev.uart n).rxq = (d.uart n).rxq ∧ (t.dev.uart n).lowPeriod = false ∧ frame t [rUART_STAT n, rUART_CNT n]) ∧
      (d.receives n = true → bit 0 = false → bit 9 = false → low → ∃ t, exec (.character n start bits) s = .next t ∧
        t.dev.on (UART_STAT_BRK n) = true ∧ t.dev.fg (UART_CNT_BRK n) = min (d.fg (UART_CNT_BRK n) + 1) 0xFF ∧ raised t ∧
        (t.dev.uart n).rxq = (d.uart n).rxq ∧ (t.dev.uart n).lowPeriod = true ∧ frame t [rUART_STAT n, rUART_CNT n]) ∧
      (d.receives n = true → bit 0 = true → exec (.character n start bits) s = .next s) ∧
      (d.receives n = true → (d.uart n).lowPeriod = true → ∃ t, exec (.lineDead n) s = .next t ∧
        t.dev.on (UART_STAT_DEAD n) = true ∧ t.dev.raw (if n = 4 then 17 else 12 + n) = true ∧ (n = 4 → t.dev.host.part = []) ∧
        t.pending = s.pending ∧ t.dev.mem = d.mem ∧ t.dev.flash = d.flash) ∧
      (n < 5 → d.hears = true → d.pwr.frozen = false → d.on (UART_STAT_DEAD n) = true → ∃ t, exec (.lineDeadExit n) s = .next t ∧
        t.dev.on (UART_STAT_DEAD n) = false ∧ t.dev.uart n = { d.uart n with lowPeriod := false } ∧ s.keepsRegisters t [rUART_STAT n] ∧
        (∀ k, k ≠ n → t.dev.uart k = d.uart k) ∧
        t = { s with dev := { d with live := t.dev.live, uarts := t.dev.uarts } }) ∧
      (off → exec (.character n start bits) s = .next s ∧ exec (.lineDead n) s = .next s) ∧
      (d.on (UART_STAT_DEAD n) = false → exec (.lineDeadExit n) s = .next s)) ∧
  (
    ∀ (s : State) (n div : Nat) (cts : Bool) (b : Byte) (rest : List Byte),
      let d := s.dev
      let u := d.uart n
      let may : Prop := d.transmits n = true ∧ ¬(n = 4 ∧ cts = true ∧ d.on UART_HCFG_CTSEN = true)
      let frame (t : State) (l : List Nat) : Prop := s.keepsRegisters t l ∧ (∀ k, k ≠ n → t.dev.uart k = d.uart k) ∧
        t = { s with dev := { d with live := t.dev.live, uarts := t.dev.uarts } }
      (u.txq = b :: rest → may → ∃ t, exec (.transmitCharacter n cts) s = .next t ∧ frame t [rUART_STAT n, rUART_CFG n] ∧
        (t.dev.uart n).tx = some b ∧ (t.dev.uart n).txq = rest ∧ (t.dev.uart n).rxq = u.rxq ∧
        (rest = [] → (t.dev.uart n).divWait = none ∧
          t.dev.fg (UART_CFG_DIV n) = (match u.divWait with
            | some v => v % 65536
            | none => d.fg (UART_CFG_DIV n))) ∧
        (rest ≠ [] → (t.dev.uart n).divWait = u.divWait ∧ t.dev.reg (rUART_CFG n) = d.reg (rUART_CFG n))) ∧
      (u.txq = b :: rest → ¬may → exec (.transmitCharacter n cts) s = .next s) ∧
      (u.txq = [] → exec (.transmitCharacter n cts) s = .next s) ∧
      (d.hears = true → n < 5 → 0 < div → div < 65536 → u.txq = [] → ∃ t, exec (.uartDividerWrite n div) s = .next t ∧
        t.dev.fg (UART_CFG_DIV n) = div ∧ t.dev.on (UART_CFG_EN n) = d.on (UART_CFG_EN n) ∧
        t.dev.uart n = { u with divWait := none } ∧ frame t [rUART_CFG n]) ∧
      (d.hears = true → n < 5 → 0 < div → div < 65536 → u.txq ≠ [] → ∃ t, exec (.uartDividerWrite n div) s = .next t ∧
        t.dev.uart n = { u with divWait := some div } ∧ frame t []) ∧
      (exec (.uartDividerWrite n 0) s = .next s))

/-- Frames on the host port (R115, R434, R435, R525), for every host command: a bad CRC is counted, source 16, with no
answer; a repeated tag gets the cached response and is counted, one that still executes is only noted; with another command
waiting or no room for the response the frame waits; a device that is not there answers 2, a mode that does not permit the
command 1. -/
def Obligations.HostFramesAreAnswered : Prop :=
  ∀ (s : State) (c : Instr) (h : HostHdr) (op room : Nat), hostFrame c = some (h, op, room) →
    let d := s.dev
    let other (w : HostWait) : Prop := d.host.wait = some w ∧ ¬(w.tag = h.tag ∧ h.tag ≠ 0)
    (d.listening → h.ok = false → ∃ t, exec c s = .next t ∧ t.dev.fg UART_HCNT_CRC = min (d.fg UART_HCNT_CRC + 1) 0xFFFF ∧
      t.dev.fg (EVT_COUNT_TOTAL 12) = min (d.fg (EVT_COUNT_TOTAL 12) + 1) 0xFFFF ∧ s.onlyHost t [] ∧ t.dev.uarts = d.uarts ∧
      t.dev.host = d.host) ∧
    (d.listening → h.ok = true → ∀ w, d.host.wait = some w → w.tag = h.tag → h.tag ≠ 0 → ∃ t, exec c s = .next t ∧
      t.dev.host.wait = some { w with again := w.again + 1 } ∧ (t.dev.uart 4).txq = (d.uart 4).txq ∧ s.onlyHost t []) ∧
    (d.listening → h.ok = true → ∀ w, other w → exec c s = .next s) ∧
    (d.listening → h.ok = true → d.host.wait = none → h.tag ≠ 0 → ∀ e, d.host.cache.find? (fun e => e.1 == h.tag) = some e →
      (d.txRoom (e.2.length - 9) = true → ∃ t, exec c s = .next t ∧ (t.dev.uart 4).txq = (d.uart 4).txq ++ e.2 ∧
        t.dev.fg NOTE_CNT0_DUP = min (d.fg NOTE_CNT0_DUP + 1) 0xFF ∧ t.dev.host.cache = d.host.cache ∧ s.onlyHost t [rNOTE_CNT0]) ∧
      (d.txRoom (e.2.length - 9) = false → exec c s = .next s)) ∧
    (d.freshFrame h → d.txRoom room = false → exec c s = .next s) ∧
    (d.freshFrame h → d.txRoom room = true → h.devid ≠ 0 → h.devid ≠ d.devid → d.isHead = false ∨ h.devid ∉ d.censusIds →
      ∃ t, exec c s = .next t ∧ s.answered t h op 2 [] ∧ s.onlyHost t []) ∧
    (d.freshFrame h → d.txRoom room = true → h.devid = 0 ∨ h.devid = d.devid → d.permits c = false →
      ∃ t, exec c s = .next t ∧ s.answered t h op 1 [] ∧ s.onlyHost t []) ∧
    (d.hostOn = false → exec c s = .next s)

/-- Register commands of the host (R394, R436, R437): PING answers SYS_ID and CBL_STAT; a read answers the words, with
status 1 and 0 where the mode rules apply; a write takes effect as a register write; too many words answer 4, an unknown
opcode 5; an access to a member goes out as REG_REQ and the command waits. Music commands of the host (R93, R95, R107, R108,
R113, R175, R430, R436): a packet joins the host's holding stage, live or with the stamp supplied; MIDI_OUT queues its
bytes, or answers 7 where they do not fit; a patch goes into the inactive copy of its slot with a service event at its
stamp, or is held while a write to the slot is in flight; bad lengths answer 4. -/
def Obligations.HostRegistersAndMusic : Prop :=
  (
    ∀ (s : State) (h : HostHdr) (addr v : Word) (bad count op q : Nat) (l : List Word),
      let d := s.dev
      let a := addr.toNat / 4 * 4
      let only (t : State) : Prop := s.onlyHost t []
      (d.executes (.ping h) → ∃ t, exec (.ping h) s = .next t ∧
        s.answered t h 1 0 (leBytes 4 (d.reg rSYS_ID).toNat ++ leBytes 4 (d.reg rCBL_STAT).toNat) ∧ only t) ∧
      (d.executes (.regRead h addr 1 bad) → a < 0x150000 → d.ruled a = false → ∃ t, exec (.regRead h addr 1 bad) s = .next t ∧
        s.answered t h 2 0 (leBytes 4 (d.peek a).toNat) ∧ t.pending = s.pending ∧ t.dev.mem = d.mem ∧ t.dev.flash = d.flash) ∧
      (d.executes (.regRead h addr 1 bad) → d.ruled a = true → ∃ t, exec (.regRead h addr 1 bad) s = .next t ∧
        s.answered t h 2 1 [0, 0, 0, 0] ∧ only t) ∧
      (d.executes (.regRead h addr count bad) → count = 0 ∨ 64 < count → ∃ t, exec (.regRead h addr count bad) s = .next t ∧
        s.answered t h 2 4 [] ∧ only t) ∧
      (d.executes (.regWrite h addr [v]) → a / 0x10000 = 3 → a ≠ rNOTE_STAT → (regAt a).isSome = true → isStaged a = false →
        ∃ t, exec (.regWrite h addr [v]) s = .next t ∧ s.answered t h 3 0 [] ∧
          t.dev.reg a = (regFields a).foldl (fieldWrite a d.lkOpen v) (d.reg a) ∧ s.onlyHost t [a]) ∧
      (d.executes (.regWrite h addr [v]) → d.ruled a = true → ∃ t, exec (.regWrite h addr [v]) s = .next t ∧
        s.answered t h 3 1 [] ∧ only t) ∧
      (d.executes (.regWrite h addr l) → l = [] ∨ 64 < l.length → ∃ t, exec (.regWrite h addr l) s = .next t ∧
        s.answered t h 3 4 [] ∧ only t) ∧
      (d.executes (.unknownOpcode h op) → ∃ t, exec (.unknownOpcode h op) s = .next t ∧ s.answered t h op 5 [] ∧ only t) ∧
      (d.freshFrame h → d.txRoom 256 = true → h.devid ≠ 0 → h.devid ≠ d.devid → d.isHead = true → h.devid ∈ d.censusIds →
        d.portTo h.devid = some q → (d.lport q).joined = true → ∃ t, exec (.regRead h addr 1 bad) s = .next t ∧
          s.sent t q 0x04 h.devid d.devid ([BitVec.ofNat 8 d.cbl.reqTag, 0, 0, 0] ++ leBytes 4 a ++ leBytes 4 0) ∧
          t.dev.cbl.reqs = d.cbl.reqs ++ [(d.cbl.reqTag, h.devid)] ∧
          t.dev.host.wait = some { tag := h.tag, op := 2, dev := h.devid, todo := [(false, a, 0)], got := [], st := 0, again := 0 } ∧
          (t.dev.uart 4).txq = (d.uart 4).txq ∧ t.pending = s.pending ∧ t.dev.mem = d.mem)) ∧
  (
    ∀ (s : State) (h : HostHdr) (u : UmpWord) (words : List UmpWord) (stamp : Word) (port slot : Nat) (data : List Byte),
      let d := s.dev
      let w := u.w
      let cc : Prop := fieldOf w 31 28 = 2 ∧ fieldOf w 23 20 = 11 ∧ 64 ≤ fieldOf w 14 8 ∧ fieldOf w 14 8 < 96 ∧
        d.srcOn 6 (d.arrival 6 u.start u.done) = true
      let msg : Msg := { Msg.live 0x10 (fieldOf w 27 24) (fieldOf w 19 16) u.start u.done with
        index := fieldOf w 14 8, value := w32 (upscale (fieldOf w 6 0) 7 32) }
      let gets (t : State) (op : Nat) (m : Msg) : Prop := s.answered t h op 0 [] ∧ t.dev.waiting 6 = d.waiting 6 ++ [m] ∧
        (∀ k, k ≠ 6 → t.dev.waiting k = d.waiting k) ∧ t.dev.note.pipe = d.note.pipe ∧ t.pending = s.pending ∧ t.dev.mem = d.mem
      let fits : Prop := port < 4 ∧ data ≠ [] ∧ data.length ≤ 64
      let off := d.patchAt slot (1 - tget 0 d.note.patchAct slot % 2)
      let patch : Prop := slot < d.note.patchSlots ∧ data.length = 912
      let idle : Prop := d.patchBusy slot = false ∧ ∀ x ∈ d.note.patchHeld, x.1 ≠ slot
      let submits (t : State) (stamp : Word) (data : List Byte) : Prop :=
        t.dev.waiting 8 = d.waiting 8 ++ [Msg.ofPart 0x21 0 0 0 slot 1 stamp] ∧
        t.dev.note.patchAct = d.note.patchAct ∧ t.pending = s.pending ∧ t.dev.flash = d.flash ∧
        (off + 912 ≤ stockSize → (∀ i, i < 912 → d.bankCur (bankOf (off + i)) = 0) →
          (∀ i, i < 912 → t.dev.rb (stockBase + off + i) = data.getD i 0) ∧
          ∀ a, a < stockBase + off ∨ stockBase + off + 912 ≤ a → t.dev.rb a = d.rb a)
      (d.executes (.timedUmp h stamp [u]) → cc → ∃ t, exec (.timedUmp h stamp [u]) s = .next t ∧ gets t 9 { msg with stamp := some stamp }) ∧
      (d.executes (.ump h [u]) → cc → d.note.jrPend = none → ∃ t, exec (.ump h [u]) s = .next t ∧ gets t 8 msg) ∧
      (d.executes (.ump h words) → words = [] ∨ 64 < words.length ∨ splitUmp (words.length + 1) words = none →
        ∃ t, exec (.ump h words) s = .next t ∧ s.answered t h 8 4 [] ∧ s.onlyHost t []) ∧
      (d.pipeFree = false → d.waiting 6 ≠ [] → exec (.ump h words) s = .next s ∧ exec (.timedUmp h stamp words) s = .next s) ∧
      (d.executes (.midiOut h port data) → fits → (d.uart port).txq.length + data.length ≤ 64 →
        ∃ t, exec (.midiOut h port data) s = .next t ∧ s.answered t h 10 0 [] ∧ (t.dev.uart port).txq = (d.uart port).txq ++ data ∧
          t.dev.on (UART_STAT_TXBUSY port) = true ∧ t.pending = s.pending ∧ t.dev.mem = d.mem) ∧
      (d.executes (.midiOut h port data) → fits → 64 < (d.uart port).txq.length + data.length →
        ∃ t, exec (.midiOut h port data) s = .next t ∧ s.answered t h 10 7 [] ∧ s.onlyHost t []) ∧
      (d.executes (.midiOut h port data) → ¬fits → ∃ t, exec (.midiOut h port data) s = .next t ∧ s.answered t h 10 4 [] ∧ s.onlyHost t []) ∧
      (d.executes (.patchWrite h slot stamp data) → patch → idle → ∃ t, exec (.patchWrite h slot stamp data) s = .next t ∧
        s.answered t h 0x18 0 [] ∧ submits t stamp data) ∧
      (d.executes (.patchWrite h slot stamp data) → patch → ¬idle → ∃ t, exec (.patchWrite h slot stamp data) s = .next t ∧
        s.answered t h 0x18 0 [] ∧ t.dev.note.patchHeld = d.note.patchHeld ++ [(slot, stamp, data)] ∧ t.dev.mem = d.mem ∧
        t.dev.note.wait = d.note.wait) ∧
      (d.executes (.patchWrite h slot stamp data) → ¬patch → ∃ t, exec (.patchWrite h slot stamp data) s = .next t ∧
        s.answered t h 0x18 4 [] ∧ s.onlyHost t []) ∧
      (d.running = true → d.patchBusy slot = false → data.length = 912 →
        d.note.patchHeld.find? (fun x => x.1 == slot) = some (slot, stamp, data) → ∃ t, exec (.heldPatchWrite slot) s = .next t ∧
          submits t stamp data ∧ t.dev.note.patchHeld = d.note.patchHeld.erase (slot, stamp, data)) ∧
      (d.running = false ∨ d.patchBusy slot = true ∨ (∀ x ∈ d.note.patchHeld, x.1 ≠ slot) → exec (.heldPatchWrite slot) s = .next s))

/-- Flash and dump commands of the host (R52, R65, R68, R69, R437, R494): a read answers the bytes; an erase leaves its
sectors 0xFF; a program only clears bits; a protected sector answers 6, a range outside the flash 4; VERIFY answers the
failure code; CONFIRM programs the slot's mark; DUMP_READ answers from the RAM copy or a flash slot. Nothing else of the
flash changes. -/
def Obligations.HostReadsAndWritesFlash : Prop :=
  ∀ (s : State) (h : HostHdr) (offset len first count slot source : Nat) (data : List Byte),
    let d := s.dev
    let byte (t : State) (a : Nat) : Byte := tget 0xFF t.dev.flash a
    let only (t : State) : Prop := s.onlyHost t []
    let flashed (t : State) (l : List Nat) : Prop := s.keepsRegisters t ([rUART_HCNT, rUART_STAT 4] ++ l) ∧ t.dev.mem = d.mem ∧
      t.dev.nvj = d.nvj ∧ t.dev.fuses = d.fuses ∧ t.dev.cbl = d.cbl ∧ t.pending = s.pending
    let in_ : Prop := 0 < len ∧ len ≤ 1000 ∧ offset + len ≤ d.flashBytes
    let range : Prop := count ≠ 0 ∧ first + count ≤ d.flashSectors
    let page : Prop := data ≠ [] ∧ offset % 256 + data.length ≤ 256 ∧ offset + data.length ≤ d.flashBytes
    let inDump : Prop := source ≤ 2 ∧ 0 < len ∧ len ≤ 1000 ∧ offset + len ≤ 0x200000
    (d.executes (.flashRead h offset len) → in_ → ∃ t, exec (.flashRead h offset len) s = .next t ∧
      s.answered t h 0x20 0 ((List.range len).map fun i => byte s (offset + i)) ∧ only t) ∧
    (d.executes (.flashRead h offset len) → ¬in_ → ∃ t, exec (.flashRead h offset len) s = .next t ∧ s.answered t h 0x20 4 [] ∧ only t) ∧
    (d.executes (.flashErase h first count) → range → (∀ k, k < first + count → first ≤ k → d.flashRefused k = false) →
      ∃ t, exec (.flashErase h first count) s = .next t ∧ s.answered t h 0x21 0 [] ∧ flashed t [] ∧
        (∀ a, byte t a = if first ≤ a / 0x10000 ∧ a / 0x10000 < first + count then 0xFF else byte s a)) ∧
    (d.executes (.flashErase h first count) → range → (∃ k, k < first + count ∧ first ≤ k ∧ d.flashRefused k = true) →
      ∃ t, exec (.flashErase h first count) s = .next t ∧ s.answered t h 0x21 6 [] ∧ only t) ∧
    (d.executes (.flashErase h first count) → ¬range → ∃ t, exec (.flashErase h first count) s = .next t ∧
      s.answered t h 0x21 4 [] ∧ only t) ∧
    (d.executes (.flashProg h offset data) → page → d.flashRefused (offset / 0x10000) = false →
      ∃ t, exec (.flashProg h offset data) s = .next t ∧ s.answered t h 0x22 0 [] ∧ flashed t [] ∧
        (∀ i, i < data.length → byte t (offset + i) = byte s (offset + i) &&& data.getD i 0) ∧
        (∀ a, a < offset ∨ offset + data.length ≤ a → byte t a = byte s a)) ∧
    (d.executes (.flashProg h offset data) → page → d.flashRefused (offset / 0x10000) = true →
      ∃ t, exec (.flashProg h offset data) s = .next t ∧ s.answered t h 0x22 6 [] ∧ only t) ∧
    (d.executes (.flashProg h offset data) → ¬page → ∃ t, exec (.flashProg h offset data) s = .next t ∧ s.answered t h 0x22 4 [] ∧ only t) ∧
    (d.executes (.verify h slot) → slot = 1 ∨ slot = 2 → ∃ t, exec (.verify h slot) s = .next t ∧
      s.answered t h 0x23 0 [BitVec.ofNat 8 (d.slotCode slot)] ∧ only t) ∧
    (d.executes (.verify h slot) → slot ≠ 1 → slot ≠ 2 → ∃ t, exec (.verify h slot) s = .next t ∧ s.answered t h 0x23 4 [] ∧ only t) ∧
    (d.executes (.confirm h) → ∃ t, exec (.confirm h) s = .next t ∧ s.answered t h 0x24 0 [] ∧ t.dev.fg STG_BOOT_CONF = 1 ∧
      t.dev.stg.confirmed = true ∧ flashed t [rSTG_BOOT] ∧
      (∀ i, i < 4 → byte t (d.ctlAt (d.fg STG_BOOT_SLOT) + 4 + i) =
        byte s (d.ctlAt (d.fg STG_BOOT_SLOT) + 4 + i) &&& (leBytes 4 0x434F4E46).getD i 0)) ∧
    (d.executes (.dumpRead h source offset len) → inDump → source = 0 → d.evt.dumpValid = true →
      ∃ t, exec (.dumpRead h source offset len) s = .next t ∧
        s.answered t h 0x30 0 ((List.range len).map fun i => d.rb (stockBase + 15 * 0x300000 + offset + i)) ∧ only t) ∧
    (d.executes (.dumpRead h source offset len) → inDump → source ≠ 0 → (d.region 4).isSome = true →
      (∀ e ∈ d.evt.erase, e.1 ≠ source) → ∃ t, exec (.dumpRead h source offset len) s = .next t ∧
        s.answered t h 0x30 0 ((List.range len).map fun i => byte s (d.dumpAt source + offset + i)) ∧ only t) ∧
    (d.executes (.dumpRead h source offset len) → inDump → source ≠ 0 → (d.region 4).isSome = true →
      (∃ e ∈ d.evt.erase, e.1 = source) → ∃ t, exec (.dumpRead h source offset len) s = .next t ∧ s.answered t h 0x30 1 [] ∧ only t) ∧
    (d.executes (.dumpRead h source offset len) → ¬inDump → ∃ t, exec (.dumpRead h source offset len) s = .next t ∧
      s.answered t h 0x30 4 [] ∧ only t)

/-- FUSE_BURN (R286, R438): in SERVICE a key hash goes into an empty slot, a slot is revoked, the minimum version rises, the
life cycle moves on and wipes Heartwood; a burn that would write a slot already written or go back answers 4 and burns
nothing. -/
def Obligations.FuseBurnsOnlyGoForward : Prop :=
  ∀ (s : State) (h : HostHdr) (index : Nat) (value : List Byte),
    let d := s.dev
    let f := d.fuses
    let burnt (t : State) (g : Fuses) : Prop := s.answered t h 0x38 0 [] ∧ t.dev.fuses = g ∧ t.dev.flash = d.flash ∧ t.pending = s.pending
    let refused (t : State) : Prop := s.answered t h 0x38 4 [] ∧ s.onlyHost t []
    let fresh : Prop := index < 4 ∧ value.length = 32 ∧ tfind f.hash index = none
    (d.executes (.fuseBurnKeyHash h index value) → fresh → ∃ t, exec (.fuseBurnKeyHash h index value) s = .next t ∧
      burnt t { f with hash := t.dev.fuses.hash } ∧ tfind t.dev.fuses.hash index = some value ∧
      (∀ k, k ≠ index → tfind t.dev.fuses.hash k = tfind f.hash k) ∧ t.dev.mem = d.mem) ∧
    (d.executes (.fuseBurnKeyHash h index value) → ¬fresh → ∃ t, exec (.fuseBurnKeyHash h index value) s = .next t ∧ refused t) ∧
    (d.executes (.fuseBurnRevoke h index) → index < 4 → ∃ t, exec (.fuseBurnRevoke h index) s = .next t ∧
      burnt t { f with revoked := t.dev.fuses.revoked } ∧ (∀ k, k ∈ t.dev.fuses.revoked ↔ k = index ∨ k ∈ f.revoked) ∧
      t.dev.mem = d.mem) ∧
    (d.executes (.fuseBurnRevoke h index) → 4 ≤ index → ∃ t, exec (.fuseBurnRevoke h index) s = .next t ∧ refused t) ∧
    (d.executes (.fuseBurnMinVersion h index) → index ≤ 32 → f.minVer ≤ index → ∃ t, exec (.fuseBurnMinVersion h index) s = .next t ∧
      burnt t { f with minVer := index } ∧ t.dev.mem = d.mem) ∧
    (d.executes (.fuseBurnMinVersion h index) → 32 < index ∨ index < f.minVer →
      ∃ t, exec (.fuseBurnMinVersion h index) s = .next t ∧ refused t) ∧
    (d.executes (.fuseBurnLifeCycle h index) → index ≤ 3 → f.lcs < index → ∃ t, exec (.fuseBurnLifeCycle h index) s = .next t ∧
      burnt t { f with lcs := index, lcChanges := f.lcChanges + 1 } ∧ t.dev.fg MEM_HW_CAUSE = 4 ∧ t.dev.on MEM_HW_WIPING = true ∧
      (∀ a, hwBase ≤ a → a < hwBase + 0x10000 → t.dev.rb a = 0)) ∧
    (d.executes (.fuseBurnLifeCycle h index) → 3 < index ∨ index < f.lcs →
      ∃ t, exec (.fuseBurnLifeCycle h index) s = .next t ∧ refused t)

/-! ### Journal and steady rest (chapters 16 and 17) -/

/-- JOURNAL commands of the host (R446, R447, R451, R463): STAT, READ and NEXT answer from the live records; WRITE and
DELETE of a type the host may write queue a record, answered at its read-back or at once inside a transaction; TXOPEN,
TXCOMMIT and TXABORT; RECALL puts a preset's pairs into staging; FORMAT makes an empty log. Results tell what was refused. -/
def Obligations.HostUsesTheJournal : Prop :=
  ∀ (s : State) (h : HostHdr) (ty key txid offset len preset : Nat) (data : List Byte) (r : JRec),
    let d := s.dev
    let ans (t : State) (result : Nat) (pay : List Byte) : Prop := s.answered t h 0x28 0 (BitVec.ofNat 8 result :: pay)
    let only (t : State) : Prop := s.onlyHost t []
    let up : Prop := d.nvj.ready = true ∧ d.on NVJ_STAT_PFAIL = false
    let put (ty key txid : Nat) (pay : List Byte) (host : Bool) : Prop := (d.jpost ty key txid pay host).1 = 0
    let queued (t : State) (q : QRec) : Prop := t.dev.nvj = { d.nvj with queue := d.nvj.queue ++ [q] } ∧ t.dev.flash = d.flash ∧
      t.dev.mem = d.mem ∧ t.pending = s.pending
    let waits (t : State) : Prop := (t.dev.uart 4).txq = (d.uart 4).txq ∧ t.dev.host.wait =
      some { tag := h.tag, op := 0x28, dev := 0, todo := [], got := [], st := 0, again := 0 }
    let del : List Byte := leBytes 2 ty ++ leBytes 2 key
    (d.executes (.journalStat h) → ∃ t, exec (.journalStat h) s = .next t ∧ ans t 0 ([rNVJ_STAT, rNVJ_LIVE, rNVJ_LIMIT, rNVJ_LIFE].flatMap
      fun a => leBytes 4 (d.reg a).toNat) ∧ only t) ∧
    (d.executes (.journalRead h ty key offset len) → 0 < len → len ≤ 1000 → d.jfind ty key = some r →
      ∃ t, exec (.journalRead h ty key offset len) s = .next t ∧
        ans t 0 (leBytes 2 r.pay.length ++ leBytes 4 r.seq ++ (r.pay.drop offset).take len) ∧ only t) ∧
    (d.executes (.journalRead h ty key offset len) → 0 < len → len ≤ 1000 → d.jfind ty key = none →
      ∃ t, exec (.journalRead h ty key offset len) s = .next t ∧ ans t 1 [] ∧ only t) ∧
    (d.executes (.journalNext h ty key) → jappended ty = false → ∀ k, d.nextKey ty key = some k →
      ∃ t, exec (.journalNext h ty key) s = .next t ∧ ans t 0 (leBytes 2 k) ∧ only t ∧ key < k ∧ ∃ x ∈ d.jlives, x.ty = ty ∧ x.key = k) ∧
    (d.executes (.journalNext h ty key) → jappended ty = false → (∀ x ∈ d.jlives, x.ty = ty → x.key ≤ key) →
      ∃ t, exec (.journalNext h ty key) s = .next t ∧ ans t 1 [] ∧ only t) ∧
    (d.executes (.journalWrite h ty key txid data) → data.length ≤ 1008 → hostType ty = false →
      ∃ t, exec (.journalWrite h ty key txid data) s = .next t ∧ ans t 5 [] ∧ only t) ∧
    (d.executes (.journalWrite h ty key txid data) → data.length ≤ 1008 → hostType ty = true → d.on NVJ_STAT_PFAIL = true →
      ∃ t, exec (.journalWrite h ty key txid data) s = .next t ∧ ans t 2 [] ∧ only t) ∧
    (d.executes (.journalWrite h ty key 0 data) → data.length ≤ 1008 → hostType ty = true → up → put ty key 0 data true →
      ∃ t, exec (.journalWrite h ty key 0 data) s = .next t ∧ waits t ∧
        queued t { ty := ty, key := key, txid := 0, pay := data, host := true }) ∧
    (d.executes (.journalWrite h ty key txid data) → data.length ≤ 1008 → hostType ty = true → up → txid ≠ 0 →
      (d.txIsOpen txid = false → ∃ t, exec (.journalWrite h ty key txid data) s = .next t ∧ ans t 4 [] ∧ only t) ∧
      (d.txIsOpen txid = true → put ty key txid data false → ∃ t, exec (.journalWrite h ty key txid data) s = .next t ∧
        ans t 0 (leBytes 4 ((d.nvj.seq + d.nvj.queue.length) % 2 ^ 32)) ∧
        queued t { ty := ty, key := key, txid := txid, pay := data, host := false })) ∧
    (d.executes (.journalDelete h ty key 0) → hostType ty = true → up → put 2 0 0 del true →
      ∃ t, exec (.journalDelete h ty key 0) s = .next t ∧ waits t ∧ queued t { ty := 2, key := 0, txid := 0, pay := del, host := true }) ∧
    (d.executes (.journalTxopen h) → d.nvj.ready = true → d.on NVJ_STAT_RO = false →
      (d.nvj.open_.length < 4 → ∃ t, exec (.journalTxopen h) s = .next t ∧ ans t 0 (leBytes 2 (d.nvj.txid % 65535 + 1)) ∧
        t.dev.nvj = { d.nvj with txid := d.nvj.txid % 65535 + 1, open_ := d.nvj.open_ ++ [(d.nvj.txid % 65535 + 1, 0, 0)] }) ∧
      (4 ≤ d.nvj.open_.length → ∃ t, exec (.journalTxopen h) s = .next t ∧ ans t 4 [] ∧ only t)) ∧
    (d.executes (.journalTxcommit h txid) → up → txid ≠ 0 → d.txIsOpen txid = true → put 1 0 txid [] true →
      ∃ t, exec (.journalTxcommit h txid) s = .next t ∧ waits t ∧ queued t { ty := 1, key := 0, txid := txid, pay := [], host := true }) ∧
    (d.executes (.journalTxabort h txid) → d.txIsOpen txid = true → ∃ t, exec (.journalTxabort h txid) s = .next t ∧ ans t 0 [] ∧
      t.dev.nvj = { d.nvj with open_ := d.nvj.open_.filter (fun t => t.1 != txid), queue := d.nvj.queue.filter fun q => q.txid != txid }) ∧
    (d.executes (.journalTxabort h txid) → d.txIsOpen txid = false → ∃ t, exec (.journalTxabort h txid) s = .next t ∧ ans t 4 [] ∧ only t) ∧
    (d.executes (.journalRecall h preset) → ∀ a v, d.jfind 0x21 preset = some r → pairsOf r.pay = [(a, v)] → isStaged a = true →
      d.voiceAbsent a = false → d.pwr.mode = .run → ∃ t, exec (.journalRecall h preset) s = .next t ∧ ans t 0 [1, 0] ∧
        accMask a .st &&& t.dev.stagingReg a = accMask a .st &&& stagedWord a v (d.stagingReg a) ∧ t.dev.mem = d.mem) ∧
    (d.executes (.journalRecall h preset) → d.jfind 0x21 preset = none → ∃ t, exec (.journalRecall h preset) s = .next t ∧
      ans t 1 [] ∧ only t) ∧
    (d.executes (.journalFormat h) → d.region 3 = none → ∃ t, exec (.journalFormat h) s = .next t ∧ ans t 3 [] ∧ only t) ∧
    (d.executes (.journalFormat h) → (d.region 3).isSome = true → d.on NVJ_STAT_PFAIL = false → ∃ t, exec (.journalFormat h) s = .next t ∧
      ans t 0 [] ∧ t.dev.fg NVJ_STAT_ORIGIN = 2 ∧ t.dev.on NVJ_STAT_RO = false ∧ t.dev.nvj.ready = true ∧ t.dev.nvj.queue = [] ∧
      t.dev.mem = d.mem ∧ t.dev.fuses = d.fuses)

/-- The journal engine (R442 to R445, R448, R453, R454, R456, R457, R460): a record goes to the head, payload and header,
and leaves the queue; a failed read-back retires the sector; an erase spends a token and leaves the erase part of a header,
or retires the sector; a superblock goes into the next slot; PFAIL_N holds the engine until it clears. -/
def Obligations.JournalEngineWritesRecords : Prop :=
  ∀ (s : State) (env : FlashEnv) (q : QRec) (rest : List QRec) (k : Nat),
    let d := s.dev
    let j := d.nvj
    let byte (t : State) (a : Nat) : Byte := tget 0xFF t.dev.flash a
    let pay := d.jpayload q
    let fits : Prop := j.fresh = false ∧ j.fill + jsize pay ≤ 0x10000 ∧ d.logCount + 2 < d.span
    let quick : Prop := env.time ≤ d.fg NVJ_POL2_TPP_US ∧ (d.on NVJ_FLASH_ECCST = true → env.corrected ≤ d.fg NVJ_POL3_CBMAX)
    let a := d.jaddr j.head + j.fill
    let words := jheader q.ty q.key q.txid j.seq pay ++ pay
    let writes : Prop := d.jworks = true ∧ j.queue = q :: rest
    let erases : Prop := d.jworks = true ∧ d.logSects.find? d.sectDirty = some k ∧ d.fg NVJ_TOKENS_VALUE ≠ 0
    let e := ((d.sect k).ecnt.getD d.ecmax) + 1
    let header : List Byte := leBytes 4 0x4A4C4F47 ++ leBytes 4 e
    let mark := header ++ leBytes 4 (crc32c header)
    let log := (j.evlog.take 64).flatMap fun x => leBytes 4 x.1 ++ [BitVec.ofNat 8 x.2.1, 0] ++ leBytes 2 x.2.2
    let kept (t : State) : Prop := t.pending = s.pending ∧ t.dev.mem = d.mem ∧ t.dev.fuses = d.fuses ∧ t.dev.note = d.note ∧
      t.dev.staged = d.staged
    (writes → fits → quick → env.ok = true → pay.length ≤ 1008 → ∃ t, exec (.recordWrite env) s = .next t ∧
      (∀ i, i < words.length → byte t (a + i) = byte s (a + i) &&& words.getD i 0) ∧
      (∀ b, b < a ∨ a + words.length ≤ b → byte t b = byte s b) ∧ t.dev.nvj.queue = rest ∧
      t.dev.nvj.recs = j.recs ++ [{ ty := q.ty, key := q.key, txid := q.txid, seq := j.seq, sect := j.head, pay := pay }] ∧
      t.dev.nvj.seq = (j.seq + 1) % 2 ^ 32 ∧ t.dev.nvj.fill = j.fill + jsize pay ∧ (q.host = true → t.dev.raw 36 = true) ∧ kept t) ∧
    (writes → fits → env.ok = false → ∃ t, exec (.recordWrite env) s = .next t ∧ (t.dev.sect j.head).retired = true ∧
      t.dev.raw 38 = true ∧ t.dev.fg NVJ_CNT_RETRY = min (d.fg NVJ_CNT_RETRY + 1) 0xFF ∧ kept t) ∧
    (d.jworks = false ∨ j.queue = [] → exec (.recordWrite env) s = .next s) ∧
    (erases → env.ok = true → env.time ≤ d.fg NVJ_POL2_TSE_MS → ∃ t, exec (.sectorErase env) s = .next t ∧
      (t.dev.sect k).ecnt = some e ∧ (t.dev.sect k).sseq = none ∧ (t.dev.sect k).retired = false ∧
      t.dev.reg rNVJ_TOKENS = d.reg rNVJ_TOKENS - 1 ∧ (∀ i, i < 12 → byte t (d.jaddr k + i) = mark.getD i 0) ∧
      (∀ i, 12 ≤ i → i < 0x10000 → byte t (d.jaddr k + i) = 0xFF) ∧
      (∀ b, b < d.jaddr k ∨ d.jaddr k + 0x10000 ≤ b → byte t b = byte s b) ∧ kept t) ∧
    (erases → env.ok = false ∨ d.fg NVJ_POL2_TSE_MS < env.time → ∃ t, exec (.sectorErase env) s = .next t ∧
      (t.dev.sect k).retired = true ∧ t.dev.raw 38 = true ∧ kept t) ∧
    (d.jworks = false ∨ d.fg NVJ_TOKENS_VALUE = 0 → exec (.sectorErase env) s = .next s) ∧
    (d.jworks = true → d.pwr.mode = .run → env.ok = true → env.time ≤ d.fg NVJ_POL2_TPP_US → j.sbInB = false → j.sbSlotA < 256 →
      ∃ t, exec (.superblockSave env) s = .next t ∧ t.dev.nvj.sbSeq = (j.sbSeq + 1) % 2 ^ 32 ∧ t.dev.nvj.sbInB = true ∧
        t.dev.nvj.sbSlotA = j.sbSlotA + 1 ∧ (∀ i, i < 256 → byte t (d.jaddr 0 + 256 * j.sbSlotA + i) =
          byte s (d.jaddr 0 + 256 * j.sbSlotA + i) &&& (d.superBytes ((j.sbSeq + 1) % 2 ^ 32)).getD i 0) ∧ kept t) ∧
    (d.jworks = false ∨ d.pwr.mode ≠ .run → exec (.superblockSave env) s = .next s) ∧
    (∃ t, exec .powerFail s = .next t ∧ t.dev.on NVJ_STAT_PFAIL = true ∧ t.dev.pins.pfailLow = true ∧ t.dev.raw 40 = true ∧
      t.dev.jworks = false ∧
      t = { s with dev := { d with live := t.dev.live, evt := t.dev.evt, pins := { d.pins with pfailLow := true } } }) ∧
    (d.on NVJ_STAT_PFAIL = true → ∃ t, exec .powerFailClear s = .next t ∧ t.dev.on NVJ_STAT_PFAIL = false ∧
      t.dev.nvj = { j with fresh := true } ∧ t.dev.pins.pfailLow = false ∧ s.keepsRegisters t [rNVJ_STAT]) ∧
    (d.on NVJ_STAT_PFAIL = false → exec .powerFailClear s = .next s) ∧
    (d.pwr.mode = .run → d.pwr.frozen = false → j.counters.length = 5 → ∃ t, exec .countersRecord s = .next t ∧
      t.dev.nvj.counters.getD 1 0 = (j.counters.getD 1 0 + 3600) % 2 ^ 32 ∧
      (∀ i, i ≠ 1 → t.dev.nvj.counters.getD i 0 = j.counters.getD i 0) ∧
      (∀ x ∈ j.queue, x ∈ t.dev.nvj.queue) ∧ t.dev.flash = d.flash ∧ kept t) ∧
    (d.pwr.mode ≠ .run ∨ d.pwr.frozen = true → exec .countersRecord s = .next s ∧ exec .eventLogRecord s = .next s) ∧
    (j.ready = true → d.pwr.mode = .run → d.pwr.frozen = false → d.evt.fw = [] →
      (j.evlog = [] → exec .eventLogRecord s = .next s) ∧
      (j.evlog ≠ [] → (d.jpost 0x51 0 0 log false).1 = 0 → ∃ t, exec .eventLogRecord s = .next t ∧
        t.dev.nvj = { j with queue := j.queue ++ [{ ty := 0x51, key := 0, txid := 0, pay := log, host := false }],
                             evlog := j.evlog.drop 64 } ∧ t.dev.flash = d.flash ∧ kept t))

/-- When the steady rest measures, and its records (R467, R469, R471, R476, R478, R479): a temperature shows, raises T_w,
sets or clears its flags with source 43 or 44, and makes a measurement due after a rise of 2 °C; CHECK in RUN and the
schedule make one due; a measurement that waits is counted late once; CLEAR in SERVICE discards T_w and the plan. The
re-planning ladder and the clock step (R468, R470 to R472, R475). A measurement with enough slack ends; with too little it
raises the voltage by 5 mV, up to VMAX, or with AUTO = 0 only reports; a confirmed voltage is measured again, a failed one
stops voltage steps. The clock step waits for commits, fades the removed contexts and then changes step and voice count. -/
def Obligations.SteadyRestWatchesAndReplans : Prop :=
  (
    ∀ (s : State) (v : Word) (temp : Int),
      let d := s.dev
      let run : Prop := d.pwr.mode = .run ∧ d.pwr.frozen = false
      let small (x : Int) : Prop := -2048 ≤ x ∧ x < 2048
      let tw := match d.age.tw with
        | some w => max w temp
        | none => temp
      let kept (t : State) : Prop := t.pending = s.pending ∧ t.dev.mem = d.mem ∧ t.dev.flash = d.flash ∧ t.dev.note = d.note ∧
        t.dev.voices = d.voices ∧ t.dev.ctxs = d.ctxs
      (d.sensing = true → small temp → ∃ t, exec (.temperatureSample temp) s = .next t ∧ t.dev.fs AGE_TEMP_NOW = temp ∧
        t.dev.age.tw = some tw ∧
        (d.on AGE_STAT_TW = false → d.fs AGE_TLIM_TWARN ≤ temp → t.dev.on AGE_STAT_TW = true ∧ t.dev.raw 43 = true) ∧
        (d.on AGE_STAT_TW = true → temp + 8 ≤ d.fs AGE_TLIM_TWARN → t.dev.on AGE_STAT_TW = false) ∧
        (d.on AGE_STAT_TC = false → d.fs AGE_TLIM_TCRIT ≤ temp → t.dev.on AGE_STAT_TC = true ∧ t.dev.raw 44 = true) ∧
        (d.on AGE_STAT_TC = true → temp + 8 ≤ d.fs AGE_TLIM_TCRIT → t.dev.on AGE_STAT_TC = false) ∧
        (d.alive = true → d.age.twAt + 8 ≤ tw → t.dev.age.due = true) ∧
        s.keepsRegisters t [rAGE_TEMP, rAGE_STAT, rAGE_SLACK] ∧ kept t) ∧
      (d.sensing = false → exec (.temperatureSample temp) s = .next s) ∧
      (d.hears = true → run → bitOf v 1 = true → ∃ t, exec (.ageCheck v) s = .next t ∧ t.dev.age.due = true ∧
        t.dev.fg AGE_CTRL_AUTO = fieldOf v 0 0 ∧ s.keepsRegisters t [rAGE_CTRL] ∧
        t = { s with dev := { d with live := t.dev.live, age := { d.age with due := true } } }) ∧
      (bitOf v 1 = false → exec (.ageCheck v) s = .next s) ∧
      (d.hears = true → d.pwr.mode = .service → bitOf v 2 = true → ∃ t, exec (.ageClear v) s = .next t ∧ t.dev.age.tw = none ∧
        t.dev.fg AGE_SLACK_T_W = 0 ∧ t.dev.fg AGE_CTRL_AUTO = fieldOf v 0 0 ∧
        (d.nvj.ready = true → (d.jpost 2 0 0 (leBytes 2 0x40 ++ leBytes 2 0) false).1 = 0 →
          t.dev.nvj.queue = d.nvj.queue ++ [{ ty := 2, key := 0, txid := 0, pay := leBytes 2 0x40 ++ leBytes 2 0, host := false }]) ∧
        kept t) ∧
      (d.hears = true → d.pwr.mode ≠ .service → bitOf v 2 = true → bitOf v 1 = false → ∃ t, exec (.ageClear v) s = .next t ∧
        t.dev.age = d.age ∧ s.keepsRegisters t [rAGE_CTRL] ∧ t = { s with dev := { d with live := t.dev.live } }) ∧
      (bitOf v 2 = false → exec (.ageClear v) s = .next s) ∧
      (run → ∃ t, exec .scheduledMeasurement s = .next t ∧ t.dev.age.due = true ∧
        (d.isHead = true → (∀ k, d.net.active = some k → d.fg (NET_DOM_STAT_STATE k) ≠ 2) → t.dev.on AGE_XREF_VALID = false) ∧
        (d.isMember = true → t.dev.on AGE_XREF_VALID = true) ∧ kept t) ∧
      (run → d.age.due = true → d.age.lateCounted = false → ∃ t, exec .measurementLate s = .next t ∧ t.dev.age.lateCounted = true ∧
        t.dev.fg AGE_CNT_LATE = min (d.fg AGE_CNT_LATE + 1) (2 ^ (AGE_CNT_LATE.hi + 1 - AGE_CNT_LATE.lo) - 1) ∧
        s.keepsRegisters t [rAGE_CNT] ∧
        t = { s with dev := { d with live := t.dev.live, age := { d.age with lateCounted := true } } }) ∧
      (d.age.due = false ∨ d.age.lateCounted = true → exec .measurementLate s = .next s) ∧
      (¬run → exec .scheduledMeasurement s = .next s ∧ exec .measurementLate s = .next s)) ∧
  (
    ∀ (s : State) (m : Sense) (avs : AvsRes) (p n st : Nat),
      let d := s.dev
      let temp := m.temp
      let tw := match d.age.tw with
        | some w => max w temp
        | none => temp
      let slack (i : Nat) : Int := 64 * m.m.getD i 0 - d.age.kt * (tw - temp)
      let enough : Prop := ∀ i, i < 5 → 64 * (d.age.minSlack : Int) ≤ slack i
      let takes : Prop := d.age.due = true ∧ d.canMeasure = true
      let below : Prop := d.fg AGE_VDD_SET < d.age.vmax ∧ d.on AGE_STAT_AVSERR = false
      let raised := min (d.fg AGE_VDD_SET + 5) d.age.vmax
      let steps : Prop := d.age.stepping = true ∧ d.alive = true
      let confirmed : Prop := avs.ack = true ∧ ((avs.readMv : Int) - (d.fg AGE_VDD_SET : Int)).natAbs ≤ 10
      let free : Prop := ∀ v ∈ d.presentVoices, d.removed v = true → (d.voice v).cls = clsFree
      let kept (t : State) : Prop := t.pending = s.pending ∧ t.dev.mem = d.mem ∧ t.dev.flash = d.flash ∧ t.dev.note = d.note ∧
        t.dev.staged = d.staged
      (takes → enough → ∃ t, exec (.measurement m) s = .next t ∧ t.dev.age.due = false ∧ t.dev.age.stepping = false ∧
        t.dev.age.clk = none ∧ t.dev.on AGE_STAT_BUSY = false ∧ t.dev.fg AGE_VDD_SET = d.fg AGE_VDD_SET ∧
        t.dev.fg AGE_CNT_REPLANS = d.fg AGE_CNT_REPLANS ∧ t.dev.age.tw = some tw ∧ kept t) ∧
      (takes → ¬enough → d.on AGE_CTRL_AUTO = false → ∃ t, exec (.measurement m) s = .next t ∧ t.dev.on AGE_STAT_NEED = true ∧
        t.dev.raw 42 = true ∧ t.dev.age.stepping = false ∧ t.dev.age.clk = none ∧ t.dev.fg AGE_VDD_SET = d.fg AGE_VDD_SET ∧ kept t) ∧
      (takes → ¬enough → d.on AGE_CTRL_AUTO = true → below → d.age.vmax < 0x10000 → ∃ t, exec (.measurement m) s = .next t ∧
        t.dev.age.stepping = true ∧ t.dev.fg AGE_VDD_SET = raised % 2 ^ (AGE_VDD_SET.hi + 1 - AGE_VDD_SET.lo) ∧ kept t) ∧
      (d.age.due = false ∨ d.canMeasure = false → exec (.measurement m) s = .next s) ∧
      (steps → confirmed → enough → ∃ t, exec (.voltageStep avs m) s = .next t ∧ t.dev.age.stepping = false ∧
        t.dev.on AGE_STAT_BUSY = false ∧ t.dev.raw 41 = true ∧ t.dev.fg AGE_VDD_SET = d.fg AGE_VDD_SET ∧ kept t) ∧
      (steps → ¬confirmed → ∃ t, exec (.voltageStep avs m) s = .next t ∧ t.dev.age.stepping = false ∧
        t.dev.on AGE_STAT_AVSERR = true ∧ t.dev.raw 42 = true ∧ t.dev.fg AGE_VDD_SET = d.fg AGE_VDD_SET ∧
        t.dev.fg AGE_VDD_STATUS = avs.status % 2 ^ (AGE_VDD_STATUS.hi + 1 - AGE_VDD_STATUS.lo) ∧ kept t) ∧
      (d.age.stepping = false ∨ d.alive = false → exec (.voltageStep avs m) s = .next s) ∧
      (d.age.clk = some (0, p, n) → d.running = true → d.commitPending = false → ∃ t, exec .clockStepBegin s = .next t ∧
        t.dev.on AGE_STAT_CLKSEQ = true ∧ t.dev.age.clk = some (if n < d.fg ALLOC_STAT_NUM then 1 else 3, p, n) ∧
        s.keepsRegisters t [rAGE_STAT] ∧
        t = { s with dev := { d with live := t.dev.live, age := { d.age with clk := t.dev.age.clk } } }) ∧
      (d.age.clk = some (0, p, n) → d.commitPending = true → exec .clockStepBegin s = .next s) ∧
      (d.age.clk = some (1, p, n) → d.running = true → (∀ v ∈ d.presentVoices, d.removed v = true → (d.pendOf v).1 = 0) →
        ∃ t, exec .contextRemoval s = .next t ∧ t.dev.age.clk = some (2, p, n) ∧ t.dev.reg rSYS_SPLL = d.reg rSYS_SPLL ∧
          ((∀ v ∈ d.presentVoices, d.removed v = true → (d.voice v).cls = clsFree) →
            t = { s with dev := { d with age := { d.age with clk := some (2, p, n) } } }) ∧
          t.pending = s.pending ∧ t.dev.mem = d.mem ∧ t.dev.flash = d.flash ∧ t.dev.staged = d.staged) ∧
      (d.age.clk = some (1, p, n) → (∃ v ∈ d.presentVoices, d.removed v = true ∧ (d.pendOf v).1 ≠ 0) →
        exec .contextRemoval s = .next s) ∧
      (d.age.clk = some (st, p, n) → d.running = true → st = 3 ∨ (st = 2 ∧ free) → p < 16 → n ≤ 256 →
        ∃ t, exec .clockStepApply s = .next t ∧ t.dev.fg SYS_SPLL_STEP = p ∧ t.dev.fg AGE_PLAN_STEP = p ∧ t.dev.fg AGE_PLAN_VOICES = n ∧
          t.dev.fg ALLOC_STAT_NUM = n ∧ t.dev.on AGE_STAT_CLKSEQ = false ∧ t.dev.age.clk = none ∧
          (d.age.changed = true → t.dev.raw 41 = true) ∧ t.dev.voices = d.voices ∧ t.dev.ctxs = d.ctxs ∧ kept t) ∧
      (d.age.clk = none ∨ d.running = false → exec .clockStepApply s = .next s))
end

