-- ==== Sys2Proof/Laws/Tbl.lean ====
section
/-! SUPPORT. Laws of sparse tables: a read after a write, and that every operation keeps the canonical form. -/
namespace Sys2Proof.Laws
open Sys2Proof.Machine

variable {α : Type}

/-! ### Reading after writing -/

theorem tfind_tdel_self (t : Tbl α) (k : Nat) : tfind (tdel t k) k = none := by
  induction t with
  | nil => rfl
  | cons p t ih =>
    obtain ⟨j, v⟩ := p
    by_cases h : j = k
    · simp [tdel, h, ih]
    · simp [tdel, h, tfind, ih]

theorem tfind_tdel_other (t : Tbl α) {k j : Nat} (h : j ≠ k) : tfind (tdel t k) j = tfind t j := by
  induction t with
  | nil => rfl
  | cons p t ih =>
    obtain ⟨i, v⟩ := p
    by_cases hi : i = k
    · have : i ≠ j := fun e => h (e ▸ hi)
      simp [tdel, hi, tfind, ih, Ne.symm h]
    · simp [tdel, hi, tfind, ih]

theorem tfind_tins_self (t : Tbl α) (k : Nat) (v : α) : tfind (tins t k v) k = some v := by
  induction t with
  | nil => simp [tins, tfind]
  | cons p t ih =>
    obtain ⟨j, w⟩ := p
    by_cases h : j = k
    · simp [tins, h, tfind]
    · by_cases hk : k < j <;> simp [tins, h, hk, tfind, ih]

theorem tfind_tins_other (t : Tbl α) {k j : Nat} (v : α) (h : j ≠ k) : tfind (tins t k v) j = tfind t j := by
  induction t with
  | nil => simp [tins, tfind, Ne.symm h]
  | cons p t ih =>
    obtain ⟨i, w⟩ := p
    by_cases hi : i = k
    · simp [tins, hi, tfind, Ne.symm h]
    · by_cases hk : k < i
      · simp [tins, hi, hk, tfind, Ne.symm h]
      · simp [tins, hi, hk, tfind, ih]

theorem tget_tput_self [DecidableEq α] (d : α) (t : Tbl α) (k : Nat) (v : α) : tget d (tput d t k v) k = v := by
  unfold tget tput
  split
  · next h => simp [tfind_tdel_self, h]
  · simp [tfind_tins_self]

theorem tfind_tput_other [DecidableEq α] (d : α) (t : Tbl α) {k j : Nat} (v : α) (h : j ≠ k) :
    tfind (tput d t k v) j = tfind t j := by
  unfold tput
  split
  · exact tfind_tdel_other t h
  · exact tfind_tins_other t v h

theorem tget_tput_other [DecidableEq α] (d e : α) (t : Tbl α) {k j : Nat} (v : α) (h : j ≠ k) :
    tget e (tput d t k v) j = tget e t j := by
  unfold tget
  rw [tfind_tput_other d t v h]

/-- A read after a write: the value written at its key, the old value at every other key. -/
theorem tget_tput [DecidableEq α] (d : α) (t : Tbl α) (k j : Nat) (v : α) :
    tget d (tput d t k v) j = if j = k then v else tget d t j := by
  split
  · next h => rw [h, tget_tput_self]
  · next h => exact tget_tput_other d d t v h

/-! ### The canonical form as two plain facts -/

/-- A lower bound matters only below the first key. -/
theorem tsorted_weaken (t : Tbl α) (a b : Nat) (h : a ≤ b) (ht : tsorted (some b) t = true) : tsorted (some a) t = true := by
  cases t with
  | nil => rfl
  | cons p t =>
    obtain ⟨j, v⟩ := p
    simp only [tsorted, Bool.and_eq_true, decide_eq_true_eq] at ht ⊢
    exact ⟨by omega, ht.2⟩

theorem tsorted_none (t : Tbl α) (a : Nat) (h : tsorted (some a) t = true) : tsorted none t = true := by
  cases t with
  | nil => rfl
  | cons p t =>
    simp only [tsorted, Bool.and_eq_true] at h ⊢
    exact h.2

/-- The keys rise strictly, said over pairs of entries. -/
theorem tsorted_iff (t : Tbl α) (a : Nat) :
    tsorted (some a) t = true ↔ (∀ p ∈ t, a < p.1) ∧ t.Pairwise (fun p q => p.1 < q.1) := by
  induction t generalizing a with
  | nil => simp [tsorted]
  | cons p t ih =>
    obtain ⟨j, v⟩ := p
    simp only [tsorted, Bool.and_eq_true, decide_eq_true_eq, ih, List.mem_cons, List.pairwise_cons, forall_eq_or_imp]
    constructor
    · rintro ⟨h1, h2, h3⟩
      exact ⟨⟨h1, fun p hp => by have := h2 p hp; omega⟩, h2, h3⟩
    · rintro ⟨⟨h1, _⟩, h2, h3⟩
      exact ⟨h1, h2, h3⟩

theorem tsorted_none_iff (t : Tbl α) : tsorted none t = true ↔ t.Pairwise (fun p q => p.1 < q.1) := by
  cases t with
  | nil => simp [tsorted]
  | cons p t =>
    obtain ⟨j, v⟩ := p
    simp only [tsorted, tsorted_iff, List.pairwise_cons]

theorem twf_iff [DecidableEq α] (d : Nat → α) (t : Tbl α) :
    twf d t = true ↔ t.Pairwise (fun p q => p.1 < q.1) ∧ ∀ p ∈ t, p.2 ≠ d p.1 := by
  simp [twf, tnodef, tsorted_none_iff, List.all_eq_true]

/-! ### What keeps the canonical form -/

theorem twf_nil [DecidableEq α] (d : Nat → α) : twf d [] = true := rfl

theorem twf_filter [DecidableEq α] (d : Nat → α) (t : Tbl α) (f : Nat × α → Bool) (h : twf d t = true) :
    twf d (t.filter f) = true := by
  rw [twf_iff] at h ⊢
  exact ⟨h.1.filter f, fun p hp => h.2 p (List.mem_filter.mp hp).1⟩

theorem mem_tdel {t : Tbl α} {k : Nat} {p : Nat × α} (h : p ∈ tdel t k) : p ∈ t := by
  induction t with
  | nil => exact h
  | cons q t ih =>
    obtain ⟨j, v⟩ := q
    unfold tdel at h
    split at h
    · exact List.mem_cons_of_mem _ (ih h)
    · rcases List.mem_cons.mp h with h | h
      · exact h ▸ List.mem_cons_self
      · exact List.mem_cons_of_mem _ (ih h)

theorem mem_tins {t : Tbl α} {k : Nat} {v : α} {p : Nat × α} (h : p ∈ tins t k v) : p = (k, v) ∨ p ∈ t := by
  induction t with
  | nil => exact .inl (List.mem_singleton.mp h)
  | cons q t ih =>
    obtain ⟨j, w⟩ := q
    unfold tins at h
    split at h
    · rcases List.mem_cons.mp h with h | h
      · exact .inl h
      · exact .inr (List.mem_cons_of_mem _ h)
    · split at h
      · rcases List.mem_cons.mp h with h | h
        · exact .inl h
        · exact .inr h
      · rcases List.mem_cons.mp h with h | h
        · exact .inr (h ▸ List.mem_cons_self)
        · rcases ih h with h | h
          · exact .inl h
          · exact .inr (List.mem_cons_of_mem _ h)

theorem pairwise_tdel (t : Tbl α) (k : Nat) (h : t.Pairwise (fun p q => p.1 < q.1)) :
    (tdel t k).Pairwise (fun p q => p.1 < q.1) := by
  induction t with
  | nil => exact h
  | cons q t ih =>
    obtain ⟨j, v⟩ := q
    rw [List.pairwise_cons] at h
    unfold tdel
    split
    · exact ih h.2
    · exact List.pairwise_cons.mpr ⟨fun p hp => h.1 p (mem_tdel hp), ih h.2⟩

theorem pairwise_tins (t : Tbl α) (k : Nat) (v : α) (h : t.Pairwise (fun p q => p.1 < q.1)) :
    (tins t k v).Pairwise (fun p q => p.1 < q.1) := by
  induction t with
  | nil => simp [tins]
  | cons q t ih =>
    obtain ⟨j, w⟩ := q
    have hc := h
    rw [List.pairwise_cons] at h
    unfold tins
    split
    · next e => exact List.pairwise_cons.mpr ⟨fun p hp => by have := h.1 p hp; simp only at this ⊢; omega, h.2⟩
    · next e =>
      split
      · next l =>
        refine List.pairwise_cons.mpr ⟨fun p hp => ?_, hc⟩
        rcases List.mem_cons.mp hp with hp | hp
        · rw [hp]; exact l
        · have := h.1 p hp; simp only at this ⊢; omega
      · next l =>
        refine List.pairwise_cons.mpr ⟨fun p hp => ?_, ih h.2⟩
        rcases mem_tins hp with hp | hp
        · rw [hp]; simp only; omega
        · exact h.1 p hp

/-- A write keeps the canonical form. -/
theorem twf_tput [DecidableEq α] (d : Nat → α) (t : Tbl α) (k : Nat) (v : α) (h : twf d t = true) :
    twf d (tput (d k) t k v) = true := by
  rw [twf_iff] at h ⊢
  unfold tput
  split
  · exact ⟨pairwise_tdel t k h.1, fun p hp => h.2 p (mem_tdel hp)⟩
  · next hv =>
    refine ⟨pairwise_tins t k v h.1, fun p hp => ?_⟩
    rcases mem_tins hp with hp | hp
    · rw [hp]; exact hv
    · exact h.2 p hp

/-- Replacing a range by another table's entries keeps the canonical form (checkpoints, R128). -/
theorem twf_paste [DecidableEq α] (d : Nat → α) (t : Tbl α) (base n : Nat) (c : Tbl α) (h : twf d t = true) :
    twf d (paste d t base n c) = true := by
  unfold paste
  generalize c.filter _ = c
  generalize ht : List.filter _ t = u
  have hu : twf d u = true := ht ▸ twf_filter d t _ h
  clear ht h
  induction c generalizing u with
  | nil => exact hu
  | cons p c ih => exact ih _ (twf_tput d u _ _ hu)

theorem twf_foldr [DecidableEq α] (d : α) (l : Tbl α) :
    twf (fun _ => d) (l.foldr (fun p r => tput d r p.1 p.2) []) = true := by
  induction l with
  | nil => rfl
  | cons p l ih => exact twf_tput (fun _ => d) _ _ _ ih

/-- Replacing a range by a dump keeps the canonical form (R491, R492). -/
theorem twf_putRange (d : Byte) (t : Tbl Byte) (base n : Nat) (l : Tbl Byte) (h : twf (fun _ => d) t = true) :
    twf (fun _ => d) (putRange d t base n l) = true := by
  unfold putRange
  generalize hr : l.foldr (fun p r => tput d r p.1 p.2) [] = r
  have hw : twf (fun _ => d) r = true := hr ▸ twf_foldr d l
  rw [twf_iff] at h hw ⊢
  constructor
  · rw [List.pairwise_append, List.pairwise_append]
    refine ⟨⟨h.1.filter _, hw.1.filter _, ?_⟩, h.1.filter _, ?_⟩
    · intro p hp q hq
      simp only [List.mem_filter, Bool.and_eq_true, decide_eq_true_eq] at hp hq
      omega
    · intro p hp q hq
      simp only [List.mem_append, List.mem_filter, Bool.and_eq_true, decide_eq_true_eq] at hp hq
      omega
  · intro p hp
    simp only [List.mem_append, List.mem_filter] at hp
    rcases hp with (hp | hp) | hp
    · exact h.2 p hp.1
    · exact hw.2 p hp.1
    · exact h.2 p hp.1

end Sys2Proof.Laws
end

