-- ==== Sys2Proof/Laws/Reg.lean ====
section
/-! SUPPORT. Laws of the register file: a register and a field read back as written, and a write leaves every other register
and field alone (R3, R5). -/
namespace Sys2Proof.Laws
open Sys2Proof.Machine

/-! ### Registers -/

theorem reg_setReg (d : Dev) (a b : Nat) (w : Word) : (d.setReg a w).reg b = if b = a then w else d.reg b := by
  by_cases h : b = a
  · have := tget_tput_self (resetWord a) d.live a w
    subst h
    simpa [Dev.reg, Dev.setReg, tget] using this
  · have := tget_tput_other (resetWord a) (resetWord b) d.live w h
    simpa [Dev.reg, Dev.setReg, tget, h] using this

@[simp] theorem reg_setReg_self (d : Dev) (a : Nat) (w : Word) : (d.setReg a w).reg a = w := by simp [reg_setReg]

theorem reg_setReg_other (d : Dev) {a b : Nat} (w : Word) (h : b ≠ a) : (d.setReg a w).reg b = d.reg b := by
  simp [reg_setReg, h]

theorem reg_fp_other (d : Dev) (f : Fld) (v : Nat) {b : Nat} (h : b ≠ f.addr) : (d.fp f v).reg b = d.reg b :=
  reg_setReg_other d _ h

/-! ### Fields of a word -/

theorem testBit_fieldOf (w : Word) (hi lo i : Nat) :
    (fieldOf w hi lo).testBit i = (decide (i < hi + 1 - lo) && w.getLsbD (lo + i)) := by
  rw [fieldOf, Nat.testBit_mod_two_pow, Nat.testBit_div_two_pow, Nat.add_comm i lo]
  rfl

theorem getLsbD_setField (w : Word) (hi lo v i : Nat) (hw : lo ≤ hi) (h32 : hi < 32) :
    (setField w hi lo v).getLsbD i = if lo ≤ i ∧ i ≤ hi then v.testBit (i - lo) else w.getLsbD i := by
  unfold setField w32
  simp only [BitVec.getLsbD_or, BitVec.getLsbD_and, BitVec.getLsbD_not, BitVec.getLsbD_ofNat, Nat.testBit_mul_two_pow,
    Nat.testBit_two_pow_sub_one, Nat.testBit_mod_two_pow]
  by_cases h : lo ≤ i ∧ i ≤ hi
  · have h1 : i < 32 := by omega
    have h2 : i - lo < hi + 1 - lo := by omega
    simp [h, h1, h2]
  · simp only [h, if_false]
    by_cases h1 : i < 32
    · have : (decide (lo ≤ i) && decide (i - lo < hi + 1 - lo)) = false := by
        simp only [Bool.and_eq_false_iff, decide_eq_false_iff_not]
        omega
      by_cases hl : lo ≤ i
      · have h3 : ¬ (i - lo < hi + 1 - lo) := by omega
        simp [h1, h3]
      · simp [h1, hl]
    · simp [h1]
      have := BitVec.getLsbD_of_ge w i (by omega)
      simp [this]

/-- A field reads back what was written, modulo its width. -/
theorem fieldOf_setField (w : Word) (hi lo v : Nat) (hw : lo ≤ hi) (h32 : hi < 32) :
    fieldOf (setField w hi lo v) hi lo = v % 2 ^ (hi + 1 - lo) := by
  apply Nat.eq_of_testBit_eq
  intro i
  rw [testBit_fieldOf, getLsbD_setField w hi lo v _ hw h32, Nat.testBit_mod_two_pow]
  by_cases h : i < hi + 1 - lo
  · have : lo ≤ lo + i ∧ lo + i ≤ hi := by omega
    simp [h, this]
  · simp [h]

/-- A field outside the one written keeps its value. -/
theorem fieldOf_setField_other (w : Word) (hi lo v hi' lo' : Nat) (hw : lo ≤ hi) (h32 : hi < 32) (h : hi < lo' ∨ hi' < lo) :
    fieldOf (setField w hi lo v) hi' lo' = fieldOf w hi' lo' := by
  apply Nat.eq_of_testBit_eq
  intro i
  rw [testBit_fieldOf, testBit_fieldOf, getLsbD_setField w hi lo v _ hw h32]
  by_cases hi1 : i < hi' + 1 - lo'
  · have : ¬ (lo ≤ lo' + i ∧ lo' + i ≤ hi) := by omega
    simp [this]
  · simp [hi1]

/-! ### Named fields -/

/-- A field of the register map: its bits in order and within the word. -/
abbrev Fld.ok (f : Fld) : Prop := f.lo ≤ f.hi ∧ f.hi < 32

/-- Two fields share no bit. -/
abbrev Fld.apart (f g : Fld) : Prop := f.addr ≠ g.addr ∨ f.hi < g.lo ∨ g.hi < f.lo

theorem fg_fp_self (d : Dev) (f : Fld) (v : Nat) (hf : Fld.ok f) : (d.fp f v).fg f = v % 2 ^ (f.hi + 1 - f.lo) := by
  unfold Dev.fg Dev.fp
  rw [reg_setReg_self]
  exact fieldOf_setField _ _ _ _ hf.1 hf.2

theorem fg_fp_other (d : Dev) (f g : Fld) (v : Nat) (hf : Fld.ok f) (h : Fld.apart f g) : (d.fp f v).fg g = d.fg g := by
  unfold Dev.fg Dev.fp
  by_cases e : g.addr = f.addr
  · rw [e, reg_setReg_self]
    exact fieldOf_setField_other _ _ _ _ _ _ hf.1 hf.2 (h.resolve_left (fun n => n e.symm))
  · rw [reg_setReg_other _ _ e]

theorem fg_setReg_other (d : Dev) (a : Nat) (w : Word) (g : Fld) (h : a ≠ g.addr) : (d.setReg a w).fg g = d.fg g := by
  unfold Dev.fg
  rw [reg_setReg_other _ _ (Ne.symm h)]

theorem on_fp_self (d : Dev) (f : Fld) (v : Nat) (hf : Fld.ok f) : (d.fp f v).on f = (v % 2 ^ (f.hi + 1 - f.lo) != 0) := by
  unfold Dev.on
  rw [fg_fp_self d f v hf]

theorem on_fp_other (d : Dev) (f g : Fld) (v : Nat) (hf : Fld.ok f) (h : Fld.apart f g) : (d.fp f v).on g = d.on g := by
  unfold Dev.on
  rw [fg_fp_other d f g v hf h]

end Sys2Proof.Laws
end

