-- ==== Sys2Proof/Laws/State.lean ====
section
/-! SUPPORT. What each update of the device leaves alone, field by field, each true by unfolding; what a table of the device
reads after a write; the answer of a meaning. -/
namespace Sys2Proof.Laws
open Sys2Proof.Machine

variable (s : State) (d e : Dev)

/-! ### Answers -/

theorem done_eq : done s d = .next { s with dev := d } := rfl
@[simp] theorem heard_of (f : Dev → Dev) (h : d.hears = true) : d.heard f = f d := by simp [Dev.heard, h]
@[simp] theorem heard_not (f : Dev → Dev) (h : d.hears = false) : d.heard f = d := by simp [Dev.heard, h]
@[simp] theorem each_nil {α : Type} (f : α → Dev → Dev) : each [] f d = d := rfl
@[simp] theorem each_cons {α : Type} (x : α) (l : List α) (f : α → Dev → Dev) : each (x :: l) f d = each l f (f x d) := rfl

/-- What every pass of a repetition keeps, the repetition keeps. -/
theorem each_keeps {α β : Type} (g : Dev → β) (l : List α) (f : α → Dev → Dev) (h : ∀ x ∈ l, ∀ y, g (f x y) = g y) :
    g (each l f d) = g d := by
  induction l generalizing d with
  | nil => rfl
  | cons x l ih =>
    rw [each_cons, ih _ (fun y hy => h y (List.mem_cons_of_mem _ hy)), h x List.mem_cons_self]

/-! ### Tables of the device -/

theorem ctx_setCtx (i j : Nat) (x : Ctx) : (d.setCtx i x).ctx j = if j = i then x else d.ctx j := tget_tput _ _ _ _ _
theorem voice_setVoice (i j : Nat) (x : Voice) : (d.setVoice i x).voice j = if j = i then x else d.voice j := tget_tput _ _ _ _ _
theorem spn_setSpn (i j : Nat) (x : Spn) : (d.setSpn i x).spn j = if j = i then x else d.spn j := tget_tput _ _ _ _ _
theorem port_setPort (i j : Nat) (x : Port) : (d.setPort i x).port j = if j = i then x else d.port j := tget_tput _ _ _ _ _
theorem tmr_setTmr (i j : Nat) (x : Tmr) : (d.setTmr i x).tmr j = if j = i then x else d.tmr j := tget_tput _ _ _ _ _
theorem uart_setUart (i j : Nat) (x : Uart) : (d.setUart i x).uart j = if j = i then x else d.uart j := tget_tput _ _ _ _ _
theorem lport_setLport (i j : Nat) (x : LPort) : (d.setLport i x).lport j = if j = i then x else d.lport j :=
  tget_tput _ _ _ _ _
theorem waiting_setWaiting (i j : Nat) (l : List Msg) : (d.setWaiting i l).waiting j = if j = i then l else d.waiting j :=
  tget_tput _ _ _ _ _

/-! ### setReg -/

@[simp] theorem setReg_staged (a : Nat) (w : Word) : (d.setReg a w).staged = d.staged := rfl
@[simp] theorem setReg_mem (a : Nat) (w : Word) : (d.setReg a w).mem = d.mem := rfl
@[simp] theorem setReg_flash (a : Nat) (w : Word) : (d.setReg a w).flash = d.flash := rfl
@[simp] theorem setReg_free (a : Nat) (w : Word) : (d.setReg a w).free = d.free := rfl
@[simp] theorem setReg_scrubAt (a : Nat) (w : Word) : (d.setReg a w).scrubAt = d.scrubAt := rfl
@[simp] theorem setReg_pwr (a : Nat) (w : Word) : (d.setReg a w).pwr = d.pwr := rfl
@[simp] theorem setReg_time (a : Nat) (w : Word) : (d.setReg a w).time = d.time := rfl
@[simp] theorem setReg_evt (a : Nat) (w : Word) : (d.setReg a w).evt = d.evt := rfl
@[simp] theorem setReg_note (a : Nat) (w : Word) : (d.setReg a w).note = d.note := rfl
@[simp] theorem setReg_stg (a : Nat) (w : Word) : (d.setReg a w).stg = d.stg := rfl
@[simp] theorem setReg_eng (a : Nat) (w : Word) : (d.setReg a w).eng = d.eng := rfl
@[simp] theorem setReg_voices (a : Nat) (w : Word) : (d.setReg a w).voices = d.voices := rfl
@[simp] theorem setReg_ctxs (a : Nat) (w : Word) : (d.setReg a w).ctxs = d.ctxs := rfl
@[simp] theorem setReg_spns (a : Nat) (w : Word) : (d.setReg a w).spns = d.spns := rfl
@[simp] theorem setReg_alloc (a : Nat) (w : Word) : (d.setReg a w).alloc = d.alloc := rfl
@[simp] theorem setReg_mix (a : Nat) (w : Word) : (d.setReg a w).mix = d.mix := rfl
@[simp] theorem setReg_ports (a : Nat) (w : Word) : (d.setReg a w).ports = d.ports := rfl
@[simp] theorem setReg_cv (a : Nat) (w : Word) : (d.setReg a w).cv = d.cv := rfl
@[simp] theorem setReg_tune (a : Nat) (w : Word) : (d.setReg a w).tune = d.tune := rfl
@[simp] theorem setReg_tmrs (a : Nat) (w : Word) : (d.setReg a w).tmrs = d.tmrs := rfl
@[simp] theorem setReg_cbl (a : Nat) (w : Word) : (d.setReg a w).cbl = d.cbl := rfl
@[simp] theorem setReg_net (a : Nat) (w : Word) : (d.setReg a w).net = d.net := rfl
@[simp] theorem setReg_uarts (a : Nat) (w : Word) : (d.setReg a w).uarts = d.uarts := rfl
@[simp] theorem setReg_host (a : Nat) (w : Word) : (d.setReg a w).host = d.host := rfl
@[simp] theorem setReg_nvj (a : Nat) (w : Word) : (d.setReg a w).nvj = d.nvj := rfl
@[simp] theorem setReg_age (a : Nat) (w : Word) : (d.setReg a w).age = d.age := rfl
@[simp] theorem setReg_fuses (a : Nat) (w : Word) : (d.setReg a w).fuses = d.fuses := rfl
@[simp] theorem setReg_pins (a : Nat) (w : Word) : (d.setReg a w).pins = d.pins := rfl

/-! ### fp -/

@[simp] theorem fp_staged (f : Fld) (v : Nat) : (d.fp f v).staged = d.staged := rfl
@[simp] theorem fp_mem (f : Fld) (v : Nat) : (d.fp f v).mem = d.mem := rfl
@[simp] theorem fp_flash (f : Fld) (v : Nat) : (d.fp f v).flash = d.flash := rfl
@[simp] theorem fp_free (f : Fld) (v : Nat) : (d.fp f v).free = d.free := rfl
@[simp] theorem fp_scrubAt (f : Fld) (v : Nat) : (d.fp f v).scrubAt = d.scrubAt := rfl
@[simp] theorem fp_pwr (f : Fld) (v : Nat) : (d.fp f v).pwr = d.pwr := rfl
@[simp] theorem fp_time (f : Fld) (v : Nat) : (d.fp f v).time = d.time := rfl
@[simp] theorem fp_evt (f : Fld) (v : Nat) : (d.fp f v).evt = d.evt := rfl
@[simp] theorem fp_note (f : Fld) (v : Nat) : (d.fp f v).note = d.note := rfl
@[simp] theorem fp_stg (f : Fld) (v : Nat) : (d.fp f v).stg = d.stg := rfl
@[simp] theorem fp_eng (f : Fld) (v : Nat) : (d.fp f v).eng = d.eng := rfl
@[simp] theorem fp_voices (f : Fld) (v : Nat) : (d.fp f v).voices = d.voices := rfl
@[simp] theorem fp_ctxs (f : Fld) (v : Nat) : (d.fp f v).ctxs = d.ctxs := rfl
@[simp] theorem fp_spns (f : Fld) (v : Nat) : (d.fp f v).spns = d.spns := rfl
@[simp] theorem fp_alloc (f : Fld) (v : Nat) : (d.fp f v).alloc = d.alloc := rfl
@[simp] theorem fp_mix (f : Fld) (v : Nat) : (d.fp f v).mix = d.mix := rfl
@[simp] theorem fp_ports (f : Fld) (v : Nat) : (d.fp f v).ports = d.ports := rfl
@[simp] theorem fp_cv (f : Fld) (v : Nat) : (d.fp f v).cv = d.cv := rfl
@[simp] theorem fp_tune (f : Fld) (v : Nat) : (d.fp f v).tune = d.tune := rfl
@[simp] theorem fp_tmrs (f : Fld) (v : Nat) : (d.fp f v).tmrs = d.tmrs := rfl
@[simp] theorem fp_cbl (f : Fld) (v : Nat) : (d.fp f v).cbl = d.cbl := rfl
@[simp] theorem fp_net (f : Fld) (v : Nat) : (d.fp f v).net = d.net := rfl
@[simp] theorem fp_uarts (f : Fld) (v : Nat) : (d.fp f v).uarts = d.uarts := rfl
@[simp] theorem fp_host (f : Fld) (v : Nat) : (d.fp f v).host = d.host := rfl
@[simp] theorem fp_nvj (f : Fld) (v : Nat) : (d.fp f v).nvj = d.nvj := rfl
@[simp] theorem fp_age (f : Fld) (v : Nat) : (d.fp f v).age = d.age := rfl
@[simp] theorem fp_fuses (f : Fld) (v : Nat) : (d.fp f v).fuses = d.fuses := rfl
@[simp] theorem fp_pins (f : Fld) (v : Nat) : (d.fp f v).pins = d.pins := rfl

/-! ### count -/

@[simp] theorem count_staged (f : Fld) (n : Nat) : (d.count f n).staged = d.staged := rfl
@[simp] theorem count_mem (f : Fld) (n : Nat) : (d.count f n).mem = d.mem := rfl
@[simp] theorem count_flash (f : Fld) (n : Nat) : (d.count f n).flash = d.flash := rfl
@[simp] theorem count_free (f : Fld) (n : Nat) : (d.count f n).free = d.free := rfl
@[simp] theorem count_scrubAt (f : Fld) (n : Nat) : (d.count f n).scrubAt = d.scrubAt := rfl
@[simp] theorem count_pwr (f : Fld) (n : Nat) : (d.count f n).pwr = d.pwr := rfl
@[simp] theorem count_time (f : Fld) (n : Nat) : (d.count f n).time = d.time := rfl
@[simp] theorem count_evt (f : Fld) (n : Nat) : (d.count f n).evt = d.evt := rfl
@[simp] theorem count_note (f : Fld) (n : Nat) : (d.count f n).note = d.note := rfl
@[simp] theorem count_stg (f : Fld) (n : Nat) : (d.count f n).stg = d.stg := rfl
@[simp] theorem count_eng (f : Fld) (n : Nat) : (d.count f n).eng = d.eng := rfl
@[simp] theorem count_voices (f : Fld) (n : Nat) : (d.count f n).voices = d.voices := rfl
@[simp] theorem count_ctxs (f : Fld) (n : Nat) : (d.count f n).ctxs = d.ctxs := rfl
@[simp] theorem count_spns (f : Fld) (n : Nat) : (d.count f n).spns = d.spns := rfl
@[simp] theorem count_alloc (f : Fld) (n : Nat) : (d.count f n).alloc = d.alloc := rfl
@[simp] theorem count_mix (f : Fld) (n : Nat) : (d.count f n).mix = d.mix := rfl
@[simp] theorem count_ports (f : Fld) (n : Nat) : (d.count f n).ports = d.ports := rfl
@[simp] theorem count_cv (f : Fld) (n : Nat) : (d.count f n).cv = d.cv := rfl
@[simp] theorem count_tune (f : Fld) (n : Nat) : (d.count f n).tune = d.tune := rfl
@[simp] theorem count_tmrs (f : Fld) (n : Nat) : (d.count f n).tmrs = d.tmrs := rfl
@[simp] theorem count_cbl (f : Fld) (n : Nat) : (d.count f n).cbl = d.cbl := rfl
@[simp] theorem count_net (f : Fld) (n : Nat) : (d.count f n).net = d.net := rfl
@[simp] theorem count_uarts (f : Fld) (n : Nat) : (d.count f n).uarts = d.uarts := rfl
@[simp] theorem count_host (f : Fld) (n : Nat) : (d.count f n).host = d.host := rfl
@[simp] theorem count_nvj (f : Fld) (n : Nat) : (d.count f n).nvj = d.nvj := rfl
@[simp] theorem count_age (f : Fld) (n : Nat) : (d.count f n).age = d.age := rfl
@[simp] theorem count_fuses (f : Fld) (n : Nat) : (d.count f n).fuses = d.fuses := rfl
@[simp] theorem count_pins (f : Fld) (n : Nat) : (d.count f n).pins = d.pins := rfl

/-! ### setBit -/

@[simp] theorem setBit_staged (a k : Nat) : (d.setBit a k).staged = d.staged := rfl
@[simp] theorem setBit_mem (a k : Nat) : (d.setBit a k).mem = d.mem := rfl
@[simp] theorem setBit_flash (a k : Nat) : (d.setBit a k).flash = d.flash := rfl
@[simp] theorem setBit_free (a k : Nat) : (d.setBit a k).free = d.free := rfl
@[simp] theorem setBit_scrubAt (a k : Nat) : (d.setBit a k).scrubAt = d.scrubAt := rfl
@[simp] theorem setBit_pwr (a k : Nat) : (d.setBit a k).pwr = d.pwr := rfl
@[simp] theorem setBit_time (a k : Nat) : (d.setBit a k).time = d.time := rfl
@[simp] theorem setBit_evt (a k : Nat) : (d.setBit a k).evt = d.evt := rfl
@[simp] theorem setBit_note (a k : Nat) : (d.setBit a k).note = d.note := rfl
@[simp] theorem setBit_stg (a k : Nat) : (d.setBit a k).stg = d.stg := rfl
@[simp] theorem setBit_eng (a k : Nat) : (d.setBit a k).eng = d.eng := rfl
@[simp] theorem setBit_voices (a k : Nat) : (d.setBit a k).voices = d.voices := rfl
@[simp] theorem setBit_ctxs (a k : Nat) : (d.setBit a k).ctxs = d.ctxs := rfl
@[simp] theorem setBit_spns (a k : Nat) : (d.setBit a k).spns = d.spns := rfl
@[simp] theorem setBit_alloc (a k : Nat) : (d.setBit a k).alloc = d.alloc := rfl
@[simp] theorem setBit_mix (a k : Nat) : (d.setBit a k).mix = d.mix := rfl
@[simp] theorem setBit_ports (a k : Nat) : (d.setBit a k).ports = d.ports := rfl
@[simp] theorem setBit_cv (a k : Nat) : (d.setBit a k).cv = d.cv := rfl
@[simp] theorem setBit_tune (a k : Nat) : (d.setBit a k).tune = d.tune := rfl
@[simp] theorem setBit_tmrs (a k : Nat) : (d.setBit a k).tmrs = d.tmrs := rfl
@[simp] theorem setBit_cbl (a k : Nat) : (d.setBit a k).cbl = d.cbl := rfl
@[simp] theorem setBit_net (a k : Nat) : (d.setBit a k).net = d.net := rfl
@[simp] theorem setBit_uarts (a k : Nat) : (d.setBit a k).uarts = d.uarts := rfl
@[simp] theorem setBit_host (a k : Nat) : (d.setBit a k).host = d.host := rfl
@[simp] theorem setBit_nvj (a k : Nat) : (d.setBit a k).nvj = d.nvj := rfl
@[simp] theorem setBit_age (a k : Nat) : (d.setBit a k).age = d.age := rfl
@[simp] theorem setBit_fuses (a k : Nat) : (d.setBit a k).fuses = d.fuses := rfl
@[simp] theorem setBit_pins (a k : Nat) : (d.setBit a k).pins = d.pins := rfl

/-! ### clrBit -/

@[simp] theorem clrBit_staged (a k : Nat) : (d.clrBit a k).staged = d.staged := rfl
@[simp] theorem clrBit_mem (a k : Nat) : (d.clrBit a k).mem = d.mem := rfl
@[simp] theorem clrBit_flash (a k : Nat) : (d.clrBit a k).flash = d.flash := rfl
@[simp] theorem clrBit_free (a k : Nat) : (d.clrBit a k).free = d.free := rfl
@[simp] theorem clrBit_scrubAt (a k : Nat) : (d.clrBit a k).scrubAt = d.scrubAt := rfl
@[simp] theorem clrBit_pwr (a k : Nat) : (d.clrBit a k).pwr = d.pwr := rfl
@[simp] theorem clrBit_time (a k : Nat) : (d.clrBit a k).time = d.time := rfl
@[simp] theorem clrBit_evt (a k : Nat) : (d.clrBit a k).evt = d.evt := rfl
@[simp] theorem clrBit_note (a k : Nat) : (d.clrBit a k).note = d.note := rfl
@[simp] theorem clrBit_stg (a k : Nat) : (d.clrBit a k).stg = d.stg := rfl
@[simp] theorem clrBit_eng (a k : Nat) : (d.clrBit a k).eng = d.eng := rfl
@[simp] theorem clrBit_voices (a k : Nat) : (d.clrBit a k).voices = d.voices := rfl
@[simp] theorem clrBit_ctxs (a k : Nat) : (d.clrBit a k).ctxs = d.ctxs := rfl
@[simp] theorem clrBit_spns (a k : Nat) : (d.clrBit a k).spns = d.spns := rfl
@[simp] theorem clrBit_alloc (a k : Nat) : (d.clrBit a k).alloc = d.alloc := rfl
@[simp] theorem clrBit_mix (a k : Nat) : (d.clrBit a k).mix = d.mix := rfl
@[simp] theorem clrBit_ports (a k : Nat) : (d.clrBit a k).ports = d.ports := rfl
@[simp] theorem clrBit_cv (a k : Nat) : (d.clrBit a k).cv = d.cv := rfl
@[simp] theorem clrBit_tune (a k : Nat) : (d.clrBit a k).tune = d.tune := rfl
@[simp] theorem clrBit_tmrs (a k : Nat) : (d.clrBit a k).tmrs = d.tmrs := rfl
@[simp] theorem clrBit_cbl (a k : Nat) : (d.clrBit a k).cbl = d.cbl := rfl
@[simp] theorem clrBit_net (a k : Nat) : (d.clrBit a k).net = d.net := rfl
@[simp] theorem clrBit_uarts (a k : Nat) : (d.clrBit a k).uarts = d.uarts := rfl
@[simp] theorem clrBit_host (a k : Nat) : (d.clrBit a k).host = d.host := rfl
@[simp] theorem clrBit_nvj (a k : Nat) : (d.clrBit a k).nvj = d.nvj := rfl
@[simp] theorem clrBit_age (a k : Nat) : (d.clrBit a k).age = d.age := rfl
@[simp] theorem clrBit_fuses (a k : Nat) : (d.clrBit a k).fuses = d.fuses := rfl
@[simp] theorem clrBit_pins (a k : Nat) : (d.clrBit a k).pins = d.pins := rfl

/-! ### addOff -/

@[simp] theorem addOff_live (n : Int) : (d.addOff n).live = d.live := rfl
@[simp] theorem addOff_staged (n : Int) : (d.addOff n).staged = d.staged := rfl
@[simp] theorem addOff_mem (n : Int) : (d.addOff n).mem = d.mem := rfl
@[simp] theorem addOff_flash (n : Int) : (d.addOff n).flash = d.flash := rfl
@[simp] theorem addOff_free (n : Int) : (d.addOff n).free = d.free := rfl
@[simp] theorem addOff_scrubAt (n : Int) : (d.addOff n).scrubAt = d.scrubAt := rfl
@[simp] theorem addOff_pwr (n : Int) : (d.addOff n).pwr = d.pwr := rfl
@[simp] theorem addOff_evt (n : Int) : (d.addOff n).evt = d.evt := rfl
@[simp] theorem addOff_note (n : Int) : (d.addOff n).note = d.note := rfl
@[simp] theorem addOff_stg (n : Int) : (d.addOff n).stg = d.stg := rfl
@[simp] theorem addOff_eng (n : Int) : (d.addOff n).eng = d.eng := rfl
@[simp] theorem addOff_voices (n : Int) : (d.addOff n).voices = d.voices := rfl
@[simp] theorem addOff_ctxs (n : Int) : (d.addOff n).ctxs = d.ctxs := rfl
@[simp] theorem addOff_spns (n : Int) : (d.addOff n).spns = d.spns := rfl
@[simp] theorem addOff_alloc (n : Int) : (d.addOff n).alloc = d.alloc := rfl
@[simp] theorem addOff_mix (n : Int) : (d.addOff n).mix = d.mix := rfl
@[simp] theorem addOff_ports (n : Int) : (d.addOff n).ports = d.ports := rfl
@[simp] theorem addOff_cv (n : Int) : (d.addOff n).cv = d.cv := rfl
@[simp] theorem addOff_tune (n : Int) : (d.addOff n).tune = d.tune := rfl
@[simp] theorem addOff_tmrs (n : Int) : (d.addOff n).tmrs = d.tmrs := rfl
@[simp] theorem addOff_cbl (n : Int) : (d.addOff n).cbl = d.cbl := rfl
@[simp] theorem addOff_net (n : Int) : (d.addOff n).net = d.net := rfl
@[simp] theorem addOff_uarts (n : Int) : (d.addOff n).uarts = d.uarts := rfl
@[simp] theorem addOff_host (n : Int) : (d.addOff n).host = d.host := rfl
@[simp] theorem addOff_nvj (n : Int) : (d.addOff n).nvj = d.nvj := rfl
@[simp] theorem addOff_age (n : Int) : (d.addOff n).age = d.age := rfl
@[simp] theorem addOff_fuses (n : Int) : (d.addOff n).fuses = d.fuses := rfl
@[simp] theorem addOff_pins (n : Int) : (d.addOff n).pins = d.pins := rfl

/-! ### setVoice -/

@[simp] theorem setVoice_live (v : Nat) (x : Voice) : (d.setVoice v x).live = d.live := rfl
@[simp] theorem setVoice_staged (v : Nat) (x : Voice) : (d.setVoice v x).staged = d.staged := rfl
@[simp] theorem setVoice_mem (v : Nat) (x : Voice) : (d.setVoice v x).mem = d.mem := rfl
@[simp] theorem setVoice_flash (v : Nat) (x : Voice) : (d.setVoice v x).flash = d.flash := rfl
@[simp] theorem setVoice_free (v : Nat) (x : Voice) : (d.setVoice v x).free = d.free := rfl
@[simp] theorem setVoice_scrubAt (v : Nat) (x : Voice) : (d.setVoice v x).scrubAt = d.scrubAt := rfl
@[simp] theorem setVoice_pwr (v : Nat) (x : Voice) : (d.setVoice v x).pwr = d.pwr := rfl
@[simp] theorem setVoice_time (v : Nat) (x : Voice) : (d.setVoice v x).time = d.time := rfl
@[simp] theorem setVoice_evt (v : Nat) (x : Voice) : (d.setVoice v x).evt = d.evt := rfl
@[simp] theorem setVoice_note (v : Nat) (x : Voice) : (d.setVoice v x).note = d.note := rfl
@[simp] theorem setVoice_stg (v : Nat) (x : Voice) : (d.setVoice v x).stg = d.stg := rfl
@[simp] theorem setVoice_eng (v : Nat) (x : Voice) : (d.setVoice v x).eng = d.eng := rfl
@[simp] theorem setVoice_ctxs (v : Nat) (x : Voice) : (d.setVoice v x).ctxs = d.ctxs := rfl
@[simp] theorem setVoice_spns (v : Nat) (x : Voice) : (d.setVoice v x).spns = d.spns := rfl
@[simp] theorem setVoice_alloc (v : Nat) (x : Voice) : (d.setVoice v x).alloc = d.alloc := rfl
@[simp] theorem setVoice_mix (v : Nat) (x : Voice) : (d.setVoice v x).mix = d.mix := rfl
@[simp] theorem setVoice_ports (v : Nat) (x : Voice) : (d.setVoice v x).ports = d.ports := rfl
@[simp] theorem setVoice_cv (v : Nat) (x : Voice) : (d.setVoice v x).cv = d.cv := rfl
@[simp] theorem setVoice_tune (v : Nat) (x : Voice) : (d.setVoice v x).tune = d.tune := rfl
@[simp] theorem setVoice_tmrs (v : Nat) (x : Voice) : (d.setVoice v x).tmrs = d.tmrs := rfl
@[simp] theorem setVoice_cbl (v : Nat) (x : Voice) : (d.setVoice v x).cbl = d.cbl := rfl
@[simp] theorem setVoice_net (v : Nat) (x : Voice) : (d.setVoice v x).net = d.net := rfl
@[simp] theorem setVoice_uarts (v : Nat) (x : Voice) : (d.setVoice v x).uarts = d.uarts := rfl
@[simp] theorem setVoice_host (v : Nat) (x : Voice) : (d.setVoice v x).host = d.host := rfl
@[simp] theorem setVoice_nvj (v : Nat) (x : Voice) : (d.setVoice v x).nvj = d.nvj := rfl
@[simp] theorem setVoice_age (v : Nat) (x : Voice) : (d.setVoice v x).age = d.age := rfl
@[simp] theorem setVoice_fuses (v : Nat) (x : Voice) : (d.setVoice v x).fuses = d.fuses := rfl
@[simp] theorem setVoice_pins (v : Nat) (x : Voice) : (d.setVoice v x).pins = d.pins := rfl

/-! ### setCtx -/

@[simp] theorem setCtx_live (i : Nat) (x : Ctx) : (d.setCtx i x).live = d.live := rfl
@[simp] theorem setCtx_staged (i : Nat) (x : Ctx) : (d.setCtx i x).staged = d.staged := rfl
@[simp] theorem setCtx_mem (i : Nat) (x : Ctx) : (d.setCtx i x).mem = d.mem := rfl
@[simp] theorem setCtx_flash (i : Nat) (x : Ctx) : (d.setCtx i x).flash = d.flash := rfl
@[simp] theorem setCtx_free (i : Nat) (x : Ctx) : (d.setCtx i x).free = d.free := rfl
@[simp] theorem setCtx_scrubAt (i : Nat) (x : Ctx) : (d.setCtx i x).scrubAt = d.scrubAt := rfl
@[simp] theorem setCtx_pwr (i : Nat) (x : Ctx) : (d.setCtx i x).pwr = d.pwr := rfl
@[simp] theorem setCtx_time (i : Nat) (x : Ctx) : (d.setCtx i x).time = d.time := rfl
@[simp] theorem setCtx_evt (i : Nat) (x : Ctx) : (d.setCtx i x).evt = d.evt := rfl
@[simp] theorem setCtx_note (i : Nat) (x : Ctx) : (d.setCtx i x).note = d.note := rfl
@[simp] theorem setCtx_stg (i : Nat) (x : Ctx) : (d.setCtx i x).stg = d.stg := rfl
@[simp] theorem setCtx_eng (i : Nat) (x : Ctx) : (d.setCtx i x).eng = d.eng := rfl
@[simp] theorem setCtx_voices (i : Nat) (x : Ctx) : (d.setCtx i x).voices = d.voices := rfl
@[simp] theorem setCtx_spns (i : Nat) (x : Ctx) : (d.setCtx i x).spns = d.spns := rfl
@[simp] theorem setCtx_alloc (i : Nat) (x : Ctx) : (d.setCtx i x).alloc = d.alloc := rfl
@[simp] theorem setCtx_mix (i : Nat) (x : Ctx) : (d.setCtx i x).mix = d.mix := rfl
@[simp] theorem setCtx_ports (i : Nat) (x : Ctx) : (d.setCtx i x).ports = d.ports := rfl
@[simp] theorem setCtx_cv (i : Nat) (x : Ctx) : (d.setCtx i x).cv = d.cv := rfl
@[simp] theorem setCtx_tune (i : Nat) (x : Ctx) : (d.setCtx i x).tune = d.tune := rfl
@[simp] theorem setCtx_tmrs (i : Nat) (x : Ctx) : (d.setCtx i x).tmrs = d.tmrs := rfl
@[simp] theorem setCtx_cbl (i : Nat) (x : Ctx) : (d.setCtx i x).cbl = d.cbl := rfl
@[simp] theorem setCtx_net (i : Nat) (x : Ctx) : (d.setCtx i x).net = d.net := rfl
@[simp] theorem setCtx_uarts (i : Nat) (x : Ctx) : (d.setCtx i x).uarts = d.uarts := rfl
@[simp] theorem setCtx_host (i : Nat) (x : Ctx) : (d.setCtx i x).host = d.host := rfl
@[simp] theorem setCtx_nvj (i : Nat) (x : Ctx) : (d.setCtx i x).nvj = d.nvj := rfl
@[simp] theorem setCtx_age (i : Nat) (x : Ctx) : (d.setCtx i x).age = d.age := rfl
@[simp] theorem setCtx_fuses (i : Nat) (x : Ctx) : (d.setCtx i x).fuses = d.fuses := rfl
@[simp] theorem setCtx_pins (i : Nat) (x : Ctx) : (d.setCtx i x).pins = d.pins := rfl

/-! ### setSpn -/

@[simp] theorem setSpn_live (n : Nat) (x : Spn) : (d.setSpn n x).live = d.live := rfl
@[simp] theorem setSpn_staged (n : Nat) (x : Spn) : (d.setSpn n x).staged = d.staged := rfl
@[simp] theorem setSpn_mem (n : Nat) (x : Spn) : (d.setSpn n x).mem = d.mem := rfl
@[simp] theorem setSpn_flash (n : Nat) (x : Spn) : (d.setSpn n x).flash = d.flash := rfl
@[simp] theorem setSpn_free (n : Nat) (x : Spn) : (d.setSpn n x).free = d.free := rfl
@[simp] theorem setSpn_scrubAt (n : Nat) (x : Spn) : (d.setSpn n x).scrubAt = d.scrubAt := rfl
@[simp] theorem setSpn_pwr (n : Nat) (x : Spn) : (d.setSpn n x).pwr = d.pwr := rfl
@[simp] theorem setSpn_time (n : Nat) (x : Spn) : (d.setSpn n x).time = d.time := rfl
@[simp] theorem setSpn_evt (n : Nat) (x : Spn) : (d.setSpn n x).evt = d.evt := rfl
@[simp] theorem setSpn_note (n : Nat) (x : Spn) : (d.setSpn n x).note = d.note := rfl
@[simp] theorem setSpn_stg (n : Nat) (x : Spn) : (d.setSpn n x).stg = d.stg := rfl
@[simp] theorem setSpn_eng (n : Nat) (x : Spn) : (d.setSpn n x).eng = d.eng := rfl
@[simp] theorem setSpn_voices (n : Nat) (x : Spn) : (d.setSpn n x).voices = d.voices := rfl
@[simp] theorem setSpn_ctxs (n : Nat) (x : Spn) : (d.setSpn n x).ctxs = d.ctxs := rfl
@[simp] theorem setSpn_alloc (n : Nat) (x : Spn) : (d.setSpn n x).alloc = d.alloc := rfl
@[simp] theorem setSpn_mix (n : Nat) (x : Spn) : (d.setSpn n x).mix = d.mix := rfl
@[simp] theorem setSpn_ports (n : Nat) (x : Spn) : (d.setSpn n x).ports = d.ports := rfl
@[simp] theorem setSpn_cv (n : Nat) (x : Spn) : (d.setSpn n x).cv = d.cv := rfl
@[simp] theorem setSpn_tune (n : Nat) (x : Spn) : (d.setSpn n x).tune = d.tune := rfl
@[simp] theorem setSpn_tmrs (n : Nat) (x : Spn) : (d.setSpn n x).tmrs = d.tmrs := rfl
@[simp] theorem setSpn_cbl (n : Nat) (x : Spn) : (d.setSpn n x).cbl = d.cbl := rfl
@[simp] theorem setSpn_net (n : Nat) (x : Spn) : (d.setSpn n x).net = d.net := rfl
@[simp] theorem setSpn_uarts (n : Nat) (x : Spn) : (d.setSpn n x).uarts = d.uarts := rfl
@[simp] theorem setSpn_host (n : Nat) (x : Spn) : (d.setSpn n x).host = d.host := rfl
@[simp] theorem setSpn_nvj (n : Nat) (x : Spn) : (d.setSpn n x).nvj = d.nvj := rfl
@[simp] theorem setSpn_age (n : Nat) (x : Spn) : (d.setSpn n x).age = d.age := rfl
@[simp] theorem setSpn_fuses (n : Nat) (x : Spn) : (d.setSpn n x).fuses = d.fuses := rfl
@[simp] theorem setSpn_pins (n : Nat) (x : Spn) : (d.setSpn n x).pins = d.pins := rfl

/-! ### setPort -/

@[simp] theorem setPort_live (n : Nat) (x : Port) : (d.setPort n x).live = d.live := rfl
@[simp] theorem setPort_staged (n : Nat) (x : Port) : (d.setPort n x).staged = d.staged := rfl
@[simp] theorem setPort_mem (n : Nat) (x : Port) : (d.setPort n x).mem = d.mem := rfl
@[simp] theorem setPort_flash (n : Nat) (x : Port) : (d.setPort n x).flash = d.flash := rfl
@[simp] theorem setPort_free (n : Nat) (x : Port) : (d.setPort n x).free = d.free := rfl
@[simp] theorem setPort_scrubAt (n : Nat) (x : Port) : (d.setPort n x).scrubAt = d.scrubAt := rfl
@[simp] theorem setPort_pwr (n : Nat) (x : Port) : (d.setPort n x).pwr = d.pwr := rfl
@[simp] theorem setPort_time (n : Nat) (x : Port) : (d.setPort n x).time = d.time := rfl
@[simp] theorem setPort_evt (n : Nat) (x : Port) : (d.setPort n x).evt = d.evt := rfl
@[simp] theorem setPort_note (n : Nat) (x : Port) : (d.setPort n x).note = d.note := rfl
@[simp] theorem setPort_stg (n : Nat) (x : Port) : (d.setPort n x).stg = d.stg := rfl
@[simp] theorem setPort_eng (n : Nat) (x : Port) : (d.setPort n x).eng = d.eng := rfl
@[simp] theorem setPort_voices (n : Nat) (x : Port) : (d.setPort n x).voices = d.voices := rfl
@[simp] theorem setPort_ctxs (n : Nat) (x : Port) : (d.setPort n x).ctxs = d.ctxs := rfl
@[simp] theorem setPort_spns (n : Nat) (x : Port) : (d.setPort n x).spns = d.spns := rfl
@[simp] theorem setPort_alloc (n : Nat) (x : Port) : (d.setPort n x).alloc = d.alloc := rfl
@[simp] theorem setPort_mix (n : Nat) (x : Port) : (d.setPort n x).mix = d.mix := rfl
@[simp] theorem setPort_cv (n : Nat) (x : Port) : (d.setPort n x).cv = d.cv := rfl
@[simp] theorem setPort_tune (n : Nat) (x : Port) : (d.setPort n x).tune = d.tune := rfl
@[simp] theorem setPort_tmrs (n : Nat) (x : Port) : (d.setPort n x).tmrs = d.tmrs := rfl
@[simp] theorem setPort_cbl (n : Nat) (x : Port) : (d.setPort n x).cbl = d.cbl := rfl
@[simp] theorem setPort_net (n : Nat) (x : Port) : (d.setPort n x).net = d.net := rfl
@[simp] theorem setPort_uarts (n : Nat) (x : Port) : (d.setPort n x).uarts = d.uarts := rfl
@[simp] theorem setPort_host (n : Nat) (x : Port) : (d.setPort n x).host = d.host := rfl
@[simp] theorem setPort_nvj (n : Nat) (x : Port) : (d.setPort n x).nvj = d.nvj := rfl
@[simp] theorem setPort_age (n : Nat) (x : Port) : (d.setPort n x).age = d.age := rfl
@[simp] theorem setPort_fuses (n : Nat) (x : Port) : (d.setPort n x).fuses = d.fuses := rfl
@[simp] theorem setPort_pins (n : Nat) (x : Port) : (d.setPort n x).pins = d.pins := rfl

/-! ### setTmr -/

@[simp] theorem setTmr_live (n : Nat) (x : Tmr) : (d.setTmr n x).live = d.live := rfl
@[simp] theorem setTmr_staged (n : Nat) (x : Tmr) : (d.setTmr n x).staged = d.staged := rfl
@[simp] theorem setTmr_mem (n : Nat) (x : Tmr) : (d.setTmr n x).mem = d.mem := rfl
@[simp] theorem setTmr_flash (n : Nat) (x : Tmr) : (d.setTmr n x).flash = d.flash := rfl
@[simp] theorem setTmr_free (n : Nat) (x : Tmr) : (d.setTmr n x).free = d.free := rfl
@[simp] theorem setTmr_scrubAt (n : Nat) (x : Tmr) : (d.setTmr n x).scrubAt = d.scrubAt := rfl
@[simp] theorem setTmr_pwr (n : Nat) (x : Tmr) : (d.setTmr n x).pwr = d.pwr := rfl
@[simp] theorem setTmr_time (n : Nat) (x : Tmr) : (d.setTmr n x).time = d.time := rfl
@[simp] theorem setTmr_evt (n : Nat) (x : Tmr) : (d.setTmr n x).evt = d.evt := rfl
@[simp] theorem setTmr_note (n : Nat) (x : Tmr) : (d.setTmr n x).note = d.note := rfl
@[simp] theorem setTmr_stg (n : Nat) (x : Tmr) : (d.setTmr n x).stg = d.stg := rfl
@[simp] theorem setTmr_eng (n : Nat) (x : Tmr) : (d.setTmr n x).eng = d.eng := rfl
@[simp] theorem setTmr_voices (n : Nat) (x : Tmr) : (d.setTmr n x).voices = d.voices := rfl
@[simp] theorem setTmr_ctxs (n : Nat) (x : Tmr) : (d.setTmr n x).ctxs = d.ctxs := rfl
@[simp] theorem setTmr_spns (n : Nat) (x : Tmr) : (d.setTmr n x).spns = d.spns := rfl
@[simp] theorem setTmr_alloc (n : Nat) (x : Tmr) : (d.setTmr n x).alloc = d.alloc := rfl
@[simp] theorem setTmr_mix (n : Nat) (x : Tmr) : (d.setTmr n x).mix = d.mix := rfl
@[simp] theorem setTmr_ports (n : Nat) (x : Tmr) : (d.setTmr n x).ports = d.ports := rfl
@[simp] theorem setTmr_cv (n : Nat) (x : Tmr) : (d.setTmr n x).cv = d.cv := rfl
@[simp] theorem setTmr_tune (n : Nat) (x : Tmr) : (d.setTmr n x).tune = d.tune := rfl
@[simp] theorem setTmr_cbl (n : Nat) (x : Tmr) : (d.setTmr n x).cbl = d.cbl := rfl
@[simp] theorem setTmr_net (n : Nat) (x : Tmr) : (d.setTmr n x).net = d.net := rfl
@[simp] theorem setTmr_uarts (n : Nat) (x : Tmr) : (d.setTmr n x).uarts = d.uarts := rfl
@[simp] theorem setTmr_host (n : Nat) (x : Tmr) : (d.setTmr n x).host = d.host := rfl
@[simp] theorem setTmr_nvj (n : Nat) (x : Tmr) : (d.setTmr n x).nvj = d.nvj := rfl
@[simp] theorem setTmr_age (n : Nat) (x : Tmr) : (d.setTmr n x).age = d.age := rfl
@[simp] theorem setTmr_fuses (n : Nat) (x : Tmr) : (d.setTmr n x).fuses = d.fuses := rfl
@[simp] theorem setTmr_pins (n : Nat) (x : Tmr) : (d.setTmr n x).pins = d.pins := rfl

/-! ### setUart -/

@[simp] theorem setUart_live (n : Nat) (x : Uart) : (d.setUart n x).live = d.live := rfl
@[simp] theorem setUart_staged (n : Nat) (x : Uart) : (d.setUart n x).staged = d.staged := rfl
@[simp] theorem setUart_mem (n : Nat) (x : Uart) : (d.setUart n x).mem = d.mem := rfl
@[simp] theorem setUart_flash (n : Nat) (x : Uart) : (d.setUart n x).flash = d.flash := rfl
@[simp] theorem setUart_free (n : Nat) (x : Uart) : (d.setUart n x).free = d.free := rfl
@[simp] theorem setUart_scrubAt (n : Nat) (x : Uart) : (d.setUart n x).scrubAt = d.scrubAt := rfl
@[simp] theorem setUart_pwr (n : Nat) (x : Uart) : (d.setUart n x).pwr = d.pwr := rfl
@[simp] theorem setUart_time (n : Nat) (x : Uart) : (d.setUart n x).time = d.time := rfl
@[simp] theorem setUart_evt (n : Nat) (x : Uart) : (d.setUart n x).evt = d.evt := rfl
@[simp] theorem setUart_note (n : Nat) (x : Uart) : (d.setUart n x).note = d.note := rfl
@[simp] theorem setUart_stg (n : Nat) (x : Uart) : (d.setUart n x).stg = d.stg := rfl
@[simp] theorem setUart_eng (n : Nat) (x : Uart) : (d.setUart n x).eng = d.eng := rfl
@[simp] theorem setUart_voices (n : Nat) (x : Uart) : (d.setUart n x).voices = d.voices := rfl
@[simp] theorem setUart_ctxs (n : Nat) (x : Uart) : (d.setUart n x).ctxs = d.ctxs := rfl
@[simp] theorem setUart_spns (n : Nat) (x : Uart) : (d.setUart n x).spns = d.spns := rfl
@[simp] theorem setUart_alloc (n : Nat) (x : Uart) : (d.setUart n x).alloc = d.alloc := rfl
@[simp] theorem setUart_mix (n : Nat) (x : Uart) : (d.setUart n x).mix = d.mix := rfl
@[simp] theorem setUart_ports (n : Nat) (x : Uart) : (d.setUart n x).ports = d.ports := rfl
@[simp] theorem setUart_cv (n : Nat) (x : Uart) : (d.setUart n x).cv = d.cv := rfl
@[simp] theorem setUart_tune (n : Nat) (x : Uart) : (d.setUart n x).tune = d.tune := rfl
@[simp] theorem setUart_tmrs (n : Nat) (x : Uart) : (d.setUart n x).tmrs = d.tmrs := rfl
@[simp] theorem setUart_cbl (n : Nat) (x : Uart) : (d.setUart n x).cbl = d.cbl := rfl
@[simp] theorem setUart_net (n : Nat) (x : Uart) : (d.setUart n x).net = d.net := rfl
@[simp] theorem setUart_host (n : Nat) (x : Uart) : (d.setUart n x).host = d.host := rfl
@[simp] theorem setUart_nvj (n : Nat) (x : Uart) : (d.setUart n x).nvj = d.nvj := rfl
@[simp] theorem setUart_age (n : Nat) (x : Uart) : (d.setUart n x).age = d.age := rfl
@[simp] theorem setUart_fuses (n : Nat) (x : Uart) : (d.setUart n x).fuses = d.fuses := rfl
@[simp] theorem setUart_pins (n : Nat) (x : Uart) : (d.setUart n x).pins = d.pins := rfl

/-! ### setLport -/

@[simp] theorem setLport_live (p : Nat) (x : LPort) : (d.setLport p x).live = d.live := rfl
@[simp] theorem setLport_staged (p : Nat) (x : LPort) : (d.setLport p x).staged = d.staged := rfl
@[simp] theorem setLport_mem (p : Nat) (x : LPort) : (d.setLport p x).mem = d.mem := rfl
@[simp] theorem setLport_flash (p : Nat) (x : LPort) : (d.setLport p x).flash = d.flash := rfl
@[simp] theorem setLport_free (p : Nat) (x : LPort) : (d.setLport p x).free = d.free := rfl
@[simp] theorem setLport_scrubAt (p : Nat) (x : LPort) : (d.setLport p x).scrubAt = d.scrubAt := rfl
@[simp] theorem setLport_pwr (p : Nat) (x : LPort) : (d.setLport p x).pwr = d.pwr := rfl
@[simp] theorem setLport_time (p : Nat) (x : LPort) : (d.setLport p x).time = d.time := rfl
@[simp] theorem setLport_evt (p : Nat) (x : LPort) : (d.setLport p x).evt = d.evt := rfl
@[simp] theorem setLport_note (p : Nat) (x : LPort) : (d.setLport p x).note = d.note := rfl
@[simp] theorem setLport_stg (p : Nat) (x : LPort) : (d.setLport p x).stg = d.stg := rfl
@[simp] theorem setLport_eng (p : Nat) (x : LPort) : (d.setLport p x).eng = d.eng := rfl
@[simp] theorem setLport_voices (p : Nat) (x : LPort) : (d.setLport p x).voices = d.voices := rfl
@[simp] theorem setLport_ctxs (p : Nat) (x : LPort) : (d.setLport p x).ctxs = d.ctxs := rfl
@[simp] theorem setLport_spns (p : Nat) (x : LPort) : (d.setLport p x).spns = d.spns := rfl
@[simp] theorem setLport_alloc (p : Nat) (x : LPort) : (d.setLport p x).alloc = d.alloc := rfl
@[simp] theorem setLport_mix (p : Nat) (x : LPort) : (d.setLport p x).mix = d.mix := rfl
@[simp] theorem setLport_ports (p : Nat) (x : LPort) : (d.setLport p x).ports = d.ports := rfl
@[simp] theorem setLport_cv (p : Nat) (x : LPort) : (d.setLport p x).cv = d.cv := rfl
@[simp] theorem setLport_tune (p : Nat) (x : LPort) : (d.setLport p x).tune = d.tune := rfl
@[simp] theorem setLport_tmrs (p : Nat) (x : LPort) : (d.setLport p x).tmrs = d.tmrs := rfl
@[simp] theorem setLport_net (p : Nat) (x : LPort) : (d.setLport p x).net = d.net := rfl
@[simp] theorem setLport_uarts (p : Nat) (x : LPort) : (d.setLport p x).uarts = d.uarts := rfl
@[simp] theorem setLport_host (p : Nat) (x : LPort) : (d.setLport p x).host = d.host := rfl
@[simp] theorem setLport_nvj (p : Nat) (x : LPort) : (d.setLport p x).nvj = d.nvj := rfl
@[simp] theorem setLport_age (p : Nat) (x : LPort) : (d.setLport p x).age = d.age := rfl
@[simp] theorem setLport_fuses (p : Nat) (x : LPort) : (d.setLport p x).fuses = d.fuses := rfl
@[simp] theorem setLport_pins (p : Nat) (x : LPort) : (d.setLport p x).pins = d.pins := rfl

/-! ### setWaiting -/

@[simp] theorem setWaiting_live (src : Nat) (l : List Msg) : (d.setWaiting src l).live = d.live := rfl
@[simp] theorem setWaiting_staged (src : Nat) (l : List Msg) : (d.setWaiting src l).staged = d.staged := rfl
@[simp] theorem setWaiting_mem (src : Nat) (l : List Msg) : (d.setWaiting src l).mem = d.mem := rfl
@[simp] theorem setWaiting_flash (src : Nat) (l : List Msg) : (d.setWaiting src l).flash = d.flash := rfl
@[simp] theorem setWaiting_free (src : Nat) (l : List Msg) : (d.setWaiting src l).free = d.free := rfl
@[simp] theorem setWaiting_scrubAt (src : Nat) (l : List Msg) : (d.setWaiting src l).scrubAt = d.scrubAt := rfl
@[simp] theorem setWaiting_pwr (src : Nat) (l : List Msg) : (d.setWaiting src l).pwr = d.pwr := rfl
@[simp] theorem setWaiting_time (src : Nat) (l : List Msg) : (d.setWaiting src l).time = d.time := rfl
@[simp] theorem setWaiting_evt (src : Nat) (l : List Msg) : (d.setWaiting src l).evt = d.evt := rfl
@[simp] theorem setWaiting_stg (src : Nat) (l : List Msg) : (d.setWaiting src l).stg = d.stg := rfl
@[simp] theorem setWaiting_eng (src : Nat) (l : List Msg) : (d.setWaiting src l).eng = d.eng := rfl
@[simp] theorem setWaiting_voices (src : Nat) (l : List Msg) : (d.setWaiting src l).voices = d.voices := rfl
@[simp] theorem setWaiting_ctxs (src : Nat) (l : List Msg) : (d.setWaiting src l).ctxs = d.ctxs := rfl
@[simp] theorem setWaiting_spns (src : Nat) (l : List Msg) : (d.setWaiting src l).spns = d.spns := rfl
@[simp] theorem setWaiting_alloc (src : Nat) (l : List Msg) : (d.setWaiting src l).alloc = d.alloc := rfl
@[simp] theorem setWaiting_mix (src : Nat) (l : List Msg) : (d.setWaiting src l).mix = d.mix := rfl
@[simp] theorem setWaiting_ports (src : Nat) (l : List Msg) : (d.setWaiting src l).ports = d.ports := rfl
@[simp] theorem setWaiting_cv (src : Nat) (l : List Msg) : (d.setWaiting src l).cv = d.cv := rfl
@[simp] theorem setWaiting_tune (src : Nat) (l : List Msg) : (d.setWaiting src l).tune = d.tune := rfl
@[simp] theorem setWaiting_tmrs (src : Nat) (l : List Msg) : (d.setWaiting src l).tmrs = d.tmrs := rfl
@[simp] theorem setWaiting_cbl (src : Nat) (l : List Msg) : (d.setWaiting src l).cbl = d.cbl := rfl
@[simp] theorem setWaiting_net (src : Nat) (l : List Msg) : (d.setWaiting src l).net = d.net := rfl
@[simp] theorem setWaiting_uarts (src : Nat) (l : List Msg) : (d.setWaiting src l).uarts = d.uarts := rfl
@[simp] theorem setWaiting_host (src : Nat) (l : List Msg) : (d.setWaiting src l).host = d.host := rfl
@[simp] theorem setWaiting_nvj (src : Nat) (l : List Msg) : (d.setWaiting src l).nvj = d.nvj := rfl
@[simp] theorem setWaiting_age (src : Nat) (l : List Msg) : (d.setWaiting src l).age = d.age := rfl
@[simp] theorem setWaiting_fuses (src : Nat) (l : List Msg) : (d.setWaiting src l).fuses = d.fuses := rfl
@[simp] theorem setWaiting_pins (src : Nat) (l : List Msg) : (d.setWaiting src l).pins = d.pins := rfl

end Sys2Proof.Laws
end

