-- ==== Sys2Proof/Laws/Mem.lean ====
section
/-! SUPPORT. Laws of byte memory: a byte read after a byte written, and that registers outside the VOICE windows are no bytes
of memory (R171); what raising a source leaves alone (R482 to R487). -/
namespace Sys2Proof.Laws
open Sys2Proof.Machine

/-- The register that a slice byte lives in is a register of a VOICE window (R171). -/
theorem sliceHome_range {a va : Nat} (h : sliceHome a = some va) : 0x50000 ≤ va ∧ va < 0x90000 := by
  unfold sliceHome at h
  split at h
  · dsimp only at h
    split at h
    · split at h
      · cases h
      · cases h
        omega
    · cases h
  · cases h

/-- A register that is none of a VOICE window is no memory. -/
theorem rb_setReg (d : Dev) {a : Nat} (w : Word) (x : Nat) (h : a < 0x50000 ∨ 0x90000 ≤ a) : (d.setReg a w).rb x = d.rb x := by
  unfold Dev.rb
  split
  · next va e =>
    have := sliceHome_range e
    rw [reg_setReg_other _ _ (by omega)]
  · rfl

theorem rb_fp (d : Dev) (f : Fld) (v x : Nat) (h : f.addr < 0x50000 ∨ 0x90000 ≤ f.addr) : (d.fp f v).rb x = d.rb x :=
  rb_setReg d _ x h

theorem rb_count (d : Dev) (f : Fld) (n x : Nat) (h : f.addr < 0x50000 ∨ 0x90000 ≤ f.addr) : (d.count f n).rb x = d.rb x :=
  rb_setReg d _ x h

/-- A byte outside the VOICE registers reads back as stored; every other byte keeps its value. -/
theorem rb_wb (d : Dev) (a x : Nat) (b : Byte) (h : sliceHome a = none) : (d.wb a b).rb x = if x = a then b else d.rb x := by
  unfold Dev.wb
  simp only [h]
  unfold Dev.rb
  split
  · next e =>
    rw [if_neg (fun c => by rw [c, h] at e; cases e)]
    rfl
  · exact tget_tput _ _ _ _ _

/-- The EVT registers are no memory. -/
theorem evt_range (i : Nat) (h : i < 4096) : rEVT_RAW i < 0x50000 ∧ (EVT_COUNT_TOTAL i).addr < 0x50000 ∧
    (EVT_COUNT_SUPP i).addr < 0x50000 := by
  simp only [rEVT_RAW, EVT_COUNT_TOTAL, EVT_COUNT_SUPP, rEVT_COUNT]
  omega

theorem countIdx_lt {k i : Nat} (h : countIdx k = some i) : i < 22 := by
  unfold countIdx at h
  split at h
  · cases h; omega
  · split at h <;> first | (cases h; done) | (cases h; omega)

theorem rb_setRaw (d : Dev) (k x : Nat) (h : k < 64) : (d.setRaw k).rb x = d.rb x :=
  rb_setReg _ _ _ (.inl (evt_range _ (by omega)).1)

theorem rb_markRaise (d : Dev) (k x : Nat) (h : k < 64) : (d.markRaise k).rb x = d.rb x := by
  unfold Dev.markRaise
  split
  · next i e =>
    have r := evt_range i (by have := countIdx_lt e; omega)
    dsimp only
    split
    · rw [rb_count _ _ _ _ (.inl r.2.2), rb_count _ _ _ _ (.inl r.2.1)]
    · rw [rb_setRaw _ _ _ h, rb_count _ _ _ _ (.inl r.2.1)]
  · exact rb_setRaw _ _ _ h

theorem rb_freeze (d : Dev) (k x : Nat) : (d.freeze k).rb x = d.rb x := by
  unfold Dev.freeze
  dsimp only
  rw [rb_fp _ _ _ _ (by decide), rb_fp _ _ _ _ (by decide), rb_fp _ _ _ _ (by decide), rb_setReg _ _ _ (by decide),
    rb_fp _ _ _ _ (by decide), rb_fp _ _ _ _ (by decide), rb_fp _ _ _ _ (by decide)]
  rfl

/-- Raising a source stores no byte. -/
theorem rb_raise (d : Dev) (k x : Nat) (h : k < 64) : (d.raise k).rb x = d.rb x := by
  unfold Dev.raise
  dsimp only
  split
  · split
    · exact rb_markRaise _ _ _ h
    · rw [rb_freeze]; exact rb_markRaise _ _ _ h
  · exact rb_markRaise _ _ _ h

/-! ### What raising leaves alone -/

theorem markRaise_fields (d : Dev) (k : Nat) : ∃ l, d.markRaise k = { d with live := l } := by
  unfold Dev.markRaise
  split
  · dsimp only
    split <;> exact ⟨_, rfl⟩
  · exact ⟨_, rfl⟩

/-- Raising a source changes registers, the event unit, and with a fatal source the power state, the commit unit's note of
it and the outputs; nothing else of the device. -/
theorem raise_fields (d : Dev) (k : Nat) : ∃ l e p s q, d.raise k = { d with live := l, evt := e, pwr := p, stg := s, pins := q } := by
  unfold Dev.raise
  obtain ⟨l, e⟩ := markRaise_fields { d with evt := { d.evt with fw := d.evt.fw ++ [(k, w32 d.extSec)] } } k
  dsimp only
  rw [e]
  split
  · split <;> exact ⟨_, _, _, _, _, rfl⟩
  · exact ⟨_, _, _, _, _, rfl⟩

/-- A source that is not fatal leaves power, commit unit and outputs alone too. -/
theorem raise_plain (d : Dev) (k : Nat) (h : fatalSource k = false) :
    d.raise k = ({ d with evt := { d.evt with fw := d.evt.fw ++ [(k, w32 d.extSec)] } } : Dev).markRaise k := by
  unfold Dev.raise
  simp [h]

theorem evtReg_true {a : Nat} (h : 0x20000 ≤ a) (g : a < 0x30000) : isEvtReg a = true := by
  unfold isEvtReg
  rw [decide_eq_true h, decide_eq_true g]
  rfl

theorem evtReg_false {a : Nat} (h : a < 0x20000 ∨ 0x30000 ≤ a) : isEvtReg a = false := by
  unfold isEvtReg
  rw [← Bool.not_eq_true, Bool.and_eq_true, decide_eq_true_eq, decide_eq_true_eq]
  omega

/-- Raising a source that is not fatal writes registers of the event unit only. -/
theorem reg_raise_other (d : Dev) {k : Nat} (a : Nat) (hk : k < 64) (hf : fatalSource k = false) (ha : isEvtReg a = false) :
    (d.raise k).reg a = d.reg a := by
  have hr : a ≠ rEVT_RAW (k / 32) := by
    intro h
    rw [h, evtReg_true (by unfold rEVT_RAW; omega) (by unfold rEVT_RAW; omega)] at ha
    cases ha
  have hc : ∀ i, i < 22 → a ≠ rEVT_COUNT i := by
    intro i hi h
    rw [h, evtReg_true (by unfold rEVT_COUNT; omega) (by unfold rEVT_COUNT; omega)] at ha
    cases ha
  rw [raise_plain d k hf]
  unfold Dev.markRaise
  split
  · next i e =>
    have := hc i (countIdx_lt e)
    dsimp only
    split
    · rw [Dev.count, reg_fp_other _ _ _ this, Dev.count, reg_fp_other _ _ _ this]
      rfl
    · rw [Dev.setRaw, Dev.setBit, reg_setReg_other _ _ hr, Dev.count, reg_fp_other _ _ _ this]
      rfl
  · rw [Dev.setRaw, Dev.setBit, reg_setReg_other _ _ hr]
    rfl

/-! ### Bytes and words of any memory -/

theorem byte_of_field (w : Word) (j : Nat) : BitVec.ofNat 8 (w.toNat / 256 ^ j) = BitVec.ofNat 8 (fieldOf w (8 * j + 7) (8 * j)) := by
  apply BitVec.eq_of_toNat_eq
  unfold fieldOf
  rw [show 8 * j + 7 + 1 - 8 * j = 8 by omega, show (256 : Nat) ^ j = 2 ^ (8 * j) by rw [show (256 : Nat) = 2 ^ 8 by rfl, ← Nat.pow_mul]]
  simp

/-- Two bytes with one home are the same byte or different bytes of its word. -/
theorem sliceHome_apart {a x va : Nat} (ha : sliceHome a = some va) (hx : sliceHome x = some va) (h : x ≠ a) : x % 4 ≠ a % 4 := by
  have key : ∀ y v, sliceHome y = some v → 0x4000000 ≤ y ∧ y < 0x4400000 ∧ (y - 0x4000000) % 0x40000 < 0x8000 ∧
      (y - 0x4000000) % 0x40000 % 0x800 < 0x3C0 ∧ v = 0x50000 + (16 * ((y - 0x4000000) / 0x40000) + (y - 0x4000000) % 0x40000 / 0x800) * 0x400 +
        (y - 0x4000000) % 0x40000 % 0x800 / 4 * 4 := by
    intro y v hy
    unfold sliceHome at hy
    split at hy
    · next h1 =>
      dsimp only at hy
      split at hy
      · next h2 =>
        split at hy
        · cases hy
        · cases hy
          exact ⟨h1.1, h1.2, h2.1, h2.2, rfl⟩
      · cases hy
    · cases hy
  obtain ⟨a1, a2, a3, a4, a5⟩ := key a va ha
  obtain ⟨x1, x2, x3, x4, x5⟩ := key x va hx
  omega

/-- A byte of any memory reads back as stored, and every other byte keeps its value. -/
theorem rb_wb_any (d : Dev) (a x : Nat) (b : Byte) : (d.wb a b).rb x = if x = a then b else d.rb x := by
  rcases h : sliceHome a with _ | va
  · exact rb_wb d a x b h
  · unfold Dev.wb
    simp only [h]
    unfold Dev.rb
    rcases hx : sliceHome x with _ | vx
    · have : x ≠ a := fun e => by rw [e, h] at hx; cases hx
      simp only [if_neg this]
      rfl
    · dsimp only
      by_cases e : vx = va
      · subst e
        rw [reg_setReg_self, byte_of_field]
        by_cases hxa : x = a
        · subst hxa
          rw [if_pos rfl, fieldOf_setField _ _ _ _ (by omega) (by omega)]
          apply BitVec.eq_of_toNat_eq
          have := b.isLt
          rw [show 8 * (x % 4) + 7 + 1 - 8 * (x % 4) = 8 by omega, Nat.mod_eq_of_lt this]
          simp
        · have := sliceHome_apart h hx hxa
          rw [if_neg hxa, fieldOf_setField_other _ _ _ _ _ _ (by omega) (by omega) (by omega), ← byte_of_field]
      · rw [reg_setReg_other _ _ e, if_neg]
        intro hxa
        subst hxa
        rw [h] at hx
        cases hx
        exact e rfl

theorem rb_wbs (bs : List Byte) (d : Dev) (a x : Nat) :
    (d.wbs a bs).rb x = if a ≤ x ∧ x < a + bs.length then bs.getD (x - a) 0 else d.rb x := by
  induction bs generalizing d a with
  | nil => rw [if_neg (by simp)]; rfl
  | cons b bs ih =>
    rw [Dev.wbs, ih, rb_wb_any, List.length_cons]
    by_cases h : x = a
    · subst h
      rw [if_neg (by omega), if_pos rfl, if_pos (by omega), Nat.sub_self]
      rfl
    · by_cases hin : a + 1 ≤ x ∧ x < a + 1 + bs.length
      · rw [if_pos hin, if_pos (by omega), show x - a = (x - (a + 1)) + 1 by omega]
        rfl
      · rw [if_neg hin, if_neg h, if_neg (by omega)]

theorem leBytes_length (n v : Nat) : (leBytes n v).length = n := by
  induction n generalizing v with
  | zero => rfl
  | succ n ih => simp [leBytes, ih]

theorem leNat_leBytes (n v : Nat) : leNat (leBytes n v) = v % 256 ^ n := by
  induction n generalizing v with
  | zero => simp [leBytes, leNat, Nat.mod_one]
  | succ n ih =>
    rw [leBytes, leNat, ih, Nat.pow_succ, Nat.mul_comm (256 ^ n), Nat.mod_mul]
    simp

/-- A byte of memory after a word is stored. -/
theorem rb_ww32 (d : Dev) (a x : Nat) (w : Word) :
    (d.ww32 a w).rb x = if a ≤ x ∧ x < a + 4 then (leBytes 4 w.toNat).getD (x - a) 0 else d.rb x := by
  rw [Dev.ww32, rb_wbs, leBytes_length]

/-- A word of memory reads back as stored. -/
theorem rw32_ww32_self (d : Dev) (a : Nat) (w : Word) : (d.ww32 a w).rw32 a = w := by
  have h : (d.ww32 a w).rbs a 4 = leBytes 4 w.toNat := by
    simp only [Dev.rbs, List.range_succ, List.range_zero, List.nil_append, List.cons_append, List.map_cons, List.map_nil, rb_ww32]
    simp [leBytes]
  unfold Dev.rw32
  rw [h, leNat_leBytes, Nat.mod_eq_of_lt (by have := w.isLt; omega)]
  simp [w32]

/-- A word that does not meet the stored one keeps its value. -/
theorem rw32_ww32_other (d : Dev) (a x : Nat) (w : Word) (h : x + 4 ≤ a ∨ a + 4 ≤ x) : (d.ww32 a w).rw32 x = d.rw32 x := by
  unfold Dev.rw32 Dev.rbs
  congr 2
  refine List.map_congr_left fun i hi => ?_
  have := List.mem_range.mp hi
  rw [rb_ww32, if_neg (by omega)]

/-- Storing a byte touches memory, and of the registers those of the VOICE windows only. -/
theorem wb_fields (d : Dev) (a : Nat) (b : Byte) : ∃ l m, d.wb a b = { d with live := l, mem := m } := by
  unfold Dev.wb
  split <;> exact ⟨_, _, rfl⟩

theorem wbs_fields (bs : List Byte) (d : Dev) (a : Nat) : ∃ l m, d.wbs a bs = { d with live := l, mem := m } := by
  induction bs generalizing d a with
  | nil => exact ⟨_, _, rfl⟩
  | cons b bs ih =>
    obtain ⟨l, m, e⟩ := ih (d.wb a b) (a + 1)
    obtain ⟨l', m', e'⟩ := wb_fields d a b
    exact ⟨l, m, by rw [Dev.wbs, e, e']⟩

theorem reg_wb (d : Dev) (a x : Nat) (b : Byte) (h : x < 0x50000 ∨ 0x90000 ≤ x) : (d.wb a b).reg x = d.reg x := by
  unfold Dev.wb
  split
  · next va e =>
    have := sliceHome_range e
    exact reg_setReg_other _ _ (by omega)
  · rfl

theorem reg_wbs (bs : List Byte) (d : Dev) (a x : Nat) (h : x < 0x50000 ∨ 0x90000 ≤ x) : (d.wbs a bs).reg x = d.reg x := by
  induction bs generalizing d a with
  | nil => rfl
  | cons b bs ih => rw [Dev.wbs, ih, reg_wb _ _ _ _ h]

/-! ### Words stored one after another -/

/-- `k` words stored from `a` upward. -/
def putWords (d : Dev) (a k : Nat) (g : Nat → Word) : Dev := each (List.range k) (fun q d => d.ww32 (a + 4 * q) (g q)) d

theorem putWords_succ (d : Dev) (a k : Nat) (g : Nat → Word) : putWords d a (k + 1) g = (putWords d a k g).ww32 (a + 4 * k) (g k) := by
  unfold putWords each
  rw [List.range_succ, List.foldl_append]
  rfl

theorem putWords_fields (d : Dev) (a k : Nat) (g : Nat → Word) : ∃ l m, putWords d a k g = { d with live := l, mem := m } := by
  induction k with
  | zero => exact ⟨_, _, rfl⟩
  | succ k ih =>
    obtain ⟨l, m, e⟩ := ih
    obtain ⟨l', m', e'⟩ := wbs_fields (leBytes 4 (g k).toNat) (putWords d a k g) (a + 4 * k)
    exact ⟨l', m', by rw [putWords_succ, Dev.ww32, e', e]⟩

theorem reg_putWords (d : Dev) (a k : Nat) (g : Nat → Word) (x : Nat) (h : x < 0x50000 ∨ 0x90000 ≤ x) :
    (putWords d a k g).reg x = d.reg x := by
  induction k with
  | zero => rfl
  | succ k ih => rw [putWords_succ, Dev.ww32, reg_wbs _ _ _ _ h, ih]

theorem rb_putWords (d : Dev) (a k : Nat) (g : Nat → Word) (x : Nat) (h : x < a ∨ a + 4 * k ≤ x) :
    (putWords d a k g).rb x = d.rb x := by
  induction k with
  | zero => rfl
  | succ k ih => rw [putWords_succ, rb_ww32, if_neg (by omega), ih (by omega)]

theorem rw32_putWords (d : Dev) (a k : Nat) (g : Nat → Word) (q : Nat) (h : q < k) :
    (putWords d a k g).rw32 (a + 4 * q) = g q := by
  induction k with
  | zero => omega
  | succ k ih =>
    rw [putWords_succ]
    by_cases e : q = k
    · subst e
      exact rw32_ww32_self _ _ _
    · rw [rw32_ww32_other _ _ _ _ (by omega), ih (by omega)]

/-! ### Fields and raising -/

theorem fg_raise (d : Dev) {k : Nat} (g : Fld) (hk : k < 64) (hf : fatalSource k = false) (ha : isEvtReg g.addr = false) :
    (d.raise k).fg g = d.fg g := by
  unfold Dev.fg
  rw [reg_raise_other _ _ hk hf ha]

/-- A fatal source leaves every register but the event unit's and bank 15's as it was. -/
theorem reg_raise_fatal (d : Dev) {k : Nat} (a : Nat) (hk : k < 64) (ha : isEvtReg a = false) (hb : a ≠ rMEM_BANK 15) :
    (d.raise k).reg a = d.reg a := by
  by_cases hf : fatalSource k = false
  · exact reg_raise_other d a hk hf ha
  · have hn : countIdx k = none := by
      simp only [fatalSource, Bool.not_eq_false, Bool.or_eq_true, beq_iff_eq] at hf
      rcases hf with (rfl | rfl) | rfl <;> rfl
    have hm : ∀ e : Dev, (e.markRaise k).reg a = e.reg a := by
      intro e
      unfold Dev.markRaise
      rw [hn, Dev.setRaw, Dev.setBit, reg_setReg_other]
      intro h
      rw [h, evtReg_true (by unfold rEVT_RAW; omega) (by unfold rEVT_RAW; omega)] at ha
      cases ha
    have he : ∀ b, b ∈ [rEVT_FATAL, rEVT_FTIME, rEVT_DUMP] → a ≠ b := by
      intro b hb h
      subst h
      simp only [List.mem_cons, List.not_mem_nil, or_false] at hb
      rcases hb with h | h | h <;> rw [h] at ha <;> exact absurd ha (by decide)
    have hz : ∀ e : Dev, (e.freeze k).reg a = e.reg a := by
      intro e
      unfold Dev.freeze
      dsimp only
      rw [reg_fp_other _ _ _ hb, reg_fp_other _ _ _ hb, reg_fp_other _ _ _ (he _ (by decide)),
        reg_setReg_other _ _ (he _ (by decide)), reg_fp_other _ _ _ (he _ (by decide)), reg_fp_other _ _ _ (he _ (by decide)),
        reg_fp_other _ _ _ (he _ (by decide))]
      rfl
    unfold Dev.raise
    dsimp only
    split
    · split
      · exact hm _
      · rw [hz, hm]; rfl
    · rw [hm]; rfl

theorem fg_count_self (d : Dev) (f : Fld) (n : Nat) (hf : Fld.ok f) :
    (d.count f n).fg f = min (d.fg f + n) (2 ^ (f.hi + 1 - f.lo) - 1) := by
  unfold Dev.count
  rw [fg_fp_self _ _ _ hf, Nat.mod_eq_of_lt]
  have : 0 < 2 ^ (f.hi + 1 - f.lo) := Nat.two_pow_pos _
  omega

theorem fg_count_other (d : Dev) (f g : Fld) (n : Nat) (hf : Fld.ok f) (h : Fld.apart f g) : (d.count f n).fg g = d.fg g :=
  fg_fp_other d f g _ hf h

theorem reg_count_other (d : Dev) (f : Fld) (n : Nat) {b : Nat} (h : b ≠ f.addr) : (d.count f n).reg b = d.reg b :=
  reg_setReg_other d _ h

/-! ### Error correction and violations (R271, R276, R277) -/

theorem violation_fields (d : Dev) (req : Nat) (wr : Bool) (off : Nat) :
    ∃ l e, d.violation req wr off = { d with live := l, evt := e } := by
  unfold Dev.violation
  rw [raise_plain _ _ (by decide)]
  obtain ⟨l, e⟩ := markRaise_fields
    { (((d.count MEM_CNT_VIOL).fp MEM_VIOL_REQ req).fp MEM_VIOL_WRITE (if wr then 1 else 0)).fp MEM_VIOL_OFFSET off with
      evt := { ((((d.count MEM_CNT_VIOL).fp MEM_VIOL_REQ req).fp MEM_VIOL_WRITE (if wr then 1 else 0)).fp MEM_VIOL_OFFSET off).evt with
        fw := ((((d.count MEM_CNT_VIOL).fp MEM_VIOL_REQ req).fp MEM_VIOL_WRITE (if wr then 1 else 0)).fp MEM_VIOL_OFFSET off).evt.fw ++
          [(55, w32 ((((d.count MEM_CNT_VIOL).fp MEM_VIOL_REQ req).fp MEM_VIOL_WRITE (if wr then 1 else 0)).fp MEM_VIOL_OFFSET off).extSec)] } } 55
  rw [e]
  exact ⟨_, _, rfl⟩

theorem ecc_fields (d : Dev) (off bad : Nat) : ∃ l e p s q, d.ecc off bad = { d with live := l, evt := e, pwr := p, stg := s, pins := q } := by
  unfold Dev.ecc
  split
  · exact ⟨_, _, _, _, _, rfl⟩
  · dsimp only
    split
    · obtain ⟨l, e, p, s, q, h⟩ := raise_fields (((d.fp MEM_ECCADDR_OFFSET (off / 8 * 8)).fp MEM_ECCADDR_UNCORR 0).count MEM_CNT_CORR) 53
      rw [h]
      exact ⟨_, _, _, _, _, rfl⟩
    · obtain ⟨l, e, p, s, q, h⟩ := raise_fields ((d.fp MEM_ECCADDR_OFFSET (off / 8 * 8)).fp MEM_ECCADDR_UNCORR 1) 54
      rw [h]
      exact ⟨_, _, _, _, _, rfl⟩

theorem rb_violation (d : Dev) (req : Nat) (wr : Bool) (off a : Nat) : (d.violation req wr off).rb a = d.rb a := by
  unfold Dev.violation
  rw [rb_raise _ _ _ (by decide), rb_fp _ _ _ _ (by decide), rb_fp _ _ _ _ (by decide), rb_fp _ _ _ _ (by decide),
    rb_count _ _ _ _ (by decide)]

theorem rb_ecc (d : Dev) (off bad a : Nat) : (d.ecc off bad).rb a = d.rb a := by
  unfold Dev.ecc
  split
  · rfl
  · dsimp only
    split
    · rw [rb_raise _ _ _ (by decide), rb_count _ _ _ _ (by decide), rb_fp _ _ _ _ (by decide), rb_fp _ _ _ _ (by decide)]
    · rw [rb_raise _ _ _ (by decide), rb_fp _ _ _ _ (by decide), rb_fp _ _ _ _ (by decide)]

/-- A violation is counted and recorded (R271). -/
theorem violation_record (d : Dev) (req : Nat) (wr : Bool) (off : Nat) :
    (d.violation req wr off).fg MEM_CNT_VIOL = min (d.fg MEM_CNT_VIOL + 1) 255 ∧
    (d.violation req wr off).fg MEM_VIOL_REQ = req % 8 ∧ (d.violation req wr off).fg MEM_VIOL_WRITE = (if wr then 1 else 0) ∧
    (d.violation req wr off).fg MEM_VIOL_OFFSET = off % 2 ^ 26 ∧
    ∀ a, a ≠ rMEM_CNT → a ≠ rMEM_VIOL → isEvtReg a = false → (d.violation req wr off).reg a = d.reg a := by
  unfold Dev.violation
  refine ⟨?_, ?_, ?_, ?_, fun a h1 h2 h3 => ?_⟩
  · rw [fg_raise _ _ (by decide) (by decide) (by decide), fg_fp_other _ _ _ _ (by decide) (by decide),
      fg_fp_other _ _ _ _ (by decide) (by decide), fg_fp_other _ _ _ _ (by decide) (by decide), fg_count_self _ _ _ (by decide)]
    rfl
  · rw [fg_raise _ _ (by decide) (by decide) (by decide), fg_fp_other _ _ _ _ (by decide) (by decide),
      fg_fp_other _ _ _ _ (by decide) (by decide), fg_fp_self _ _ _ (by decide)]
    rfl
  · rw [fg_raise _ _ (by decide) (by decide) (by decide), fg_fp_other _ _ _ _ (by decide) (by decide), fg_fp_self _ _ _ (by decide)]
    cases wr <;> rfl
  · rw [fg_raise _ _ (by decide) (by decide) (by decide), fg_fp_self _ _ _ (by decide)]
    rfl
  · rw [reg_raise_other _ _ (by decide) (by decide) h3, reg_fp_other _ _ _ h2, reg_fp_other _ _ _ h2, reg_fp_other _ _ _ h2,
      reg_count_other _ _ _ h1]

/-- A corrected error is counted and recorded (R276). -/
theorem ecc_corrected (d : Dev) (off : Nat) :
    (d.ecc off 1).fg MEM_CNT_CORR = min (d.fg MEM_CNT_CORR + 1) 65535 ∧ (d.ecc off 1).fg MEM_ECCADDR_OFFSET = off / 8 * 8 % 2 ^ 26 ∧
    (d.ecc off 1).on MEM_ECCADDR_UNCORR = false ∧
    ∀ a, a ≠ rMEM_CNT → a ≠ rMEM_ECCADDR → isEvtReg a = false → (d.ecc off 1).reg a = d.reg a := by
  have e : d.ecc off 1 = (((d.fp MEM_ECCADDR_OFFSET (off / 8 * 8)).fp MEM_ECCADDR_UNCORR 0).count MEM_CNT_CORR).raise 53 := rfl
  rw [e]
  refine ⟨?_, ?_, ?_, fun a h1 h2 h3 => ?_⟩
  · rw [fg_raise _ _ (by decide) (by decide) (by decide), fg_count_self _ _ _ (by decide), fg_fp_other _ _ _ _ (by decide) (by decide),
      fg_fp_other _ _ _ _ (by decide) (by decide)]
    rfl
  · rw [fg_raise _ _ (by decide) (by decide) (by decide), fg_count_other _ _ _ _ (by decide) (by decide),
      fg_fp_other _ _ _ _ (by decide) (by decide), fg_fp_self _ _ _ (by decide)]
    rfl
  · unfold Dev.on
    rw [fg_raise _ _ (by decide) (by decide) (by decide), fg_count_other _ _ _ _ (by decide) (by decide), fg_fp_self _ _ _ (by decide)]
    rfl
  · rw [reg_raise_other _ _ (by decide) (by decide) h3, reg_count_other _ _ _ h1, reg_fp_other _ _ _ h2, reg_fp_other _ _ _ h2]

/-- An uncorrectable error in RUN freezes the device (R277, R486). -/
theorem ecc_fatal (d : Dev) (off bad : Nat) (hb : 2 ≤ bad) (hm : d.pwr.mode = .run) :
    (d.ecc off bad).pwr.frozen = true ∧ (d.ecc off bad).on MEM_ECCADDR_UNCORR = true := by
  have e : d.ecc off bad = ((d.fp MEM_ECCADDR_OFFSET (off / 8 * 8)).fp MEM_ECCADDR_UNCORR 1).raise 54 := by
    unfold Dev.ecc
    rw [if_neg (by omega)]
    dsimp only
    rw [if_neg (by omega)]
  rw [e]
  constructor
  · have hp : ∀ d : Dev, ∀ k, (d.markRaise k).pwr = d.pwr := fun d k => by
      obtain ⟨l, e⟩ := markRaise_fields d k
      rw [e]
    unfold Dev.raise
    dsimp only
    rw [hp]
    have hm' : ((d.fp MEM_ECCADDR_OFFSET (off / 8 * 8)).fp MEM_ECCADDR_UNCORR 1).pwr = d.pwr := rfl
    rw [hm', hm]
    rw [if_pos (by decide)]
    split
    · next h => exact h
    · rfl
  · unfold Dev.on Dev.fg
    rw [reg_raise_fatal _ _ (by decide) (by decide) (by decide)]
    show ((d.fp MEM_ECCADDR_OFFSET (off / 8 * 8)).fp MEM_ECCADDR_UNCORR 1).fg MEM_ECCADDR_UNCORR != 0
    rw [fg_fp_self _ _ _ (by decide)]
    rfl

end Sys2Proof.Laws
end

