-- ==== Sys2Proof/Laws/Isa.lean ====
section
/-! SUPPORT. What an operation of the spindle instruction set does that issues as a bundle of its own: the device and the
context it leaves, said once for every slot. -/
namespace Sys2Proof.Laws
open Sys2Proof.Machine

/-- The context after a bundle of one operation that has worked to `w`: control passes on, a cycle passes, results land. -/
def afterBundle (w : Work) (c : Ctx) (o : Op) : Ctx :=
  let ctl := w.c.control c.regs [o]
  ({ ctl with cyc := c.cyc + 1, lastStock := if o.stock then some c.cyc else c.lastStock } : Ctx).landTo (c.cyc + 1)

/-- The work of one operation that issues alone. -/
def aloneWork (d : Dev) (n j : Nat) (o : Op) : Work :=
  let c := d.ctx (18 * n + j)
  opWork n j c.regs o { d := (d.setSpn n { d.spn n with bundle := [] }).overrun n c.cyc, c := c }

theorem trapCause_setSpn (d : Dev) (n m : Nat) (x : Spn) (c : Ctx) (ops : List Op) :
    (d.setSpn m x).trapCause n c ops = d.trapCause n c ops := rfl

/-- An operation that issues alone and is not ENDS: its work, one more cycle of the spindle, and its context moved on. -/
theorem slotOp_alone (d : Dev) (n j : Nat) (o : Op) (h : d.issuesAlone n j o) (he : endsOf [o] = none) :
    slotOp n o true d =
      ((aloneWork d n j o).d.setSpn n { (aloneWork d n j o).d.spn n with cycles := ((aloneWork d n j o).d.spn n).cycles + 1 }).setCtx
        (18 * n + j) (afterBundle (aloneWork d n j o) (d.ctx (18 * n + j)) o) := by
  obtain ⟨hr, hn, ht, hc, hb, hrep, -, hcause⟩ := h
  have h1 : ¬ 16 ≤ n := by omega
  have hctx : ∀ x : Spn, (d.setSpn n x).ctx (18 * n + j) = d.ctx (18 * n + j) := fun _ => rfl
  unfold slotOp
  simp only [hr, ht, h1, Bool.not_true, decide_false, Bool.or_self, Bool.false_eq_true, if_false, hc, hb, List.filter_nil,
    List.nil_append, if_true]
  unfold Dev.issue
  simp only [hctx, hrep]
  unfold Dev.issueOnce
  simp only [hctx, trapCause_setSpn, hcause, he]
  simp [aloneWork, afterBundle, hc]

/-! ### Reading registers of a context -/

theorem rd_setD (r : Regs) (n k : Nat) (w : Word) : (r.setD n w).rd k = if k % 16 = n % 16 then w else r.rd k := by
  unfold Regs.rd Regs.setD
  exact tget_tput _ _ _ _ _

/-- Control passing on without a control operation touches PC, LC and LACT only. -/
theorem advance_fields (r : Regs) (x : Option (Nat × BitVec 11)) : ∃ p l q, r.advance x = { r with pc := p, lc := l, sr := q } ∧
    ∀ b, b ≠ 7 → bitOf q b = bitOf r.sr b := by
  have h : ∀ b, b ≠ 7 → bitOf (r.sr &&& ~~~0x80) b = bitOf r.sr b := by
    intro b hb
    unfold bitOf
    simp only [BitVec.getLsbD_and, BitVec.getLsbD_not]
    by_cases h32 : b < 32
    · have : (0x80 : Word).getLsbD b = false := by
        interval_cases b <;> first | rfl | omega
      rw [this]
      simp [h32]
    · simp [BitVec.getLsbD_of_ge _ _ (Nat.not_lt.mp h32)]
  unfold Regs.advance
  split
  · dsimp only
    split
    · exact ⟨_, _, _, rfl, h⟩
    · exact ⟨_, _, _, rfl, fun _ _ => rfl⟩
  · dsimp only
    split
    · split
      · exact ⟨_, _, _, rfl, fun _ _ => rfl⟩
      · exact ⟨_, _, _, rfl, h⟩
    · exact ⟨_, _, _, rfl, fun _ _ => rfl⟩

theorem rb_overrun (d : Dev) (n cyc a : Nat) (hn : n < 16) : (d.overrun n cyc).rb a = d.rb a := by
  unfold Dev.overrun
  split
  · rw [rb_raise _ _ _ (by decide), rb_count _ _ _ _ (.inr (by simp only [SPN_OVRUN_OVERRUNS, rSPN_OVRUN]; omega))]
  · rfl

theorem overrun_fields (d : Dev) (n cyc : Nat) : ∃ l e, d.overrun n cyc = { d with live := l, evt := e } := by
  unfold Dev.overrun
  split
  · rw [raise_plain _ _ (by decide)]
    obtain ⟨l, e⟩ := markRaise_fields { d.count (SPN_OVRUN_OVERRUNS n) with
      evt := { (d.count (SPN_OVRUN_OVERRUNS n)).evt with fw := (d.count (SPN_OVRUN_OVERRUNS n)).evt.fw ++ [(29, w32 (d.count (SPN_OVRUN_OVERRUNS n)).extSec)] } } 29
    rw [e]
    exact ⟨_, _, rfl⟩
  · exact ⟨_, _, rfl⟩

/-! ### Operations whose results land one cycle later -/

/-- A result of the ALU lands in its register, then its flags, then NOV (R254, R263). -/
def landAlu (r : Regs) (rd : Option Nat) (flags : Bool) (x : AluRes) : Regs :=
  let r := match rd with
    | some n => r.setD n x.val
    | none => r
  let r := if flags then { r with sr := (r.sr &&& ~~~0xF) ||| (x.flags &&& 0xF) } else r
  if x.clamped then { r with sr := r.sr ||| 0x40 } else r

/-- A branch on its way after a bundle (R259). -/
def nextDelay (x : Option (Nat × BitVec 11)) : Option (Nat × BitVec 11) :=
  match x with
  | some (k + 2, a) => some (k + 1, a)
  | _ => none

/-- Without a control operation the context goes on in sequence, or to the target of a branch. -/
theorem control_none (c : Ctx) (r : Regs) (o : Op) (h : o.control = false) :
    c.control r [o] = { c with regs := c.regs.advance c.delay, delay := nextDelay c.delay } := by
  have hfind : [o].find? Op.control = none := by simp [h]
  unfold Ctx.control
  simp only [hfind]
  rcases hd : c.delay with _ | ⟨_ | _ | k, a⟩ <;> simp [nextDelay]

/-- The context after an ALU operation that issued alone, nothing else in flight. -/
theorem afterBundle_alu (d : Dev) (c : Ctx) (o : Op) (rd : Option Nat) (flags : Bool) (x : AluRes) (hf : c.flight = [])
    (hc : o.control = false) :
    afterBundle (Work.alu { d := d, c := c } rd flags x) c o = { c with
      regs := landAlu (c.regs.advance c.delay) rd flags x, cyc := c.cyc + 1, flight := [], delay := nextDelay c.delay,
      acc := c.acc.filter fun a => decide (c.cyc + 1 < a.1),
      lastStock := if o.stock then some c.cyc else c.lastStock } := by
  unfold afterBundle
  rw [control_none _ _ _ hc]
  unfold Work.alu Work.send
  cases rd <;> cases flags <;> cases hx : x.clamped <;>
    simp [hf, Ctx.landTo, fly, landAlu, Regs.land, hx]

theorem landTo_idle (c : Ctx) (k : Nat) (h : c.flight = []) : (c.landTo k).regs = c.regs := by simp [Ctx.landTo, h]

theorem bit_nzcv (a x : Word) (b : Nat) (hb : b < 8) :
    bitOf ((a &&& 4294967280#32) ||| (x &&& 15#32)) b = if b < 4 then bitOf x b else bitOf a b := by
  have h : ∀ k < 8, (4294967280#32).getLsbD k = decide (4 ≤ k) ∧ (15#32).getLsbD k = decide (k < 4) := by decide
  unfold bitOf
  simp only [BitVec.getLsbD_or, BitVec.getLsbD_and, h b hb]
  by_cases hlt : b < 4 <;> simp [hlt] <;> omega

theorem bit_nov (a : Word) (b : Nat) (hb : b < 8) : bitOf (a ||| 64#32) b = (bitOf a b || decide (b = 6)) := by
  have h : ∀ k < 8, (64#32).getLsbD k = decide (k = 6) := by decide
  unfold bitOf
  simp only [BitVec.getLsbD_or, h b hb]

theorem bit_flags (x : AluRes) : bitOf x.flags 0 = x.z ∧ bitOf x.flags 1 = x.n ∧ bitOf x.flags 2 = x.c ∧ bitOf x.flags 3 = x.v := by
  unfold AluRes.flags
  cases x.z <;> cases x.n <;> cases x.c <;> cases x.v <;> decide

/-- The flags after an ALU operation (R254). -/
theorem landAlu_sr (r : Regs) (rd : Option Nat) (flags : Bool) (x : AluRes) :
    let sr := (landAlu r rd flags x).sr
    bitOf sr 0 = (if flags then x.z else bitOf r.sr 0) ∧ bitOf sr 1 = (if flags then x.n else bitOf r.sr 1) ∧
    bitOf sr 2 = (if flags then x.c else bitOf r.sr 2) ∧ bitOf sr 3 = (if flags then x.v else bitOf r.sr 3) ∧
    bitOf sr 4 = bitOf r.sr 4 ∧ bitOf sr 5 = bitOf r.sr 5 ∧ bitOf sr 6 = (bitOf r.sr 6 || x.clamped) := by
  have hf := bit_flags x
  have e : ∀ q : Regs, (match rd with | some n => q.setD n x.val | none => q).sr = q.sr := by intro q; cases rd <;> rfl
  unfold landAlu
  cases flags <;> cases hx : x.clamped <;>
    simp [e, bit_nzcv, bit_nov, hf]

theorem landAlu_rd (r : Regs) (rd : Option Nat) (flags : Bool) (x : AluRes) (k : Nat) :
    (landAlu r rd flags x).rd k = (match rd with
      | some m => if k % 16 = m % 16 then x.val else r.rd k
      | none => r.rd k) := by
  unfold landAlu
  cases rd <;> cases flags <;> cases hx : x.clamped <;> simp [Regs.rd, Regs.setD, tget_tput]

/-- The device after a bundle that wrote no memory: the overrun count, a cycle of the spindle, and the context `A`. -/
def quietDev (d : Dev) (n i : Nat) (cyc : Nat) (sp : Spn) (A : Ctx) : Dev :=
  (((d.setSpn n { d.spn n with bundle := [] }).overrun n cyc).setSpn n sp).setCtx i A

theorem quietDev_self (d : Dev) (n i cyc : Nat) (sp : Spn) (A : Ctx) : (quietDev d n i cyc sp A).ctx i = A := by
  unfold quietDev
  rw [ctx_setCtx, if_pos rfl]

theorem reg_overrun (d : Dev) (n cyc a : Nat) (ha : a ≠ rSPN_OVRUN n) (he : isEvtReg a = false) :
    (d.overrun n cyc).reg a = d.reg a := by
  unfold Dev.overrun
  split
  · rw [reg_raise_other _ _ (by decide) (by decide) he, Dev.count, reg_fp_other _ _ _ ha]
  · rfl

/-- A bundle that wrote no memory leaves everything but its own context as it was. -/
theorem quietDev_keeps (s : State) (n i cyc : Nat) (sp : Spn) (A : Ctx) (hn : n < 16) :
    s.keepsElse { s with dev := quietDev s.dev n i cyc sp A } n i := by
  obtain ⟨l, e, ho⟩ := overrun_fields (s.dev.setSpn n { s.dev.spn n with bundle := [] }) n cyc
  refine ⟨fun a => ?_, fun a ha he => ?_, fun k hk => ?_, fun m hm => ?_, ?_⟩
  · exact rb_overrun (s.dev.setSpn n { s.dev.spn n with bundle := [] }) n cyc a hn
  · exact reg_overrun (s.dev.setSpn n { s.dev.spn n with bundle := [] }) n cyc a (List.ne_of_not_mem_cons ha) he
  · unfold quietDev
    dsimp only
    rw [ctx_setCtx, if_neg hk, ho]
    rfl
  · unfold quietDev
    dsimp only
    show (((s.dev.setSpn n { s.dev.spn n with bundle := [] }).overrun n cyc).setSpn n sp).spn m = _
    rw [spn_setSpn, if_neg hm, ho]
    show (s.dev.setSpn n _).spn m = _
    rw [spn_setSpn, if_neg hm]
  · unfold quietDev
    rw [ho]
    rfl

/-- The device after an ALU operation that issued alone and hands `x` to RD and the flags. -/
theorem alu_alone_dev (d : Dev) (n j : Nat) (f : AluF) (op bad : Nat) (rd : Option Nat) (flags : Bool) (x : AluRes)
    (h : d.issuesAlone n j (.alu op f bad)) (hop : op < 0x1C)
    (hw : ∀ w : Work, w.c = d.ctx (18 * n + j) → aluSlot n j (d.ctx (18 * n + j)).regs op f bad w = w.alu rd flags x) :
    ∃ sp, slotOp n (.alu op f bad) true d = quietDev d n (18 * n + j) (d.ctx (18 * n + j)).cyc sp
      { d.ctx (18 * n + j) with
        regs := landAlu ((d.ctx (18 * n + j)).regs.advance (d.ctx (18 * n + j)).delay) rd flags x
        cyc := (d.ctx (18 * n + j)).cyc + 1
        flight := []
        delay := nextDelay (d.ctx (18 * n + j)).delay
        acc := (d.ctx (18 * n + j)).acc.filter fun a => decide ((d.ctx (18 * n + j)).cyc + 1 < a.1) } := by
  have hctl : (Op.alu op f bad).control = false := by simp [Op.control]; omega
  have hst : (Op.alu op f bad).stock = false := by simp [Op.stock]; omega
  have hend : endsOf [Op.alu op f bad] = none := by simp [endsOf, hctl]
  have hwk : aloneWork d n j (.alu op f bad) = Work.alu
      { d := ((d.setSpn n { d.spn n with bundle := [] }).overrun n (d.ctx (18 * n + j)).cyc), c := d.ctx (18 * n + j) } rd flags x :=
    hw _ rfl
  rw [slotOp_alone _ _ _ _ h hend, hwk, afterBundle_alu _ _ _ rd flags x h.2.2.2.2.2.2.1 hctl, hst]
  exact ⟨_, rfl⟩

/-- An ALU operation that issues alone and hands `x` to RD and the flags. -/
theorem alu_alone (s : State) (n j : Nat) (f : AluF) (op bad : Nat) (rd : Option Nat) (flags : Bool) (x : AluRes)
    (h : s.dev.issuesAlone n j (.alu op f bad)) (hop : op < 0x1C)
    (hw : ∀ w : Work, w.c = s.dev.ctx (18 * n + j) → aluSlot n j (s.dev.ctx (18 * n + j)).regs op f bad w = w.alu rd flags x) :
    ∃ t, done s (slotOp n (.alu op f bad) true s.dev) = .next t ∧
      s.lands t (18 * n + j) 1 (match rd with | some k => [(k, x.val)] | none => []) ∧ s.keepsElse t n (18 * n + j) ∧ s.keepsCtx t (18 * n + j) ∧
      s.keepsRegs t (18 * n + j) ∧
      (let sr := (t.dev.ctx (18 * n + j)).regs.sr
       let r := (s.dev.ctx (18 * n + j)).regs
       bitOf sr 0 = (if flags then x.z else bitOf r.sr 0) ∧ bitOf sr 1 = (if flags then x.n else bitOf r.sr 1) ∧
       bitOf sr 2 = (if flags then x.c else bitOf r.sr 2) ∧ bitOf sr 3 = (if flags then x.v else bitOf r.sr 3) ∧
       bitOf sr 4 = bitOf r.sr 4 ∧ bitOf sr 5 = bitOf r.sr 5 ∧ bitOf sr 6 = (bitOf r.sr 6 || x.clamped)) := by
  obtain ⟨sp, e⟩ := alu_alone_dev s.dev n j f op bad rd flags x h hop hw
  obtain ⟨p, lc, q, hadv, hq⟩ := advance_fields (s.dev.ctx (18 * n + j)).regs (s.dev.ctx (18 * n + j)).delay
  refine ⟨_, rfl, ?_⟩
  rw [e, hadv]
  refine ⟨⟨?_, ?_, fun h => by omega⟩, quietDev_keeps _ _ _ _ _ _ h.2.1, ?_, ?_, ?_⟩
  · intro p hp
    dsimp only
    rw [quietDev_self, landTo_idle _ _ rfl, landAlu_rd]
    cases rd with
    | none => cases hp
    | some m => rw [List.mem_singleton.mp hp]; simp
  · intro k hk
    dsimp only
    rw [quietDev_self, landTo_idle _ _ rfl, landAlu_rd]
    cases rd with
    | none => rfl
    | some m => exact if_neg (hk _ (List.mem_singleton.mpr rfl))
  · unfold State.keepsCtx
    dsimp only
    rw [quietDev_self]
    exact ⟨rfl, rfl⟩
  · unfold State.keepsRegs
    dsimp only
    rw [quietDev_self]
    unfold landAlu
    cases rd <;> cases flags <;> cases hx : x.clamped <;> simp [Regs.setD]
  · dsimp only
    rw [quietDev_self]
    have := landAlu_sr { (s.dev.ctx (18 * n + j)).regs with pc := p, lc := lc, sr := q } rd flags x
    simpa [hq] using this

/-! ### Operations that send results on their way and write no memory -/

/-- The context `c` after its bundle in issue cycle `cyc`: control passes on and the results of distance 1 land. -/
def moved (c : Ctx) (cyc : Nat) (stock : Bool) : Ctx :=
  Ctx.landTo
    { c with regs := c.regs.advance c.delay, delay := nextDelay c.delay, cyc := cyc + 1, lastStock := if stock then some cyc else c.lastStock }
    (cyc + 1)

theorem afterBundle_moved (w : Work) (c : Ctx) (o : Op) (h : o.control = false) (hs : o.stock = false → w.c.lastStock = c.lastStock) :
    afterBundle w c o = moved w.c c.cyc o.stock := by
  unfold afterBundle moved
  rw [control_none _ _ _ h]
  cases ho : o.stock
  · simp [hs ho]
  · rfl

theorem ne_ovrun {a n : Nat} (hn : n < 16) (h : a < 0x90024 ∨ 0xA0000 ≤ a) : a ≠ rSPN_OVRUN n := by unfold rSPN_OVRUN; omega

/-- An operation that issues alone, writes no memory and leaves its context at `c1`. -/
theorem quiet_alone (s : State) (n j : Nat) (o : Op) (c1 : Ctx) (h : s.dev.issuesAlone n j o) (hc : o.control = false)
    (hst : o.stock = false → c1.lastStock = (s.dev.ctx (18 * n + j)).lastStock)
    (hw : ∀ w : Work, w.c = s.dev.ctx (18 * n + j) → (∀ k, w.d.noteOf k = s.dev.noteOf k) → w.d.voiceRate = s.dev.voiceRate →
      w.d.now = s.dev.now → opWork n j (s.dev.ctx (18 * n + j)).regs o w = { d := w.d, c := c1 }) :
    ∃ t, done s (slotOp n o true s.dev) = .next t ∧ s.keepsElse t n (18 * n + j) ∧
      t.dev.ctx (18 * n + j) = moved c1 (s.dev.ctx (18 * n + j)).cyc o.stock := by
  have hend : endsOf [o] = none := by simp [endsOf, hc]
  have hD : ∀ D : Dev, (∀ k, D.noteOf k = s.dev.noteOf k) → D.voiceRate = s.dev.voiceRate → D.now = s.dev.now →
      let E := D.overrun n (s.dev.ctx (18 * n + j)).cyc
      (∀ k, E.noteOf k = s.dev.noteOf k) ∧ E.voiceRate = s.dev.voiceRate ∧ E.now = s.dev.now := by
    intro D h1 h2 h3 E
    obtain ⟨l, e, ho⟩ := overrun_fields D n (s.dev.ctx (18 * n + j)).cyc
    have hr : ∀ a, a < 0x90024 ∨ 0xA0000 ≤ a → isEvtReg a = false → E.reg a = D.reg a :=
      fun a g => reg_overrun D n _ a (ne_ovrun h.2.1 g)
    refine ⟨fun k => ?_, ?_, ?_⟩
    · rw [← h1]; show (D.overrun n _).noteOf k = _; rw [ho]; rfl
    · rw [← h2]
      unfold Dev.voiceRate Dev.baseRate Dev.on Dev.fg
      rw [hr _ (by decide) (by decide), hr _ (by decide) (by decide)]
    · rw [← h3]
      have hT : E.time = D.time := by show (D.overrun n _).time = _; rw [ho]
      unfold Dev.now Dev.timeOf Dev.adj
      rw [hr _ (by decide) (by decide), hT]
  have hD' := hD (s.dev.setSpn n { s.dev.spn n with bundle := [] }) (fun _ => rfl) rfl rfl
  have hwk : aloneWork s.dev n j o =
      { d := ((s.dev.setSpn n { s.dev.spn n with bundle := [] }).overrun n (s.dev.ctx (18 * n + j)).cyc), c := c1 } :=
    hw _ rfl hD'.1 hD'.2.1 hD'.2.2
  refine ⟨_, rfl, ?_⟩
  rw [slotOp_alone _ _ _ _ h hend, hwk, afterBundle_moved _ _ _ hc hst]
  exact ⟨quietDev_keeps s n _ _ _ _ h.2.1, quietDev_self _ _ _ _ _ _⟩

/-! ### When what was sent lands -/

/-- Results that all have distance `m`: not seen before, all landed from then on. -/
theorem moved_landTo (c : Ctx) (cyc m k : Nat) (st : Bool) (h : ∀ f ∈ c.flight, f.due = cyc + m) (hm : 1 ≤ m) (hk : 1 ≤ k) :
    ((moved c cyc st).landTo (cyc + k)).regs =
      if m ≤ k then c.flight.foldl Regs.land (c.regs.advance c.delay) else c.regs.advance c.delay := by
  have e : ((moved c cyc st).landTo (cyc + k)).regs =
      (((c.flight.filter fun f => decide (cyc + 1 < f.due)).filter fun f => decide (f.due ≤ cyc + k)).foldl Regs.land
        ((c.flight.filter fun f => decide (f.due ≤ cyc + 1)).foldl Regs.land (c.regs.advance c.delay))) := rfl
  rw [e]
  by_cases h1 : m = 1
  · have a : (c.flight.filter fun f => decide (f.due ≤ cyc + 1)) = c.flight :=
      List.filter_eq_self.mpr fun f hf => by simp [h f hf]; omega
    have b : (c.flight.filter fun f => decide (cyc + 1 < f.due)) = [] :=
      List.filter_eq_nil_iff.mpr fun f hf => by simp [h f hf]; omega
    rw [a, b, if_pos (by omega)]
    rfl
  · have a : (c.flight.filter fun f => decide (f.due ≤ cyc + 1)) = [] :=
      List.filter_eq_nil_iff.mpr fun f hf => by simp [h f hf]; omega
    have b : (c.flight.filter fun f => decide (cyc + 1 < f.due)) = c.flight :=
      List.filter_eq_self.mpr fun f hf => by simp [h f hf]; omega
    rw [a, b]
    split
    · rw [List.filter_eq_self.mpr fun f hf => by simp [h f hf]; omega]
      rfl
    · rw [List.filter_eq_nil_iff.mpr fun f hf => by simp [h f hf]; omega]
      rfl

/-- D registers written one after another. -/
def putDs (r : Regs) (l : List (Nat × Word)) : Regs := l.foldl (fun r p => r.setD p.1 p.2) r

theorem land_ds (cyc m : Nat) (l : List (Nat × Word)) (r : Regs) :
    (l.map fun p => fly cyc m (.d p.1) p.2).foldl Regs.land r = putDs r l := by
  unfold putDs
  rw [List.foldl_map]
  rfl

theorem putDs_other (l : List (Nat × Word)) (r : Regs) (k : Nat) (h : ∀ p ∈ l, k % 16 ≠ p.1 % 16) : (putDs r l).rd k = r.rd k := by
  unfold putDs
  induction l generalizing r with
  | nil => rfl
  | cons p l ih =>
    rw [List.foldl_cons, ih _ fun q hq => h q (List.mem_cons_of_mem _ hq), rd_setD, if_neg (h p List.mem_cons_self)]

theorem putDs_mem (l : List (Nat × Word)) (r : Regs) (h : l.Pairwise fun p q => p.1 % 16 ≠ q.1 % 16) :
    ∀ p ∈ l, (putDs r l).rd p.1 = p.2 := by
  unfold putDs
  induction l generalizing r with
  | nil => intro p hp; cases hp
  | cons q l ih =>
    intro p hp
    obtain ⟨hq, hl⟩ := List.pairwise_cons.mp h
    rcases List.mem_cons.mp hp with rfl | hp
    · rw [List.foldl_cons]
      refine (putDs_other l _ _ hq).trans ?_
      rw [rd_setD, if_pos rfl]
    · exact ih _ hl p hp

/-- Nothing but D registers. -/
theorem putDs_keeps (l : List (Nat × Word)) (r : Regs) : putDs r l = { r with d := (putDs r l).d } := by
  unfold putDs
  induction l generalizing r with
  | nil => rfl
  | cons p l ih => rw [List.foldl_cons, ih]; rfl

/-- Results for D registers, sent with one distance, land as `State.lands` says. -/
theorem lands_of_sent (s t : State) (i m cyc : Nat) (st : Bool) (c1 : Ctx) (l : List (Nat × Word))
    (ht : t.dev.ctx i = moved c1 (s.dev.ctx i).cyc st) (hc : (s.dev.ctx i).cyc = cyc)
    (hf : c1.flight = l.map fun p => fly cyc m (.d p.1) p.2)
    (hr : ∀ k, c1.regs.rd k = (s.dev.ctx i).regs.rd k) (hm : 1 ≤ m) (hl : l.Pairwise fun p q => p.1 % 16 ≠ q.1 % 16) :
    s.lands t i m l := by
  subst hc
  have hadv : ∀ k, (c1.regs.advance c1.delay).rd k = (s.dev.ctx i).regs.rd k := by
    intro k
    obtain ⟨p, lc, q, e, -⟩ := advance_fields c1.regs c1.delay
    rw [e, ← hr]
    rfl
  have hdue : ∀ f ∈ c1.flight, f.due = (s.dev.ctx i).cyc + m := by
    intro f h
    rw [hf] at h
    obtain ⟨p, -, rfl⟩ := List.mem_map.mp h
    rfl
  unfold State.lands
  dsimp only
  rw [ht]
  refine ⟨fun p hp => ?_, fun k hk => ?_, fun h2 k => ?_⟩
  · rw [moved_landTo _ _ m m _ hdue hm hm, if_pos (Nat.le_refl m), hf, land_ds]
    exact putDs_mem l _ hl p hp
  · rw [moved_landTo _ _ m m _ hdue hm hm, if_pos (Nat.le_refl m), hf, land_ds, putDs_other l _ _ hk, hadv]
  · rw [show (s.dev.ctx i).cyc + m - 1 = (s.dev.ctx i).cyc + (m - 1) by omega,
      moved_landTo _ _ m (m - 1) _ hdue hm (by omega), if_neg (by omega), hadv]

theorem moved_regs (c : Ctx) (cyc m : Nat) (st : Bool) (h : ∀ f ∈ c.flight, f.due = cyc + m) (hm : 1 ≤ m) :
    (moved c cyc st).regs = if m = 1 then c.flight.foldl Regs.land (c.regs.advance c.delay) else c.regs.advance c.delay := by
  have e : (moved c cyc st).regs =
      ((c.flight.filter fun f => decide (f.due ≤ cyc + 1)).foldl Regs.land (c.regs.advance c.delay)) := rfl
  rw [e]
  split
  · rw [List.filter_eq_self.mpr fun f hf => by simp [h f hf]; omega]
  · rw [List.filter_eq_nil_iff.mpr fun f hf => by simp [h f hf]; omega]
    rfl

/-- Sending D results alone leaves every other register of the context, and the flags, as they were. -/
theorem keeps_of_sent (s t : State) (i m : Nat) (st : Bool) (l : List (Nat × Word))
    (ht : t.dev.ctx i = moved { s.dev.ctx i with flight := l.map fun p => fly (s.dev.ctx i).cyc m (.d p.1) p.2 } (s.dev.ctx i).cyc st)
    (hm : 1 ≤ m) :
    s.keepsCtx t i ∧ s.keepsRegs t i ∧ ∀ b, b ≠ 7 → bitOf (t.dev.ctx i).regs.sr b = bitOf (s.dev.ctx i).regs.sr b := by
  obtain ⟨p, lc, q, e, hq⟩ := advance_fields (s.dev.ctx i).regs (s.dev.ctx i).delay
  have hd : ∀ f ∈ l.map (fun p : Nat × Word => fly (s.dev.ctx i).cyc m (.d p.1) p.2), f.due = (s.dev.ctx i).cyc + m := by
    intro f h
    obtain ⟨p, -, rfl⟩ := List.mem_map.mp h
    rfl
  refine ⟨?_, ?_⟩
  · unfold State.keepsCtx
    dsimp only
    rw [ht]
    exact ⟨rfl, rfl⟩
  · unfold State.keepsRegs
    dsimp only
    rw [ht, moved_regs _ _ m _ hd hm]
    dsimp only
    rw [land_ds, putDs_keeps, e]
    split <;> exact ⟨⟨rfl, rfl, rfl, rfl, rfl, rfl, rfl, rfl, rfl⟩, hq⟩

/-- An operation that issues is legal in its encoding (R265) and breaks no window (R266). -/
theorem legal_of_alone {d : Dev} {n j : Nat} {o : Op} (h : d.issuesAlone n j o) : o.legal = true := by
  have h := h.2.2.2.2.2.2.2
  unfold Dev.trapCause at h
  split at h
  · cases h
  · next g =>
    by_contra hl
    rw [Bool.not_eq_true] at hl
    simp [illegalBundle, bundleLegal, hl] at g

theorem window_of_alone {d : Dev} {n j : Nat} {o : Op} (h : d.issuesAlone n j o) :
    d.windowBad (d.ctx (18 * n + j)) [o] = false := by
  have h := h.2.2.2.2.2.2.2
  unfold Dev.trapCause at h
  split at h
  · cases h
  · split at h
    · cases h
    · next g => exact (Bool.not_eq_true _).mp g

theorem control_ok_of_alone {d : Dev} {n j : Nat} {o : Op} (h : d.issuesAlone n j o) :
    controlBad (d.ctx (18 * n + j)) [o] = false := by
  have h := h.2.2.2.2.2.2.2
  unfold Dev.trapCause at h
  split at h
  · cases h
  · next g =>
    by_contra hl
    rw [Bool.not_eq_false] at hl
    simp [illegalBundle, hl] at g

/-! ### Operations that work on memory -/

/-- `D` is `d` but for the overrun count, the event unit and spindle n: the device an operation of a bundle works on. -/
structure AtIssue (d D : Dev) (n : Nat) : Prop where
  parts : D = { d with live := D.live, evt := D.evt, spns := D.spns }
  regs : ∀ a, a ≠ rSPN_OVRUN n → isEvtReg a = false → D.reg a = d.reg a
  bytes : ∀ a, D.rb a = d.rb a
  others : ∀ m, m ≠ n → D.spn m = d.spn m

theorem AtIssue.field {d D : Dev} {n : Nat} (h : AtIssue d D n) (hn : n < 16) (f : Fld) (ha : f.addr < 0x90024 ∨ 0xA0000 ≤ f.addr)
    (he : isEvtReg f.addr = false) : D.fg f = d.fg f := by
  unfold Dev.fg
  rw [h.regs _ (ne_ovrun hn ha) he]

theorem AtIssue.word {d D : Dev} {n : Nat} (h : AtIssue d D n) (a : Nat) : D.rw32 a = d.rw32 a := by
  unfold Dev.rw32 Dev.rbs
  rw [show (fun i => D.rb (a + i)) = fun i => d.rb (a + i) from funext fun i => h.bytes _]

/-- An operation that issues alone and does `g` to the device: the device it works on, what it leaves. -/
theorem effect_alone (s : State) (n j : Nat) (o : Op) (c1 : Ctx) (g : Dev → Dev) (h : s.dev.issuesAlone n j o)
    (hc : o.control = false) (hst : o.stock = false → c1.lastStock = (s.dev.ctx (18 * n + j)).lastStock)
    (hw : ∀ w : Work, w.c = s.dev.ctx (18 * n + j) → AtIssue s.dev w.d n →
      opWork n j (s.dev.ctx (18 * n + j)).regs o w = { d := g w.d, c := c1 }) :
    ∃ t D sp, done s (slotOp n o true s.dev) = .next t ∧ AtIssue s.dev D n ∧
      t = { s with dev := ((g D).setSpn n sp).setCtx (18 * n + j) (moved c1 (s.dev.ctx (18 * n + j)).cyc o.stock) } := by
  have hend : endsOf [o] = none := by simp [endsOf, hc]
  obtain ⟨l, e, ho⟩ := overrun_fields (s.dev.setSpn n { s.dev.spn n with bundle := [] }) n (s.dev.ctx (18 * n + j)).cyc
  have hI : AtIssue s.dev ((s.dev.setSpn n { s.dev.spn n with bundle := [] }).overrun n (s.dev.ctx (18 * n + j)).cyc) n := by
    refine ⟨by rw [ho]; rfl, fun a ha he => ?_, fun a => ?_, fun m hm => ?_⟩
    · exact reg_overrun (s.dev.setSpn n { s.dev.spn n with bundle := [] }) n _ a ha he
    · exact rb_overrun (s.dev.setSpn n { s.dev.spn n with bundle := [] }) n _ a h.2.1
    · rw [ho]
      show (s.dev.setSpn n _).spn m = _
      rw [spn_setSpn, if_neg hm]
  have hwk : aloneWork s.dev n j o =
      { d := g ((s.dev.setSpn n { s.dev.spn n with bundle := [] }).overrun n (s.dev.ctx (18 * n + j)).cyc), c := c1 } :=
    hw _ rfl hI
  rw [slotOp_alone _ _ _ _ h hend, hwk, afterBundle_moved _ _ _ hc hst]
  exact ⟨_, _, _, rfl, hI, rfl⟩

theorem AtIssue.keeps {s : State} {D : Dev} {n i : Nat} (h : AtIssue s.dev D n) (sp : Spn) (A : Ctx) :
    s.keepsElse { s with dev := (D.setSpn n sp).setCtx i A } n i := by
  refine ⟨fun a => h.bytes a, fun a ha he => h.regs a (List.ne_of_not_mem_cons ha) he, fun k hk => ?_, fun m hm => ?_, ?_⟩
  · dsimp only
    rw [ctx_setCtx, if_neg hk, h.parts]
    rfl
  · show (D.setSpn n sp).spn m = _
    rw [spn_setSpn, if_neg hm]
    exact h.others m hm
  · show _ = _
    rw [h.parts]
    rfl

/-- `quiet_alone` for an operation that reads memory. -/
theorem reads_alone (s : State) (n j : Nat) (o : Op) (c1 : Ctx) (h : s.dev.issuesAlone n j o)
    (hc : o.control = false) (hst : o.stock = false → c1.lastStock = (s.dev.ctx (18 * n + j)).lastStock)
    (hw : ∀ w : Work, w.c = s.dev.ctx (18 * n + j) → AtIssue s.dev w.d n →
      opWork n j (s.dev.ctx (18 * n + j)).regs o w = { d := w.d, c := c1 }) :
    ∃ t, done s (slotOp n o true s.dev) = .next t ∧ s.keepsElse t n (18 * n + j) ∧
      t.dev.ctx (18 * n + j) = moved c1 (s.dev.ctx (18 * n + j)).cyc o.stock := by
  obtain ⟨t, D, sp, h1, h2, rfl⟩ := effect_alone s n j o c1 id h hc hst hw
  exact ⟨_, h1, h2.keeps _ _, by dsimp only [id]; rw [ctx_setCtx, if_pos rfl]⟩

/-! ### D results beside flags -/

/-- What a landing result does to D. -/
def dPart (f : Flight) : Option (Nat × Word) :=
  match f.dst with
  | .d k => some (k, f.val)
  | _ => none

/-- What a landing flag result does to SR. -/
def srStep (sr : Word) (f : Flight) : Word :=
  match f.dst with
  | .nzcv => (sr &&& ~~~0xF) ||| (f.val &&& 0xF)
  | .gov => sr ||| 0x20
  | .nov => sr ||| 0x40
  | .z => (sr &&& ~~~1) ||| (f.val &&& 1)
  | _ => sr

/-- The result lands in D or in a flag. -/
def Flight.plain (f : Flight) : Bool :=
  match f.dst with
  | .d _ | .nzcv | .gov | .nov | .z => true
  | _ => false

/-- D and flag results land apart. -/
theorem land_plain (fs : List Flight) (r : Regs) (h : ∀ f ∈ fs, Flight.plain f = true) :
    fs.foldl Regs.land r = { r with d := (putDs r (fs.filterMap dPart)).d, sr := fs.foldl srStep r.sr } := by
  induction fs generalizing r with
  | nil => rfl
  | cons f fs ih =>
    have hf := h f List.mem_cons_self
    have e : ∀ (q : Regs) (w : Word) (l : List (Nat × Word)), (putDs { q with sr := w } l).d = (putDs q l).d := by
      intro q w l
      unfold putDs
      induction l generalizing q with
      | nil => rfl
      | cons p l ih => exact ih (q.setD p.1 p.2)
    rw [List.foldl_cons, ih _ fun g hg => h g (List.mem_cons_of_mem _ hg), List.foldl_cons]
    unfold Flight.plain at hf
    rcases hd : f.dst <;> simp only [hd] at hf <;> try cases hf
    all_goals simp only [Regs.land, hd, List.filterMap_cons, dPart, srStep, e]
    rfl

/-- Results of one distance that land in D and in flags: what is seen of them when. -/
theorem lands_plain (s t : State) (i m : Nat) (st : Bool) (c1 : Ctx) (l : List (Nat × Word))
    (ht : t.dev.ctx i = moved c1 (s.dev.ctx i).cyc st) (hd : ∀ f ∈ c1.flight, f.due = (s.dev.ctx i).cyc + m)
    (hp : ∀ f ∈ c1.flight, Flight.plain f = true) (hf : c1.flight.filterMap dPart = l)
    (hr : c1.regs = (s.dev.ctx i).regs) (hm : 1 ≤ m) (hl : l.Pairwise fun p q => p.1 % 16 ≠ q.1 % 16) :
    s.lands t i m l ∧ s.keepsRegs t i ∧
      ∀ k b, 1 ≤ k → b < 7 → bitOf (((t.dev.ctx i).landTo ((s.dev.ctx i).cyc + k)).regs.sr) b =
        if m ≤ k then bitOf (c1.flight.foldl srStep (c1.regs.advance c1.delay).sr) b else bitOf (s.dev.ctx i).regs.sr b := by
  obtain ⟨p, lc, q, e, hq⟩ := advance_fields c1.regs c1.delay
  rw [hr] at e hq
  have hadv : ∀ k, (c1.regs.advance c1.delay).rd k = (s.dev.ctx i).regs.rd k := fun k => by rw [hr, e]; rfl
  refine ⟨?_, ?_, ?_⟩
  · unfold State.lands
    dsimp only
    rw [ht]
    refine ⟨fun p hp' => ?_, fun k hk => ?_, fun h2 k => ?_⟩
    · rw [moved_landTo _ _ m m _ hd hm hm, if_pos (Nat.le_refl m), land_plain _ _ hp, hf]
      exact putDs_mem l _ hl p hp'
    · rw [moved_landTo _ _ m m _ hd hm hm, if_pos (Nat.le_refl m), land_plain _ _ hp, hf]
      exact (putDs_other l _ _ hk).trans (hadv k)
    · rw [show (s.dev.ctx i).cyc + m - 1 = (s.dev.ctx i).cyc + (m - 1) by omega,
        moved_landTo _ _ m (m - 1) _ hd hm (by omega), if_neg (by omega), hadv]
  · unfold State.keepsRegs
    dsimp only
    rw [ht, moved_regs _ _ m _ hd hm, land_plain _ _ hp, hr, e]
    split <;> exact ⟨rfl, rfl, rfl, rfl, rfl, rfl, rfl, rfl, rfl⟩
  · intro k b hk hb
    rw [ht, moved_landTo _ _ m k _ hd hm hk]
    split
    · rw [land_plain _ _ hp]
    · rw [hr, e]
      exact hq b (by omega)

end Sys2Proof.Laws
end

