-- ==== Sys2Proof/Laws/Keep.lean ====
section
/-! SUPPORT. What every operation of the device keeps: the canonical form of register file, memories and flash, the fuses,
and the parts of the device outside a mask. `Keep R S d d'` says so of a device and a later one; each operation has one lemma,
named after it, which carries the relation over it and names the operation's own mask. -/
namespace Sys2Proof.Laws
open Sys2Proof.Machine

/-- `d` with the parts that the bits of `m` name taken from `e`: bit 0 the register file, and so on in the order of the device's
parts. -/
def splice (m : Nat) (d e : Dev) : Dev :=
  {
    live := bif m.testBit 0 then e.live else d.live
    staged := bif m.testBit 1 then e.staged else d.staged
    mem := bif m.testBit 2 then e.mem else d.mem
    flash := bif m.testBit 3 then e.flash else d.flash
    free := bif m.testBit 4 then e.free else d.free
    scrubAt := bif m.testBit 5 then e.scrubAt else d.scrubAt
    pwr := bif m.testBit 6 then e.pwr else d.pwr
    time := bif m.testBit 7 then e.time else d.time
    evt := bif m.testBit 8 then e.evt else d.evt
    note := bif m.testBit 9 then e.note else d.note
    stg := bif m.testBit 10 then e.stg else d.stg
    eng := bif m.testBit 11 then e.eng else d.eng
    voices := bif m.testBit 12 then e.voices else d.voices
    ctxs := bif m.testBit 13 then e.ctxs else d.ctxs
    spns := bif m.testBit 14 then e.spns else d.spns
    alloc := bif m.testBit 15 then e.alloc else d.alloc
    mix := bif m.testBit 16 then e.mix else d.mix
    ports := bif m.testBit 17 then e.ports else d.ports
    cv := bif m.testBit 18 then e.cv else d.cv
    tune := bif m.testBit 19 then e.tune else d.tune
    tmrs := bif m.testBit 20 then e.tmrs else d.tmrs
    cbl := bif m.testBit 21 then e.cbl else d.cbl
    net := bif m.testBit 22 then e.net else d.net
    uarts := bif m.testBit 23 then e.uarts else d.uarts
    host := bif m.testBit 24 then e.host else d.host
    nvj := bif m.testBit 25 then e.nvj else d.nvj
    age := bif m.testBit 26 then e.age else d.age
    fuses := bif m.testBit 27 then e.fuses else d.fuses
    pins := bif m.testBit 28 then e.pins else d.pins }

/-- From `d` to `d'` the canonical form is kept, the fuses are as `R` says, and only the parts of the mask `S` differ. -/
structure Keep (R : Fuses → Fuses → Prop) (M : Nat) (d d' : Dev) : Prop where
  fuses : R d.fuses d'.fuses
  canon : d.canonical = true → d'.canonical = true
  frame : d' = splice M d d'

theorem pick {α : Type} {S m i : Nat} {u v w : α} (hS : Nat.land S m = m) (h1 : w = bif S.testBit i then w else u)
    (h2 : v = bif m.testBit i then v else w) : v = bif S.testBit i then v else u := by
  cases hs : S.testBit i
  · have hm : m.testBit i = false := by
      rw [← hS]
      show (S &&& m).testBit i = false
      rw [Nat.testBit_and, hs, Bool.false_and]
    rw [hs] at h1
    rw [hm] at h2
    exact h2.trans h1
  · rfl

/-- Changes within a smaller mask after changes within a larger one. -/
theorem splice_trans {S m : Nat} {d x y : Dev} (hS : Nat.land S m = m) (h1 : x = splice S d x) (h2 : y = splice m x y) :
    y = splice S d y := by
  have e0 := pick (i := 0) hS (congrArg Dev.live h1) (congrArg Dev.live h2)
  have e1 := pick (i := 1) hS (congrArg Dev.staged h1) (congrArg Dev.staged h2)
  have e2 := pick (i := 2) hS (congrArg Dev.mem h1) (congrArg Dev.mem h2)
  have e3 := pick (i := 3) hS (congrArg Dev.flash h1) (congrArg Dev.flash h2)
  have e4 := pick (i := 4) hS (congrArg Dev.free h1) (congrArg Dev.free h2)
  have e5 := pick (i := 5) hS (congrArg Dev.scrubAt h1) (congrArg Dev.scrubAt h2)
  have e6 := pick (i := 6) hS (congrArg Dev.pwr h1) (congrArg Dev.pwr h2)
  have e7 := pick (i := 7) hS (congrArg Dev.time h1) (congrArg Dev.time h2)
  have e8 := pick (i := 8) hS (congrArg Dev.evt h1) (congrArg Dev.evt h2)
  have e9 := pick (i := 9) hS (congrArg Dev.note h1) (congrArg Dev.note h2)
  have e10 := pick (i := 10) hS (congrArg Dev.stg h1) (congrArg Dev.stg h2)
  have e11 := pick (i := 11) hS (congrArg Dev.eng h1) (congrArg Dev.eng h2)
  have e12 := pick (i := 12) hS (congrArg Dev.voices h1) (congrArg Dev.voices h2)
  have e13 := pick (i := 13) hS (congrArg Dev.ctxs h1) (congrArg Dev.ctxs h2)
  have e14 := pick (i := 14) hS (congrArg Dev.spns h1) (congrArg Dev.spns h2)
  have e15 := pick (i := 15) hS (congrArg Dev.alloc h1) (congrArg Dev.alloc h2)
  have e16 := pick (i := 16) hS (congrArg Dev.mix h1) (congrArg Dev.mix h2)
  have e17 := pick (i := 17) hS (congrArg Dev.ports h1) (congrArg Dev.ports h2)
  have e18 := pick (i := 18) hS (congrArg Dev.cv h1) (congrArg Dev.cv h2)
  have e19 := pick (i := 19) hS (congrArg Dev.tune h1) (congrArg Dev.tune h2)
  have e20 := pick (i := 20) hS (congrArg Dev.tmrs h1) (congrArg Dev.tmrs h2)
  have e21 := pick (i := 21) hS (congrArg Dev.cbl h1) (congrArg Dev.cbl h2)
  have e22 := pick (i := 22) hS (congrArg Dev.net h1) (congrArg Dev.net h2)
  have e23 := pick (i := 23) hS (congrArg Dev.uarts h1) (congrArg Dev.uarts h2)
  have e24 := pick (i := 24) hS (congrArg Dev.host h1) (congrArg Dev.host h2)
  have e25 := pick (i := 25) hS (congrArg Dev.nvj h1) (congrArg Dev.nvj h2)
  have e26 := pick (i := 26) hS (congrArg Dev.age h1) (congrArg Dev.age h2)
  have e27 := pick (i := 27) hS (congrArg Dev.fuses h1) (congrArg Dev.fuses h2)
  have e28 := pick (i := 28) hS (congrArg Dev.pins h1) (congrArg Dev.pins h2)
  cases y
  dsimp only at e0 e1 e2 e3 e4 e5 e6 e7 e8 e9 e10 e11 e12 e13 e14 e15 e16 e17 e18 e19 e20 e21 e22 e23 e24 e25 e26 e27 e28
  unfold splice
  dsimp only
  exact Dev.mk.injEq .. |>.mpr ⟨e0, e1, e2, e3, e4, e5, e6, e7, e8, e9, e10, e11, e12, e13, e14, e15, e16, e17, e18, e19, e20, e21, e22, e23, e24, e25, e26, e27, e28⟩

/-- Fuses that grew: only more is burned, and what was sound stays so (R438). -/
def Grown (f g : Fuses) : Prop := f.burnedFrom g ∧ (f.sound = true → g.sound = true)

namespace Keep

variable {R : Fuses → Fuses → Prop} {M : Nat} {d0 x : Dev}

theorem cut {q p : Prop} (a : q) (b : q → p) : p := b a

theorem refl (d : Dev) (h : R d.fuses d.fuses) : Keep R M d d :=
  ⟨h, id, by unfold splice; simp only [Bool.cond_eq_ite, ite_self]⟩

theorem sub {m k : Nat} (hS : Nat.land M m = m) (h : Nat.land m k = k) : Nat.land M k = k := by
  show M &&& k = k
  have hS' : M &&& m = m := hS
  have h' : m &&& k = k := h
  rw [← h', ← Nat.and_assoc, hS']

/-- The part of bit i is as it was where the mask leaves it out. -/
theorem part {α : Type} {x : Dev} (h : Keep R M d0 x) (f : Dev → α) (hf : f (splice M d0 x) = f d0) : f x = f d0 :=
  (congrArg f h.frame).trans hf

/-- The parts of the canonical form. -/
theorem canonical_iff (d : Dev) : d.canonical = true ↔
    twf resetWord d.live = true ∧ Memory.wf 0 d.mem = true ∧ Memory.wf 0xFF d.flash = true ∧ Memory.wf 0xFF d.cbl.img = true := by
  simp [Dev.canonical, and_assoc]

/-- Changes to anything but the register file, memories, flash, image and fuses, within the mask. -/
theorem upd {m : Nat} (h : Keep R M d0 x) (hS : Nat.land M m = m) {a1 a2 a3 a4 a5 a6 a7 a8 a9 a10 a11 a12 a13 a14 a15 a16 a17 a18} {a19 : Cbl}
    {a20 a21 a22 a23 a24 a25} (hc : a19.img = x.cbl.img)
    (hf : (a1 = x.staged ∨ m.testBit 1 = true) ∧ (a2 = x.free ∨ m.testBit 4 = true) ∧ (a3 = x.scrubAt ∨ m.testBit 5 = true) ∧
      (a4 = x.pwr ∨ m.testBit 6 = true) ∧ (a5 = x.time ∨ m.testBit 7 = true) ∧ (a6 = x.evt ∨ m.testBit 8 = true) ∧
      (a7 = x.note ∨ m.testBit 9 = true) ∧ (a8 = x.stg ∨ m.testBit 10 = true) ∧ (a9 = x.eng ∨ m.testBit 11 = true) ∧
      (a10 = x.voices ∨ m.testBit 12 = true) ∧ (a11 = x.ctxs ∨ m.testBit 13 = true) ∧ (a12 = x.spns ∨ m.testBit 14 = true) ∧
      (a13 = x.alloc ∨ m.testBit 15 = true) ∧ (a14 = x.mix ∨ m.testBit 16 = true) ∧ (a15 = x.ports ∨ m.testBit 17 = true) ∧
      (a16 = x.cv ∨ m.testBit 18 = true) ∧ (a17 = x.tune ∨ m.testBit 19 = true) ∧ (a18 = x.tmrs ∨ m.testBit 20 = true) ∧
      (a19 = x.cbl ∨ m.testBit 21 = true) ∧ (a20 = x.net ∨ m.testBit 22 = true) ∧ (a21 = x.uarts ∨ m.testBit 23 = true) ∧
      (a22 = x.host ∨ m.testBit 24 = true) ∧ (a23 = x.nvj ∨ m.testBit 25 = true) ∧ (a24 = x.age ∨ m.testBit 26 = true) ∧
      (a25 = x.pins ∨ m.testBit 28 = true)) :
    Keep R M d0 (Dev.mk x.live a1 x.mem x.flash a2 a3 a4 a5 a6 a7 a8 a9 a10 a11 a12
      a13 a14 a15 a16 a17 a18 a19 a20 a21 a22 a23 a24 x.fuses a25) := by
  obtain ⟨ha1, ha2, ha3, ha4, ha5, ha6, ha7, ha8, ha9, ha10, ha11, ha12, ha13, ha14, ha15, ha16, ha17, ha18, ha19, ha20, ha21, ha22, ha23, ha24, ha25⟩ := hf
  refine ⟨h.fuses, fun w => ?_, splice_trans hS h.frame ?_⟩
  · have := (canonical_iff _).mp (h.canon w)
    exact (canonical_iff _).mpr ⟨this.1, this.2.1, this.2.2.1, hc ▸ this.2.2.2⟩
  · have q : ∀ {α : Type} {i : Nat} {u v : α}, (u = v ∨ m.testBit i = true) → u = bif m.testBit i then u else v := by
      intro α i u v h
      rcases h with h | h
      · rw [h]; cases m.testBit i <;> rfl
      · rw [h]; rfl
    exact Dev.mk.injEq .. |>.mpr ⟨(q (.inl rfl)), (q ha1), (q (.inl rfl)), (q (.inl rfl)), (q ha2), (q ha3), (q ha4), (q ha5), (q ha6), (q ha7), (q ha8), (q ha9), (q ha10), (q ha11), (q ha12), (q ha13), (q ha14), (q ha15), (q ha16), (q ha17), (q ha18), (q ha19), (q ha20), (q ha21), (q ha22), (q ha23), (q ha24), (q (.inl rfl)), (q ha25)⟩

theorem ite {c : Prop} [Decidable c] {a b : Dev} (ha : Keep R M d0 a) (hb : Keep R M d0 b) : Keep R M d0 (if c then a else b) := by
  split <;> assumption

theorem each {α : Type} {l : List α} {f : α → Dev → Dev} (hf : ∀ a y, Keep R M d0 y → Keep R M d0 (f a y)) (h : Keep R M d0 x) :
    Keep R M d0 (Sys2Proof.Machine.each l f x) := by
  unfold Sys2Proof.Machine.each
  induction l generalizing x with
  | nil => exact h
  | cons a l ih => exact ih (hf a x h)

theorem foldl {α : Type} {l : List α} {f : Dev → α → Dev} (hf : ∀ y a, Keep R M d0 y → Keep R M d0 (f y a)) (h : Keep R M d0 x) :
    Keep R M d0 (l.foldl f x) := by
  induction l generalizing x with
  | nil => exact h
  | cons a l ih => exact ih (hf x a h)

theorem foldlW {α : Type} {l : List α} {f : Work → α → Work} {w : Work} (hf : ∀ w a, Keep R M d0 w.d → Keep R M d0 (f w a).d)
    (h : Keep R M d0 w.d) : Keep R M d0 (l.foldl f w).d := by
  induction l generalizing w with
  | nil => exact h
  | cons a l ih => exact ih (hf w a h)

/-- Every device that an optional answer, an answer with a reason, or a pair holds is kept. -/
def O (R : Fuses → Fuses → Prop) (M : Nat) (d0 : Dev) (o : Option Dev) : Prop := ∀ y, o = some y → Keep R M d0 y
def E {ε : Type} (R : Fuses → Fuses → Prop) (M : Nat) (d0 : Dev) (o : Except ε Dev) : Prop := ∀ y, o = .ok y → Keep R M d0 y
def S {β : Type} (R : Fuses → Fuses → Prop) (M : Nat) (d0 : Dev) (p : β × Dev) : Prop := Keep R M d0 p.2
def F {β : Type} (R : Fuses → Fuses → Prop) (M : Nat) (d0 : Dev) (p : Dev × β) : Prop := Keep R M d0 p.1

theorem O.none : O R M d0 none := fun _ e => nomatch e
theorem O.some (h : Keep R M d0 x) : O R M d0 (some x) := fun _ e => Option.some.inj e ▸ h
theorem O.out {o : Option Dev} {y : Dev} (e : o = .some y) (h : O R M d0 o) : Keep R M d0 y := h y e
theorem O.ite {c : Prop} [Decidable c] {a b : Option Dev} (ha : O R M d0 a) (hb : O R M d0 b) : O R M d0 (if c then a else b) := by
  split <;> assumption
theorem O.map {β : Type} {o : Option β} {f : β → Dev} (h : ∀ b, Keep R M d0 (f b)) : O R M d0 (o.map f) := by
  cases o with
  | none => exact O.none
  | some b => exact O.some (h b)
theorem O.mapD {o : Option Dev} {f : Dev → Dev} (ho : O R M d0 o) (h : ∀ y, Keep R M d0 y → Keep R M d0 (f y)) : O R M d0 (o.map f) := by
  cases o with
  | none => exact O.none
  | some b => exact O.some (h b (ho b rfl))
theorem O.bind {β : Type} {o : Option β} {f : β → Option Dev} (h : ∀ b, O R M d0 (f b)) : O R M d0 (o.bind f) := by
  cases o with
  | none => exact O.none
  | some b => exact h b
theorem O.bindD {o : Option Dev} {f : Dev → Option Dev} (ho : O R M d0 o) (h : ∀ y, Keep R M d0 y → O R M d0 (f y)) : O R M d0 (o.bind f) := by
  cases o with
  | none => exact O.none
  | some b => exact h b (ho b rfl)
theorem O.getD {o : Option Dev} {y : Dev} (ho : O R M d0 o) (h : Keep R M d0 y) : Keep R M d0 (o.getD y) := by
  cases o with
  | none => exact h
  | some b => exact ho b rfl

theorem E.error {ε : Type} {r : ε} : E R M d0 (.error r) := fun _ e => nomatch e
theorem E.ok {ε : Type} (h : Keep R M d0 x) : E (ε := ε) R M d0 (.ok x) := fun _ e => Except.ok.inj e ▸ h
theorem E.out {ε : Type} {o : Except ε Dev} {y : Dev} (e : o = .ok y) (h : E R M d0 o) : Keep R M d0 y := h y e
theorem E.ite {ε : Type} {c : Prop} [Decidable c] {a b : Except ε Dev} (ha : E R M d0 a) (hb : E R M d0 b) :
    E R M d0 (if c then a else b) := by
  split <;> assumption
theorem E.bindD {ε : Type} {o : Except ε Dev} {f : Dev → Except ε Dev} (ho : E R M d0 o) (h : ∀ y, Keep R M d0 y → E R M d0 (f y)) :
    E R M d0 (o.bind f) := by
  cases o with
  | error r => exact E.error
  | ok b => exact h b (ho b rfl)

theorem S.mk {β : Type} {v : β} (h : Keep R M d0 x) : S R M d0 (v, x) := h
theorem S.ite {β : Type} {c : Prop} [Decidable c] {a b : β × Dev} (ha : S R M d0 a) (hb : S R M d0 b) : S R M d0 (if c then a else b) := by
  split <;> assumption
theorem S.snd {β : Type} {p : β × Dev} (h : S R M d0 p) : Keep R M d0 p.2 := h
theorem S.out {β : Type} {p : β × Dev} {v : β} {y : Dev} (e : p = (v, y)) (h : S R M d0 p) : Keep R M d0 y := by
  subst e; exact h
theorem S.foldl {α β : Type} {l : List α} {f : β × Dev → α → β × Dev} {p : β × Dev}
    (hf : ∀ q a, S R M d0 q → S R M d0 (f q a)) (h : S R M d0 p) : S R M d0 (l.foldl f p) := by
  induction l generalizing p with
  | nil => exact h
  | cons a l ih => exact ih (hf p a h)

/-- The same of an answer that holds a device beside something. -/
def ES {ε β : Type} (R : Fuses → Fuses → Prop) (M : Nat) (d0 : Dev) (o : Except ε (β × Dev)) : Prop := ∀ p, o = .ok p → Keep R M d0 p.2

theorem ES.error {ε β : Type} {r : ε} : ES (β := β) R M d0 (.error r) := fun _ e => nomatch e
theorem ES.ok {ε β : Type} {v : β} (h : Keep R M d0 x) : ES (ε := ε) R M d0 (.ok (v, x)) := fun _ e => Except.ok.inj e ▸ h
theorem ES.out {ε β : Type} {o : Except ε (β × Dev)} {v : β} {y : Dev} (e : o = .ok (v, y)) (h : ES R M d0 o) : Keep R M d0 y := h _ e
theorem ES.ite {ε β : Type} {c : Prop} [Decidable c] {a b : Except ε (β × Dev)} (ha : ES R M d0 a) (hb : ES R M d0 b) :
    ES R M d0 (if c then a else b) := by
  split <;> assumption
theorem ES.map {ε β : Type} {o : Except ε Dev} {v : β} (h : E R M d0 o) : ES R M d0 (o.map fun y => (v, y)) := by
  cases o with
  | error r => exact ES.error
  | ok b => exact ES.ok (h b rfl)

theorem F.mk {β : Type} {v : β} (h : Keep R M d0 x) : F R M d0 (x, v) := h
theorem F.ite {β : Type} {c : Prop} [Decidable c] {a b : Dev × β} (ha : F R M d0 a) (hb : F R M d0 b) : F R M d0 (if c then a else b) := by
  split <;> assumption
theorem F.fst {β : Type} {p : Dev × β} (h : F R M d0 p) : Keep R M d0 p.1 := h
theorem F.out {β : Type} {p : Dev × β} {v : β} {y : Dev} (e : p = (y, v)) (h : F R M d0 p) : Keep R M d0 y := by
  subst e; exact h
theorem F.foldl {α β : Type} {l : List α} {f : Dev × β → α → Dev × β} {p : Dev × β}
    (hf : ∀ q a, F R M d0 q → F R M d0 (f q a)) (h : F R M d0 p) : F R M d0 (l.foldl f p) := by
  induction l generalizing p with
  | nil => exact h
  | cons a l ih => exact ih (hf p a h)

/-! ### The stores -/

theorem setReg (h : Keep R M d0 x) (hS : Nat.land M 1 = 1) (a : Nat) (w : Word) : Keep R M d0 (x.setReg a w) :=
  ⟨h.fuses, fun c => by
    have := (canonical_iff _).mp (h.canon c)
    exact (canonical_iff _).mpr ⟨twf_tput resetWord _ _ _ this.1, this.2⟩, splice_trans hS h.frame rfl⟩

/-- A new memory in canonical form. -/
theorem setMem (h : Keep R M d0 x) (hS : Nat.land M 4 = 4) {m : Tbl Byte} (hm : Memory.wf 0 x.mem = true → Memory.wf 0 m = true) :
    Keep R M d0 { x with mem := m } :=
  ⟨h.fuses, fun c => by
    have := (canonical_iff _).mp (h.canon c)
    exact (canonical_iff _).mpr ⟨this.1, hm this.2.1, this.2.2⟩, splice_trans hS h.frame rfl⟩

/-- A new flash content in canonical form. -/
theorem setFlash (h : Keep R M d0 x) (hS : Nat.land M 8 = 8) {m : Tbl Byte}
    (hm : Memory.wf 0xFF x.flash = true → Memory.wf 0xFF m = true) : Keep R M d0 { x with flash := m } :=
  ⟨h.fuses, fun c => by
    have := (canonical_iff _).mp (h.canon c)
    exact (canonical_iff _).mpr ⟨this.1, this.2.1, hm this.2.2.1, this.2.2.2⟩, splice_trans hS h.frame rfl⟩

/-- New fuses that still stand in the relation. -/
theorem setFuses (h : Keep R M d0 x) (hS : Nat.land M 134217728 = 134217728) {f : Fuses} (hf : R d0.fuses f) :
    Keep R M d0 { x with fuses := f } :=
  ⟨hf, fun c => by
    have := (canonical_iff _).mp (h.canon c)
    exact (canonical_iff _).mpr this, splice_trans hS h.frame rfl⟩

/-- A new link state whose image is in canonical form. -/
theorem setCbl (h : Keep R M d0 x) (hS : Nat.land M 2097152 = 2097152) {c : Cbl}
    (hm : Memory.wf 0xFF x.cbl.img = true → Memory.wf 0xFF c.img = true) : Keep R M d0 { x with cbl := c } :=
  ⟨h.fuses, fun w => by
    have := (canonical_iff _).mp (h.canon w)
    exact (canonical_iff _).mpr ⟨this.1, this.2.1, this.2.2.1, hm this.2.2.2⟩, splice_trans hS h.frame rfl⟩

/-- A new register file in canonical form. -/
theorem setLive (h : Keep R M d0 x) (hS : Nat.land M 1 = 1) {l : Tbl Word} (hl : twf resetWord x.live = true → twf resetWord l = true) :
    Keep R M d0 { x with live := l } :=
  ⟨h.fuses, fun w => by
    have := (canonical_iff _).mp (h.canon w)
    exact (canonical_iff _).mpr ⟨hl this.1, this.2⟩, splice_trans hS h.frame rfl⟩

end Keep
end Sys2Proof.Laws
end

