-- ==== Sys2Proof/Laws/KeepEngine.lean ====
section
/-! SUPPORT. `Keep` carried over the operations of the engine: registers, memories, journal, mixing, contexts, bundles, spindles: one lemma for each, named after it. -/
namespace Sys2Proof.Laws.Keep
open Sys2Proof.Machine
set_option linter.unusedTactic false
set_option linter.unreachableTactic false
set_option linter.unusedVariables false

variable {R : Fuses → Fuses → Prop} {M : Nat} {d0 x : Dev}

/-! ### Machine/Ops.lean -/

theorem Dev_addOff (d : Dev) (n : Int) (h : Keep R M d0 d) (hS : Nat.land M 0x80 = 0x80) :
    Keep R M d0 (Sys2Proof.Machine.Dev.addOff d n) := by
  unfold Sys2Proof.Machine.Dev.addOff
  repeat' first
    | with_reducible exact h
    | with_reducible assumption
    | exact sub hS rfl
    | with_reducible exact rfl
    | fail_if_no_progress with_reducible refine upd (m := 0x80) ?_ hS rfl (by (repeat' apply And.intro) <;> first | exact .inr rfl | with_reducible exact .inl rfl)
    | dsimp only

theorem Dev_setReg (d : Dev) (a1 : Nat) (w : Word) (h : Keep R M d0 d) (hS : Nat.land M 0x1 = 0x1) :
    Keep R M d0 (Sys2Proof.Machine.Dev.setReg d a1 w) := by
  exact setReg h hS _ _

theorem Dev_clrBit (d : Dev) (a1 : Nat) (k : Nat) (h : Keep R M d0 d) (hS : Nat.land M 0x1 = 0x1) :
    Keep R M d0 (Sys2Proof.Machine.Dev.clrBit d a1 k) := by
  unfold Sys2Proof.Machine.Dev.clrBit
  repeat' first
    | with_reducible exact h
    | with_reducible assumption
    | exact sub hS rfl
    | with_reducible exact rfl
    | with_reducible apply Dev_setReg
    | dsimp only

theorem Dev_fp (d : Dev) (f : Fld) (v : Nat) (h : Keep R M d0 d) (hS : Nat.land M 0x1 = 0x1) :
    Keep R M d0 (Sys2Proof.Machine.Dev.fp d f v) := by
  unfold Sys2Proof.Machine.Dev.fp
  repeat' first
    | with_reducible exact h
    | with_reducible assumption
    | exact sub hS rfl
    | with_reducible exact rfl
    | with_reducible apply Dev_setReg
    | dsimp only

theorem Dev_count (d : Dev) (f : Fld) (n : Nat) (h : Keep R M d0 d) (hS : Nat.land M 0x1 = 0x1) :
    Keep R M d0 (Sys2Proof.Machine.Dev.count d f n) := by
  unfold Sys2Proof.Machine.Dev.count
  repeat' first
    | with_reducible exact h
    | with_reducible assumption
    | exact sub hS rfl
    | with_reducible exact rfl
    | with_reducible apply Dev_fp
    | dsimp only

theorem Dev_setClocks (d : Dev) (xref : Bool) (hfrc : Bool) (spll : Bool) (apll : Bool) (lpll : Bool) (h : Keep R M d0 d) (hS : Nat.land M 0x1 = 0x1) :
    Keep R M d0 (Sys2Proof.Machine.Dev.setClocks d xref hfrc spll apll lpll) := by
  unfold Sys2Proof.Machine.Dev.setClocks
  repeat' first
    | with_reducible exact h
    | with_reducible assumption
    | exact sub hS rfl
    | with_reducible exact rfl
    | with_reducible apply Dev_fp
    | with_reducible apply ite
    | dsimp only

theorem Dev_enter (m : Mode) (d : Dev) (h : Keep R M d0 d) (hS : Nat.land M 0x10000041 = 0x10000041) :
    Keep R M d0 (Sys2Proof.Machine.Dev.enter m d) := by
  unfold Sys2Proof.Machine.Dev.enter
  repeat' first
    | with_reducible exact h
    | with_reducible assumption
    | exact sub hS rfl
    | with_reducible exact rfl
    | with_reducible apply Dev_setClocks
    | fail_if_no_progress with_reducible refine upd (m := 0x10000041) ?_ hS rfl (by (repeat' apply And.intro) <;> first | exact .inr rfl | with_reducible exact .inl rfl)
    | with_reducible apply ite
    | dsimp only
    | split

theorem Dev_ferase (d : Dev) (k : Nat) (h : Keep R M d0 d) (hS : Nat.land M 0x8 = 0x8) :
    Keep R M d0 (Sys2Proof.Machine.Dev.ferase d k) := by
  exact setFlash h (sub hS rfl) (fun w => twf_filter (fun _ => (0xFF : Byte)) _ _ w)

theorem Dev_fprog (d : Dev) (a1 : Nat) (a2 : List Byte) (h : Keep R M d0 d) (hS : Nat.land M 0x8 = 0x8) :
    Keep R M d0 (Sys2Proof.Machine.Dev.fprog d a1 a2) := by
  induction a2 generalizing d a1 with
  | nil => exact h
  | cons b bs ih => exact ih _ _ (setFlash h (sub hS rfl) (fun w => twf_tput (fun _ => (0xFF : Byte)) _ _ _ w))

theorem Dev_freeze (d : Dev) (k : Nat) (h : Keep R M d0 d) (hS : Nat.land M 0x10000541 = 0x10000541) :
    Keep R M d0 (Sys2Proof.Machine.Dev.freeze d k) := by
  unfold Sys2Proof.Machine.Dev.freeze
  repeat' first
    | with_reducible exact h
    | with_reducible assumption
    | exact sub hS rfl
    | with_reducible exact rfl
    | with_reducible apply Dev_fp
    | with_reducible apply Dev_setReg
    | fail_if_no_progress with_reducible refine upd (m := 0x10000541) ?_ hS rfl (by (repeat' apply And.intro) <;> first | exact .inr rfl | with_reducible exact .inl rfl)
    | dsimp only

theorem Dev_fresh (d : Dev) (h : Keep R M d0 d) (hS : Nat.land M 0x10 = 0x10) :
    S R M d0 (Sys2Proof.Machine.Dev.fresh d) := by
  unfold Sys2Proof.Machine.Dev.fresh
  repeat' first
    | with_reducible exact h
    | with_reducible assumption
    | exact sub hS rfl
    | with_reducible exact rfl
    | fail_if_no_progress with_reducible refine upd (m := 0x10) ?_ hS rfl (by (repeat' apply And.intro) <;> first | exact .inr rfl | with_reducible exact .inl rfl)
    | dsimp only
    | with_reducible apply S.mk

theorem Dev_heard (d : Dev) (f : Dev → Dev) (h : Keep R M d0 d) (hf : ∀ y, Keep R M d0 y → Keep R M d0 (f y)) (hS : Nat.land M 0x0 = 0x0) :
    Keep R M d0 (Sys2Proof.Machine.Dev.heard d f) := by
  unfold Sys2Proof.Machine.Dev.heard
  exact ite (hf _ h) h

theorem Dev_setBit (d : Dev) (a1 : Nat) (k : Nat) (h : Keep R M d0 d) (hS : Nat.land M 0x1 = 0x1) :
    Keep R M d0 (Sys2Proof.Machine.Dev.setBit d a1 k) := by
  unfold Sys2Proof.Machine.Dev.setBit
  repeat' first
    | with_reducible exact h
    | with_reducible assumption
    | exact sub hS rfl
    | with_reducible exact rfl
    | with_reducible apply Dev_setReg
    | dsimp only

theorem Dev_setRaw (d : Dev) (k : Nat) (h : Keep R M d0 d) (hS : Nat.land M 0x1 = 0x1) :
    Keep R M d0 (Sys2Proof.Machine.Dev.setRaw d k) := by
  unfold Sys2Proof.Machine.Dev.setRaw
  repeat' first
    | with_reducible exact h
    | with_reducible assumption
    | exact sub hS rfl
    | with_reducible exact rfl
    | with_reducible apply Dev_setBit
    | dsimp only

theorem Dev_markRaise (k : Nat) (d : Dev) (h : Keep R M d0 d) (hS : Nat.land M 0x1 = 0x1) :
    Keep R M d0 (Sys2Proof.Machine.Dev.markRaise k d) := by
  unfold Sys2Proof.Machine.Dev.markRaise
  repeat' first
    | with_reducible exact h
    | with_reducible assumption
    | exact sub hS rfl
    | with_reducible exact rfl
    | with_reducible apply Dev_count
    | with_reducible apply Dev_setRaw
    | with_reducible apply ite
    | dsimp only
    | split

theorem Dev_setWaiting (d : Dev) (src : Nat) (l : List Msg) (h : Keep R M d0 d) (hS : Nat.land M 0x200 = 0x200) :
    Keep R M d0 (Sys2Proof.Machine.Dev.setWaiting d src l) := by
  unfold Sys2Proof.Machine.Dev.setWaiting
  repeat' first
    | with_reducible exact h
    | with_reducible assumption
    | exact sub hS rfl
    | with_reducible exact rfl
    | fail_if_no_progress with_reducible refine upd (m := 0x200) ?_ hS rfl (by (repeat' apply And.intro) <;> first | exact .inr rfl | with_reducible exact .inl rfl)
    | dsimp only

theorem Dev_post (d : Dev) (src : Nat) (m : Msg) (h : Keep R M d0 d) (hS : Nat.land M 0x200 = 0x200) :
    Keep R M d0 (Sys2Proof.Machine.Dev.post d src m) := by
  unfold Sys2Proof.Machine.Dev.post
  repeat' first
    | with_reducible exact h
    | with_reducible assumption
    | exact sub hS rfl
    | with_reducible exact rfl
    | with_reducible apply Dev_setWaiting
    | dsimp only

theorem Dev_raise (k : Nat) (d : Dev) (h : Keep R M d0 d) (hS : Nat.land M 0x10000541 = 0x10000541) :
    Keep R M d0 (Sys2Proof.Machine.Dev.raise k d) := by
  unfold Sys2Proof.Machine.Dev.raise
  repeat' first
    | with_reducible exact h
    | with_reducible assumption
    | exact sub hS rfl
    | with_reducible exact rfl
    | with_reducible apply Dev_markRaise
    | with_reducible apply Dev_freeze
    | fail_if_no_progress with_reducible refine upd (m := 0x10000541) ?_ hS rfl (by (repeat' apply And.intro) <;> first | exact .inr rfl | with_reducible exact .inl rfl)
    | with_reducible apply ite
    | dsimp only

/-- A source that is not fatal: the register file and the event unit. -/
theorem raisePlain {k : Nat} {d : Dev} (h : Keep R M d0 d) (hk : fatalSource k = false) (hS : Nat.land M 257 = 257) :
    Keep R M d0 (d.raise k) := by
  unfold Sys2Proof.Machine.Dev.raise
  dsimp only
  rw [hk, Bool.false_and, if_neg (by decide)]
  exact Dev_markRaise _ _ (upd (m := 256) h (sub hS rfl) rfl (by (repeat' apply And.intro) <;> first | exact .inr rfl | with_reducible exact .inl rfl)) (sub hS rfl)

theorem Dev_setAdj (d : Dev) (a1 : Int) (h : Keep R M d0 d) (hS : Nat.land M 0x81 = 0x81) :
    Keep R M d0 (Sys2Proof.Machine.Dev.setAdj d a1) := by
  unfold Sys2Proof.Machine.Dev.setAdj
  repeat' first
    | with_reducible exact h
    | with_reducible assumption
    | exact sub hS rfl
    | with_reducible exact rfl
    | with_reducible apply Dev_setReg
    | with_reducible apply Dev_addOff
    | dsimp only

theorem Dev_setCtx (d : Dev) (i : Nat) (x : Ctx) (h : Keep R M d0 d) (hS : Nat.land M 0x2000 = 0x2000) :
    Keep R M d0 (Sys2Proof.Machine.Dev.setCtx d i x) := by
  unfold Sys2Proof.Machine.Dev.setCtx
  repeat' first
    | with_reducible exact h
    | with_reducible assumption
    | exact sub hS rfl
    | with_reducible exact rfl
    | fail_if_no_progress with_reducible refine upd (m := 0x2000) ?_ hS rfl (by (repeat' apply And.intro) <;> first | exact .inr rfl | with_reducible exact .inl rfl)
    | dsimp only

theorem Dev_setLport (d : Dev) (p : Nat) (x : LPort) (h : Keep R M d0 d) (hS : Nat.land M 0x200000 = 0x200000) :
    Keep R M d0 (Sys2Proof.Machine.Dev.setLport d p x) := by
  unfold Sys2Proof.Machine.Dev.setLport
  repeat' first
    | with_reducible exact h
    | with_reducible assumption
    | exact sub hS rfl
    | with_reducible exact rfl
    | fail_if_no_progress with_reducible refine upd (m := 0x200000) ?_ hS rfl (by (repeat' apply And.intro) <;> first | exact .inr rfl | with_reducible exact .inl rfl)
    | dsimp only

theorem Dev_setPend (d : Dev) (v : Nat) (tag : Nat) (part : Nat) (h : Keep R M d0 d) (hS : Nat.land M 0x8001 = 0x8001) :
    Keep R M d0 (Sys2Proof.Machine.Dev.setPend d v tag part) := by
  unfold Sys2Proof.Machine.Dev.setPend
  repeat' first
    | with_reducible exact h
    | with_reducible assumption
    | exact sub hS rfl
    | with_reducible exact rfl
    | with_reducible apply Dev_fp
    | fail_if_no_progress with_reducible refine upd (m := 0x8001) ?_ hS rfl (by (repeat' apply And.intro) <;> first | exact .inr rfl | with_reducible exact .inl rfl)
    | with_reducible apply ite
    | dsimp only

theorem Dev_setPort (d : Dev) (n : Nat) (x : Port) (h : Keep R M d0 d) (hS : Nat.land M 0x20000 = 0x20000) :
    Keep R M d0 (Sys2Proof.Machine.Dev.setPort d n x) := by
  unfold Sys2Proof.Machine.Dev.setPort
  repeat' first
    | with_reducible exact h
    | with_reducible assumption
    | exact sub hS rfl
    | with_reducible exact rfl
    | fail_if_no_progress with_reducible refine upd (m := 0x20000) ?_ hS rfl (by (repeat' apply And.intro) <;> first | exact .inr rfl | with_reducible exact .inl rfl)
    | dsimp only

theorem Dev_setSpn (d : Dev) (n : Nat) (x : Spn) (h : Keep R M d0 d) (hS : Nat.land M 0x4000 = 0x4000) :
    Keep R M d0 (Sys2Proof.Machine.Dev.setSpn d n x) := by
  unfold Sys2Proof.Machine.Dev.setSpn
  repeat' first
    | with_reducible exact h
    | with_reducible assumption
    | exact sub hS rfl
    | with_reducible exact rfl
    | fail_if_no_progress with_reducible refine upd (m := 0x4000) ?_ hS rfl (by (repeat' apply And.intro) <;> first | exact .inr rfl | with_reducible exact .inl rfl)
    | dsimp only

theorem Dev_setTmr (d : Dev) (n : Nat) (x : Tmr) (h : Keep R M d0 d) (hS : Nat.land M 0x100000 = 0x100000) :
    Keep R M d0 (Sys2Proof.Machine.Dev.setTmr d n x) := by
  unfold Sys2Proof.Machine.Dev.setTmr
  repeat' first
    | with_reducible exact h
    | with_reducible assumption
    | exact sub hS rfl
    | with_reducible exact rfl
    | fail_if_no_progress with_reducible refine upd (m := 0x100000) ?_ hS rfl (by (repeat' apply And.intro) <;> first | exact .inr rfl | with_reducible exact .inl rfl)
    | dsimp only

theorem Dev_setUart (d : Dev) (n : Nat) (x : Uart) (h : Keep R M d0 d) (hS : Nat.land M 0x800000 = 0x800000) :
    Keep R M d0 (Sys2Proof.Machine.Dev.setUart d n x) := by
  unfold Sys2Proof.Machine.Dev.setUart
  repeat' first
    | with_reducible exact h
    | with_reducible assumption
    | exact sub hS rfl
    | with_reducible exact rfl
    | fail_if_no_progress with_reducible refine upd (m := 0x800000) ?_ hS rfl (by (repeat' apply And.intro) <;> first | exact .inr rfl | with_reducible exact .inl rfl)
    | dsimp only

theorem Dev_setVoice (d : Dev) (v : Nat) (x : Voice) (h : Keep R M d0 d) (hS : Nat.land M 0x1000 = 0x1000) :
    Keep R M d0 (Sys2Proof.Machine.Dev.setVoice d v x) := by
  unfold Sys2Proof.Machine.Dev.setVoice
  repeat' first
    | with_reducible exact h
    | with_reducible assumption
    | exact sub hS rfl
    | with_reducible exact rfl
    | fail_if_no_progress with_reducible refine upd (m := 0x1000) ?_ hS rfl (by (repeat' apply And.intro) <;> first | exact .inr rfl | with_reducible exact .inl rfl)
    | dsimp only

theorem Dev_showTime (d : Dev) (h : Keep R M d0 d) (hS : Nat.land M 0x1 = 0x1) :
    Keep R M d0 (Sys2Proof.Machine.Dev.showTime d) := by
  unfold Sys2Proof.Machine.Dev.showTime
  repeat' first
    | with_reducible exact h
    | with_reducible assumption
    | exact sub hS rfl
    | with_reducible exact rfl
    | with_reducible apply Dev_fp
    | with_reducible apply ite
    | dsimp only
    | split

theorem Dev_stopStreams (d : Dev) (h : Keep R M d0 d) (hS : Nat.land M 0x400001 = 0x400001) :
    Keep R M d0 (Sys2Proof.Machine.Dev.stopStreams d) := by
  unfold Sys2Proof.Machine.Dev.stopStreams
  repeat' first
    | with_reducible exact h
    | with_reducible assumption
    | exact sub hS rfl
    | with_reducible exact rfl
    | with_reducible apply Dev_fp
    | with_reducible refine each (fun _ _ _ => ?_) ?_
    | fail_if_no_progress with_reducible refine upd (m := 0x400001) ?_ hS rfl (by (repeat' apply And.intro) <;> first | exact .inr rfl | with_reducible exact .inl rfl)
    | dsimp only

theorem Dev_wb (d : Dev) (a1 : Nat) (b : Byte) (h : Keep R M d0 d) (hS : Nat.land M 0x5 = 0x5) :
    Keep R M d0 (Sys2Proof.Machine.Dev.wb d a1 b) := by
  unfold Sys2Proof.Machine.Dev.wb
  split
  · exact setReg h (sub hS rfl) _ _
  · exact setMem h (sub hS rfl) (fun w => twf_tput (fun _ => (0 : Byte)) _ _ _ w)

theorem Dev_wbs (d : Dev) (a1 : Nat) (a2 : List Byte) (h : Keep R M d0 d) (hS : Nat.land M 0x5 = 0x5) :
    Keep R M d0 (Sys2Proof.Machine.Dev.wbs d a1 a2) := by
  induction a2 generalizing d a1 with
  | nil => exact h
  | cons b bs ih => exact ih _ _ (Dev_wb _ _ _ h hS)

theorem Dev_ww32 (d : Dev) (a1 : Nat) (w : Word) (h : Keep R M d0 d) (hS : Nat.land M 0x5 = 0x5) :
    Keep R M d0 (Sys2Proof.Machine.Dev.ww32 d a1 w) := by
  unfold Sys2Proof.Machine.Dev.ww32
  repeat' first
    | with_reducible exact h
    | with_reducible assumption
    | exact sub hS rfl
    | with_reducible exact rfl
    | with_reducible apply Dev_wbs
    | dsimp only

/-! ### Machine/HostTx.lean -/

theorem Dev_txPush (d : Dev) (n : Nat) (l : List Byte) (h : Keep R M d0 d) (hS : Nat.land M 0x800001 = 0x800001) :
    Keep R M d0 (Sys2Proof.Machine.Dev.txPush d n l) := by
  unfold Sys2Proof.Machine.Dev.txPush
  repeat' first
    | with_reducible exact h
    | with_reducible assumption
    | exact sub hS rfl
    | with_reducible exact rfl
    | with_reducible apply Dev_fp
    | with_reducible apply Dev_setUart
    | dsimp only

theorem Dev_respondAs (d : Dev) (dev : Nat) (tag : Nat) (op : Nat) (status : Nat) (pay : List Byte) (h : Keep R M d0 d) (hS : Nat.land M 0x11800541 = 0x11800541) :
    Keep R M d0 (Sys2Proof.Machine.Dev.respondAs d dev tag op status pay) := by
  unfold Sys2Proof.Machine.Dev.respondAs
  repeat' first
    | with_reducible exact h
    | with_reducible assumption
    | exact sub hS rfl
    | with_reducible exact rfl
    | with_reducible apply Dev_txPush
    | with_reducible refine raisePlain ?_ (by with_unfolding_all exact rfl) ?_
    | with_reducible apply Dev_raise
    | fail_if_no_progress with_reducible refine upd (m := 0x11800541) ?_ hS rfl (by (repeat' apply And.intro) <;> first | exact .inr rfl | with_reducible exact .inl rfl)
    | with_reducible apply ite
    | dsimp only

theorem Dev_respond (d : Dev) (tag : Nat) (op : Nat) (status : Nat) (pay : List Byte) (h : Keep R M d0 d) (hS : Nat.land M 0x11800541 = 0x11800541) :
    Keep R M d0 (Sys2Proof.Machine.Dev.respond d tag op status pay) := by
  unfold Sys2Proof.Machine.Dev.respond
  repeat' first
    | with_reducible exact h
    | with_reducible assumption
    | exact sub hS rfl
    | with_reducible exact rfl
    | with_reducible apply Dev_respondAs
    | dsimp only

theorem Dev_respondWait (d : Dev) (dev : Nat) (status : Nat) (pay : List Byte) (h : Keep R M d0 d) (hS : Nat.land M 0x11800541 = 0x11800541) :
    Keep R M d0 (Sys2Proof.Machine.Dev.respondWait d dev status pay) := by
  unfold Sys2Proof.Machine.Dev.respondWait
  repeat' first
    | with_reducible exact h
    | with_reducible assumption
    | exact sub hS rfl
    | with_reducible exact rfl
    | with_reducible apply Dev_respondAs
    | with_reducible apply Dev_txPush
    | with_reducible refine each (fun _ _ _ => ?_) ?_
    | fail_if_no_progress with_reducible refine upd (m := 0x11800541) ?_ hS rfl (by (repeat' apply And.intro) <;> first | exact .inr rfl | with_reducible exact .inl rfl)
    | with_reducible apply ite
    | dsimp only
    | split

/-! ### Machine/Journal.lean -/

theorem Dev_addCounter (d : Dev) (i : Nat) (n : Nat) (h : Keep R M d0 d) (hS : Nat.land M 0x2000000 = 0x2000000) :
    Keep R M d0 (Sys2Proof.Machine.Dev.addCounter d i n) := by
  unfold Sys2Proof.Machine.Dev.addCounter
  repeat' first
    | with_reducible exact h
    | with_reducible assumption
    | exact sub hS rfl
    | with_reducible exact rfl
    | fail_if_no_progress with_reducible refine upd (m := 0x2000000) ?_ hS rfl (by (repeat' apply And.intro) <;> first | exact .inr rfl | with_reducible exact .inl rfl)
    | with_reducible apply ite
    | dsimp only

theorem Dev_setSect (d : Dev) (k : Nat) (x : Sect) (h : Keep R M d0 d) (hS : Nat.land M 0x2000000 = 0x2000000) :
    Keep R M d0 (Sys2Proof.Machine.Dev.setSect d k x) := by
  unfold Sys2Proof.Machine.Dev.setSect
  repeat' first
    | with_reducible exact h
    | with_reducible assumption
    | exact sub hS rfl
    | with_reducible exact rfl
    | fail_if_no_progress with_reducible refine upd (m := 0x2000000) ?_ hS rfl (by (repeat' apply And.intro) <;> first | exact .inr rfl | with_reducible exact .inl rfl)
    | dsimp only

theorem Dev_newHead (d : Dev) (h : Keep R M d0 d) (hS : Nat.land M 0x2000008 = 0x2000008) :
    O R M d0 (Sys2Proof.Machine.Dev.newHead d) := by
  unfold Sys2Proof.Machine.Dev.newHead
  repeat' first
    | with_reducible exact h
    | with_reducible assumption
    | exact sub hS rfl
    | with_reducible exact rfl
    | with_reducible apply Dev_fprog
    | with_reducible apply Dev_setSect
    | with_reducible exact O.none
    | with_reducible apply O.some
    | with_reducible apply O.ite
    | with_reducible refine O.mapD ?_ (fun _ _ => ?_)
    | with_reducible refine O.map (fun _ => ?_)
    | with_reducible refine O.getD ?_ ?_
    | with_reducible refine foldl (fun _ _ _ => ?_) ?_
    | fail_if_no_progress with_reducible refine upd (m := 0x2000008) ?_ hS rfl (by (repeat' apply And.intro) <;> first | exact .inr rfl | with_reducible exact .inl rfl)
    | with_reducible apply ite
    | dsimp only
    | split

theorem Dev_jroom (d : Dev) (pay : List Byte) (h : Keep R M d0 d) (hS : Nat.land M 0x2000008 = 0x2000008) :
    O R M d0 (Sys2Proof.Machine.Dev.jroom d pay) := by
  unfold Sys2Proof.Machine.Dev.jroom
  repeat' first
    | with_reducible exact h
    | with_reducible assumption
    | exact sub hS rfl
    | with_reducible exact rfl
    | with_reducible apply Dev_newHead
    | with_reducible refine O.out (by assumption) ?_
    | with_reducible exact O.none
    | with_reducible apply O.some
    | with_reducible apply O.ite
    | with_reducible apply ite
    | dsimp only

theorem Dev_jput (d : Dev) (ty : Nat) (key : Nat) (txid : Nat) (pay : List Byte) (h : Keep R M d0 d) (hS : Nat.land M 0x2000008 = 0x2000008) :
    O R M d0 (Sys2Proof.Machine.Dev.jput d ty key txid pay) := by
  unfold Sys2Proof.Machine.Dev.jput
  repeat' first
    | with_reducible exact h
    | with_reducible assumption
    | exact sub hS rfl
    | with_reducible exact rfl
    | with_reducible apply Dev_fprog
    | with_reducible apply Dev_jroom
    | with_reducible refine O.out (by assumption) ?_
    | with_reducible exact O.none
    | with_reducible apply O.some
    | with_reducible refine O.mapD ?_ (fun _ _ => ?_)
    | with_reducible refine O.map (fun _ => ?_)
    | fail_if_no_progress with_reducible refine upd (m := 0x2000008) ?_ hS rfl (by (repeat' apply And.intro) <;> first | exact .inr rfl | with_reducible exact .inl rfl)
    | dsimp only

theorem Dev_jcopy (a1 : List JRec) (a2 : Dev) (h : Keep R M d0 a2) (hS : Nat.land M 0x2000008 = 0x2000008) :
    O R M d0 (Sys2Proof.Machine.Dev.jcopy a1 a2) := by
  induction a1 generalizing a2 with
  | nil => exact O.some h
  | cons r l ih => exact O.bindD (Dev_jput _ _ _ _ _ h (sub hS rfl)) (fun y hy => ih y hy)

theorem Dev_jspend (d : Dev) (h : Keep R M d0 d) (hS : Nat.land M 0x2000001 = 0x2000001) :
    Keep R M d0 (Sys2Proof.Machine.Dev.jspend d) := by
  unfold Sys2Proof.Machine.Dev.jspend
  repeat' first
    | with_reducible exact h
    | with_reducible assumption
    | exact sub hS rfl
    | with_reducible exact rfl
    | with_reducible apply Dev_setReg
    | fail_if_no_progress with_reducible refine upd (m := 0x2000001) ?_ hS rfl (by (repeat' apply And.intro) <;> first | exact .inr rfl | with_reducible exact .inl rfl)
    | dsimp only

theorem Dev_superWrite (d : Dev) (h : Keep R M d0 d) (hS : Nat.land M 0x2000009 = 0x2000009) :
    O R M d0 (Sys2Proof.Machine.Dev.superWrite d) := by
  unfold Sys2Proof.Machine.Dev.superWrite
  repeat' first
    | with_reducible exact h
    | with_reducible assumption
    | exact sub hS rfl
    | with_reducible exact rfl
    | with_reducible apply Dev_jspend
    | with_reducible apply Dev_ferase
    | with_reducible apply Dev_fprog
    | with_reducible exact O.none
    | with_reducible apply O.some
    | with_reducible apply O.ite
    | fail_if_no_progress with_reducible refine upd (m := 0x2000009) ?_ hS rfl (by (repeat' apply And.intro) <;> first | exact .inr rfl | with_reducible exact .inl rfl)
    | with_reducible apply ite
    | dsimp only

theorem Dev_compact (d : Dev) (h : Keep R M d0 d) (hS : Nat.land M 0x2000009 = 0x2000009) :
    O R M d0 (Sys2Proof.Machine.Dev.compact d) := by
  unfold Sys2Proof.Machine.Dev.compact
  repeat' first
    | with_reducible exact h
    | with_reducible assumption
    | exact sub hS rfl
    | with_reducible exact rfl
    | with_reducible apply Dev_jcopy
    | with_reducible apply Dev_superWrite
    | with_reducible refine O.out (by assumption) ?_
    | with_reducible exact O.none
    | with_reducible apply O.some
    | with_reducible refine O.bindD ?_ (fun _ _ => ?_)
    | with_reducible refine O.bind (fun _ => ?_)
    | with_reducible refine O.getD ?_ ?_
    | fail_if_no_progress with_reducible refine upd (m := 0x2000009) ?_ hS rfl (by (repeat' apply And.intro) <;> first | exact .inr rfl | with_reducible exact .inl rfl)
    | dsimp only
    | split

theorem Dev_compactAll (a1 : Nat) (a2 : Dev) (h : Keep R M d0 a2) (hS : Nat.land M 0x2000009 = 0x2000009) :
    Keep R M d0 (Sys2Proof.Machine.Dev.compactAll a1 a2) := by
  induction a1 generalizing a2 with
  | zero => exact h
  | succ n ih =>
    unfold Sys2Proof.Machine.Dev.compactAll
    split
    · exact h
    · split
      · next e => exact ih _ (O.out e (Dev_compact _ h (sub hS rfl)))
      · exact h

theorem Dev_fromSuper (d : Dev) (inB : Bool) (sb : List Byte) (h : Keep R M d0 d) (hS : Nat.land M 0x2000001 = 0x2000001) :
    Keep R M d0 (Sys2Proof.Machine.Dev.fromSuper d inB sb) := by
  unfold Sys2Proof.Machine.Dev.fromSuper
  repeat' first
    | with_reducible exact h
    | with_reducible assumption
    | exact sub hS rfl
    | with_reducible exact rfl
    | with_reducible apply Dev_setSect
    | with_reducible apply Dev_setReg
    | with_reducible refine each (fun _ _ _ => ?_) ?_
    | fail_if_no_progress with_reducible refine upd (m := 0x2000001) ?_ hS rfl (by (repeat' apply And.intro) <;> first | exact .inr rfl | with_reducible exact .inl rfl)
    | dsimp only

theorem Dev_jabandon (d : Dev) (h : Keep R M d0 d) (hS : Nat.land M 0x2000001 = 0x2000001) :
    Keep R M d0 (Sys2Proof.Machine.Dev.jabandon d) := by
  unfold Sys2Proof.Machine.Dev.jabandon
  repeat' first
    | with_reducible exact h
    | with_reducible assumption
    | exact sub hS rfl
    | with_reducible exact rfl
    | with_reducible apply Dev_count
    | fail_if_no_progress with_reducible refine upd (m := 0x2000001) ?_ hS rfl (by (repeat' apply And.intro) <;> first | exact .inr rfl | with_reducible exact .inl rfl)
    | dsimp only

theorem Dev_jshow (d : Dev) (h : Keep R M d0 d) (hS : Nat.land M 0x1 = 0x1) :
    Keep R M d0 (Sys2Proof.Machine.Dev.jshow d) := by
  unfold Sys2Proof.Machine.Dev.jshow
  repeat' first
    | with_reducible exact h
    | with_reducible assumption
    | exact sub hS rfl
    | with_reducible exact rfl
    | with_reducible apply Dev_setReg
    | with_reducible apply Dev_fp
    | with_reducible refine foldl (fun _ _ _ => ?_) ?_
    | with_reducible apply ite
    | dsimp only

theorem Dev_jformat (d : Dev) (h : Keep R M d0 d) (hS : Nat.land M 0x2000009 = 0x2000009) :
    Keep R M d0 (Sys2Proof.Machine.Dev.jformat d) := by
  unfold Sys2Proof.Machine.Dev.jformat
  repeat' first
    | with_reducible exact h
    | with_reducible assumption
    | exact sub hS rfl
    | with_reducible exact rfl
    | with_reducible apply Dev_fprog
    | with_reducible apply Dev_setSect
    | with_reducible apply Dev_ferase
    | with_reducible apply Dev_newHead
    | with_reducible apply Dev_setReg
    | with_reducible apply Dev_jshow
    | with_reducible apply Dev_fp
    | with_reducible apply Dev_superWrite
    | with_reducible refine O.out (by assumption) ?_
    | with_reducible exact O.none
    | with_reducible apply O.some
    | with_reducible apply O.ite
    | with_reducible refine O.getD ?_ ?_
    | with_reducible refine each (fun _ _ _ => ?_) ?_
    | fail_if_no_progress with_reducible refine upd (m := 0x2000009) ?_ hS rfl (by (repeat' apply And.intro) <;> first | exact .inr rfl | with_reducible exact .inl rfl)
    | with_reducible apply ite
    | dsimp only

theorem Dev_jlow (d : Dev) (h : Keep R M d0 d) (hS : Nat.land M 0x12000541 = 0x12000541) :
    Keep R M d0 (Sys2Proof.Machine.Dev.jlow d) := by
  unfold Sys2Proof.Machine.Dev.jlow
  repeat' first
    | with_reducible exact h
    | with_reducible assumption
    | exact sub hS rfl
    | with_reducible exact rfl
    | with_reducible refine raisePlain ?_ (by with_unfolding_all exact rfl) ?_
    | with_reducible apply Dev_raise
    | fail_if_no_progress with_reducible refine upd (m := 0x12000541) ?_ hS rfl (by (repeat' apply And.intro) <;> first | exact .inr rfl | with_reducible exact .inl rfl)
    | with_reducible apply ite
    | dsimp only

theorem Dev_jrefuse (d : Dev) (h : Keep R M d0 d) (hS : Nat.land M 0x12000541 = 0x12000541) :
    Keep R M d0 (Sys2Proof.Machine.Dev.jrefuse d) := by
  unfold Sys2Proof.Machine.Dev.jrefuse
  repeat' first
    | with_reducible exact h
    | with_reducible assumption
    | exact sub hS rfl
    | with_reducible exact rfl
    | with_reducible apply Dev_count
    | with_reducible refine raisePlain ?_ (by with_unfolding_all exact rfl) ?_
    | with_reducible apply Dev_raise
    | fail_if_no_progress with_reducible refine upd (m := 0x12000541) ?_ hS rfl (by (repeat' apply And.intro) <;> first | exact .inr rfl | with_reducible exact .inl rfl)
    | with_reducible apply ite
    | dsimp only

theorem Dev_jpost (d : Dev) (ty : Nat) (key : Nat) (txid : Nat) (pay : List Byte) (host : Bool) (h : Keep R M d0 d) (hS : Nat.land M 0x12000541 = 0x12000541) :
    S R M d0 (Sys2Proof.Machine.Dev.jpost d ty key txid pay host) := by
  unfold Sys2Proof.Machine.Dev.jpost
  repeat' first
    | with_reducible exact h
    | with_reducible assumption
    | exact sub hS rfl
    | with_reducible exact rfl
    | with_reducible apply Dev_jrefuse
    | with_reducible apply Dev_jshow
    | with_reducible apply S.ite
    | with_reducible refine S.foldl (fun _ _ _ => ?_) ?_
    | with_reducible refine foldl (fun _ _ _ => ?_) ?_
    | with_reducible exact S.snd (by assumption)
    | fail_if_no_progress with_reducible refine upd (m := 0x12000541) ?_ hS rfl (by (repeat' apply And.intro) <;> first | exact .inr rfl | with_reducible exact .inl rfl)
    | with_reducible apply ite
    | dsimp only
    | with_reducible apply S.mk

theorem Dev_journal (d : Dev) (ty : Nat) (key : Nat) (pay : List Byte) (h : Keep R M d0 d) (hS : Nat.land M 0x12000541 = 0x12000541) :
    Keep R M d0 (Sys2Proof.Machine.Dev.journal d ty key pay) := by
  unfold Sys2Proof.Machine.Dev.journal
  repeat' first
    | with_reducible exact h
    | with_reducible assumption
    | exact sub hS rfl
    | with_reducible exact rfl
    | with_reducible apply Dev_jpost
    | with_reducible refine S.out (by assumption) ?_
    | with_reducible apply S.snd
    | with_reducible apply S.ite
    | with_reducible apply ite
    | dsimp only
    | with_reducible apply S.mk

theorem Dev_txOpen (d : Dev) (h : Keep R M d0 d) (hS : Nat.land M 0x2000000 = 0x2000000) :
    ∀ k y, Sys2Proof.Machine.Dev.txOpen d = some (k, y) → Keep R M d0 y := by
  intro k y e
  unfold Sys2Proof.Machine.Dev.txOpen at e
  split at e
  · cases e
  · cases e
    exact upd h hS rfl (by (repeat' apply And.intro) <;> first | exact .inr rfl | with_reducible exact .inl rfl)

theorem Dev_journalTx (d : Dev) (l : List (Nat × Nat × List Byte)) (h : Keep R M d0 d) (hS : Nat.land M 0x12000541 = 0x12000541) :
    Keep R M d0 (Sys2Proof.Machine.Dev.journalTx d l) := by
  unfold Sys2Proof.Machine.Dev.journalTx
  split
  · exact h
  · split
    · exact h
    · next t y e =>
      exact (Dev_jpost _ _ _ _ _ _ (each (fun _ _ hy => Dev_jpost _ _ _ _ _ _ hy (sub hS rfl)) (Dev_txOpen _ h (sub hS rfl) _ _ e)) (sub hS rfl))

theorem Dev_jreadOnly (d : Dev) (h : Keep R M d0 d) (hS : Nat.land M 0x10000541 = 0x10000541) :
    Keep R M d0 (Sys2Proof.Machine.Dev.jreadOnly d) := by
  unfold Sys2Proof.Machine.Dev.jreadOnly
  repeat' first
    | with_reducible exact h
    | with_reducible assumption
    | exact sub hS rfl
    | with_reducible exact rfl
    | with_reducible refine raisePlain ?_ (by with_unfolding_all exact rfl) ?_
    | with_reducible apply Dev_raise
    | with_reducible apply Dev_fp
    | dsimp only

theorem Dev_jregion (d : Dev) (base : Nat) (len : Nat) (h : Keep R M d0 d) (hS : Nat.land M 0x2000000 = 0x2000000) :
    Keep R M d0 (Sys2Proof.Machine.Dev.jregion d base len) := by
  unfold Sys2Proof.Machine.Dev.jregion
  repeat' first
    | with_reducible exact h
    | with_reducible assumption
    | exact sub hS rfl
    | with_reducible exact rfl
    | with_reducible apply Dev_setSect
    | with_reducible refine each (fun _ _ _ => ?_) ?_
    | fail_if_no_progress with_reducible refine upd (m := 0x2000000) ?_ hS rfl (by (repeat' apply And.intro) <;> first | exact .inr rfl | with_reducible exact .inl rfl)
    | dsimp only

theorem Dev_readLog (d : Dev) (h : Keep R M d0 d) (hS : Nat.land M 0x2000001 = 0x2000001) :
    Keep R M d0 (Sys2Proof.Machine.Dev.readLog d) := by
  unfold Sys2Proof.Machine.Dev.readLog
  repeat' first
    | with_reducible exact h
    | with_reducible assumption
    | exact sub hS rfl
    | with_reducible exact rfl
    | with_reducible apply Dev_count
    | with_reducible apply Dev_jshow
    | with_reducible apply Dev_fp
    | fail_if_no_progress with_reducible refine upd (m := 0x2000001) ?_ hS rfl (by (repeat' apply And.intro) <;> first | exact .inr rfl | with_reducible exact .inl rfl)
    | dsimp only

theorem Dev_jreplay (d : Dev) (base : Nat) (len : Nat) (h : Keep R M d0 d) (hS : Nat.land M 0x2000009 = 0x2000009) :
    O R M d0 (Sys2Proof.Machine.Dev.jreplay d base len) := by
  unfold Sys2Proof.Machine.Dev.jreplay
  repeat' first
    | with_reducible exact h
    | with_reducible assumption
    | exact sub hS rfl
    | with_reducible exact rfl
    | with_reducible apply Dev_jregion
    | with_reducible apply Dev_jformat
    | with_reducible apply Dev_readLog
    | with_reducible apply Dev_fromSuper
    | with_reducible exact O.none
    | with_reducible apply O.some
    | with_reducible apply O.ite
    | fail_if_no_progress with_reducible refine upd (m := 0x2000009) ?_ hS rfl (by (repeat' apply And.intro) <;> first | exact .inr rfl | with_reducible exact .inl rfl)
    | with_reducible apply ite
    | dsimp only
    | split

theorem Dev_jwear (d : Dev) (h : Keep R M d0 d) (hS : Nat.land M 0x12000541 = 0x12000541) :
    Keep R M d0 (Sys2Proof.Machine.Dev.jwear d) := by
  unfold Sys2Proof.Machine.Dev.jwear
  repeat' first
    | with_reducible exact h
    | with_reducible assumption
    | exact sub hS rfl
    | with_reducible exact rfl
    | with_reducible refine raisePlain ?_ (by with_unfolding_all exact rfl) ?_
    | with_reducible apply Dev_raise
    | fail_if_no_progress with_reducible refine upd (m := 0x12000541) ?_ hS rfl (by (repeat' apply And.intro) <;> first | exact .inr rfl | with_reducible exact .inl rfl)
    | with_reducible apply ite
    | dsimp only

theorem Dev_jsecond (d : Dev) (h : Keep R M d0 d) (hS : Nat.land M 0x12000541 = 0x12000541) :
    Keep R M d0 (Sys2Proof.Machine.Dev.jsecond d) := by
  unfold Sys2Proof.Machine.Dev.jsecond
  repeat' first
    | with_reducible exact h
    | with_reducible assumption
    | exact sub hS rfl
    | with_reducible exact rfl
    | with_reducible apply Dev_setReg
    | with_reducible apply Dev_jwear
    | fail_if_no_progress with_reducible refine upd (m := 0x12000541) ?_ hS rfl (by (repeat' apply And.intro) <;> first | exact .inr rfl | with_reducible exact .inl rfl)
    | dsimp only

theorem Dev_jtx (d : Dev) (ty : Nat) (txid : Nat) (seq : Nat) (h : Keep R M d0 d) (hS : Nat.land M 0x2000000 = 0x2000000) :
    Keep R M d0 (Sys2Proof.Machine.Dev.jtx d ty txid seq) := by
  unfold Sys2Proof.Machine.Dev.jtx
  repeat' first
    | with_reducible exact h
    | with_reducible assumption
    | exact sub hS rfl
    | with_reducible exact rfl
    | fail_if_no_progress with_reducible refine upd (m := 0x2000000) ?_ hS rfl (by (repeat' apply And.intro) <;> first | exact .inr rfl | with_reducible exact .inl rfl)
    | with_reducible apply ite
    | dsimp only

theorem Dev_jwritten (d : Dev) (q : QRec) (seq : Nat) (h : Keep R M d0 d) (hS : Nat.land M 0x13800549 = 0x13800549) :
    Keep R M d0 (Sys2Proof.Machine.Dev.jwritten d q seq) := by
  unfold Sys2Proof.Machine.Dev.jwritten
  repeat' first
    | with_reducible exact h
    | with_reducible assumption
    | exact sub hS rfl
    | with_reducible exact rfl
    | with_reducible apply Dev_jtx
    | with_reducible apply Dev_respondWait
    | with_reducible refine raisePlain ?_ (by with_unfolding_all exact rfl) ?_
    | with_reducible apply Dev_raise
    | with_reducible apply Dev_jshow
    | with_reducible apply Dev_compactAll
    | with_reducible apply Dev_jlow
    | fail_if_no_progress with_reducible refine upd (m := 0x13800549) ?_ hS rfl (by (repeat' apply And.intro) <;> first | exact .inr rfl | with_reducible exact .inl rfl)
    | with_reducible apply ite
    | dsimp only

theorem Dev_noteEvents (d : Dev) (h : Keep R M d0 d) (hS : Nat.land M 0x2000100 = 0x2000100) :
    Keep R M d0 (Sys2Proof.Machine.Dev.noteEvents d) := by
  unfold Sys2Proof.Machine.Dev.noteEvents
  repeat' first
    | with_reducible exact h
    | with_reducible assumption
    | exact sub hS rfl
    | with_reducible exact rfl
    | with_reducible refine foldl (fun _ _ _ => ?_) ?_
    | fail_if_no_progress with_reducible refine upd (m := 0x2000100) ?_ hS rfl (by (repeat' apply And.intro) <;> first | exact .inr rfl | with_reducible exact .inl rfl)
    | with_reducible apply ite
    | dsimp only

theorem Dev_retireSect (d : Dev) (k : Nat) (h : Keep R M d0 d) (hS : Nat.land M 0x12000549 = 0x12000549) :
    Keep R M d0 (Sys2Proof.Machine.Dev.retireSect d k) := by
  unfold Sys2Proof.Machine.Dev.retireSect
  repeat' first
    | with_reducible exact h
    | with_reducible assumption
    | exact sub hS rfl
    | with_reducible exact rfl
    | with_reducible apply Dev_setSect
    | with_reducible apply Dev_jcopy
    | with_reducible refine raisePlain ?_ (by with_unfolding_all exact rfl) ?_
    | with_reducible apply Dev_raise
    | with_reducible apply Dev_superWrite
    | with_reducible apply Dev_jreadOnly
    | with_reducible refine O.out (by assumption) ?_
    | with_reducible exact O.none
    | with_reducible apply O.some
    | with_reducible apply O.ite
    | with_reducible refine O.getD ?_ ?_
    | fail_if_no_progress with_reducible refine upd (m := 0x12000549) ?_ hS rfl (by (repeat' apply And.intro) <;> first | exact .inr rfl | with_reducible exact .inl rfl)
    | with_reducible apply ite
    | dsimp only
    | split

theorem Dev_writeCounters (d : Dev) (h : Keep R M d0 d) (hS : Nat.land M 0x12000541 = 0x12000541) :
    Keep R M d0 (Sys2Proof.Machine.Dev.writeCounters d) := by
  unfold Sys2Proof.Machine.Dev.writeCounters
  repeat' first
    | with_reducible exact h
    | with_reducible assumption
    | exact sub hS rfl
    | with_reducible exact rfl
    | with_reducible apply Dev_journal
    | dsimp only

theorem countersRecord (d : Dev) (h : Keep R M d0 d) (hS : Nat.land M 0x12000541 = 0x12000541) :
    Keep R M d0 (Sys2Proof.Machine.countersRecord d) := by
  unfold Sys2Proof.Machine.countersRecord
  repeat' first
    | with_reducible exact h
    | with_reducible assumption
    | exact sub hS rfl
    | with_reducible exact rfl
    | with_reducible apply Dev_writeCounters
    | with_reducible apply Dev_addCounter
    | with_reducible apply ite
    | dsimp only

theorem eventLogRecord (d : Dev) (h : Keep R M d0 d) (hS : Nat.land M 0x12000541 = 0x12000541) :
    Keep R M d0 (Sys2Proof.Machine.eventLogRecord d) := by
  unfold Sys2Proof.Machine.eventLogRecord
  repeat' first
    | with_reducible exact h
    | with_reducible assumption
    | exact sub hS rfl
    | with_reducible exact rfl
    | with_reducible apply Dev_noteEvents
    | with_reducible apply Dev_jpost
    | with_reducible refine S.out (by assumption) ?_
    | with_reducible apply S.snd
    | with_reducible apply S.ite
    | fail_if_no_progress with_reducible refine upd (m := 0x12000541) ?_ hS rfl (by (repeat' apply And.intro) <;> first | exact .inr rfl | with_reducible exact .inl rfl)
    | with_reducible apply ite
    | dsimp only
    | with_reducible apply S.mk

theorem powerFail (d : Dev) (h : Keep R M d0 d) (hS : Nat.land M 0x10000541 = 0x10000541) :
    Keep R M d0 (Sys2Proof.Machine.powerFail d) := by
  unfold Sys2Proof.Machine.powerFail
  repeat' first
    | with_reducible exact h
    | with_reducible assumption
    | exact sub hS rfl
    | with_reducible exact rfl
    | with_reducible apply Dev_fp
    | with_reducible refine raisePlain ?_ (by with_unfolding_all exact rfl) ?_
    | with_reducible apply Dev_raise
    | fail_if_no_progress with_reducible refine upd (m := 0x10000541) ?_ hS rfl (by (repeat' apply And.intro) <;> first | exact .inr rfl | with_reducible exact .inl rfl)
    | dsimp only

theorem powerFailClear (d : Dev) (h : Keep R M d0 d) (hS : Nat.land M 0x12000001 = 0x12000001) :
    Keep R M d0 (Sys2Proof.Machine.powerFailClear d) := by
  unfold Sys2Proof.Machine.powerFailClear
  repeat' first
    | with_reducible exact h
    | with_reducible assumption
    | exact sub hS rfl
    | with_reducible exact rfl
    | with_reducible apply Dev_fp
    | fail_if_no_progress with_reducible refine upd (m := 0x12000001) ?_ hS rfl (by (repeat' apply And.intro) <;> first | exact .inr rfl | with_reducible exact .inl rfl)
    | with_reducible apply ite
    | dsimp only

theorem recordWrite (env : FlashEnv) (d : Dev) (h : Keep R M d0 d) (hS : Nat.land M 0x13800549 = 0x13800549) :
    Keep R M d0 (Sys2Proof.Machine.recordWrite env d) := by
  unfold Sys2Proof.Machine.recordWrite
  repeat' first
    | with_reducible exact h
    | with_reducible assumption
    | exact sub hS rfl
    | with_reducible exact rfl
    | with_reducible apply Dev_jput
    | with_reducible apply Dev_jwritten
    | with_reducible apply Dev_jshow
    | with_reducible apply Dev_retireSect
    | with_reducible apply Dev_jroom
    | with_reducible apply Dev_fprog
    | with_reducible apply Dev_count
    | with_reducible refine O.out (by assumption) ?_
    | with_reducible exact O.none
    | with_reducible apply O.some
    | with_reducible apply O.ite
    | with_reducible apply ite
    | dsimp only
    | split

theorem sectorErase (env : FlashEnv) (d : Dev) (h : Keep R M d0 d) (hS : Nat.land M 0x12000549 = 0x12000549) :
    Keep R M d0 (Sys2Proof.Machine.sectorErase env d) := by
  unfold Sys2Proof.Machine.sectorErase
  repeat' first
    | with_reducible exact h
    | with_reducible assumption
    | exact sub hS rfl
    | with_reducible exact rfl
    | with_reducible apply Dev_jspend
    | with_reducible apply Dev_ferase
    | with_reducible apply Dev_setSect
    | with_reducible apply Dev_jshow
    | with_reducible apply Dev_jwear
    | with_reducible apply Dev_fprog
    | with_reducible apply Dev_retireSect
    | with_reducible apply ite
    | dsimp only
    | split

theorem superblockSave (env : FlashEnv) (d : Dev) (h : Keep R M d0 d) (hS : Nat.land M 0x12000549 = 0x12000549) :
    Keep R M d0 (Sys2Proof.Machine.superblockSave env d) := by
  unfold Sys2Proof.Machine.superblockSave
  repeat' first
    | with_reducible exact h
    | with_reducible assumption
    | exact sub hS rfl
    | with_reducible exact rfl
    | with_reducible apply Dev_superWrite
    | with_reducible apply Dev_jshow
    | with_reducible apply Dev_jreadOnly
    | with_reducible refine O.out (by assumption) ?_
    | with_reducible exact O.none
    | with_reducible apply O.some
    | with_reducible apply O.ite
    | with_reducible refine O.getD ?_ ?_
    | with_reducible apply ite
    | dsimp only

/-! ### Machine/Memory.lean -/

theorem Dev_clearHeartwood (d : Dev) (h : Keep R M d0 d) (hS : Nat.land M 0x4 = 0x4) :
    Keep R M d0 (Sys2Proof.Machine.Dev.clearHeartwood d) := by
  exact setMem h (sub hS rfl) (fun w => twf_filter (fun _ => (0 : Byte)) _ _ w)

theorem Dev_ecc (d : Dev) (off : Nat) (bad : Nat) (h : Keep R M d0 d) (hS : Nat.land M 0x10000541 = 0x10000541) :
    Keep R M d0 (Sys2Proof.Machine.Dev.ecc d off bad) := by
  unfold Sys2Proof.Machine.Dev.ecc
  repeat' first
    | with_reducible exact h
    | with_reducible assumption
    | exact sub hS rfl
    | with_reducible exact rfl
    | with_reducible apply Dev_fp
    | with_reducible refine raisePlain ?_ (by with_unfolding_all exact rfl) ?_
    | with_reducible apply Dev_raise
    | with_reducible apply Dev_count
    | with_reducible apply ite
    | dsimp only

theorem Dev_violation (d : Dev) (req : Nat) (wr : Bool) (off : Nat) (h : Keep R M d0 d) (hS : Nat.land M 0x10000541 = 0x10000541) :
    Keep R M d0 (Sys2Proof.Machine.Dev.violation d req wr off) := by
  unfold Sys2Proof.Machine.Dev.violation
  repeat' first
    | with_reducible exact h
    | with_reducible assumption
    | exact sub hS rfl
    | with_reducible exact rfl
    | with_reducible refine raisePlain ?_ (by with_unfolding_all exact rfl) ?_
    | with_reducible apply Dev_raise
    | with_reducible apply Dev_fp
    | with_reducible apply Dev_count
    | with_reducible apply ite
    | dsimp only

theorem Dev_fabricRead (d : Dev) (off : Nat) (n : Nat) (bad : Nat) (h : Keep R M d0 d) (hS : Nat.land M 0x10000541 = 0x10000541) :
    S R M d0 (Sys2Proof.Machine.Dev.fabricRead d off n bad) := by
  unfold Sys2Proof.Machine.Dev.fabricRead
  repeat' first
    | with_reducible exact h
    | with_reducible assumption
    | exact sub hS rfl
    | with_reducible exact rfl
    | with_reducible apply Dev_ecc
    | with_reducible apply Dev_violation
    | with_reducible apply S.ite
    | with_reducible apply ite
    | dsimp only
    | with_reducible apply S.mk

theorem Dev_rmwWrite (d : Dev) (off : Nat) (bad : Nat) (bs : List Byte) (h : Keep R M d0 d) (hS : Nat.land M 0x10000545 = 0x10000545) :
    Keep R M d0 (Sys2Proof.Machine.Dev.rmwWrite d off bad bs) := by
  unfold Sys2Proof.Machine.Dev.rmwWrite
  repeat' first
    | with_reducible exact h
    | with_reducible assumption
    | exact sub hS rfl
    | with_reducible exact rfl
    | with_reducible apply Dev_wbs
    | with_reducible apply Dev_ecc
    | with_reducible apply ite
    | dsimp only

theorem Dev_fabricWrite (d : Dev) (off : Nat) (bad : Nat) (w : Word) (h : Keep R M d0 d) (hS : Nat.land M 0x10000545 = 0x10000545) :
    Keep R M d0 (Sys2Proof.Machine.Dev.fabricWrite d off bad w) := by
  unfold Sys2Proof.Machine.Dev.fabricWrite
  repeat' first
    | with_reducible exact h
    | with_reducible assumption
    | exact sub hS rfl
    | with_reducible exact rfl
    | with_reducible apply Dev_rmwWrite
    | with_reducible apply Dev_violation
    | with_reducible apply ite
    | dsimp only

theorem Dev_fillHeartwood (d : Dev) (h : Keep R M d0 d) (hS : Nat.land M 0x5 = 0x5) :
    Keep R M d0 (Sys2Proof.Machine.Dev.fillHeartwood d) := by
  unfold Sys2Proof.Machine.Dev.fillHeartwood
  repeat' first
    | with_reducible exact h
    | with_reducible assumption
    | exact sub hS rfl
    | with_reducible exact rfl
    | with_reducible apply Dev_fp
    | with_reducible apply Dev_wbs
    | dsimp only

theorem Dev_giveBank (d : Dev) (k : Nat) (o : Nat) (h : Keep R M d0 d) (hS : Nat.land M 0x1 = 0x1) :
    Keep R M d0 (Sys2Proof.Machine.Dev.giveBank d k o) := by
  unfold Sys2Proof.Machine.Dev.giveBank
  repeat' first
    | with_reducible exact h
    | with_reducible assumption
    | exact sub hS rfl
    | with_reducible exact rfl
    | with_reducible apply Dev_fp
    | dsimp only

theorem Dev_recWriteByte (d : Dev) (n : Nat) (off : Nat) (b : Byte) (h : Keep R M d0 d) (hS : Nat.land M 0x10000545 = 0x10000545) :
    Keep R M d0 (Sys2Proof.Machine.Dev.recWriteByte d n off b) := by
  unfold Sys2Proof.Machine.Dev.recWriteByte
  repeat' first
    | with_reducible exact h
    | with_reducible assumption
    | exact sub hS rfl
    | with_reducible exact rfl
    | with_reducible apply Dev_wb
    | with_reducible apply Dev_violation
    | with_reducible apply ite
    | dsimp only

theorem Dev_wipe (d : Dev) (cause : Nat) (h : Keep R M d0 d) (hS : Nat.land M 0x45 = 0x45) :
    Keep R M d0 (Sys2Proof.Machine.Dev.wipe d cause) := by
  unfold Sys2Proof.Machine.Dev.wipe
  repeat' first
    | with_reducible exact h
    | with_reducible assumption
    | exact sub hS rfl
    | with_reducible exact rfl
    | with_reducible apply Dev_clearHeartwood
    | with_reducible apply Dev_fp
    | fail_if_no_progress with_reducible refine upd (m := 0x45) ?_ hS rfl (by (repeat' apply And.intro) <;> first | exact .inr rfl | with_reducible exact .inl rfl)
    | dsimp only
    | split

theorem bankHandover (k : Nat) (owner : Nat) (d : Dev) (h : Keep R M d0 d) (hS : Nat.land M 0x1 = 0x1) :
    Keep R M d0 (Sys2Proof.Machine.bankHandover k owner d) := by
  unfold Sys2Proof.Machine.bankHandover
  repeat' first
    | with_reducible exact h
    | with_reducible assumption
    | exact sub hS rfl
    | with_reducible exact rfl
    | with_reducible apply Dev_fp
    | with_reducible apply Dev_giveBank
    | with_reducible apply Dev_count
    | with_reducible apply ite
    | dsimp only

theorem clockGlitch (d : Dev) (h : Keep R M d0 d) (hS : Nat.land M 0x10000545 = 0x10000545) :
    Keep R M d0 (Sys2Proof.Machine.clockGlitch d) := by
  unfold Sys2Proof.Machine.clockGlitch
  repeat' first
    | with_reducible exact h
    | with_reducible assumption
    | exact sub hS rfl
    | with_reducible exact rfl
    | with_reducible refine raisePlain ?_ (by with_unfolding_all exact rfl) ?_
    | with_reducible apply Dev_raise
    | with_reducible apply Dev_wipe
    | with_reducible apply ite
    | dsimp only

theorem heartwoodRefill (tamperHigh : Bool) (d : Dev) (h : Keep R M d0 d) (hS : Nat.land M 0x10000005 = 0x10000005) :
    Keep R M d0 (Sys2Proof.Machine.heartwoodRefill tamperHigh d) := by
  unfold Sys2Proof.Machine.heartwoodRefill
  repeat' first
    | with_reducible exact h
    | with_reducible assumption
    | exact sub hS rfl
    | with_reducible exact rfl
    | with_reducible apply Dev_fp
    | with_reducible apply Dev_fillHeartwood
    | fail_if_no_progress with_reducible refine upd (m := 0x10000005) ?_ hS rfl (by (repeat' apply And.intro) <;> first | exact .inr rfl | with_reducible exact .inl rfl)
    | with_reducible apply ite
    | dsimp only

theorem scrubRead (bad : Nat) (d : Dev) (h : Keep R M d0 d) (hS : Nat.land M 0x10000561 = 0x10000561) :
    Keep R M d0 (Sys2Proof.Machine.scrubRead bad d) := by
  unfold Sys2Proof.Machine.scrubRead
  repeat' first
    | with_reducible exact h
    | with_reducible assumption
    | exact sub hS rfl
    | with_reducible exact rfl
    | with_reducible apply Dev_count
    | with_reducible apply Dev_ecc
    | fail_if_no_progress with_reducible refine upd (m := 0x10000561) ?_ hS rfl (by (repeat' apply And.intro) <;> first | exact .inr rfl | with_reducible exact .inl rfl)
    | with_reducible apply ite
    | dsimp only

theorem tamper (d : Dev) (h : Keep R M d0 d) (hS : Nat.land M 0x10000545 = 0x10000545) :
    Keep R M d0 (Sys2Proof.Machine.tamper d) := by
  unfold Sys2Proof.Machine.tamper
  repeat' first
    | with_reducible exact h
    | with_reducible assumption
    | exact sub hS rfl
    | with_reducible exact rfl
    | with_reducible refine raisePlain ?_ (by with_unfolding_all exact rfl) ?_
    | with_reducible apply Dev_raise
    | with_reducible apply Dev_wipe
    | fail_if_no_progress with_reducible refine upd (m := 0x10000545) ?_ hS rfl (by (repeat' apply And.intro) <;> first | exact .inr rfl | with_reducible exact .inl rfl)
    | with_reducible apply ite
    | dsimp only

theorem voltageGlitch (d : Dev) (h : Keep R M d0 d) (hS : Nat.land M 0x10000545 = 0x10000545) :
    Keep R M d0 (Sys2Proof.Machine.voltageGlitch d) := by
  unfold Sys2Proof.Machine.voltageGlitch
  repeat' first
    | with_reducible exact h
    | with_reducible assumption
    | exact sub hS rfl
    | with_reducible exact rfl
    | with_reducible refine raisePlain ?_ (by with_unfolding_all exact rfl) ?_
    | with_reducible apply Dev_raise
    | with_reducible apply Dev_wipe
    | with_reducible apply ite
    | dsimp only

/-! ### Machine/Mix.lean -/

theorem Dev_addBus (d : Dev) (s : Word) (b : Nat) (x : BitVec 40) (h : Keep R M d0 d) (hS : Nat.land M 0x800 = 0x800) :
    Keep R M d0 (Sys2Proof.Machine.Dev.addBus d s b x) := by
  unfold Sys2Proof.Machine.Dev.addBus
  repeat' first
    | with_reducible exact h
    | with_reducible assumption
    | exact sub hS rfl
    | with_reducible exact rfl
    | fail_if_no_progress with_reducible refine upd (m := 0x800) ?_ hS rfl (by (repeat' apply And.intro) <;> first | exact .inr rfl | with_reducible exact .inl rfl)
    | dsimp only

theorem Dev_addSend (d : Dev) (s : Word) (x : Send) (sign : Bool) (h : Keep R M d0 d) (hS : Nat.land M 0x800 = 0x800) :
    Keep R M d0 (Sys2Proof.Machine.Dev.addSend d s x sign) := by
  unfold Sys2Proof.Machine.Dev.addSend
  repeat' first
    | with_reducible exact h
    | with_reducible assumption
    | exact sub hS rfl
    | with_reducible exact rfl
    | with_reducible apply Dev_addBus
    | with_reducible refine each (fun _ _ _ => ?_) ?_
    | with_reducible apply ite
    | dsimp only

theorem Dev_busOff (d : Dev) (b : Nat) (h : Keep R M d0 d) (hS : Nat.land M 0x10000 = 0x10000) :
    Keep R M d0 (Sys2Proof.Machine.Dev.busOff d b) := by
  unfold Sys2Proof.Machine.Dev.busOff
  repeat' first
    | with_reducible exact h
    | with_reducible assumption
    | exact sub hS rfl
    | with_reducible exact rfl
    | fail_if_no_progress with_reducible refine upd (m := 0x10000) ?_ hS rfl (by (repeat' apply And.intro) <;> first | exact .inr rfl | with_reducible exact .inl rfl)
    | dsimp only

theorem Dev_busOut (d : Dev) (b : Nat) (s : Word) (x : Word) (h : Keep R M d0 d) (hS : Nat.land M 0x10000 = 0x10000) :
    Keep R M d0 (Sys2Proof.Machine.Dev.busOut d b s x) := by
  unfold Sys2Proof.Machine.Dev.busOut
  repeat' first
    | with_reducible exact h
    | with_reducible assumption
    | exact sub hS rfl
    | with_reducible exact rfl
    | fail_if_no_progress with_reducible refine upd (m := 0x10000) ?_ hS rfl (by (repeat' apply And.intro) <;> first | exact .inr rfl | with_reducible exact .inl rfl)
    | with_reducible apply ite
    | dsimp only

theorem Dev_pushHist (d : Dev) (b : Nat) (k : Nat) (x : Word) (h : Keep R M d0 d) (hS : Nat.land M 0x10000 = 0x10000) :
    Keep R M d0 (Sys2Proof.Machine.Dev.pushHist d b k x) := by
  unfold Sys2Proof.Machine.Dev.pushHist
  repeat' first
    | with_reducible exact h
    | with_reducible assumption
    | exact sub hS rfl
    | with_reducible exact rfl
    | fail_if_no_progress with_reducible refine upd (m := 0x10000) ?_ hS rfl (by (repeat' apply And.intro) <;> first | exact .inr rfl | with_reducible exact .inl rfl)
    | dsimp only

theorem Dev_showUns (d : Dev) (b : Nat) (h : Keep R M d0 d) (hS : Nat.land M 0x1 = 0x1) :
    Keep R M d0 (Sys2Proof.Machine.Dev.showUns d b) := by
  unfold Sys2Proof.Machine.Dev.showUns
  repeat' first
    | with_reducible exact h
    | with_reducible assumption
    | exact sub hS rfl
    | with_reducible exact rfl
    | with_reducible apply Dev_clrBit
    | with_reducible apply Dev_setBit
    | with_reducible apply ite
    | dsimp only

theorem Dev_stageOut (d : Dev) (b : Nat) (k : Nat) (h : Keep R M d0 d) (hS : Nat.land M 0x10001 = 0x10001) :
    S R M d0 (Sys2Proof.Machine.Dev.stageOut d b k) := by
  unfold Sys2Proof.Machine.Dev.stageOut
  repeat' first
    | with_reducible exact h
    | with_reducible assumption
    | exact sub hS rfl
    | with_reducible exact rfl
    | with_reducible apply Dev_count
    | with_reducible apply Dev_fp
    | with_reducible apply Dev_showUns
    | with_reducible apply S.ite
    | fail_if_no_progress with_reducible refine upd (m := 0x10001) ?_ hS rfl (by (repeat' apply And.intro) <;> first | exact .inr rfl | with_reducible exact .inl rfl)
    | with_reducible apply ite
    | dsimp only
    | with_reducible apply S.mk

theorem Dev_decimate (d : Dev) (b : Nat) (s : Word) (x : Word) (h : Keep R M d0 d) (hS : Nat.land M 0x10001 = 0x10001) :
    Keep R M d0 (Sys2Proof.Machine.Dev.decimate d b s x) := by
  unfold Sys2Proof.Machine.Dev.decimate
  repeat' first
    | with_reducible exact h
    | with_reducible assumption
    | exact sub hS rfl
    | with_reducible exact rfl
    | with_reducible apply Dev_busOut
    | with_reducible apply Dev_pushHist
    | with_reducible apply Dev_stageOut
    | with_reducible refine S.out (by assumption) ?_
    | with_reducible apply S.snd
    | with_reducible apply S.ite
    | with_reducible apply ite
    | dsimp only
    | split
    | with_reducible apply S.mk

theorem Dev_commitBus (d : Dev) (s : Word) (down : Tbl (BitVec 40)) (fade : Option Nat) (b : Nat) (h : Keep R M d0 d) (hS : Nat.land M 0x10001 = 0x10001) :
    Keep R M d0 (Sys2Proof.Machine.Dev.commitBus d s down fade b) := by
  unfold Sys2Proof.Machine.Dev.commitBus
  repeat' first
    | with_reducible exact h
    | with_reducible assumption
    | exact sub hS rfl
    | with_reducible exact rfl
    | with_reducible apply Dev_count
    | with_reducible apply Dev_decimate
    | with_reducible apply Dev_busOff
    | fail_if_no_progress with_reducible refine upd (m := 0x10001) ?_ hS rfl (by (repeat' apply And.intro) <;> first | exact .inr rfl | with_reducible exact .inl rfl)
    | with_reducible apply ite
    | dsimp only
    | split

theorem Dev_dropBus (d : Dev) (s : Word) (h : Keep R M d0 d) (hS : Nat.land M 0x10800 = 0x10800) :
    Keep R M d0 (Sys2Proof.Machine.Dev.dropBus d s) := by
  unfold Sys2Proof.Machine.Dev.dropBus
  repeat' first
    | with_reducible exact h
    | with_reducible assumption
    | exact sub hS rfl
    | with_reducible exact rfl
    | fail_if_no_progress with_reducible refine upd (m := 0x10800) ?_ hS rfl (by (repeat' apply And.intro) <;> first | exact .inr rfl | with_reducible exact .inl rfl)
    | dsimp only

theorem Dev_setDout (d : Dev) (h : Keep R M d0 d) (hS : Nat.land M 0x1 = 0x1) :
    Keep R M d0 (Sys2Proof.Machine.Dev.setDout d) := by
  unfold Sys2Proof.Machine.Dev.setDout
  repeat' first
    | with_reducible exact h
    | with_reducible assumption
    | exact sub hS rfl
    | with_reducible exact rfl
    | with_reducible apply Dev_fp
    | with_reducible apply ite
    | dsimp only

theorem Dev_takeBank (d : Dev) (k : Nat) (h : Keep R M d0 d) (hS : Nat.land M 0x10001 = 0x10001) :
    Keep R M d0 (Sys2Proof.Machine.Dev.takeBank d k) := by
  unfold Sys2Proof.Machine.Dev.takeBank
  repeat' first
    | with_reducible exact h
    | with_reducible assumption
    | exact sub hS rfl
    | with_reducible exact rfl
    | with_reducible apply Dev_showUns
    | with_reducible apply Dev_fp
    | with_reducible apply Dev_setDout
    | with_reducible refine each (fun _ _ _ => ?_) ?_
    | fail_if_no_progress with_reducible refine upd (m := 0x10001) ?_ hS rfl (by (repeat' apply And.intro) <;> first | exact .inr rfl | with_reducible exact .inl rfl)
    | with_reducible apply ite
    | dsimp only

theorem Dev_takeBanks (d : Dev) (h : Keep R M d0 d) (hS : Nat.land M 0x10001 = 0x10001) :
    Keep R M d0 (Sys2Proof.Machine.Dev.takeBanks d) := by
  unfold Sys2Proof.Machine.Dev.takeBanks
  repeat' first
    | with_reducible exact h
    | with_reducible assumption
    | exact sub hS rfl
    | with_reducible exact rfl
    | with_reducible apply Dev_takeBank
    | with_reducible refine each (fun _ _ _ => ?_) ?_
    | dsimp only

theorem Dev_commitBuses (d : Dev) (s : Word) (down : Tbl (BitVec 40)) (fade : Option Nat) (h : Keep R M d0 d) (hS : Nat.land M 0x10801 = 0x10801) :
    Keep R M d0 (Sys2Proof.Machine.Dev.commitBuses d s down fade) := by
  unfold Sys2Proof.Machine.Dev.commitBuses
  repeat' first
    | with_reducible exact h
    | with_reducible assumption
    | exact sub hS rfl
    | with_reducible exact rfl
    | with_reducible apply Dev_dropBus
    | with_reducible apply Dev_commitBus
    | with_reducible apply Dev_takeBanks
    | with_reducible refine each (fun _ _ _ => ?_) ?_
    | dsimp only

theorem Dev_loadUns (d : Dev) (b : Nat) (h : Keep R M d0 d) (hS : Nat.land M 0x1 = 0x1) :
    Keep R M d0 (Sys2Proof.Machine.Dev.loadUns d b) := by
  unfold Sys2Proof.Machine.Dev.loadUns
  repeat' first
    | with_reducible exact h
    | with_reducible assumption
    | exact sub hS rfl
    | with_reducible exact rfl
    | with_reducible apply Dev_showUns
    | with_reducible apply Dev_fp
    | with_reducible refine each (fun _ _ _ => ?_) ?_
    | dsimp only

theorem Dev_pdmEvent (d : Dev) (k : Nat) (v : Int) (stamp : Word) (h : Keep R M d0 d) (hS : Nat.land M 0x10200 = 0x10200) :
    Keep R M d0 (Sys2Proof.Machine.Dev.pdmEvent d k v stamp) := by
  unfold Sys2Proof.Machine.Dev.pdmEvent
  repeat' first
    | with_reducible exact h
    | with_reducible assumption
    | exact sub hS rfl
    | with_reducible exact rfl
    | with_reducible apply Dev_post
    | fail_if_no_progress with_reducible refine upd (m := 0x10200) ?_ hS rfl (by (repeat' apply And.intro) <;> first | exact .inr rfl | with_reducible exact .inl rfl)
    | with_reducible apply ite
    | dsimp only

theorem Dev_pruneOuts (d : Dev) (h : Keep R M d0 d) (hS : Nat.land M 0x10000 = 0x10000) :
    Keep R M d0 (Sys2Proof.Machine.Dev.pruneOuts d) := by
  unfold Sys2Proof.Machine.Dev.pruneOuts
  repeat' first
    | with_reducible exact h
    | with_reducible assumption
    | exact sub hS rfl
    | with_reducible exact rfl
    | fail_if_no_progress with_reducible refine upd (m := 0x10000) ?_ hS rfl (by (repeat' apply And.intro) <;> first | exact .inr rfl | with_reducible exact .inl rfl)
    | dsimp only

theorem Dev_requestSync (d : Dev) (h : Keep R M d0 d) (hS : Nat.land M 0x10000 = 0x10000) :
    Keep R M d0 (Sys2Proof.Machine.Dev.requestSync d) := by
  unfold Sys2Proof.Machine.Dev.requestSync
  repeat' first
    | with_reducible exact h
    | with_reducible assumption
    | exact sub hS rfl
    | with_reducible exact rfl
    | fail_if_no_progress with_reducible refine upd (m := 0x10000) ?_ hS rfl (by (repeat' apply And.intro) <;> first | exact .inr rfl | with_reducible exact .inl rfl)
    | with_reducible apply ite
    | dsimp only

theorem Dev_syncNow (d : Dev) (h : Keep R M d0 d) (hS : Nat.land M 0x50001 = 0x50001) :
    Keep R M d0 (Sys2Proof.Machine.Dev.syncNow d) := by
  unfold Sys2Proof.Machine.Dev.syncNow
  repeat' first
    | with_reducible exact h
    | with_reducible assumption
    | exact sub hS rfl
    | with_reducible exact rfl
    | with_reducible apply Dev_setReg
    | with_reducible apply Dev_takeBanks
    | with_reducible apply Dev_loadUns
    | with_reducible apply Dev_busOff
    | with_reducible refine each (fun _ _ _ => ?_) ?_
    | fail_if_no_progress with_reducible refine upd (m := 0x50001) ?_ hS rfl (by (repeat' apply And.intro) <;> first | exact .inr rfl | with_reducible exact .inl rfl)
    | with_reducible apply ite
    | dsimp only

theorem Dev_writeCoef (d : Dev) (k : Nat) (bank : Nat) (i : Nat) (v : Word) (h : Keep R M d0 d) (hS : Nat.land M 0x1 = 0x1) :
    Keep R M d0 (Sys2Proof.Machine.Dev.writeCoef d k bank i v) := by
  unfold Sys2Proof.Machine.Dev.writeCoef
  repeat' first
    | with_reducible exact h
    | with_reducible assumption
    | exact sub hS rfl
    | with_reducible exact rfl
    | with_reducible apply Dev_fp
    | with_reducible apply Dev_setBit
    | with_reducible apply ite
    | dsimp only

theorem Dev_writeNtap (d : Dev) (k : Nat) (bank : Nat) (n : Nat) (h : Keep R M d0 d) (hS : Nat.land M 0x1 = 0x1) :
    Keep R M d0 (Sys2Proof.Machine.Dev.writeNtap d k bank n) := by
  unfold Sys2Proof.Machine.Dev.writeNtap
  repeat' first
    | with_reducible exact h
    | with_reducible assumption
    | exact sub hS rfl
    | with_reducible exact rfl
    | with_reducible apply Dev_fp
    | with_reducible apply Dev_setReg
    | with_reducible apply ite
    | dsimp only

theorem coefficientWrite (addr : Word) (value : Word) (d : Dev) (h : Keep R M d0 d) (hS : Nat.land M 0x1 = 0x1) :
    Keep R M d0 (Sys2Proof.Machine.coefficientWrite addr value d) := by
  unfold Sys2Proof.Machine.coefficientWrite
  repeat' first
    | with_reducible exact h
    | with_reducible assumption
    | exact sub hS rfl
    | with_reducible exact rfl
    | with_reducible apply Dev_fp
    | with_reducible apply Dev_writeNtap
    | with_reducible apply Dev_writeCoef
    | with_reducible refine each (fun _ _ _ => ?_) ?_
    | with_reducible apply ite
    | dsimp only

theorem decimatorSettled (d : Dev) (h : Keep R M d0 d) (hS : Nat.land M 0x10010541 = 0x10010541) :
    Keep R M d0 (Sys2Proof.Machine.decimatorSettled d) := by
  unfold Sys2Proof.Machine.decimatorSettled
  repeat' first
    | with_reducible exact h
    | with_reducible assumption
    | exact sub hS rfl
    | with_reducible exact rfl
    | with_reducible refine raisePlain ?_ (by with_unfolding_all exact rfl) ?_
    | with_reducible apply Dev_raise
    | fail_if_no_progress with_reducible refine upd (m := 0x10010541) ?_ hS rfl (by (repeat' apply And.intro) <;> first | exact .inr rfl | with_reducible exact .inl rfl)
    | with_reducible apply ite
    | dsimp only

theorem dsync (rising : Bool) (d : Dev) (h : Keep R M d0 d) (hS : Nat.land M 0x10000 = 0x10000) :
    Keep R M d0 (Sys2Proof.Machine.dsync rising d) := by
  unfold Sys2Proof.Machine.dsync
  repeat' first
    | with_reducible exact h
    | with_reducible assumption
    | exact sub hS rfl
    | with_reducible exact rfl
    | with_reducible apply Dev_requestSync
    | with_reducible apply ite
    | dsimp only

theorem mixSync (v : Word) (d : Dev) (h : Keep R M d0 d) (hS : Nat.land M 0x10001 = 0x10001) :
    Keep R M d0 (Sys2Proof.Machine.mixSync v d) := by
  unfold Sys2Proof.Machine.mixSync
  repeat' first
    | with_reducible exact h
    | with_reducible assumption
    | exact sub hS rfl
    | with_reducible exact rfl
    | with_reducible apply Dev_fp
    | with_reducible apply Dev_requestSync
    | with_reducible apply ite
    | dsimp only

theorem pdmControlSample (k : Nat) (bits : List Bool) (d : Dev) (h : Keep R M d0 d) (hS : Nat.land M 0x10010741 = 0x10010741) :
    Keep R M d0 (Sys2Proof.Machine.pdmControlSample k bits d) := by
  unfold Sys2Proof.Machine.pdmControlSample
  repeat' first
    | with_reducible exact h
    | with_reducible assumption
    | exact sub hS rfl
    | with_reducible exact rfl
    | with_reducible apply Dev_setReg
    | with_reducible refine raisePlain ?_ (by with_unfolding_all exact rfl) ?_
    | with_reducible apply Dev_raise
    | with_reducible apply Dev_setBit
    | with_reducible apply Dev_pdmEvent
    | with_reducible refine foldl (fun _ _ _ => ?_) ?_
    | fail_if_no_progress with_reducible refine upd (m := 0x10010741) ?_ hS rfl (by (repeat' apply And.intro) <;> first | exact .inr rfl | with_reducible exact .inl rfl)
    | with_reducible apply ite
    | dsimp only

theorem syncSample (d : Dev) (h : Keep R M d0 d) (hS : Nat.land M 0x50001 = 0x50001) :
    Keep R M d0 (Sys2Proof.Machine.syncSample d) := by
  unfold Sys2Proof.Machine.syncSample
  repeat' first
    | with_reducible exact h
    | with_reducible assumption
    | exact sub hS rfl
    | with_reducible exact rfl
    | with_reducible apply Dev_syncNow
    | with_reducible apply ite
    | dsimp only

/-! ### Machine/Engine.lean -/

theorem Dev_copySlices (d : Dev) (src : Nat) (dst : Nat) (h : Keep R M d0 d) (hS : Nat.land M 0x5 = 0x5) :
    Keep R M d0 (Sys2Proof.Machine.Dev.copySlices d src dst) := by
  unfold Sys2Proof.Machine.Dev.copySlices
  repeat' first
    | with_reducible exact h
    | with_reducible assumption
    | exact sub hS rfl
    | with_reducible exact rfl
    | with_reducible apply Dev_wb
    | with_reducible refine each (fun _ _ _ => ?_) ?_
    | dsimp only

theorem Dev_dropSend (d : Dev) (i : Nat) (s : Word) (h : Keep R M d0 d) (hS : Nat.land M 0x2800 = 0x2800) :
    Keep R M d0 (Sys2Proof.Machine.Dev.dropSend d i s) := by
  unfold Sys2Proof.Machine.Dev.dropSend
  repeat' first
    | with_reducible exact h
    | with_reducible assumption
    | exact sub hS rfl
    | with_reducible exact rfl
    | with_reducible apply Dev_addSend
    | with_reducible apply Dev_setCtx
    | with_reducible apply ite
    | dsimp only
    | split

theorem Dev_dropSendsFrom (d : Dev) (i : Nat) (s : Word) (h : Keep R M d0 d) (hS : Nat.land M 0x2800 = 0x2800) :
    Keep R M d0 (Sys2Proof.Machine.Dev.dropSendsFrom d i s) := by
  unfold Sys2Proof.Machine.Dev.dropSendsFrom
  repeat' first
    | with_reducible exact h
    | with_reducible assumption
    | exact sub hS rfl
    | with_reducible exact rfl
    | with_reducible apply Dev_dropSend
    | with_reducible refine each (fun _ _ _ => ?_) ?_
    | dsimp only

theorem Dev_putSend (d : Dev) (i : Nat) (s : Word) (x : Send) (h : Keep R M d0 d) (hS : Nat.land M 0x2800 = 0x2800) :
    Keep R M d0 (Sys2Proof.Machine.Dev.putSend d i s x) := by
  unfold Sys2Proof.Machine.Dev.putSend
  repeat' first
    | with_reducible exact h
    | with_reducible assumption
    | exact sub hS rfl
    | with_reducible exact rfl
    | with_reducible apply Dev_dropSend
    | with_reducible apply Dev_addSend
    | with_reducible apply Dev_setCtx
    | with_reducible apply ite
    | dsimp only

theorem Dev_setPartK (d : Dev) (n : Nat) (k : Nat) (p : Part) (h : Keep R M d0 d) (hS : Nat.land M 0x4001 = 0x4001) :
    Keep R M d0 (Sys2Proof.Machine.Dev.setPartK d n k p) := by
  unfold Sys2Proof.Machine.Dev.setPartK
  repeat' first
    | with_reducible exact h
    | with_reducible assumption
    | exact sub hS rfl
    | with_reducible exact rfl
    | with_reducible apply Dev_setSpn
    | with_reducible apply Dev_fp
    | with_reducible apply Dev_setReg
    | with_reducible apply ite
    | dsimp only
    | split

theorem Dev_setNote (d : Dev) (i : Nat) (v : Voice) (h : Keep R M d0 d) (hS : Nat.land M 0x1000 = 0x1000) :
    Keep R M d0 (Sys2Proof.Machine.Dev.setNote d i v) := by
  unfold Sys2Proof.Machine.Dev.setNote
  repeat' first
    | with_reducible exact h
    | with_reducible assumption
    | exact sub hS rfl
    | with_reducible exact rfl
    | with_reducible apply Dev_setVoice
    | dsimp only

theorem Dev_freePart (d : Dev) (n : Nat) (k : Nat) (undo : Option Word) (h : Keep R M d0 d) (hS : Nat.land M 0x7801 = 0x7801) :
    Keep R M d0 (Sys2Proof.Machine.Dev.freePart d n k undo) := by
  unfold Sys2Proof.Machine.Dev.freePart
  repeat' first
    | with_reducible exact h
    | with_reducible assumption
    | exact sub hS rfl
    | with_reducible exact rfl
    | with_reducible apply Dev_dropSendsFrom
    | with_reducible apply Dev_setNote
    | with_reducible apply Dev_setCtx
    | with_reducible apply Dev_setPartK
    | dsimp only
    | split

theorem Dev_endParting (d : Dev) (n : Nat) (k : Nat) (x : Send) (h : Keep R M d0 d) (hS : Nat.land M 0x7801 = 0x7801) :
    Keep R M d0 (Sys2Proof.Machine.Dev.endParting d n k x) := by
  unfold Sys2Proof.Machine.Dev.endParting
  repeat' first
    | with_reducible exact h
    | with_reducible assumption
    | exact sub hS rfl
    | with_reducible exact rfl
    | with_reducible apply Dev_putSend
    | with_reducible apply Dev_setCtx
    | with_reducible apply Dev_setPartK
    | with_reducible apply Dev_freePart
    | with_reducible apply ite
    | dsimp only
    | split

theorem Dev_endRoll (d : Dev) (i : Nat) (h : Keep R M d0 d) (hS : Nat.land M 0x2001 = 0x2001) :
    Keep R M d0 (Sys2Proof.Machine.Dev.endRoll d i) := by
  unfold Sys2Proof.Machine.Dev.endRoll
  repeat' first
    | with_reducible exact h
    | with_reducible assumption
    | exact sub hS rfl
    | with_reducible exact rfl
    | with_reducible apply Dev_setCtx
    | with_reducible apply Dev_fp
    | dsimp only

theorem Dev_updateScore (d : Dev) (v : Nat) (h : Keep R M d0 d) (hS : Nat.land M 0x1 = 0x1) :
    Keep R M d0 (Sys2Proof.Machine.Dev.updateScore d v) := by
  unfold Sys2Proof.Machine.Dev.updateScore
  repeat' first
    | with_reducible exact h
    | with_reducible assumption
    | exact sub hS rfl
    | with_reducible exact rfl
    | with_reducible apply Dev_setReg
    | dsimp only

theorem Dev_showVoice (d : Dev) (v : Nat) (cyc : Nat) (h : Keep R M d0 d) (hS : Nat.land M 0x1 = 0x1) :
    Keep R M d0 (Sys2Proof.Machine.Dev.showVoice d v cyc) := by
  unfold Sys2Proof.Machine.Dev.showVoice
  repeat' first
    | with_reducible exact h
    | with_reducible assumption
    | exact sub hS rfl
    | with_reducible exact rfl
    | with_reducible apply Dev_fp
    | with_reducible apply Dev_setReg
    | with_reducible apply ite
    | dsimp only

theorem Dev_settleFront (d : Dev) (i : Nat) (part : Nat) (cyc : Nat) (h : Keep R M d0 d) (hS : Nat.land M 0x2001 = 0x2001) :
    Keep R M d0 (Sys2Proof.Machine.Dev.settleFront d i part cyc) := by
  unfold Sys2Proof.Machine.Dev.settleFront
  repeat' first
    | with_reducible exact h
    | with_reducible assumption
    | exact sub hS rfl
    | with_reducible exact rfl
    | with_reducible apply Dev_endRoll
    | with_reducible apply Dev_updateScore
    | with_reducible apply Dev_showVoice
    | with_reducible apply ite
    | dsimp only
    | split

theorem Dev_freeCtx (d : Dev) (i : Nat) (s : Word) (h : Keep R M d0 d) (hS : Nat.land M 0x3801 = 0x3801) :
    Keep R M d0 (Sys2Proof.Machine.Dev.freeCtx d i s) := by
  unfold Sys2Proof.Machine.Dev.freeCtx
  repeat' first
    | with_reducible exact h
    | with_reducible assumption
    | exact sub hS rfl
    | with_reducible exact rfl
    | with_reducible apply Dev_dropSendsFrom
    | with_reducible apply Dev_setNote
    | with_reducible apply Dev_setCtx
    | with_reducible apply Dev_setReg
    | with_reducible apply Dev_fp
    | with_reducible apply ite
    | dsimp only

theorem Dev_settleEnd (d : Dev) (i : Nat) (faded : Bool) (h : Keep R M d0 d) (hS : Nat.land M 0x3801 = 0x3801) :
    Keep R M d0 (Sys2Proof.Machine.Dev.settleEnd d i faded) := by
  unfold Sys2Proof.Machine.Dev.settleEnd
  repeat' first
    | with_reducible exact h
    | with_reducible assumption
    | exact sub hS rfl
    | with_reducible exact rfl
    | with_reducible apply Dev_freeCtx
    | with_reducible apply ite
    | dsimp only

theorem Dev_nextSample (d : Dev) (i : Nat) (h : Keep R M d0 d) (hS : Nat.land M 0x2000 = 0x2000) :
    Keep R M d0 (Sys2Proof.Machine.Dev.nextSample d i) := by
  unfold Sys2Proof.Machine.Dev.nextSample
  repeat' first
    | with_reducible exact h
    | with_reducible assumption
    | exact sub hS rfl
    | with_reducible exact rfl
    | with_reducible apply Dev_setCtx
    | dsimp only

theorem Dev_sendVoice (d : Dev) (i : Nat) (x : Send) (h : Keep R M d0 d) (hS : Nat.land M 0x2800 = 0x2800) :
    Keep R M d0 (Sys2Proof.Machine.Dev.sendVoice d i x) := by
  unfold Sys2Proof.Machine.Dev.sendVoice
  repeat' first
    | with_reducible exact h
    | with_reducible assumption
    | exact sub hS rfl
    | with_reducible exact rfl
    | with_reducible apply Dev_putSend
    | with_reducible apply ite
    | dsimp only
    | split

theorem Dev_endVoice (d : Dev) (i : Nat) (x : Send) (cyc : Nat) (h : Keep R M d0 d) (hS : Nat.land M 0x3801 = 0x3801) :
    Keep R M d0 (Sys2Proof.Machine.Dev.endVoice d i x cyc) := by
  unfold Sys2Proof.Machine.Dev.endVoice
  repeat' first
    | with_reducible exact h
    | with_reducible assumption
    | exact sub hS rfl
    | with_reducible exact rfl
    | with_reducible apply Dev_settleFront
    | with_reducible apply Dev_settleEnd
    | with_reducible apply Dev_nextSample
    | with_reducible apply Dev_sendVoice
    | dsimp only

theorem Dev_endSample (d : Dev) (i : Nat) (x : Send) (cyc : Nat) (h : Keep R M d0 d) (hS : Nat.land M 0x7801 = 0x7801) :
    Keep R M d0 (Sys2Proof.Machine.Dev.endSample d i x cyc) := by
  unfold Sys2Proof.Machine.Dev.endSample
  repeat' first
    | with_reducible exact h
    | with_reducible assumption
    | exact sub hS rfl
    | with_reducible exact rfl
    | with_reducible apply Dev_endVoice
    | with_reducible apply Dev_endParting
    | with_reducible apply Dev_fp
    | with_reducible apply Dev_setSpn
    | with_reducible apply ite
    | dsimp only

theorem Dev_patchBytes (d : Dev) (slot : Nat) (copy : Nat) (h : Keep R M d0 d) (hS : Nat.land M 0x10000541 = 0x10000541) :
    S R M d0 (Sys2Proof.Machine.Dev.patchBytes d slot copy) := by
  unfold Sys2Proof.Machine.Dev.patchBytes
  repeat' first
    | with_reducible exact h
    | with_reducible assumption
    | exact sub hS rfl
    | with_reducible exact rfl
    | with_reducible apply Dev_violation
    | with_reducible apply S.ite
    | with_reducible apply ite
    | dsimp only
    | with_reducible apply S.mk

theorem Dev_loadPatch (d : Dev) (i : Nat) (e : LogEnt) (h : Keep R M d0 d) (hS : Nat.land M 0x10000545 = 0x10000545) :
    Keep R M d0 (Sys2Proof.Machine.Dev.loadPatch d i e) := by
  unfold Sys2Proof.Machine.Dev.loadPatch
  repeat' first
    | with_reducible exact h
    | with_reducible assumption
    | exact sub hS rfl
    | with_reducible exact rfl
    | with_reducible apply Dev_patchBytes
    | with_reducible apply Dev_ww32
    | with_reducible apply Dev_wbs
    | with_reducible refine S.out (by assumption) ?_
    | with_reducible apply S.snd
    | dsimp only
    | with_reducible apply S.mk

theorem Dev_restore (d : Dev) (i : Nat) (k : Ckpt) (h : Keep R M d0 d) (hS : Nat.land M 0x3005 = 0x3005) :
    Keep R M d0 (Sys2Proof.Machine.Dev.restore d i k) := by
  unfold Sys2Proof.Machine.Dev.restore
  have h1 : Keep R M d0 { d with mem := paste (fun _ => 0) (paste (fun _ => 0) d.mem (ctxX i) 0x800 k.x) (ctxY i) 0x800 k.y } :=
    setMem h (sub hS rfl) (fun w => twf_paste (fun _ => (0 : Byte)) _ _ _ _ (twf_paste (fun _ => (0 : Byte)) _ _ _ _ w))
  refine Dev_setNote _ _ _ (Dev_setCtx _ _ _ (ite (setLive h1 (sub hS rfl) (fun w => twf_paste resetWord _ _ _ _ w)) h1) (sub hS rfl)) (sub hS rfl)

theorem Dev_saveCkpt (d : Dev) (i : Nat) (s : Word) (h : Keep R M d0 d) (hS : Nat.land M 0x2000 = 0x2000) :
    Keep R M d0 (Sys2Proof.Machine.Dev.saveCkpt d i s) := by
  unfold Sys2Proof.Machine.Dev.saveCkpt
  repeat' first
    | with_reducible exact h
    | with_reducible assumption
    | exact sub hS rfl
    | with_reducible exact rfl
    | with_reducible apply Dev_setCtx
    | dsimp only

theorem Dev_shortenPart (d : Dev) (n : Nat) (k : Nat) (h : Keep R M d0 d) (hS : Nat.land M 0x10004541 = 0x10004541) :
    Keep R M d0 (Sys2Proof.Machine.Dev.shortenPart d n k) := by
  unfold Sys2Proof.Machine.Dev.shortenPart
  repeat' first
    | with_reducible exact h
    | with_reducible assumption
    | exact sub hS rfl
    | with_reducible exact rfl
    | with_reducible refine raisePlain ?_ (by with_unfolding_all exact rfl) ?_
    | with_reducible apply Dev_raise
    | with_reducible apply Dev_count
    | with_reducible apply Dev_setPartK
    | with_reducible apply ite
    | dsimp only

theorem Dev_steal (d : Dev) (v : Nat) (k : Nat) (s : Word) (h : Keep R M d0 d) (hS : Nat.land M 0x7005 = 0x7005) :
    Keep R M d0 (Sys2Proof.Machine.Dev.steal d v k s) := by
  unfold Sys2Proof.Machine.Dev.steal
  repeat' first
    | with_reducible exact h
    | with_reducible assumption
    | exact sub hS rfl
    | with_reducible exact rfl
    | with_reducible apply Dev_copySlices
    | with_reducible apply Dev_setNote
    | with_reducible apply Dev_setCtx
    | with_reducible apply Dev_setPartK
    | dsimp only
    | split

/-! ### Machine/Bowl.lean -/

theorem Dev_bowlSample (d : Dev) (i : Nat) (start : Option Nat) (phi : Nat) (h : Keep R M d0 d) (hS : Nat.land M 0x1005 = 0x1005) :
    Keep R M d0 (Sys2Proof.Machine.Dev.bowlSample d i start phi).2.1 := by
  unfold Sys2Proof.Machine.Dev.bowlSample
  repeat' first
    | with_reducible exact h
    | with_reducible assumption
    | exact sub hS rfl
    | with_reducible exact rfl
    | with_reducible apply Dev_ww32
    | with_reducible apply Dev_setNote
    | with_reducible apply Dev_fp
    | with_reducible apply Dev_setReg
    | with_reducible refine foldl (fun _ _ _ => ?_) ?_
    | with_reducible apply ite
    | dsimp only

/-! ### Machine/Apply.lean -/

theorem Dev_setEntry (d : Dev) (seq : Nat) (x : PipeEnt) (h : Keep R M d0 d) (hS : Nat.land M 0x200 = 0x200) :
    Keep R M d0 (Sys2Proof.Machine.Dev.setEntry d seq x) := by
  unfold Sys2Proof.Machine.Dev.setEntry
  repeat' first
    | with_reducible exact h
    | with_reducible assumption
    | exact sub hS rfl
    | with_reducible exact rfl
    | fail_if_no_progress with_reducible refine upd (m := 0x200) ?_ hS rfl (by (repeat' apply And.intro) <;> first | exact .inr rfl | with_reducible exact .inl rfl)
    | with_reducible apply ite
    | dsimp only

theorem Dev_mendEntry (d : Dev) (seq : Nat) (g : PipeEnt → PipeEnt) (h : Keep R M d0 d) (hS : Nat.land M 0x200 = 0x200) :
    Keep R M d0 (Sys2Proof.Machine.Dev.mendEntry d seq g) := by
  unfold Sys2Proof.Machine.Dev.mendEntry
  repeat' first
    | with_reducible exact h
    | with_reducible assumption
    | exact sub hS rfl
    | with_reducible exact rfl
    | with_reducible apply Dev_setEntry
    | dsimp only
    | split

theorem Dev_lateEvent (d : Dev) (seq : Nat) (h : Keep R M d0 d) (hS : Nat.land M 0x10000741 = 0x10000741) :
    Keep R M d0 (Sys2Proof.Machine.Dev.lateEvent d seq) := by
  unfold Sys2Proof.Machine.Dev.lateEvent
  repeat' first
    | with_reducible exact h
    | with_reducible assumption
    | exact sub hS rfl
    | with_reducible exact rfl
    | with_reducible refine raisePlain ?_ (by with_unfolding_all exact rfl) ?_
    | with_reducible apply Dev_raise
    | with_reducible apply Dev_count
    | with_reducible apply Dev_mendEntry
    | dsimp only

theorem Dev_order (d : Dev) (i : Nat) (s : Word) (seq : Nat) (h : Keep R M d0 d) (hS : Nat.land M 0x800 = 0x800) :
    Keep R M d0 (Sys2Proof.Machine.Dev.order d i s seq) := by
  unfold Sys2Proof.Machine.Dev.order
  repeat' first
    | with_reducible exact h
    | with_reducible assumption
    | exact sub hS rfl
    | with_reducible exact rfl
    | fail_if_no_progress with_reducible refine upd (m := 0x800) ?_ hS rfl (by (repeat' apply And.intro) <;> first | exact .inr rfl | with_reducible exact .inl rfl)
    | dsimp only

theorem Dev_addLog (d : Dev) (i : Nat) (e : LogEnt) (h : Keep R M d0 d) (hS : Nat.land M 0x10002F41 = 0x10002F41) :
    Keep R M d0 (Sys2Proof.Machine.Dev.addLog d i e) := by
  unfold Sys2Proof.Machine.Dev.addLog
  repeat' first
    | with_reducible exact h
    | with_reducible assumption
    | exact sub hS rfl
    | with_reducible exact rfl
    | with_reducible apply Dev_lateEvent
    | with_reducible apply Dev_setCtx
    | with_reducible apply Dev_order
    | with_reducible apply ite
    | dsimp only
    | split

theorem Dev_applyTo (d : Dev) (e : PipeEnt) (vs : List Nat) (h : Keep R M d0 d) (hS : Nat.land M 0x10002F41 = 0x10002F41) :
    Keep R M d0 (Sys2Proof.Machine.Dev.applyTo d e vs) := by
  unfold Sys2Proof.Machine.Dev.applyTo
  repeat' first
    | with_reducible exact h
    | with_reducible assumption
    | exact sub hS rfl
    | with_reducible exact rfl
    | with_reducible apply Dev_addLog
    | with_reducible refine foldl (fun _ _ _ => ?_) ?_
    | with_reducible refine F.fst (F.foldl (fun _ _ _ => ?_) ?_)
    | with_reducible exact F.fst (by assumption)
    | with_reducible refine S.snd (S.foldl (fun _ _ _ => ?_) ?_)
    | with_reducible exact S.snd (by assumption)
    | dsimp only
    | with_reducible apply S.mk
    | with_reducible apply F.mk

theorem Dev_dropLog (d : Dev) (i : Nat) (e : EvRec) (s : Word) (h : Keep R M d0 d) (hS : Nat.land M 0x2800 = 0x2800) :
    Keep R M d0 (Sys2Proof.Machine.Dev.dropLog d i e s) := by
  unfold Sys2Proof.Machine.Dev.dropLog
  repeat' first
    | with_reducible exact h
    | with_reducible assumption
    | exact sub hS rfl
    | with_reducible exact rfl
    | with_reducible apply Dev_setCtx
    | with_reducible apply Dev_order
    | with_reducible apply ite
    | dsimp only

theorem Dev_rematch (d : Dev) (s : Word) (r : EvRec) (h : Keep R M d0 d) (hS : Nat.land M 0x10002F41 = 0x10002F41) :
    Keep R M d0 (Sys2Proof.Machine.Dev.rematch d s r) := by
  unfold Sys2Proof.Machine.Dev.rematch
  repeat' first
    | with_reducible exact h
    | with_reducible assumption
    | exact sub hS rfl
    | with_reducible exact rfl
    | with_reducible apply Dev_dropLog
    | with_reducible apply Dev_mendEntry
    | with_reducible apply Dev_applyTo
    | with_reducible refine each (fun _ _ _ => ?_) ?_
    | with_reducible refine foldl (fun _ _ _ => ?_) ?_
    | with_reducible apply ite
    | dsimp only
    | split

theorem Dev_reloadStarts (d : Dev) (s : Word) (r : EvRec) (ok : PipeEnt → Bool) (h : Keep R M d0 d) (hS : Nat.land M 0x10002F41 = 0x10002F41) :
    Keep R M d0 (Sys2Proof.Machine.Dev.reloadStarts d s r ok) := by
  unfold Sys2Proof.Machine.Dev.reloadStarts
  repeat' first
    | with_reducible exact h
    | with_reducible assumption
    | exact sub hS rfl
    | with_reducible exact rfl
    | with_reducible apply Dev_applyTo
    | with_reducible apply Dev_dropLog
    | with_reducible refine each (fun _ _ _ => ?_) ?_
    | dsimp only

theorem Dev_applyEntry (d : Dev) (e : PipeEnt) (h : Keep R M d0 d) (hS : Nat.land M 0x10002F41 = 0x10002F41) :
    Keep R M d0 (Sys2Proof.Machine.Dev.applyEntry d e) := by
  unfold Sys2Proof.Machine.Dev.applyEntry
  repeat' first
    | with_reducible exact h
    | with_reducible assumption
    | exact sub hS rfl
    | with_reducible exact rfl
    | with_reducible apply Dev_mendEntry
    | with_reducible apply Dev_applyTo
    | with_reducible apply Dev_rematch
    | with_reducible apply Dev_reloadStarts
    | with_reducible apply ite
    | dsimp only
    | split

theorem Dev_foldEntry (d : Dev) (e : PipeEnt) (h : Keep R M d0 d) (hS : Nat.land M 0x8200 = 0x8200) :
    Keep R M d0 (Sys2Proof.Machine.Dev.foldEntry d e) := by
  unfold Sys2Proof.Machine.Dev.foldEntry
  repeat' first
    | with_reducible exact h
    | with_reducible assumption
    | exact sub hS rfl
    | with_reducible exact rfl
    | with_reducible refine foldl (fun _ _ _ => ?_) ?_
    | fail_if_no_progress with_reducible refine upd (m := 0x8200) ?_ hS rfl (by (repeat' apply And.intro) <;> first | exact .inr rfl | with_reducible exact .inl rfl)
    | with_reducible apply ite
    | dsimp only
    | split

theorem Dev_retire (d : Dev) (c : Word) (h : Keep R M d0 d) (hS : Nat.land M 0x8200 = 0x8200) :
    Keep R M d0 (Sys2Proof.Machine.Dev.retire d c) := by
  unfold Sys2Proof.Machine.Dev.retire
  repeat' first
    | with_reducible exact h
    | with_reducible assumption
    | exact sub hS rfl
    | with_reducible exact rfl
    | with_reducible apply Dev_foldEntry
    | with_reducible refine each (fun _ _ _ => ?_) ?_
    | with_reducible refine foldl (fun _ _ _ => ?_) ?_
    | fail_if_no_progress with_reducible refine upd (m := 0x8200) ?_ hS rfl (by (repeat' apply And.intro) <;> first | exact .inr rfl | with_reducible exact .inl rfl)
    | dsimp only
    | split

theorem eventApply (seq : Nat) (d : Dev) (h : Keep R M d0 d) (hS : Nat.land M 0x10002F41 = 0x10002F41) :
    Keep R M d0 (Sys2Proof.Machine.eventApply seq d) := by
  unfold Sys2Proof.Machine.eventApply
  repeat' first
    | with_reducible exact h
    | with_reducible assumption
    | exact sub hS rfl
    | with_reducible exact rfl
    | with_reducible apply Dev_applyEntry
    | with_reducible apply ite
    | dsimp only
    | split

/-! ### Machine/Bundle.lean -/

theorem Dev_advanceRings (d : Dev) (c : Ctx) (h : Keep R M d0 d) (hS : Nat.land M 0x10000545 = 0x10000545) :
    F R M d0 (Sys2Proof.Machine.Dev.advanceRings d c) := by
  unfold Sys2Proof.Machine.Dev.advanceRings
  repeat' first
    | with_reducible exact h
    | with_reducible assumption
    | exact sub hS rfl
    | with_reducible exact rfl
    | with_reducible apply Dev_fabricWrite
    | with_reducible apply F.ite
    | with_reducible refine F.foldl (fun _ _ _ => ?_) ?_
    | with_reducible refine foldl (fun _ _ _ => ?_) ?_
    | with_reducible exact F.fst (by assumption)
    | with_reducible apply ite
    | dsimp only
    | split
    | with_reducible apply F.mk

theorem Dev_overrun (d : Dev) (n : Nat) (cyc : Nat) (h : Keep R M d0 d) (hS : Nat.land M 0x10000541 = 0x10000541) :
    Keep R M d0 (Sys2Proof.Machine.Dev.overrun d n cyc) := by
  unfold Sys2Proof.Machine.Dev.overrun
  repeat' first
    | with_reducible exact h
    | with_reducible assumption
    | exact sub hS rfl
    | with_reducible exact rfl
    | with_reducible refine raisePlain ?_ (by with_unfolding_all exact rfl) ?_
    | with_reducible apply Dev_raise
    | with_reducible apply Dev_count
    | with_reducible apply ite
    | dsimp only

theorem Dev_trap (d : Dev) (n : Nat) (j : Nat) (cause : Nat) (pc : BitVec 11) (ops : List Op) (h : Keep R M d0 d) (hS : Nat.land M 0x10000541 = 0x10000541) :
    Keep R M d0 (Sys2Proof.Machine.Dev.trap d n j cause pc ops) := by
  unfold Sys2Proof.Machine.Dev.trap
  repeat' first
    | with_reducible exact h
    | with_reducible assumption
    | exact sub hS rfl
    | with_reducible exact rfl
    | with_reducible apply Dev_fp
    | with_reducible apply Dev_setReg
    | with_reducible refine raisePlain ?_ (by with_unfolding_all exact rfl) ?_
    | with_reducible apply Dev_raise
    | with_reducible refine each (fun _ _ _ => ?_) ?_
    | dsimp only

theorem Work_send (w : Work) (fs : List Flight) (h : Keep R M d0 w.d) (hS : Nat.land M 0x0 = 0x0) :
    Keep R M d0 (Sys2Proof.Machine.Work.send w fs).d := by
  unfold Sys2Proof.Machine.Work.send
  repeat' first
    | with_reducible exact h
    | with_reducible assumption
    | exact sub hS rfl
    | with_reducible exact rfl
    | dsimp only

theorem memOp (n : Nat) (j : Nat) (r : Regs) (op : Nat) (f : MemF) (w : Work) (h : Keep R M d0 w.d) (hS : Nat.land M 0x15 = 0x15) :
    Keep R M d0 (Sys2Proof.Machine.memOp n j r op f w).d := by
  unfold Sys2Proof.Machine.memOp
  repeat' first
    | with_reducible exact h
    | with_reducible assumption
    | exact sub hS rfl
    | with_reducible exact rfl
    | with_reducible apply Work_send
    | with_reducible apply Dev_ww32
    | with_reducible apply Dev_fresh
    | with_reducible refine S.out (by assumption) ?_
    | with_reducible apply S.snd
    | with_reducible apply S.ite
    | with_reducible refine each (fun _ _ _ => ?_) ?_
    | with_reducible apply ite
    | dsimp only
    | split
    | with_reducible apply S.mk

theorem Work_putAcc (w : Work) (k : Nat) (s : Bool) (x : Int) (h : Keep R M d0 w.d) (hS : Nat.land M 0x0 = 0x0) :
    Keep R M d0 (Sys2Proof.Machine.Work.putAcc w k s x).d := by
  unfold Sys2Proof.Machine.Work.putAcc
  repeat' first
    | with_reducible exact h
    | with_reducible assumption
    | exact sub hS rfl
    | with_reducible exact rfl
    | with_reducible apply Work_send
    | with_reducible apply ite
    | dsimp only
    | split

theorem Work_accum (w : Work) (k : Nat) (f : MacF) (t : Int) (h : Keep R M d0 w.d) (hS : Nat.land M 0x0 = 0x0) :
    Keep R M d0 (Sys2Proof.Machine.Work.accum w k f t).d := by
  unfold Sys2Proof.Machine.Work.accum
  repeat' first
    | with_reducible exact h
    | with_reducible assumption
    | exact sub hS rfl
    | with_reducible exact rfl
    | with_reducible apply Work_putAcc
    | dsimp only

theorem Work_round (w : Work) (s : Bool) (k : Nat) (n : Nat) (h : Keep R M d0 w.d) (hS : Nat.land M 0x0 = 0x0) :
    Keep R M d0 (Sys2Proof.Machine.Work.round w s k n).d := by
  unfold Sys2Proof.Machine.Work.round
  repeat' first
    | with_reducible exact h
    | with_reducible assumption
    | exact sub hS rfl
    | with_reducible exact rfl
    | with_reducible apply Work_send
    | with_reducible apply ite
    | dsimp only
    | split

theorem macOp (r : Regs) (op : Nat) (f : MacF) (w : Work) (h : Keep R M d0 w.d) (hS : Nat.land M 0x0 = 0x0) :
    Keep R M d0 (Sys2Proof.Machine.macOp r op f w).d := by
  unfold Sys2Proof.Machine.macOp
  repeat' first
    | with_reducible exact h
    | with_reducible assumption
    | exact sub hS rfl
    | with_reducible exact rfl
    | with_reducible apply Work_accum
    | with_reducible apply Work_round
    | with_reducible apply Work_putAcc
    | with_reducible refine foldl (fun _ _ _ => ?_) ?_
    | with_reducible refine foldlW (fun _ _ _ => ?_) ?_
    | with_reducible apply ite
    | dsimp only
    | split

theorem Work_alu (w : Work) (rd : Option Nat) (flags : Bool) (x : AluRes) (h : Keep R M d0 w.d) (hS : Nat.land M 0x0 = 0x0) :
    Keep R M d0 (Sys2Proof.Machine.Work.alu w rd flags x).d := by
  unfold Sys2Proof.Machine.Work.alu
  repeat' first
    | with_reducible exact h
    | with_reducible assumption
    | exact sub hS rfl
    | with_reducible exact rfl
    | with_reducible apply Work_send
    | with_reducible apply ite
    | dsimp only
    | split

theorem aluSlot (n : Nat) (j : Nat) (r : Regs) (op : Nat) (f : AluF) (bad : Nat) (w : Work) (h : Keep R M d0 w.d) (hS : Nat.land M 0x10000545 = 0x10000545) :
    Keep R M d0 (Sys2Proof.Machine.aluSlot n j r op f bad w).d := by
  unfold Sys2Proof.Machine.aluSlot
  repeat' first
    | with_reducible exact h
    | with_reducible assumption
    | exact sub hS rfl
    | with_reducible exact rfl
    | with_reducible apply Work_alu
    | with_reducible apply Work_send
    | with_reducible apply Dev_fabricRead
    | with_reducible apply Dev_fabricWrite
    | with_reducible refine S.out (by assumption) ?_
    | with_reducible apply S.snd
    | with_reducible apply S.ite
    | with_reducible apply ite
    | dsimp only
    | split
    | with_reducible apply S.mk

theorem opWork (n : Nat) (j : Nat) (r : Regs) (o : Op) (w : Work) (h : Keep R M d0 w.d) (hS : Nat.land M 0x10000555 = 0x10000555) :
    Keep R M d0 (Sys2Proof.Machine.opWork n j r o w).d := by
  unfold Sys2Proof.Machine.opWork
  repeat' first
    | with_reducible exact h
    | with_reducible assumption
    | exact sub hS rfl
    | with_reducible exact rfl
    | with_reducible apply memOp
    | with_reducible apply macOp
    | with_reducible apply aluSlot
    | dsimp only
    | split

theorem Dev_issueOnce (d : Dev) (n : Nat) (j : Nat) (ops : List Op) (h : Keep R M d0 d) (hS : Nat.land M 0x10007D55 = 0x10007D55) :
    Keep R M d0 (Sys2Proof.Machine.Dev.issueOnce d n j ops) := by
  unfold Sys2Proof.Machine.Dev.issueOnce
  repeat' first
    | with_reducible exact h
    | with_reducible assumption
    | exact sub hS rfl
    | with_reducible exact rfl
    | with_reducible apply Dev_overrun
    | with_reducible apply Dev_trap
    | with_reducible apply opWork
    | with_reducible apply Dev_setSpn
    | with_reducible apply Dev_setCtx
    | with_reducible apply Dev_advanceRings
    | with_reducible apply Dev_endSample
    | with_reducible refine F.out (by assumption) ?_
    | with_reducible apply F.fst
    | with_reducible apply F.ite
    | with_reducible refine F.foldl (fun _ _ _ => ?_) ?_
    | with_reducible refine foldl (fun _ _ _ => ?_) ?_
    | with_reducible refine foldlW (fun _ _ _ => ?_) ?_
    | with_reducible exact F.fst (by assumption)
    | with_reducible apply ite
    | dsimp only
    | split
    | with_reducible apply F.mk

theorem Dev_issueRep (n : Nat) (j : Nat) (ops : List Op) (a1 : Nat) (a2 : Dev) (h : Keep R M d0 a2) (hS : Nat.land M 0x10007D55 = 0x10007D55) :
    Keep R M d0 (Sys2Proof.Machine.Dev.issueRep n j ops a1 a2) := by
  induction a1 generalizing a2 with
  | zero => exact h
  | succ k ih =>
    unfold Sys2Proof.Machine.Dev.issueRep
    dsimp only
    repeat' with_reducible apply ite
    · exact h
    · exact Dev_issueOnce _ _ _ _ h (sub hS rfl)
    · exact ih _ (Dev_setCtx _ _ _ (Dev_issueOnce _ _ _ _ h (sub hS rfl)) (sub hS rfl))

theorem Dev_issue (d : Dev) (n : Nat) (j : Nat) (ops : List Op) (h : Keep R M d0 d) (hS : Nat.land M 0x10007D55 = 0x10007D55) :
    Keep R M d0 (Sys2Proof.Machine.Dev.issue d n j ops) := by
  unfold Sys2Proof.Machine.Dev.issue
  repeat' first
    | with_reducible exact h
    | with_reducible assumption
    | exact sub hS rfl
    | with_reducible exact rfl
    | with_reducible apply Dev_issueOnce
    | with_reducible apply Dev_issueRep
    | with_reducible apply Dev_setCtx
    | dsimp only
    | split

theorem slotOp (n : Nat) (o : Op) (last : Bool) (d : Dev) (h : Keep R M d0 d) (hS : Nat.land M 0x10007D55 = 0x10007D55) :
    Keep R M d0 (Sys2Proof.Machine.slotOp n o last d) := by
  unfold Sys2Proof.Machine.slotOp
  repeat' first
    | with_reducible exact h
    | with_reducible assumption
    | exact sub hS rfl
    | with_reducible exact rfl
    | with_reducible apply Dev_issue
    | with_reducible apply Dev_setSpn
    | with_reducible apply ite
    | dsimp only
    | split

/-! ### Machine/Spindle.lean -/

theorem Dev_beginCtx (d : Dev) (i : Nat) (h : Keep R M d0 d) (hS : Nat.land M 0x6001 = 0x6001) :
    Keep R M d0 (Sys2Proof.Machine.Dev.beginCtx d i) := by
  unfold Sys2Proof.Machine.Dev.beginCtx
  repeat' first
    | with_reducible exact h
    | with_reducible assumption
    | exact sub hS rfl
    | with_reducible exact rfl
    | with_reducible apply Dev_setCtx
    | with_reducible apply Dev_fp
    | with_reducible apply Dev_setSpn
    | dsimp only

theorem Dev_commitVoice (d : Dev) (i : Nat) (a1 : Word) (s : Word) (h : Keep R M d0 d) (hS : Nat.land M 0x1 = 0x1) :
    Keep R M d0 (Sys2Proof.Machine.Dev.commitVoice d i a1 s) := by
  unfold Sys2Proof.Machine.Dev.commitVoice
  repeat' first
    | with_reducible exact h
    | with_reducible assumption
    | exact sub hS rfl
    | with_reducible exact rfl
    | with_reducible apply Dev_setReg
    | with_reducible refine each (fun _ _ _ => ?_) ?_
    | with_reducible apply ite
    | dsimp only

theorem Dev_fetchWait (d : Dev) (n : Nat) (h : Keep R M d0 d) (hS : Nat.land M 0x4001 = 0x4001) :
    Keep R M d0 (Sys2Proof.Machine.Dev.fetchWait d n) := by
  unfold Sys2Proof.Machine.Dev.fetchWait
  repeat' first
    | with_reducible exact h
    | with_reducible assumption
    | exact sub hS rfl
    | with_reducible exact rfl
    | with_reducible apply Dev_setSpn
    | with_reducible apply Dev_count
    | with_reducible apply ite
    | dsimp only

theorem Dev_giveWay (d : Dev) (n : Nat) (j : Nat) (h : Keep R M d0 d) (hS : Nat.land M 0x6001 = 0x6001) :
    Keep R M d0 (Sys2Proof.Machine.Dev.giveWay d n j) := by
  unfold Sys2Proof.Machine.Dev.giveWay
  repeat' first
    | with_reducible exact h
    | with_reducible assumption
    | exact sub hS rfl
    | with_reducible exact rfl
    | with_reducible apply Dev_fp
    | with_reducible apply Dev_setSpn
    | with_reducible apply Dev_setCtx
    | with_reducible apply ite
    | dsimp only
    | split

theorem Dev_pauseParts (d : Dev) (n : Nat) (j : Nat) (h : Keep R M d0 d) (hS : Nat.land M 0x10002541 = 0x10002541) :
    Keep R M d0 (Sys2Proof.Machine.Dev.pauseParts d n j) := by
  unfold Sys2Proof.Machine.Dev.pauseParts
  repeat' first
    | with_reducible exact h
    | with_reducible assumption
    | exact sub hS rfl
    | with_reducible exact rfl
    | with_reducible apply Dev_setCtx
    | with_reducible refine raisePlain ?_ (by with_unfolding_all exact rfl) ?_
    | with_reducible apply Dev_raise
    | with_reducible apply Dev_count
    | with_reducible refine each (fun _ _ _ => ?_) ?_
    | with_reducible apply ite
    | dsimp only

theorem Dev_spend (d : Dev) (n : Nat) (k : Nat) (roll : Bool) (h : Keep R M d0 d) (hS : Nat.land M 0x4000 = 0x4000) :
    Keep R M d0 (Sys2Proof.Machine.Dev.spend d n k roll) := by
  unfold Sys2Proof.Machine.Dev.spend
  repeat' first
    | with_reducible exact h
    | with_reducible assumption
    | exact sub hS rfl
    | with_reducible exact rfl
    | with_reducible apply Dev_setSpn
    | with_reducible apply ite
    | dsimp only

theorem Dev_runRom (d : Dev) (i : Nat) (start : Option Nat) (phi : Nat) (roll : Bool) (h : Keep R M d0 d) (hS : Nat.land M 0x10007D45 = 0x10007D45) :
    Keep R M d0 (Sys2Proof.Machine.Dev.runRom d i start phi roll) := by
  unfold Sys2Proof.Machine.Dev.runRom
  repeat' first
    | with_reducible exact h
    | with_reducible assumption
    | exact sub hS rfl
    | with_reducible exact rfl
    | with_reducible apply Dev_bowlSample
    | with_reducible apply Dev_spend
    | with_reducible refine raisePlain ?_ (by with_unfolding_all exact rfl) ?_
    | with_reducible apply Dev_raise
    | with_reducible apply Dev_count
    | with_reducible apply Dev_endSample
    | with_reducible apply ite
    | dsimp only

theorem Dev_renderParting (d : Dev) (n : Nat) (k : Nat) (h : Keep R M d0 d) (hS : Nat.land M 0x10007D45 = 0x10007D45) :
    Keep R M d0 (Sys2Proof.Machine.Dev.renderParting d n k) := by
  unfold Sys2Proof.Machine.Dev.renderParting
  repeat' first
    | with_reducible exact h
    | with_reducible assumption
    | exact sub hS rfl
    | with_reducible exact rfl
    | with_reducible apply Dev_spend
    | with_reducible apply Dev_setCtx
    | with_reducible apply Dev_runRom
    | with_reducible apply Dev_beginCtx
    | dsimp only

theorem Dev_takeEvents (d : Dev) (i : Nat) (es : List LogEnt) (h : Keep R M d0 d) (hS : Nat.land M 0x1000B545 = 0x1000B545) :
    Keep R M d0 (Sys2Proof.Machine.Dev.takeEvents d i es) := by
  unfold Sys2Proof.Machine.Dev.takeEvents
  repeat' first
    | with_reducible exact h
    | with_reducible assumption
    | exact sub hS rfl
    | with_reducible exact rfl
    | with_reducible apply Dev_fp
    | with_reducible apply Dev_loadPatch
    | with_reducible apply Dev_setCtx
    | with_reducible apply Dev_setNote
    | with_reducible apply Dev_setPend
    | with_reducible refine each (fun _ _ _ => ?_) ?_
    | with_reducible apply ite
    | dsimp only

theorem Dev_renderVoice (d : Dev) (i : Nat) (s : Word) (h : Keep R M d0 d) (hS : Nat.land M 0x1000FD45 = 0x1000FD45) :
    Keep R M d0 (Sys2Proof.Machine.Dev.renderVoice d i s) := by
  unfold Sys2Proof.Machine.Dev.renderVoice
  repeat' first
    | with_reducible exact h
    | with_reducible assumption
    | exact sub hS rfl
    | with_reducible exact rfl
    | with_reducible apply Dev_shortenPart
    | with_reducible apply Dev_setCtx
    | with_reducible apply Dev_commitVoice
    | with_reducible apply Dev_saveCkpt
    | with_reducible apply Dev_spend
    | with_reducible apply Dev_steal
    | with_reducible apply Dev_fetchWait
    | with_reducible apply Dev_takeEvents
    | with_reducible apply Dev_beginCtx
    | with_reducible apply Dev_runRom
    | with_reducible apply ite
    | dsimp only
    | split

theorem Dev_resume (d : Dev) (n : Nat) (j : Nat) (h : Keep R M d0 d) (hS : Nat.land M 0x4001 = 0x4001) :
    Keep R M d0 (Sys2Proof.Machine.Dev.resume d n j) := by
  unfold Sys2Proof.Machine.Dev.resume
  repeat' first
    | with_reducible exact h
    | with_reducible assumption
    | exact sub hS rfl
    | with_reducible exact rfl
    | with_reducible apply Dev_fp
    | with_reducible apply Dev_setSpn
    | dsimp only

theorem Dev_shiftEvent (d : Dev) (n : Nat) (i : Nat) (seq : Nat) (k : Nat) (h : Keep R M d0 d) (hS : Nat.land M 0x10002741 = 0x10002741) :
    Keep R M d0 (Sys2Proof.Machine.Dev.shiftEvent d n i seq k) := by
  unfold Sys2Proof.Machine.Dev.shiftEvent
  repeat' first
    | with_reducible exact h
    | with_reducible assumption
    | exact sub hS rfl
    | with_reducible exact rfl
    | with_reducible apply Dev_setCtx
    | with_reducible apply Dev_count
    | with_reducible apply Dev_lateEvent
    | with_reducible refine foldl (fun _ _ _ => ?_) ?_
    | dsimp only

theorem Dev_spnBoundary (d : Dev) (n : Nat) (h : Keep R M d0 d) (hS : Nat.land M 0x4001 = 0x4001) :
    Keep R M d0 (Sys2Proof.Machine.Dev.spnBoundary d n) := by
  unfold Sys2Proof.Machine.Dev.spnBoundary
  repeat' first
    | with_reducible exact h
    | with_reducible assumption
    | exact sub hS rfl
    | with_reducible exact rfl
    | with_reducible apply Dev_fp
    | with_reducible apply Dev_setSpn
    | dsimp only

theorem Dev_undoSteals (d : Dev) (v : Nat) (ck : Word) (h : Keep R M d0 d) (hS : Nat.land M 0x7801 = 0x7801) :
    Keep R M d0 (Sys2Proof.Machine.Dev.undoSteals d v ck) := by
  unfold Sys2Proof.Machine.Dev.undoSteals
  repeat' first
    | with_reducible exact h
    | with_reducible assumption
    | exact sub hS rfl
    | with_reducible exact rfl
    | with_reducible apply Dev_freePart
    | with_reducible refine each (fun _ _ _ => ?_) ?_
    | with_reducible apply ite
    | dsimp only

theorem Dev_startRoll (d : Dev) (i : Nat) (s : Word) (h : Keep R M d0 d) (hS : Nat.land M 0x7805 = 0x7805) :
    Keep R M d0 (Sys2Proof.Machine.Dev.startRoll d i s) := by
  unfold Sys2Proof.Machine.Dev.startRoll
  repeat' first
    | with_reducible exact h
    | with_reducible assumption
    | exact sub hS rfl
    | with_reducible exact rfl
    | with_reducible apply Dev_giveWay
    | with_reducible apply Dev_fp
    | with_reducible apply Dev_setCtx
    | with_reducible apply Dev_spend
    | with_reducible apply Dev_restore
    | with_reducible apply Dev_undoSteals
    | with_reducible apply ite
    | dsimp only
    | split

theorem contextSwitch (n : Nat) (c : Nat) (d : Dev) (h : Keep R M d0 d) (hS : Nat.land M 0x1000FD45 = 0x1000FD45) :
    Keep R M d0 (Sys2Proof.Machine.contextSwitch n c d) := by
  unfold Sys2Proof.Machine.contextSwitch
  repeat' first
    | with_reducible exact h
    | with_reducible assumption
    | exact sub hS rfl
    | with_reducible exact rfl
    | with_reducible apply Dev_resume
    | with_reducible apply Dev_renderVoice
    | with_reducible apply Dev_renderParting
    | with_reducible apply ite
    | dsimp only
    | split

theorem peakClear (n : Nat) (_v : Word) (d : Dev) (h : Keep R M d0 d) (hS : Nat.land M 0x1 = 0x1) :
    Keep R M d0 (Sys2Proof.Machine.peakClear n _v d) := by
  unfold Sys2Proof.Machine.peakClear
  repeat' first
    | with_reducible exact h
    | with_reducible assumption
    | exact sub hS rfl
    | with_reducible exact rfl
    | with_reducible apply Dev_fp
    | with_reducible apply ite
    | dsimp only

theorem rollbackOrder (n : Nat) (c : Nat) (sample : Word) (d : Dev) (h : Keep R M d0 d) (hS : Nat.land M 0x10007F45 = 0x10007F45) :
    Keep R M d0 (Sys2Proof.Machine.rollbackOrder n c sample d) := by
  unfold Sys2Proof.Machine.rollbackOrder
  repeat' first
    | with_reducible exact h
    | with_reducible assumption
    | exact sub hS rfl
    | with_reducible exact rfl
    | with_reducible apply Dev_count
    | with_reducible apply Dev_startRoll
    | with_reducible apply Dev_pauseParts
    | with_reducible apply Dev_shiftEvent
    | fail_if_no_progress with_reducible refine upd (m := 0x10007F45) ?_ hS rfl (by (repeat' apply And.intro) <;> first | exact .inr rfl | with_reducible exact .inl rfl)
    | with_reducible apply ite
    | dsimp only
    | split

end Sys2Proof.Laws.Keep
end

