-- ==== Sys2Proof/Laws/KeepVoice.lean ====
section
/-! SUPPORT. `Keep` carried over the operations of ports, timers, CV outputs, staging, intake and allocation: one lemma for each, named after it. -/
namespace Sys2Proof.Laws.Keep
open Sys2Proof.Machine
set_option linter.unusedTactic false
set_option linter.unreachableTactic false
set_option linter.unusedVariables false

variable {R : Fuses → Fuses → Prop} {M : Nat} {d0 x : Dev}

/-! ### Machine/Port.lean -/

theorem Dev_stopPort (d : Dev) (n : Nat) (h : Keep R M d0 d) (hS : Nat.land M 0x20001 = 0x20001) :
    Keep R M d0 (Sys2Proof.Machine.Dev.stopPort d n) := by
  unfold Sys2Proof.Machine.Dev.stopPort
  repeat' first
    | with_reducible exact h
    | with_reducible assumption
    | exact sub hS rfl
    | with_reducible exact rfl
    | with_reducible apply Dev_fp
    | with_reducible apply Dev_setPort
    | dsimp only

theorem Dev_armPort (d : Dev) (n : Nat) (at_ : Word) (h : Keep R M d0 d) (hS : Nat.land M 0x20000 = 0x20000) :
    Keep R M d0 (Sys2Proof.Machine.Dev.armPort d n at_) := by
  unfold Sys2Proof.Machine.Dev.armPort
  repeat' first
    | with_reducible exact h
    | with_reducible assumption
    | exact sub hS rfl
    | with_reducible exact rfl
    | with_reducible apply Dev_setPort
    | dsimp only

theorem Dev_triggerPort (d : Dev) (n : Nat) (h : Keep R M d0 d) (hS : Nat.land M 0x20000 = 0x20000) :
    Keep R M d0 (Sys2Proof.Machine.Dev.triggerPort d n) := by
  unfold Sys2Proof.Machine.Dev.triggerPort
  repeat' first
    | with_reducible exact h
    | with_reducible assumption
    | exact sub hS rfl
    | with_reducible exact rfl
    | with_reducible apply Dev_armPort
    | dsimp only

theorem Dev_applyPort (d : Dev) (n : Nat) (rs : List (Nat × Word)) (h : Keep R M d0 d) (hS : Nat.land M 0x20001 = 0x20001) :
    Keep R M d0 (Sys2Proof.Machine.Dev.applyPort d n rs) := by
  unfold Sys2Proof.Machine.Dev.applyPort
  repeat' first
    | with_reducible exact h
    | with_reducible assumption
    | exact sub hS rfl
    | with_reducible exact rfl
    | with_reducible apply Dev_setReg
    | with_reducible apply Dev_setPort
    | with_reducible apply Dev_fp
    | with_reducible apply Dev_stopPort
    | with_reducible apply Dev_triggerPort
    | with_reducible refine foldl (fun _ _ _ => ?_) ?_
    | with_reducible apply ite
    | dsimp only

theorem Dev_armPorts (d : Dev) (s : Word) (h : Keep R M d0 d) (hS : Nat.land M 0x20000 = 0x20000) :
    Keep R M d0 (Sys2Proof.Machine.Dev.armPorts d s) := by
  unfold Sys2Proof.Machine.Dev.armPorts
  repeat' first
    | with_reducible exact h
    | with_reducible assumption
    | exact sub hS rfl
    | with_reducible exact rfl
    | with_reducible apply Dev_armPort
    | with_reducible refine each (fun _ _ _ => ?_) ?_
    | with_reducible apply ite
    | dsimp only

theorem Dev_ringEntry (d : Dev) (code : Nat) (off : Nat) (x : Word) (v : Word) (h : Keep R M d0 d) (hS : Nat.land M 0x10000545 = 0x10000545) :
    Keep R M d0 (Sys2Proof.Machine.Dev.ringEntry d code off x v) := by
  unfold Sys2Proof.Machine.Dev.ringEntry
  repeat' first
    | with_reducible exact h
    | with_reducible assumption
    | exact sub hS rfl
    | with_reducible exact rfl
    | with_reducible apply Dev_wbs
    | with_reducible apply Dev_violation
    | with_reducible apply ite
    | dsimp only

theorem Dev_portOvr (d : Dev) (n : Nat) (c : Nat) (tx : Bool) (h : Keep R M d0 d) (hS : Nat.land M 0x10020541 = 0x10020541) :
    Keep R M d0 (Sys2Proof.Machine.Dev.portOvr d n c tx) := by
  unfold Sys2Proof.Machine.Dev.portOvr
  repeat' first
    | with_reducible exact h
    | with_reducible assumption
    | exact sub hS rfl
    | with_reducible exact rfl
    | with_reducible apply Dev_setBit
    | with_reducible refine raisePlain ?_ (by with_unfolding_all exact rfl) ?_
    | with_reducible apply Dev_raise
    | with_reducible apply Dev_count
    | with_reducible apply Dev_setPort
    | with_reducible apply ite
    | dsimp only

theorem Dev_feedTx (d : Dev) (n : Nat) (c : Nat) (o : Nat) (x : Word) (h : Keep R M d0 d) (hS : Nat.land M 0x10020541 = 0x10020541) :
    Keep R M d0 (Sys2Proof.Machine.Dev.feedTx d n c o x) := by
  unfold Sys2Proof.Machine.Dev.feedTx
  repeat' first
    | with_reducible exact h
    | with_reducible assumption
    | exact sub hS rfl
    | with_reducible exact rfl
    | with_reducible apply Dev_portOvr
    | with_reducible apply Dev_setPort
    | with_reducible apply ite
    | dsimp only

theorem Dev_feedFrom (d : Dev) (n : Nat) (type : Nat) (index : Nat) (o : Nat) (x : Word) (h : Keep R M d0 d) (hS : Nat.land M 0x10020541 = 0x10020541) :
    Keep R M d0 (Sys2Proof.Machine.Dev.feedFrom d n type index o x) := by
  unfold Sys2Proof.Machine.Dev.feedFrom
  repeat' first
    | with_reducible exact h
    | with_reducible assumption
    | exact sub hS rfl
    | with_reducible exact rfl
    | with_reducible apply Dev_feedTx
    | with_reducible refine each (fun _ _ _ => ?_) ?_
    | with_reducible apply ite
    | dsimp only

theorem Dev_deliver (d : Dev) (n : Nat) (c : Nat) (o : Nat) (x : Word) (h : Keep R M d0 d) (hS : Nat.land M 0x10030545 = 0x10030545) :
    Keep R M d0 (Sys2Proof.Machine.Dev.deliver d n c o x) := by
  unfold Sys2Proof.Machine.Dev.deliver
  repeat' first
    | with_reducible exact h
    | with_reducible assumption
    | exact sub hS rfl
    | with_reducible exact rfl
    | with_reducible apply Dev_setPort
    | with_reducible apply Dev_ringEntry
    | with_reducible apply Dev_feedFrom
    | with_reducible refine each (fun _ _ _ => ?_) ?_
    | fail_if_no_progress with_reducible refine upd (m := 0x10030545) ?_ hS rfl (by (repeat' apply And.intro) <;> first | exact .inr rfl | with_reducible exact .inl rfl)
    | with_reducible apply ite
    | dsimp only

theorem Dev_portUnd (d : Dev) (n : Nat) (c : Nat) (tx : Bool) (h : Keep R M d0 d) (hS : Nat.land M 0x10020541 = 0x10020541) :
    Keep R M d0 (Sys2Proof.Machine.Dev.portUnd d n c tx) := by
  unfold Sys2Proof.Machine.Dev.portUnd
  repeat' first
    | with_reducible exact h
    | with_reducible assumption
    | exact sub hS rfl
    | with_reducible exact rfl
    | with_reducible apply Dev_setBit
    | with_reducible refine raisePlain ?_ (by with_unfolding_all exact rfl) ?_
    | with_reducible apply Dev_raise
    | with_reducible apply Dev_count
    | with_reducible apply Dev_setPort
    | with_reducible apply ite
    | dsimp only

theorem Dev_deliverRx (d : Dev) (n : Nat) (c : Nat) (o : Nat) (h : Keep R M d0 d) (hS : Nat.land M 0x10020541 = 0x10020541) :
    S R M d0 (Sys2Proof.Machine.Dev.deliverRx d n c o) := by
  unfold Sys2Proof.Machine.Dev.deliverRx
  repeat' first
    | with_reducible exact h
    | with_reducible assumption
    | exact sub hS rfl
    | with_reducible exact rfl
    | with_reducible apply Dev_portOvr
    | with_reducible apply Dev_setPort
    | with_reducible apply Dev_portUnd
    | with_reducible apply S.ite
    | with_reducible apply ite
    | dsimp only
    | split
    | with_reducible apply S.mk

theorem Dev_feedBuses (d : Dev) (s : Word) (h : Keep R M d0 d) (hS : Nat.land M 0x10020541 = 0x10020541) :
    Keep R M d0 (Sys2Proof.Machine.Dev.feedBuses d s) := by
  unfold Sys2Proof.Machine.Dev.feedBuses
  repeat' first
    | with_reducible exact h
    | with_reducible assumption
    | exact sub hS rfl
    | with_reducible exact rfl
    | with_reducible apply Dev_feedFrom
    | with_reducible refine each (fun _ _ _ => ?_) ?_
    | with_reducible apply ite
    | dsimp only

theorem Dev_recBytes (d : Dev) (n : Nat) (a1 : List Byte) (h : Keep R M d0 d) (hS : Nat.land M 0x10000545 = 0x10000545) :
    Keep R M d0 (Sys2Proof.Machine.Dev.recBytes d n a1) := by
  induction a1 generalizing d with
  | nil => exact h
  | cons b bs ih =>
    unfold Sys2Proof.Machine.Dev.recBytes
    repeat' first
      | with_reducible apply ih
      | with_reducible exact h
      | with_reducible assumption
      | exact sub hS rfl
      | with_reducible exact rfl
      | with_reducible apply Dev_recWriteByte
      | with_reducible apply Dev_fp
      | with_reducible apply ite
      | dsimp only
      | split

theorem Dev_takeRx (d : Dev) (n : Nat) (c : Nat) (o : Nat) (x : Word) (h : Keep R M d0 d) (hS : Nat.land M 0x10020541 = 0x10020541) :
    Keep R M d0 (Sys2Proof.Machine.Dev.takeRx d n c o x) := by
  unfold Sys2Proof.Machine.Dev.takeRx
  repeat' first
    | with_reducible exact h
    | with_reducible assumption
    | exact sub hS rfl
    | with_reducible exact rfl
    | with_reducible apply Dev_portOvr
    | with_reducible apply Dev_setPort
    | with_reducible apply ite
    | dsimp only

theorem Dev_receiveFrame (d : Dev) (n : Nat) (o : Nat) (limit : Nat) (rx : List Word) (h : Keep R M d0 d) (hS : Nat.land M 0x10020541 = 0x10020541) :
    Keep R M d0 (Sys2Proof.Machine.Dev.receiveFrame d n o limit rx) := by
  unfold Sys2Proof.Machine.Dev.receiveFrame
  repeat' first
    | with_reducible exact h
    | with_reducible assumption
    | exact sub hS rfl
    | with_reducible exact rfl
    | with_reducible apply Dev_takeRx
    | with_reducible refine each (fun _ _ _ => ?_) ?_
    | with_reducible apply ite
    | dsimp only

theorem Dev_record (d : Dev) (n : Nat) (xs : List Word) (h : Keep R M d0 d) (hS : Nat.land M 0x10020545 = 0x10020545) :
    Keep R M d0 (Sys2Proof.Machine.Dev.record d n xs) := by
  unfold Sys2Proof.Machine.Dev.record
  repeat' first
    | with_reducible exact h
    | with_reducible assumption
    | exact sub hS rfl
    | with_reducible exact rfl
    | with_reducible apply Dev_setPort
    | with_reducible apply Dev_fp
    | with_reducible apply Dev_count
    | with_reducible apply Dev_recBytes
    | with_reducible apply ite
    | dsimp only

theorem Dev_sendTx (d : Dev) (n : Nat) (c : Nat) (o : Nat) (h : Keep R M d0 d) (hS : Nat.land M 0x10020541 = 0x10020541) :
    S R M d0 (Sys2Proof.Machine.Dev.sendTx d n c o) := by
  unfold Sys2Proof.Machine.Dev.sendTx
  repeat' first
    | with_reducible exact h
    | with_reducible assumption
    | exact sub hS rfl
    | with_reducible exact rfl
    | with_reducible apply Dev_setPort
    | with_reducible apply Dev_portUnd
    | with_reducible apply S.ite
    | with_reducible apply ite
    | dsimp only
    | split
    | with_reducible apply S.mk

theorem Dev_sendFrame (d : Dev) (n : Nat) (o : Nat) (limit : Nat) (live : Bool) (h : Keep R M d0 d) (hS : Nat.land M 0x10020541 = 0x10020541) :
    F R M d0 (Sys2Proof.Machine.Dev.sendFrame d n o limit live) := by
  unfold Sys2Proof.Machine.Dev.sendFrame
  repeat' first
    | with_reducible exact h
    | with_reducible assumption
    | exact sub hS rfl
    | with_reducible exact rfl
    | with_reducible apply Dev_sendTx
    | with_reducible apply Dev_setPort
    | with_reducible refine S.out (by assumption) ?_
    | with_reducible apply S.snd
    | with_reducible apply S.ite
    | with_reducible refine S.foldl (fun _ _ _ => ?_) ?_
    | with_reducible apply F.ite
    | with_reducible refine F.foldl (fun _ _ _ => ?_) ?_
    | with_reducible refine foldl (fun _ _ _ => ?_) ?_
    | with_reducible exact F.fst (by assumption)
    | with_reducible exact S.snd (by assumption)
    | with_reducible refine F.fst (F.foldl (fun _ _ _ => ?_) ?_)
    | with_reducible exact F.fst (by assumption)
    | with_reducible refine S.snd (S.foldl (fun _ _ _ => ?_) ?_)
    | with_reducible exact S.snd (by assumption)
    | with_reducible apply ite
    | dsimp only
    | split
    | with_reducible apply S.mk
    | with_reducible apply F.mk

theorem Dev_stopPorts (d : Dev) (h : Keep R M d0 d) (hS : Nat.land M 0x20001 = 0x20001) :
    Keep R M d0 (Sys2Proof.Machine.Dev.stopPorts d) := by
  unfold Sys2Proof.Machine.Dev.stopPorts
  repeat' first
    | with_reducible exact h
    | with_reducible assumption
    | exact sub hS rfl
    | with_reducible exact rfl
    | with_reducible apply Dev_stopPort
    | with_reducible refine each (fun _ _ _ => ?_) ?_
    | dsimp only

theorem Dev_takePort (d : Dev) (n : Nat) (ok : Word → Bool) (h : Keep R M d0 d) (hS : Nat.land M 0x20401 = 0x20401) :
    Keep R M d0 (Sys2Proof.Machine.Dev.takePort d n ok) := by
  unfold Sys2Proof.Machine.Dev.takePort
  repeat' first
    | with_reducible exact h
    | with_reducible assumption
    | exact sub hS rfl
    | with_reducible exact rfl
    | with_reducible apply Dev_applyPort
    | fail_if_no_progress with_reducible refine upd (m := 0x20401) ?_ hS rfl (by (repeat' apply And.intro) <;> first | exact .inr rfl | with_reducible exact .inl rfl)
    | dsimp only

theorem fcntRead (n : Nat) (d : Dev) (h : Keep R M d0 d) (hS : Nat.land M 0x1 = 0x1) :
    Keep R M d0 (Sys2Proof.Machine.fcntRead n d) := by
  unfold Sys2Proof.Machine.fcntRead
  repeat' first
    | with_reducible exact h
    | with_reducible assumption
    | exact sub hS rfl
    | with_reducible exact rfl
    | with_reducible apply Dev_setReg
    | with_reducible apply ite
    | dsimp only

theorem frameLost (n : Nat) (d : Dev) (h : Keep R M d0 d) (hS : Nat.land M 0x1 = 0x1) :
    Keep R M d0 (Sys2Proof.Machine.frameLost n d) := by
  unfold Sys2Proof.Machine.frameLost
  repeat' first
    | with_reducible exact h
    | with_reducible assumption
    | exact sub hS rfl
    | with_reducible exact rfl
    | with_reducible apply Dev_fp
    | with_reducible apply ite
    | dsimp only

theorem frameStart (n : Nat) (bclks : Nat) (rx : List Word) (d : Dev) (h : Keep R M d0 d) (hS : Nat.land M 0x10020545 = 0x10020545) :
    Keep R M d0 (Sys2Proof.Machine.frameStart n bclks rx d) := by
  unfold Sys2Proof.Machine.frameStart
  repeat' first
    | with_reducible exact h
    | with_reducible assumption
    | exact sub hS rfl
    | with_reducible exact rfl
    | with_reducible apply Dev_setPort
    | with_reducible apply Dev_takePort
    | with_reducible apply Dev_count
    | with_reducible apply Dev_fp
    | with_reducible apply Dev_setReg
    | with_reducible apply Dev_sendFrame
    | with_reducible apply Dev_receiveFrame
    | with_reducible apply Dev_record
    | with_reducible refine F.out (by assumption) ?_
    | with_reducible apply F.fst
    | with_reducible apply F.ite
    | with_reducible apply ite
    | dsimp only
    | with_reducible apply F.mk

theorem osBoundary (d : Dev) (h : Keep R M d0 d) (hS : Nat.land M 0x10030545 = 0x10030545) :
    Keep R M d0 (Sys2Proof.Machine.osBoundary d) := by
  unfold Sys2Proof.Machine.osBoundary
  repeat' first
    | with_reducible exact h
    | with_reducible assumption
    | exact sub hS rfl
    | with_reducible exact rfl
    | with_reducible apply Dev_setPort
    | with_reducible apply Dev_deliverRx
    | with_reducible apply Dev_deliver
    | with_reducible apply Dev_record
    | with_reducible refine S.out (by assumption) ?_
    | with_reducible apply S.snd
    | with_reducible apply S.ite
    | with_reducible refine S.foldl (fun _ _ _ => ?_) ?_
    | with_reducible refine each (fun _ _ _ => ?_) ?_
    | with_reducible refine foldl (fun _ _ _ => ?_) ?_
    | with_reducible exact S.snd (by assumption)
    | with_reducible refine F.fst (F.foldl (fun _ _ _ => ?_) ?_)
    | with_reducible exact F.fst (by assumption)
    | with_reducible refine S.snd (S.foldl (fun _ _ _ => ?_) ?_)
    | with_reducible exact S.snd (by assumption)
    | with_reducible apply ite
    | dsimp only
    | with_reducible apply S.mk
    | with_reducible apply F.mk

theorem portStart (n : Nat) (d : Dev) (h : Keep R M d0 d) (hS : Nat.land M 0x20001 = 0x20001) :
    Keep R M d0 (Sys2Proof.Machine.portStart n d) := by
  unfold Sys2Proof.Machine.portStart
  repeat' first
    | with_reducible exact h
    | with_reducible assumption
    | exact sub hS rfl
    | with_reducible exact rfl
    | with_reducible apply Dev_fp
    | with_reducible apply Dev_setReg
    | with_reducible apply Dev_setPort
    | with_reducible apply ite
    | dsimp only
    | split

theorem sapStart (v : Word) (d : Dev) (h : Keep R M d0 d) (hS : Nat.land M 0x20001 = 0x20001) :
    Keep R M d0 (Sys2Proof.Machine.sapStart v d) := by
  unfold Sys2Proof.Machine.sapStart
  repeat' first
    | with_reducible exact h
    | with_reducible assumption
    | exact sub hS rfl
    | with_reducible exact rfl
    | with_reducible apply Dev_fp
    | with_reducible apply Dev_triggerPort
    | with_reducible refine each (fun _ _ _ => ?_) ?_
    | with_reducible apply ite
    | dsimp only

/-! ### Machine/Timer.lean -/

theorem Dev_tmrStart (d : Dev) (n : Nat) (h : Keep R M d0 d) (hS : Nat.land M 0x100001 = 0x100001) :
    Keep R M d0 (Sys2Proof.Machine.Dev.tmrStart d n) := by
  unfold Sys2Proof.Machine.Dev.tmrStart
  repeat' first
    | with_reducible exact h
    | with_reducible assumption
    | exact sub hS rfl
    | with_reducible exact rfl
    | with_reducible apply Dev_fp
    | with_reducible apply Dev_setReg
    | with_reducible apply Dev_setTmr
    | dsimp only

theorem Dev_autoTimers (d : Dev) (h : Keep R M d0 d) (hS : Nat.land M 0x100001 = 0x100001) :
    Keep R M d0 (Sys2Proof.Machine.Dev.autoTimers d) := by
  unfold Sys2Proof.Machine.Dev.autoTimers
  repeat' first
    | with_reducible exact h
    | with_reducible assumption
    | exact sub hS rfl
    | with_reducible exact rfl
    | with_reducible apply Dev_tmrStart
    | with_reducible refine each (fun _ _ _ => ?_) ?_
    | dsimp only

theorem Dev_gateNote (d : Dev) (n : Nat) (on_ : Bool) (t : Word) (h : Keep R M d0 d) (hS : Nat.land M 0x201 = 0x201) :
    Keep R M d0 (Sys2Proof.Machine.Dev.gateNote d n on_ t) := by
  unfold Sys2Proof.Machine.Dev.gateNote
  repeat' first
    | with_reducible exact h
    | with_reducible assumption
    | exact sub hS rfl
    | with_reducible exact rfl
    | with_reducible apply Dev_count
    | with_reducible apply Dev_post
    | with_reducible apply ite
    | dsimp only

theorem Dev_tmrPwm (d : Dev) (n : Nat) (h : Keep R M d0 d) (hS : Nat.land M 0x100000 = 0x100000) :
    Keep R M d0 (Sys2Proof.Machine.Dev.tmrPwm d n) := by
  unfold Sys2Proof.Machine.Dev.tmrPwm
  repeat' first
    | with_reducible exact h
    | with_reducible assumption
    | exact sub hS rfl
    | with_reducible exact rfl
    | with_reducible apply Dev_setTmr
    | with_reducible apply ite
    | dsimp only

theorem Dev_setCnt (d : Dev) (n : Nat) (v : Word) (h : Keep R M d0 d) (hS : Nat.land M 0x100001 = 0x100001) :
    Keep R M d0 (Sys2Proof.Machine.Dev.setCnt d n v) := by
  unfold Sys2Proof.Machine.Dev.setCnt
  repeat' first
    | with_reducible exact h
    | with_reducible assumption
    | exact sub hS rfl
    | with_reducible exact rfl
    | with_reducible apply Dev_tmrPwm
    | with_reducible apply Dev_setReg
    | with_reducible apply Dev_setTmr
    | dsimp only

theorem Dev_tmrHalt (d : Dev) (n : Nat) (h : Keep R M d0 d) (hS : Nat.land M 0x100001 = 0x100001) :
    Keep R M d0 (Sys2Proof.Machine.Dev.tmrHalt d n) := by
  unfold Sys2Proof.Machine.Dev.tmrHalt
  repeat' first
    | with_reducible exact h
    | with_reducible assumption
    | exact sub hS rfl
    | with_reducible exact rfl
    | with_reducible apply Dev_fp
    | with_reducible apply Dev_setTmr
    | dsimp only

theorem Dev_stopTimers (d : Dev) (h : Keep R M d0 d) (hS : Nat.land M 0x100001 = 0x100001) :
    Keep R M d0 (Sys2Proof.Machine.Dev.stopTimers d) := by
  unfold Sys2Proof.Machine.Dev.stopTimers
  repeat' first
    | with_reducible exact h
    | with_reducible assumption
    | exact sub hS rfl
    | with_reducible exact rfl
    | with_reducible apply Dev_tmrHalt
    | with_reducible refine each (fun _ _ _ => ?_) ?_
    | dsimp only

theorem Dev_tmrGroups (d : Dev) (h : Keep R M d0 d) (hS : Nat.land M 0x10000541 = 0x10000541) :
    Keep R M d0 (Sys2Proof.Machine.Dev.tmrGroups d) := by
  unfold Sys2Proof.Machine.Dev.tmrGroups
  repeat' first
    | with_reducible exact h
    | with_reducible assumption
    | exact sub hS rfl
    | with_reducible exact rfl
    | with_reducible refine raisePlain ?_ (by with_unfolding_all exact rfl) ?_
    | with_reducible apply Dev_raise
    | with_reducible refine each (fun _ _ _ => ?_) ?_
    | fail_if_no_progress with_reducible refine upd (m := 0x10000541) ?_ hS rfl (by (repeat' apply And.intro) <;> first | exact .inr rfl | with_reducible exact .inl rfl)
    | with_reducible apply ite
    | dsimp only

theorem Dev_tmrCapture (d : Dev) (n : Nat) (rising : Bool) (count : Word) (time : Word) (h : Keep R M d0 d) (hS : Nat.land M 0x10180741 = 0x10180741) :
    Keep R M d0 (Sys2Proof.Machine.Dev.tmrCapture d n rising count time) := by
  unfold Sys2Proof.Machine.Dev.tmrCapture
  repeat' first
    | with_reducible exact h
    | with_reducible assumption
    | exact sub hS rfl
    | with_reducible exact rfl
    | with_reducible apply Dev_fp
    | with_reducible apply Dev_setReg
    | with_reducible apply Dev_setTmr
    | with_reducible apply Dev_tmrGroups
    | with_reducible apply Dev_gateNote
    | fail_if_no_progress with_reducible refine upd (m := 0x10180741) ?_ hS rfl (by (repeat' apply And.intro) <;> first | exact .inr rfl | with_reducible exact .inl rfl)
    | with_reducible apply ite
    | dsimp only

theorem Dev_tmrCmpWrite (d : Dev) (n : Nat) (v : Word) (h : Keep R M d0 d) (hS : Nat.land M 0x100001 = 0x100001) :
    Keep R M d0 (Sys2Proof.Machine.Dev.tmrCmpWrite d n v) := by
  unfold Sys2Proof.Machine.Dev.tmrCmpWrite
  repeat' first
    | with_reducible exact h
    | with_reducible assumption
    | exact sub hS rfl
    | with_reducible exact rfl
    | with_reducible apply Dev_setReg
    | with_reducible apply Dev_setTmr
    | with_reducible apply ite
    | dsimp only

theorem Dev_tmrMatch (d : Dev) (n : Nat) (h : Keep R M d0 d) (hS : Nat.land M 0x10000541 = 0x10000541) :
    Keep R M d0 (Sys2Proof.Machine.Dev.tmrMatch d n) := by
  unfold Sys2Proof.Machine.Dev.tmrMatch
  repeat' first
    | with_reducible exact h
    | with_reducible assumption
    | exact sub hS rfl
    | with_reducible exact rfl
    | with_reducible apply Dev_tmrGroups
    | with_reducible apply Dev_fp
    | dsimp only

theorem Dev_tmrPerWrite (d : Dev) (n : Nat) (v : Word) (h : Keep R M d0 d) (hS : Nat.land M 0x100001 = 0x100001) :
    Keep R M d0 (Sys2Proof.Machine.Dev.tmrPerWrite d n v) := by
  unfold Sys2Proof.Machine.Dev.tmrPerWrite
  repeat' first
    | with_reducible exact h
    | with_reducible assumption
    | exact sub hS rfl
    | with_reducible exact rfl
    | with_reducible apply Dev_setReg
    | with_reducible apply Dev_setTmr
    | with_reducible apply ite
    | dsimp only

theorem Dev_tmrStatWrite (d : Dev) (n : Nat) (v : Word) (h : Keep R M d0 d) (hS : Nat.land M 0x10000541 = 0x10000541) :
    Keep R M d0 (Sys2Proof.Machine.Dev.tmrStatWrite d n v) := by
  unfold Sys2Proof.Machine.Dev.tmrStatWrite
  repeat' first
    | with_reducible exact h
    | with_reducible assumption
    | exact sub hS rfl
    | with_reducible exact rfl
    | with_reducible apply Dev_tmrGroups
    | with_reducible apply Dev_setReg
    | dsimp only

theorem Dev_tmrWrap (d : Dev) (n : Nat) (h : Keep R M d0 d) (hS : Nat.land M 0x10100541 = 0x10100541) :
    Keep R M d0 (Sys2Proof.Machine.Dev.tmrWrap d n) := by
  unfold Sys2Proof.Machine.Dev.tmrWrap
  repeat' first
    | with_reducible exact h
    | with_reducible assumption
    | exact sub hS rfl
    | with_reducible exact rfl
    | with_reducible apply Dev_setCnt
    | with_reducible apply Dev_fp
    | with_reducible apply Dev_setTmr
    | with_reducible apply Dev_tmrHalt
    | with_reducible apply Dev_tmrMatch
    | with_reducible apply Dev_tmrGroups
    | with_reducible apply ite
    | dsimp only

theorem Dev_tmrTick (d : Dev) (n : Nat) (h : Keep R M d0 d) (hS : Nat.land M 0x10100541 = 0x10100541) :
    Keep R M d0 (Sys2Proof.Machine.Dev.tmrTick d n) := by
  unfold Sys2Proof.Machine.Dev.tmrTick
  repeat' first
    | with_reducible exact h
    | with_reducible assumption
    | exact sub hS rfl
    | with_reducible exact rfl
    | with_reducible apply Dev_setTmr
    | with_reducible apply Dev_tmrPwm
    | with_reducible apply Dev_tmrWrap
    | with_reducible apply Dev_setCnt
    | with_reducible apply Dev_tmrMatch
    | with_reducible apply ite
    | dsimp only

theorem Dev_tmrTicks (d : Dev) (c : Nat) (h : Keep R M d0 d) (hS : Nat.land M 0x10100541 = 0x10100541) :
    Keep R M d0 (Sys2Proof.Machine.Dev.tmrTicks d c) := by
  unfold Sys2Proof.Machine.Dev.tmrTicks
  repeat' first
    | with_reducible exact h
    | with_reducible assumption
    | exact sub hS rfl
    | with_reducible exact rfl
    | with_reducible apply Dev_tmrTick
    | with_reducible refine each (fun _ _ _ => ?_) ?_
    | dsimp only

theorem capRead (n : Nat) (sameCycle : Option (Word × Word)) (d : Dev) (h : Keep R M d0 d) (hS : Nat.land M 0x10000541 = 0x10000541) :
    Keep R M d0 (Sys2Proof.Machine.capRead n sameCycle d) := by
  unfold Sys2Proof.Machine.capRead
  repeat' first
    | with_reducible exact h
    | with_reducible assumption
    | exact sub hS rfl
    | with_reducible exact rfl
    | with_reducible apply Dev_fp
    | with_reducible apply Dev_tmrGroups
    | with_reducible apply Dev_setReg
    | with_reducible apply ite
    | dsimp only
    | split

theorem capture (n : Nat) (rising : Bool) (count : Word) (time : Word) (d : Dev) (h : Keep R M d0 d) (hS : Nat.land M 0x10180741 = 0x10180741) :
    Keep R M d0 (Sys2Proof.Machine.capture n rising count time d) := by
  unfold Sys2Proof.Machine.capture
  repeat' first
    | with_reducible exact h
    | with_reducible assumption
    | exact sub hS rfl
    | with_reducible exact rfl
    | with_reducible apply Dev_setTmr
    | with_reducible apply Dev_tmrCapture
    | with_reducible apply ite
    | dsimp only

theorem gateEdge (n : Nat) (d : Dev) (h : Keep R M d0 d) (hS : Nat.land M 0x140000 = 0x140000) :
    Keep R M d0 (Sys2Proof.Machine.gateEdge n d) := by
  unfold Sys2Proof.Machine.gateEdge
  repeat' first
    | with_reducible exact h
    | with_reducible assumption
    | exact sub hS rfl
    | with_reducible exact rfl
    | with_reducible apply Dev_setTmr
    | fail_if_no_progress with_reducible refine upd (m := 0x140000) ?_ hS rfl (by (repeat' apply And.intro) <;> first | exact .inr rfl | with_reducible exact .inl rfl)
    | with_reducible apply ite
    | dsimp only
    | split

theorem matchAt (n : Nat) (d : Dev) (h : Keep R M d0 d) (hS : Nat.land M 0x10100541 = 0x10100541) :
    Keep R M d0 (Sys2Proof.Machine.matchAt n d) := by
  unfold Sys2Proof.Machine.matchAt
  repeat' first
    | with_reducible exact h
    | with_reducible assumption
    | exact sub hS rfl
    | with_reducible exact rfl
    | with_reducible apply Dev_tmrMatch
    | with_reducible apply Dev_setCnt
    | with_reducible apply Dev_setTmr
    | with_reducible apply ite
    | dsimp only

theorem stuck (n : Nat) (d : Dev) (h : Keep R M d0 d) (hS : Nat.land M 0x10180741 = 0x10180741) :
    Keep R M d0 (Sys2Proof.Machine.stuck n d) := by
  unfold Sys2Proof.Machine.stuck
  repeat' first
    | with_reducible exact h
    | with_reducible assumption
    | exact sub hS rfl
    | with_reducible exact rfl
    | with_reducible apply Dev_fp
    | with_reducible apply Dev_gateNote
    | with_reducible apply Dev_setTmr
    | with_reducible apply Dev_tmrGroups
    | fail_if_no_progress with_reducible refine upd (m := 0x10180741) ?_ hS rfl (by (repeat' apply And.intro) <;> first | exact .inr rfl | with_reducible exact .inl rfl)
    | with_reducible apply ite
    | dsimp only

theorem timerStart (v : Word) (d : Dev) (h : Keep R M d0 d) (hS : Nat.land M 0x100001 = 0x100001) :
    Keep R M d0 (Sys2Proof.Machine.timerStart v d) := by
  unfold Sys2Proof.Machine.timerStart
  repeat' first
    | with_reducible exact h
    | with_reducible assumption
    | exact sub hS rfl
    | with_reducible exact rfl
    | with_reducible apply Dev_tmrStart
    | with_reducible refine each (fun _ _ _ => ?_) ?_
    | with_reducible apply ite
    | dsimp only

theorem timerStop (v : Word) (d : Dev) (h : Keep R M d0 d) (hS : Nat.land M 0x100001 = 0x100001) :
    Keep R M d0 (Sys2Proof.Machine.timerStop v d) := by
  unfold Sys2Proof.Machine.timerStop
  repeat' first
    | with_reducible exact h
    | with_reducible assumption
    | exact sub hS rfl
    | with_reducible exact rfl
    | with_reducible apply Dev_tmrHalt
    | with_reducible refine each (fun _ _ _ => ?_) ?_
    | with_reducible apply ite
    | dsimp only

theorem triggerPulseEnd (n : Nat) (d : Dev) (h : Keep R M d0 d) (hS : Nat.land M 0x100000 = 0x100000) :
    Keep R M d0 (Sys2Proof.Machine.triggerPulseEnd n d) := by
  unfold Sys2Proof.Machine.triggerPulseEnd
  repeat' first
    | with_reducible exact h
    | with_reducible assumption
    | exact sub hS rfl
    | with_reducible exact rfl
    | with_reducible apply Dev_setTmr
    | with_reducible apply ite
    | dsimp only

theorem wrap (n : Nat) (d : Dev) (h : Keep R M d0 d) (hS : Nat.land M 0x10100541 = 0x10100541) :
    Keep R M d0 (Sys2Proof.Machine.wrap n d) := by
  unfold Sys2Proof.Machine.wrap
  repeat' first
    | with_reducible exact h
    | with_reducible assumption
    | exact sub hS rfl
    | with_reducible exact rfl
    | with_reducible apply Dev_tmrWrap
    | with_reducible apply Dev_setTmr
    | with_reducible apply ite
    | dsimp only

/-! ### Machine/Cv.lean -/

theorem Dev_atRun (d : Dev) (res : Nat) (h : Keep R M d0 d) (hS : Nat.land M 0x10 = 0x10) :
    S R M d0 (Sys2Proof.Machine.Dev.atRun d res) := by
  unfold Sys2Proof.Machine.Dev.atRun
  repeat' first
    | with_reducible exact h
    | with_reducible assumption
    | exact sub hS rfl
    | with_reducible exact rfl
    | with_reducible apply Dev_fresh
    | with_reducible refine S.out (by assumption) ?_
    | with_reducible apply S.snd
    | with_reducible apply S.ite
    | with_reducible apply ite
    | dsimp only
    | split
    | with_reducible apply S.mk

theorem Dev_tuneEnd (d : Dev) (res : Nat) (h : Keep R M d0 d) (hS : Nat.land M 0x10080541 = 0x10080541) :
    Keep R M d0 (Sys2Proof.Machine.Dev.tuneEnd d res) := by
  unfold Sys2Proof.Machine.Dev.tuneEnd
  repeat' first
    | with_reducible exact h
    | with_reducible assumption
    | exact sub hS rfl
    | with_reducible exact rfl
    | with_reducible apply Dev_fp
    | with_reducible refine raisePlain ?_ (by with_unfolding_all exact rfl) ?_
    | with_reducible apply Dev_raise
    | fail_if_no_progress with_reducible refine upd (m := 0x10080541) ?_ hS rfl (by (repeat' apply And.intro) <;> first | exact .inr rfl | with_reducible exact .inl rfl)
    | with_reducible apply ite
    | dsimp only

theorem Dev_tuneFail (d : Dev) (res : Nat) (h : Keep R M d0 d) (hS : Nat.land M 0x12080551 = 0x12080551) :
    Keep R M d0 (Sys2Proof.Machine.Dev.tuneFail d res) := by
  unfold Sys2Proof.Machine.Dev.tuneFail
  repeat' first
    | with_reducible exact h
    | with_reducible assumption
    | exact sub hS rfl
    | with_reducible exact rfl
    | with_reducible apply Dev_atRun
    | with_reducible apply Dev_tuneEnd
    | with_reducible apply Dev_journal
    | with_reducible refine S.out (by assumption) ?_
    | with_reducible apply S.snd
    | dsimp only
    | split
    | with_reducible apply S.mk

theorem Dev_tuneAbort (d : Dev) (h : Keep R M d0 d) (hS : Nat.land M 0x12080551 = 0x12080551) :
    Keep R M d0 (Sys2Proof.Machine.Dev.tuneAbort d) := by
  unfold Sys2Proof.Machine.Dev.tuneAbort
  repeat' first
    | with_reducible exact h
    | with_reducible assumption
    | exact sub hS rfl
    | with_reducible exact rfl
    | with_reducible apply Dev_tuneFail
    | dsimp only

theorem Dev_cvPut (d : Dev) (n : Nat) (s : Word) (code : Nat) (h : Keep R M d0 d) (hS : Nat.land M 0x40000 = 0x40000) :
    Keep R M d0 (Sys2Proof.Machine.Dev.cvPut d n s code) := by
  unfold Sys2Proof.Machine.Dev.cvPut
  repeat' first
    | with_reducible exact h
    | with_reducible assumption
    | exact sub hS rfl
    | with_reducible exact rfl
    | fail_if_no_progress with_reducible refine upd (m := 0x40000) ?_ hS rfl (by (repeat' apply And.intro) <;> first | exact .inr rfl | with_reducible exact .inl rfl)
    | dsimp only

theorem Dev_commitCv (d : Dev) (s : Word) (h : Keep R M d0 d) (hS : Nat.land M 0x120C0551 = 0x120C0551) :
    Keep R M d0 (Sys2Proof.Machine.Dev.commitCv d s) := by
  unfold Sys2Proof.Machine.Dev.commitCv
  repeat' first
    | with_reducible exact h
    | with_reducible assumption
    | exact sub hS rfl
    | with_reducible exact rfl
    | with_reducible apply Dev_tuneAbort
    | with_reducible apply Dev_cvPut
    | with_reducible refine each (fun _ _ _ => ?_) ?_
    | with_reducible refine foldl (fun _ _ _ => ?_) ?_
    | fail_if_no_progress with_reducible refine upd (m := 0x120C0551) ?_ hS rfl (by (repeat' apply And.intro) <;> first | exact .inr rfl | with_reducible exact .inl rfl)
    | with_reducible apply ite
    | dsimp only
    | split

theorem Dev_cvInit (d : Dev) (n : Nat) (h : Keep R M d0 d) (hS : Nat.land M 0x40001 = 0x40001) :
    Keep R M d0 (Sys2Proof.Machine.Dev.cvInit d n) := by
  unfold Sys2Proof.Machine.Dev.cvInit
  repeat' first
    | with_reducible exact h
    | with_reducible assumption
    | exact sub hS rfl
    | with_reducible exact rfl
    | with_reducible apply Dev_fp
    | fail_if_no_progress with_reducible refine upd (m := 0x40001) ?_ hS rfl (by (repeat' apply And.intro) <;> first | exact .inr rfl | with_reducible exact .inl rfl)
    | dsimp only

theorem Dev_cvLatch (d : Dev) (n : Nat) (lag : Int) (h : Keep R M d0 d) (hS : Nat.land M 0x40001 = 0x40001) :
    Keep R M d0 (Sys2Proof.Machine.Dev.cvLatch d n lag) := by
  unfold Sys2Proof.Machine.Dev.cvLatch
  repeat' first
    | with_reducible exact h
    | with_reducible assumption
    | exact sub hS rfl
    | with_reducible exact rfl
    | with_reducible apply Dev_fp
    | with_reducible refine foldl (fun _ _ _ => ?_) ?_
    | fail_if_no_progress with_reducible refine upd (m := 0x40001) ?_ hS rfl (by (repeat' apply And.intro) <;> first | exact .inr rfl | with_reducible exact .inl rfl)
    | with_reducible apply ite
    | dsimp only
    | split

theorem Dev_cvRun (d : Dev) (h : Keep R M d0 d) (hS : Nat.land M 0x40001 = 0x40001) :
    Keep R M d0 (Sys2Proof.Machine.Dev.cvRun d) := by
  unfold Sys2Proof.Machine.Dev.cvRun
  repeat' first
    | with_reducible exact h
    | with_reducible assumption
    | exact sub hS rfl
    | with_reducible exact rfl
    | with_reducible apply Dev_cvInit
    | with_reducible refine each (fun _ _ _ => ?_) ?_
    | fail_if_no_progress with_reducible refine upd (m := 0x40001) ?_ hS rfl (by (repeat' apply And.intro) <;> first | exact .inr rfl | with_reducible exact .inl rfl)
    | dsimp only

theorem Dev_driftInterval (d : Dev) (ch : Nat) (drift : Nat) (h : Keep R M d0 d) (hS : Nat.land M 0x16000541 = 0x16000541) :
    Keep R M d0 (Sys2Proof.Machine.Dev.driftInterval d ch drift) := by
  unfold Sys2Proof.Machine.Dev.driftInterval
  repeat' first
    | with_reducible exact h
    | with_reducible assumption
    | exact sub hS rfl
    | with_reducible exact rfl
    | with_reducible apply Dev_fp
    | with_reducible apply Dev_journal
    | fail_if_no_progress with_reducible refine upd (m := 0x16000541) ?_ hS rfl (by (repeat' apply And.intro) <;> first | exact .inr rfl | with_reducible exact .inl rfl)
    | with_reducible apply ite
    | dsimp only

theorem Dev_tuneApply (d : Dev) (h : Keep R M d0 d) (hS : Nat.land M 0x16080551 = 0x16080551) :
    Keep R M d0 (Sys2Proof.Machine.Dev.tuneApply d) := by
  unfold Sys2Proof.Machine.Dev.tuneApply
  repeat' first
    | with_reducible exact h
    | with_reducible assumption
    | exact sub hS rfl
    | with_reducible exact rfl
    | with_reducible apply Dev_fp
    | with_reducible apply Dev_atRun
    | with_reducible apply Dev_driftInterval
    | with_reducible apply Dev_journalTx
    | with_reducible refine S.out (by assumption) ?_
    | with_reducible apply S.snd
    | with_reducible refine S.foldl (fun _ _ _ => ?_) ?_
    | with_reducible refine each (fun _ _ _ => ?_) ?_
    | with_reducible refine foldl (fun _ _ _ => ?_) ?_
    | with_reducible exact S.snd (by assumption)
    | fail_if_no_progress with_reducible refine upd (m := 0x16080551) ?_ hS rfl (by (repeat' apply And.intro) <;> first | exact .inr rfl | with_reducible exact .inl rfl)
    | dsimp only
    | split
    | with_reducible apply S.mk

theorem Dev_tuneDrain (d : Dev) (h : Keep R M d0 d) (hS : Nat.land M 0x16080551 = 0x16080551) :
    Keep R M d0 (Sys2Proof.Machine.Dev.tuneDrain d) := by
  unfold Sys2Proof.Machine.Dev.tuneDrain
  repeat' first
    | with_reducible exact h
    | with_reducible assumption
    | exact sub hS rfl
    | with_reducible exact rfl
    | with_reducible apply Dev_tuneApply
    | with_reducible apply Dev_tuneEnd
    | dsimp only
    | split

theorem Dev_tuneFit (d : Dev) (h : Keep R M d0 d) (hS : Nat.land M 0x12080551 = 0x12080551) :
    Keep R M d0 (Sys2Proof.Machine.Dev.tuneFit d) := by
  unfold Sys2Proof.Machine.Dev.tuneFit
  repeat' first
    | with_reducible exact h
    | with_reducible assumption
    | exact sub hS rfl
    | with_reducible exact rfl
    | with_reducible apply Dev_tuneFail
    | fail_if_no_progress with_reducible refine upd (m := 0x12080551) ?_ hS rfl (by (repeat' apply And.intro) <;> first | exact .inr rfl | with_reducible exact .inl rfl)
    | with_reducible apply ite
    | dsimp only

theorem Dev_tunePitch (d : Dev) (h : Keep R M d0 d) (hS : Nat.land M 0x10 = 0x10) :
    S R M d0 (Sys2Proof.Machine.Dev.tunePitch d) := by
  unfold Sys2Proof.Machine.Dev.tunePitch
  repeat' first
    | with_reducible exact h
    | with_reducible assumption
    | exact sub hS rfl
    | with_reducible exact rfl
    | with_reducible apply Dev_fresh
    | with_reducible refine S.out (by assumption) ?_
    | with_reducible apply S.snd
    | with_reducible apply S.ite
    | with_reducible apply ite
    | dsimp only
    | split
    | with_reducible apply S.mk

theorem Dev_tunePoint (d : Dev) (h : Keep R M d0 d) (hS : Nat.land M 0xC0000 = 0xC0000) :
    Keep R M d0 (Sys2Proof.Machine.Dev.tunePoint d) := by
  unfold Sys2Proof.Machine.Dev.tunePoint
  repeat' first
    | with_reducible exact h
    | with_reducible assumption
    | exact sub hS rfl
    | with_reducible exact rfl
    | with_reducible apply Dev_cvPut
    | fail_if_no_progress with_reducible refine upd (m := 0xC0000) ?_ hS rfl (by (repeat' apply And.intro) <;> first | exact .inr rfl | with_reducible exact .inl rfl)
    | dsimp only

theorem autoTuneClaim (d : Dev) (h : Keep R M d0 d) (hS : Nat.land M 0x120C0551 = 0x120C0551) :
    Keep R M d0 (Sys2Proof.Machine.autoTuneClaim d) := by
  unfold Sys2Proof.Machine.autoTuneClaim
  repeat' first
    | with_reducible exact h
    | with_reducible assumption
    | exact sub hS rfl
    | with_reducible exact rfl
    | with_reducible apply Dev_fp
    | with_reducible apply Dev_tuneFail
    | with_reducible apply Dev_tunePoint
    | fail_if_no_progress with_reducible refine upd (m := 0x120C0551) ?_ hS rfl (by (repeat' apply And.intro) <;> first | exact .inr rfl | with_reducible exact .inl rfl)
    | with_reducible apply ite
    | dsimp only
    | split

theorem autoTuneDue (ch : Nat) (d : Dev) (h : Keep R M d0 d) (hS : Nat.land M 0x80000 = 0x80000) :
    Keep R M d0 (Sys2Proof.Machine.autoTuneDue ch d) := by
  unfold Sys2Proof.Machine.autoTuneDue
  repeat' first
    | with_reducible exact h
    | with_reducible assumption
    | exact sub hS rfl
    | with_reducible exact rfl
    | fail_if_no_progress with_reducible refine upd (m := 0x80000) ?_ hS rfl (by (repeat' apply And.intro) <;> first | exact .inr rfl | with_reducible exact .inl rfl)
    | with_reducible apply ite
    | dsimp only

theorem autoTuneGate (d : Dev) (h : Keep R M d0 d) (hS : Nat.land M 0x120C0551 = 0x120C0551) :
    Keep R M d0 (Sys2Proof.Machine.autoTuneGate d) := by
  unfold Sys2Proof.Machine.autoTuneGate
  repeat' first
    | with_reducible exact h
    | with_reducible assumption
    | exact sub hS rfl
    | with_reducible exact rfl
    | with_reducible apply Dev_tuneFail
    | with_reducible apply Dev_tunePitch
    | with_reducible apply Dev_tunePoint
    | with_reducible apply Dev_tuneFit
    | with_reducible refine S.out (by assumption) ?_
    | with_reducible apply S.snd
    | with_reducible apply S.ite
    | fail_if_no_progress with_reducible refine upd (m := 0x120C0551) ?_ hS rfl (by (repeat' apply And.intro) <;> first | exact .inr rfl | with_reducible exact .inl rfl)
    | with_reducible apply ite
    | dsimp only
    | split
    | with_reducible apply S.mk

theorem autoTuneGo (v : Word) (d : Dev) (h : Keep R M d0 d) (hS : Nat.land M 0x80001 = 0x80001) :
    Keep R M d0 (Sys2Proof.Machine.autoTuneGo v d) := by
  unfold Sys2Proof.Machine.autoTuneGo
  repeat' first
    | with_reducible exact h
    | with_reducible assumption
    | exact sub hS rfl
    | with_reducible exact rfl
    | with_reducible apply Dev_fp
    | fail_if_no_progress with_reducible refine upd (m := 0x80001) ?_ hS rfl (by (repeat' apply And.intro) <;> first | exact .inr rfl | with_reducible exact .inl rfl)
    | with_reducible apply ite
    | dsimp only

theorem autoTuneSettle (d : Dev) (h : Keep R M d0 d) (hS : Nat.land M 0x80000 = 0x80000) :
    Keep R M d0 (Sys2Proof.Machine.autoTuneSettle d) := by
  unfold Sys2Proof.Machine.autoTuneSettle
  repeat' first
    | with_reducible exact h
    | with_reducible assumption
    | exact sub hS rfl
    | with_reducible exact rfl
    | fail_if_no_progress with_reducible refine upd (m := 0x80000) ?_ hS rfl (by (repeat' apply And.intro) <;> first | exact .inr rfl | with_reducible exact .inl rfl)
    | with_reducible apply ite
    | dsimp only

theorem cvDrain (d : Dev) (h : Keep R M d0 d) (hS : Nat.land M 0x160C0551 = 0x160C0551) :
    Keep R M d0 (Sys2Proof.Machine.cvDrain d) := by
  unfold Sys2Proof.Machine.cvDrain
  repeat' first
    | with_reducible exact h
    | with_reducible assumption
    | exact sub hS rfl
    | with_reducible exact rfl
    | with_reducible apply Dev_tuneDrain
    | with_reducible apply Dev_cvLatch
    | with_reducible refine each (fun _ _ _ => ?_) ?_
    | fail_if_no_progress with_reducible refine upd (m := 0x160C0551) ?_ hS rfl (by (repeat' apply And.intro) <;> first | exact .inr rfl | with_reducible exact .inl rfl)
    | with_reducible apply ite
    | dsimp only

theorem cvoChnSet (n : Nat) (code : Nat) (d : Dev) (h : Keep R M d0 d) (hS : Nat.land M 0x40000 = 0x40000) :
    Keep R M d0 (Sys2Proof.Machine.cvoChnSet n code d) := by
  unfold Sys2Proof.Machine.cvoChnSet
  repeat' first
    | with_reducible exact h
    | with_reducible assumption
    | exact sub hS rfl
    | with_reducible exact rfl
    | with_reducible apply Dev_cvPut
    | with_reducible apply ite
    | dsimp only

theorem overTemperature (k : Nat) (d : Dev) (h : Keep R M d0 d) (hS : Nat.land M 0x10000541 = 0x10000541) :
    Keep R M d0 (Sys2Proof.Machine.overTemperature k d) := by
  unfold Sys2Proof.Machine.overTemperature
  repeat' first
    | with_reducible exact h
    | with_reducible assumption
    | exact sub hS rfl
    | with_reducible exact rfl
    | with_reducible apply Dev_setBit
    | with_reducible refine raisePlain ?_ (by with_unfolding_all exact rfl) ?_
    | with_reducible apply Dev_raise
    | fail_if_no_progress with_reducible refine upd (m := 0x10000541) ?_ hS rfl (by (repeat' apply And.intro) <;> first | exact .inr rfl | with_reducible exact .inl rfl)
    | with_reducible apply ite
    | dsimp only

theorem overTemperatureRelease (k : Nat) (d : Dev) (h : Keep R M d0 d) (hS : Nat.land M 0x1 = 0x1) :
    Keep R M d0 (Sys2Proof.Machine.overTemperatureRelease k d) := by
  unfold Sys2Proof.Machine.overTemperatureRelease
  repeat' first
    | with_reducible exact h
    | with_reducible assumption
    | exact sub hS rfl
    | with_reducible exact rfl
    | with_reducible apply Dev_clrBit
    | with_reducible apply ite
    | dsimp only

/-! ### Machine/RegFile.lean -/

theorem Dev_uncheck (d : Dev) (h : Keep R M d0 d) (hS : Nat.land M 0x401 = 0x401) :
    Keep R M d0 (Sys2Proof.Machine.Dev.uncheck d) := by
  unfold Sys2Proof.Machine.Dev.uncheck
  repeat' first
    | with_reducible exact h
    | with_reducible assumption
    | exact sub hS rfl
    | with_reducible exact rfl
    | with_reducible apply Dev_fp
    | fail_if_no_progress with_reducible refine upd (m := 0x401) ?_ hS rfl (by (repeat' apply And.intro) <;> first | exact .inr rfl | with_reducible exact .inl rfl)
    | with_reducible apply ite
    | dsimp only

theorem Dev_writeLive (d : Dev) (a1 : Nat) (v : Word) (h : Keep R M d0 d) (hS : Nat.land M 0x1 = 0x1) :
    Keep R M d0 (Sys2Proof.Machine.Dev.writeLive d a1 v) := by
  unfold Sys2Proof.Machine.Dev.writeLive
  repeat' first
    | with_reducible exact h
    | with_reducible assumption
    | exact sub hS rfl
    | with_reducible exact rfl
    | with_reducible apply Dev_setReg
    | with_reducible refine foldl (fun _ _ _ => ?_) ?_
    | dsimp only

theorem Dev_writeStaged (d : Dev) (a1 : Nat) (v : Word) (h : Keep R M d0 d) (hS : Nat.land M 0x403 = 0x403) :
    Keep R M d0 (Sys2Proof.Machine.Dev.writeStaged d a1 v) := by
  unfold Sys2Proof.Machine.Dev.writeStaged
  repeat' first
    | with_reducible exact h
    | with_reducible assumption
    | exact sub hS rfl
    | with_reducible exact rfl
    | with_reducible apply Dev_uncheck
    | with_reducible apply Dev_setReg
    | fail_if_no_progress with_reducible refine upd (m := 0x403) ?_ hS rfl (by (repeat' apply And.intro) <;> first | exact .inr rfl | with_reducible exact .inl rfl)
    | with_reducible apply ite
    | dsimp only

theorem Dev_writeReg (d : Dev) (a1 : Nat) (v : Word) (h : Keep R M d0 d) (hS : Nat.land M 0x403 = 0x403) :
    Keep R M d0 (Sys2Proof.Machine.Dev.writeReg d a1 v) := by
  unfold Sys2Proof.Machine.Dev.writeReg
  repeat' first
    | with_reducible exact h
    | with_reducible assumption
    | exact sub hS rfl
    | with_reducible exact rfl
    | with_reducible apply Dev_writeStaged
    | with_reducible apply Dev_writeLive
    | with_reducible apply ite
    | dsimp only

/-! ### Machine/LinkTx.lean -/

theorem Dev_sendOn (d : Dev) (p : Nat) (ty : Nat) (dst : Nat) (src : Nat) (pay : List Byte) (h : Keep R M d0 d) (hS : Nat.land M 0x200000 = 0x200000) :
    Keep R M d0 (Sys2Proof.Machine.Dev.sendOn d p ty dst src pay) := by
  unfold Sys2Proof.Machine.Dev.sendOn
  repeat' first
    | with_reducible exact h
    | with_reducible assumption
    | exact sub hS rfl
    | with_reducible exact rfl
    | with_reducible apply Dev_setLport
    | with_reducible apply ite
    | dsimp only

theorem Dev_broadcast (d : Dev) (ty : Nat) (pay : List Byte) (h : Keep R M d0 d) (hS : Nat.land M 0x200000 = 0x200000) :
    Keep R M d0 (Sys2Proof.Machine.Dev.broadcast d ty pay) := by
  unfold Sys2Proof.Machine.Dev.broadcast
  repeat' first
    | with_reducible exact h
    | with_reducible assumption
    | exact sub hS rfl
    | with_reducible exact rfl
    | with_reducible apply Dev_sendOn
    | with_reducible refine each (fun _ _ _ => ?_) ?_
    | dsimp only

theorem Dev_headNotes (d : Dev) (r : EvRec) (h : Keep R M d0 d) (hS : Nat.land M 0x8000 = 0x8000) :
    Keep R M d0 (Sys2Proof.Machine.Dev.headNotes d r) := by
  unfold Sys2Proof.Machine.Dev.headNotes
  repeat' first
    | with_reducible exact h
    | with_reducible assumption
    | exact sub hS rfl
    | with_reducible exact rfl
    | fail_if_no_progress with_reducible refine upd (m := 0x8000) ?_ hS rfl (by (repeat' apply And.intro) <;> first | exact .inr rfl | with_reducible exact .inl rfl)
    | with_reducible apply ite
    | dsimp only

theorem Dev_noteOffTag (d : Dev) (s : Word) (r : EvRec) (h : Keep R M d0 d) (hS : Nat.land M 0x8000 = 0x8000) :
    S R M d0 (Sys2Proof.Machine.Dev.noteOffTag d s r) := by
  unfold Sys2Proof.Machine.Dev.noteOffTag
  repeat' first
    | with_reducible exact h
    | with_reducible assumption
    | exact sub hS rfl
    | with_reducible exact rfl
    | with_reducible apply S.ite
    | with_reducible refine S.foldl (fun _ _ _ => ?_) ?_
    | with_reducible refine foldl (fun _ _ _ => ?_) ?_
    | with_reducible exact S.snd (by assumption)
    | fail_if_no_progress with_reducible refine upd (m := 0x8000) ?_ hS rfl (by (repeat' apply And.intro) <;> first | exact .inr rfl | with_reducible exact .inl rfl)
    | with_reducible apply ite
    | dsimp only
    | split
    | with_reducible apply S.mk

theorem Dev_sendDn (d : Dev) (x : DnEntry) (h : Keep R M d0 d) (hS : Nat.land M 0x200000 = 0x200000) :
    Keep R M d0 (Sys2Proof.Machine.Dev.sendDn d x) := by
  unfold Sys2Proof.Machine.Dev.sendDn
  repeat' first
    | with_reducible exact h
    | with_reducible assumption
    | exact sub hS rfl
    | with_reducible exact rfl
    | with_reducible apply Dev_broadcast
    | with_reducible apply ite
    | dsimp only

theorem Dev_sendPath (d : Dev) (path : List Bool) (ty : Nat) (src : Nat) (pay : List Byte) (h : Keep R M d0 d) (hS : Nat.land M 0x200000 = 0x200000) :
    Keep R M d0 (Sys2Proof.Machine.Dev.sendPath d path ty src pay) := by
  unfold Sys2Proof.Machine.Dev.sendPath
  repeat' first
    | with_reducible exact h
    | with_reducible assumption
    | exact sub hS rfl
    | with_reducible exact rfl
    | with_reducible apply Dev_sendOn
    | with_reducible apply ite
    | dsimp only

theorem Dev_sendTo (d : Dev) (dev : Nat) (ty : Nat) (pay : List Byte) (h : Keep R M d0 d) (hS : Nat.land M 0x200000 = 0x200000) :
    Keep R M d0 (Sys2Proof.Machine.Dev.sendTo d dev ty pay) := by
  unfold Sys2Proof.Machine.Dev.sendTo
  repeat' first
    | with_reducible exact h
    | with_reducible assumption
    | exact sub hS rfl
    | with_reducible exact rfl
    | with_reducible apply Dev_sendOn
    | dsimp only
    | split

theorem Dev_sendUp (d : Dev) (ty : Nat) (pay : List Byte) (h : Keep R M d0 d) (hS : Nat.land M 0x200000 = 0x200000) :
    Keep R M d0 (Sys2Proof.Machine.Dev.sendUp d ty pay) := by
  unfold Sys2Proof.Machine.Dev.sendUp
  repeat' first
    | with_reducible exact h
    | with_reducible assumption
    | exact sub hS rfl
    | with_reducible exact rfl
    | with_reducible apply Dev_sendOn
    | dsimp only

/-! ### Machine/Alloc.lean -/

theorem Dev_setLast (d : Dev) (p : Nat) (tag : Nat) (u : Nat) (vs : List Nat) (reuse : Bool) (h : Keep R M d0 d) (hS : Nat.land M 0x1 = 0x1) :
    Keep R M d0 (Sys2Proof.Machine.Dev.setLast d p tag u vs reuse) := by
  unfold Sys2Proof.Machine.Dev.setLast
  repeat' first
    | with_reducible exact h
    | with_reducible assumption
    | exact sub hS rfl
    | with_reducible exact rfl
    | with_reducible apply Dev_fp
    | with_reducible apply Dev_setReg
    | with_reducible apply ite
    | dsimp only
    | split

theorem Dev_refuseNote (d : Dev) (e : PipeEnt) (u : Nat) (h : Keep R M d0 d) (hS : Nat.land M 0x10000741 = 0x10000741) :
    Keep R M d0 (Sys2Proof.Machine.Dev.refuseNote d e u) := by
  unfold Sys2Proof.Machine.Dev.refuseNote
  repeat' first
    | with_reducible exact h
    | with_reducible assumption
    | exact sub hS rfl
    | with_reducible exact rfl
    | with_reducible refine raisePlain ?_ (by with_unfolding_all exact rfl) ?_
    | with_reducible apply Dev_raise
    | with_reducible apply Dev_setLast
    | with_reducible apply Dev_count
    | with_reducible apply Dev_setEntry
    | dsimp only

theorem Dev_takeTag (d : Dev) (h : Keep R M d0 d) (hS : Nat.land M 0x8000 = 0x8000) :
    S R M d0 (Sys2Proof.Machine.Dev.takeTag d) := by
  unfold Sys2Proof.Machine.Dev.takeTag
  repeat' first
    | with_reducible exact h
    | with_reducible assumption
    | exact sub hS rfl
    | with_reducible exact rfl
    | fail_if_no_progress with_reducible refine upd (m := 0x8000) ?_ hS rfl (by (repeat' apply And.intro) <;> first | exact .inr rfl | with_reducible exact .inl rfl)
    | dsimp only
    | with_reducible apply S.mk

theorem Dev_commitNote (d : Dev) (e : PipeEnt) (tag : Nat) (u : Nat) (vs : List Nat) (starts : Bool) (reuse : Bool) (h : Keep R M d0 d) (hS : Nat.land M 0x8201 = 0x8201) :
    Keep R M d0 (Sys2Proof.Machine.Dev.commitNote d e tag u vs starts reuse) := by
  unfold Sys2Proof.Machine.Dev.commitNote
  repeat' first
    | with_reducible exact h
    | with_reducible assumption
    | exact sub hS rfl
    | with_reducible exact rfl
    | with_reducible apply Dev_setLast
    | with_reducible apply Dev_setEntry
    | with_reducible apply Dev_setPend
    | with_reducible refine each (fun _ _ _ => ?_) ?_
    | with_reducible apply ite
    | dsimp only

theorem Dev_releaseKey (d : Dev) (e : PipeEnt) (vs : List Nat) (h : Keep R M d0 d) (hS : Nat.land M 0x10002F41 = 0x10002F41) :
    Keep R M d0 (Sys2Proof.Machine.Dev.releaseKey d e vs) := by
  unfold Sys2Proof.Machine.Dev.releaseKey
  repeat' first
    | with_reducible exact h
    | with_reducible assumption
    | exact sub hS rfl
    | with_reducible exact rfl
    | with_reducible apply Dev_addLog
    | with_reducible refine each (fun _ _ _ => ?_) ?_
    | dsimp only

theorem Dev_allocLocal (d : Dev) (e : PipeEnt) (tag : Option Nat) (u : Nat) (forced : Bool) (h : Keep R M d0 d) (hS : Nat.land M 0x1000AF41 = 0x1000AF41) :
    Keep R M d0 (Sys2Proof.Machine.Dev.allocLocal d e tag u forced) := by
  unfold Sys2Proof.Machine.Dev.allocLocal
  repeat' first
    | with_reducible exact h
    | with_reducible assumption
    | exact sub hS rfl
    | with_reducible exact rfl
    | with_reducible apply Dev_takeTag
    | with_reducible apply Dev_commitNote
    | with_reducible apply Dev_refuseNote
    | with_reducible apply Dev_count
    | with_reducible apply Dev_releaseKey
    | with_reducible refine S.out (by assumption) ?_
    | with_reducible apply S.snd
    | with_reducible apply S.ite
    | with_reducible apply ite
    | dsimp only
    | split
    | with_reducible apply S.mk

theorem Dev_deduct (d : Dev) (dev : Nat) (u : Nat) (h : Keep R M d0 d) (hS : Nat.land M 0x8000 = 0x8000) :
    Keep R M d0 (Sys2Proof.Machine.Dev.deduct d dev u) := by
  unfold Sys2Proof.Machine.Dev.deduct
  repeat' first
    | with_reducible exact h
    | with_reducible assumption
    | exact sub hS rfl
    | with_reducible exact rfl
    | with_reducible refine foldl (fun _ _ _ => ?_) ?_
    | with_reducible refine F.fst (F.foldl (fun _ _ _ => ?_) ?_)
    | with_reducible exact F.fst (by assumption)
    | with_reducible refine S.snd (S.foldl (fun _ _ _ => ?_) ?_)
    | with_reducible exact S.snd (by assumption)
    | fail_if_no_progress with_reducible refine upd (m := 0x8000) ?_ hS rfl (by (repeat' apply And.intro) <;> first | exact .inr rfl | with_reducible exact .inl rfl)
    | with_reducible apply ite
    | dsimp only
    | with_reducible apply S.mk
    | with_reducible apply F.mk

theorem Dev_allocChain (d : Dev) (e : PipeEnt) (h : Keep R M d0 d) (hS : Nat.land M 0x1020AF41 = 0x1020AF41) :
    Keep R M d0 (Sys2Proof.Machine.Dev.allocChain d e) := by
  unfold Sys2Proof.Machine.Dev.allocChain
  repeat' first
    | with_reducible exact h
    | with_reducible assumption
    | exact sub hS rfl
    | with_reducible exact rfl
    | with_reducible apply Dev_refuseNote
    | with_reducible apply Dev_takeTag
    | with_reducible apply Dev_sendDn
    | with_reducible apply Dev_allocLocal
    | with_reducible apply Dev_setEntry
    | with_reducible apply Dev_deduct
    | with_reducible apply Dev_fp
    | with_reducible apply Dev_setLast
    | with_reducible refine S.out (by assumption) ?_
    | with_reducible apply S.snd
    | with_reducible apply S.ite
    | fail_if_no_progress with_reducible refine upd (m := 0x1020AF41) ?_ hS rfl (by (repeat' apply And.intro) <;> first | exact .inr rfl | with_reducible exact .inl rfl)
    | with_reducible apply ite
    | dsimp only
    | split
    | with_reducible apply S.mk

theorem Dev_showQueue (d : Dev) (h : Keep R M d0 d) (hS : Nat.land M 0x1 = 0x1) :
    Keep R M d0 (Sys2Proof.Machine.Dev.showQueue d) := by
  unfold Sys2Proof.Machine.Dev.showQueue
  repeat' first
    | with_reducible exact h
    | with_reducible assumption
    | exact sub hS rfl
    | with_reducible exact rfl
    | with_reducible apply Dev_fp
    | dsimp only

theorem Dev_enqueue (d : Dev) (seq : Nat) (h : Keep R M d0 d) (hS : Nat.land M 0x8001 = 0x8001) :
    Keep R M d0 (Sys2Proof.Machine.Dev.enqueue d seq) := by
  unfold Sys2Proof.Machine.Dev.enqueue
  repeat' first
    | with_reducible exact h
    | with_reducible assumption
    | exact sub hS rfl
    | with_reducible exact rfl
    | with_reducible apply Dev_showQueue
    | fail_if_no_progress with_reducible refine upd (m := 0x8001) ?_ hS rfl (by (repeat' apply And.intro) <;> first | exact .inr rfl | with_reducible exact .inl rfl)
    | dsimp only

theorem Dev_serve (d : Dev) (h : Keep R M d0 d) (hS : Nat.land M 0x1020AF41 = 0x1020AF41) :
    Keep R M d0 (Sys2Proof.Machine.Dev.serve d) := by
  unfold Sys2Proof.Machine.Dev.serve
  repeat' first
    | with_reducible exact h
    | with_reducible assumption
    | exact sub hS rfl
    | with_reducible exact rfl
    | with_reducible apply Dev_showQueue
    | with_reducible apply Dev_allocChain
    | with_reducible apply Dev_allocLocal
    | fail_if_no_progress with_reducible refine upd (m := 0x1020AF41) ?_ hS rfl (by (repeat' apply And.intro) <;> first | exact .inr rfl | with_reducible exact .inl rfl)
    | with_reducible apply ite
    | dsimp only
    | split

theorem allocationRequest (d : Dev) (h : Keep R M d0 d) (hS : Nat.land M 0x1020AF41 = 0x1020AF41) :
    Keep R M d0 (Sys2Proof.Machine.allocationRequest d) := by
  unfold Sys2Proof.Machine.allocationRequest
  repeat' first
    | with_reducible exact h
    | with_reducible assumption
    | exact sub hS rfl
    | with_reducible exact rfl
    | with_reducible apply Dev_serve
    | with_reducible apply ite
    | dsimp only

theorem qhwmClear (_v : Word) (d : Dev) (h : Keep R M d0 d) (hS : Nat.land M 0x1 = 0x1) :
    Keep R M d0 (Sys2Proof.Machine.qhwmClear _v d) := by
  unfold Sys2Proof.Machine.qhwmClear
  repeat' first
    | with_reducible exact h
    | with_reducible assumption
    | exact sub hS rfl
    | with_reducible exact rfl
    | with_reducible apply Dev_fp
    | dsimp only

/-! ### Machine/Intake.lean -/

theorem Dev_take (d : Dev) (src : Nat) (m : Msg) (h : Keep R M d0 d) (hS : Nat.land M 0x200 = 0x200) :
    Keep R M d0 (Sys2Proof.Machine.Dev.take d src m) := by
  unfold Sys2Proof.Machine.Dev.take
  repeat' first
    | with_reducible exact h
    | with_reducible assumption
    | exact sub hS rfl
    | with_reducible exact rfl
    | with_reducible apply Dev_post
    | with_reducible apply ite
    | dsimp only

theorem Dev_takeAll (d : Dev) (src : Nat) (l : List Msg) (h : Keep R M d0 d) (hS : Nat.land M 0x200 = 0x200) :
    Keep R M d0 (Sys2Proof.Machine.Dev.takeAll d src l) := by
  unfold Sys2Proof.Machine.Dev.takeAll
  repeat' first
    | with_reducible exact h
    | with_reducible assumption
    | exact sub hS rfl
    | with_reducible exact rfl
    | with_reducible apply Dev_take
    | with_reducible refine each (fun _ _ _ => ?_) ?_
    | dsimp only

theorem Dev_setParser (d : Dev) (n : Nat) (p : Parser) (h : Keep R M d0 d) (hS : Nat.land M 0x200 = 0x200) :
    Keep R M d0 (Sys2Proof.Machine.Dev.setParser d n p) := by
  unfold Sys2Proof.Machine.Dev.setParser
  repeat' first
    | with_reducible exact h
    | with_reducible assumption
    | exact sub hS rfl
    | with_reducible exact rfl
    | fail_if_no_progress with_reducible refine upd (m := 0x200) ?_ hS rfl (by (repeat' apply And.intro) <;> first | exact .inr rfl | with_reducible exact .inl rfl)
    | dsimp only

theorem Dev_setChanSt (d : Dev) (k : Nat) (x : ChanSt) (h : Keep R M d0 d) (hS : Nat.land M 0x200 = 0x200) :
    Keep R M d0 (Sys2Proof.Machine.Dev.setChanSt d k x) := by
  unfold Sys2Proof.Machine.Dev.setChanSt
  repeat' first
    | with_reducible exact h
    | with_reducible assumption
    | exact sub hS rfl
    | with_reducible exact rfl
    | fail_if_no_progress with_reducible refine upd (m := 0x200) ?_ hS rfl (by (repeat' apply And.intro) <;> first | exact .inr rfl | with_reducible exact .inl rfl)
    | dsimp only

theorem Dev_ccIn (d : Dev) (src : Nat) (g : Nat) (c : Nat) (idx : Nat) (v : Word) (v7 : Option Nat) (start : Word) (fin : Word) (ts : Option Word) (h : Keep R M d0 d) (hS : Nat.land M 0x200 = 0x200) :
    Keep R M d0 (Sys2Proof.Machine.Dev.ccIn d src g c idx v v7 start fin ts) := by
  unfold Sys2Proof.Machine.Dev.ccIn
  repeat' first
    | with_reducible exact h
    | with_reducible assumption
    | exact sub hS rfl
    | with_reducible exact rfl
    | with_reducible apply Dev_setChanSt
    | with_reducible apply Dev_take
    | with_reducible apply ite
    | dsimp only
    | split

theorem Dev_midi1 (d : Dev) (src : Nat) (g : Nat) (st : Nat) (c : Nat) (a1 : Nat) (b : Nat) (start : Word) (fin : Word) (ts : Option Word) (h : Keep R M d0 d) (hS : Nat.land M 0x200 = 0x200) :
    Keep R M d0 (Sys2Proof.Machine.Dev.midi1 d src g st c a1 b start fin ts) := by
  unfold Sys2Proof.Machine.Dev.midi1
  repeat' first
    | with_reducible exact h
    | with_reducible assumption
    | exact sub hS rfl
    | with_reducible exact rfl
    | with_reducible apply Dev_take
    | with_reducible apply Dev_ccIn
    | with_reducible apply ite
    | dsimp only
    | split

theorem Dev_actMidi (d : Dev) (n : Nat) (m : RawMsg) (h : Keep R M d0 d) (hS : Nat.land M 0x200 = 0x200) :
    Keep R M d0 (Sys2Proof.Machine.Dev.actMidi d n m) := by
  unfold Sys2Proof.Machine.Dev.actMidi
  repeat' first
    | with_reducible exact h
    | with_reducible assumption
    | exact sub hS rfl
    | with_reducible exact rfl
    | with_reducible apply Dev_takeAll
    | with_reducible apply Dev_take
    | with_reducible apply Dev_setParser
    | with_reducible apply Dev_midi1
    | with_reducible apply ite
    | dsimp only

theorem Dev_addHist (d : Dev) (what : Nat) (part : Nat) (chan : Nat) (t : Word) (v : Nat) (h : Keep R M d0 d) (hS : Nat.land M 0x200 = 0x200) :
    Keep R M d0 (Sys2Proof.Machine.Dev.addHist d what part chan t v) := by
  unfold Sys2Proof.Machine.Dev.addHist
  repeat' first
    | with_reducible exact h
    | with_reducible assumption
    | exact sub hS rfl
    | with_reducible exact rfl
    | fail_if_no_progress with_reducible refine upd (m := 0x200) ?_ hS rfl (by (repeat' apply And.intro) <;> first | exact .inr rfl | with_reducible exact .inl rfl)
    | dsimp only

theorem Dev_showPipe (d : Dev) (h : Keep R M d0 d) (hS : Nat.land M 0x1 = 0x1) :
    Keep R M d0 (Sys2Proof.Machine.Dev.showPipe d) := by
  unfold Sys2Proof.Machine.Dev.showPipe
  repeat' first
    | with_reducible exact h
    | with_reducible assumption
    | exact sub hS rfl
    | with_reducible exact rfl
    | with_reducible apply Dev_fp
    | dsimp only

theorem Dev_remember (d : Dev) (r : EvRec) (h : Keep R M d0 d) (hS : Nat.land M 0x200 = 0x200) :
    Keep R M d0 (Sys2Proof.Machine.Dev.remember d r) := by
  unfold Sys2Proof.Machine.Dev.remember
  repeat' first
    | with_reducible exact h
    | with_reducible assumption
    | exact sub hS rfl
    | with_reducible exact rfl
    | fail_if_no_progress with_reducible refine upd (m := 0x200) ?_ hS rfl (by (repeat' apply And.intro) <;> first | exact .inr rfl | with_reducible exact .inl rfl)
    | dsimp only

theorem Dev_putEntry (d : Dev) (r : EvRec) (e : PipeEnt) (h : Keep R M d0 d) (hS : Nat.land M 0x10000741 = 0x10000741) :
    Keep R M d0 (Sys2Proof.Machine.Dev.putEntry d r e) := by
  unfold Sys2Proof.Machine.Dev.putEntry
  repeat' first
    | with_reducible exact h
    | with_reducible assumption
    | exact sub hS rfl
    | with_reducible exact rfl
    | with_reducible apply Dev_showPipe
    | with_reducible apply Dev_remember
    | with_reducible refine raisePlain ?_ (by with_unfolding_all exact rfl) ?_
    | with_reducible apply Dev_raise
    | with_reducible apply Dev_count
    | fail_if_no_progress with_reducible refine upd (m := 0x10000741) ?_ hS rfl (by (repeat' apply And.intro) <;> first | exact .inr rfl | with_reducible exact .inl rfl)
    | with_reducible apply ite
    | dsimp only

theorem Dev_enterDn (d : Dev) (x : DnEntry) (h : Keep R M d0 d) (hS : Nat.land M 0x1000AF41 = 0x1000AF41) :
    Keep R M d0 (Sys2Proof.Machine.Dev.enterDn d x) := by
  unfold Sys2Proof.Machine.Dev.enterDn
  repeat' first
    | with_reducible exact h
    | with_reducible assumption
    | exact sub hS rfl
    | with_reducible exact rfl
    | with_reducible apply Dev_addHist
    | with_reducible apply Dev_putEntry
    | with_reducible apply Dev_allocLocal
    | fail_if_no_progress with_reducible refine upd (m := 0x1000AF41) ?_ hS rfl (by (repeat' apply And.intro) <;> first | exact .inr rfl | with_reducible exact .inl rfl)
    | with_reducible apply ite
    | dsimp only
    | split

theorem Dev_takeSeq (d : Dev) (h : Keep R M d0 d) (hS : Nat.land M 0x200 = 0x200) :
    S R M d0 (Sys2Proof.Machine.Dev.takeSeq d) := by
  unfold Sys2Proof.Machine.Dev.takeSeq
  repeat' first
    | with_reducible exact h
    | with_reducible assumption
    | exact sub hS rfl
    | with_reducible exact rfl
    | fail_if_no_progress with_reducible refine upd (m := 0x200) ?_ hS rfl (by (repeat' apply And.intro) <;> first | exact .inr rfl | with_reducible exact .inl rfl)
    | dsimp only
    | with_reducible apply S.mk

theorem Dev_enterTuning (d : Dev) (src : Nat) (m : Msg) (t : Word) (k : Nat) (v : Word) (h : Keep R M d0 d) (hS : Nat.land M 0x10200741 = 0x10200741) :
    Keep R M d0 (Sys2Proof.Machine.Dev.enterTuning d src m t k v) := by
  unfold Sys2Proof.Machine.Dev.enterTuning
  repeat' first
    | with_reducible exact h
    | with_reducible assumption
    | exact sub hS rfl
    | with_reducible exact rfl
    | with_reducible apply Dev_addHist
    | with_reducible apply Dev_sendDn
    | with_reducible apply Dev_takeSeq
    | with_reducible apply Dev_putEntry
    | with_reducible refine S.out (by assumption) ?_
    | with_reducible apply S.snd
    | with_reducible apply S.ite
    | with_reducible apply ite
    | dsimp only
    | split
    | with_reducible apply S.mk

theorem Dev_lateCommit (d : Dev) (t : Word) (h : Keep R M d0 d) (hS : Nat.land M 0x401 = 0x401) :
    Keep R M d0 (Sys2Proof.Machine.Dev.lateCommit d t) := by
  unfold Sys2Proof.Machine.Dev.lateCommit
  repeat' first
    | with_reducible exact h
    | with_reducible assumption
    | exact sub hS rfl
    | with_reducible exact rfl
    | with_reducible apply Dev_fp
    | fail_if_no_progress with_reducible refine upd (m := 0x401) ?_ hS rfl (by (repeat' apply And.intro) <;> first | exact .inr rfl | with_reducible exact .inl rfl)
    | with_reducible apply ite
    | dsimp only

theorem Dev_nextTaker (d : Dev) (src : Nat) (m : Msg) (t : Word) (a1 : List Nat) (h : Keep R M d0 d) (hS : Nat.land M 0x1 = 0x1) :
    F R M d0 (Sys2Proof.Machine.Dev.nextTaker d src m t a1) := by
  induction a1 generalizing d with
  | nil => exact F.mk h
  | cons b bs ih =>
    unfold Sys2Proof.Machine.Dev.nextTaker
    repeat' first
      | with_reducible apply ih
      | with_reducible apply F.fst
      | with_reducible exact h
      | with_reducible assumption
      | exact sub hS rfl
      | with_reducible exact rfl
      | with_reducible apply Dev_count
      | with_reducible apply F.ite
      | with_reducible apply ite
      | dsimp only
      | split
      | with_reducible apply F.mk

theorem Dev_enterPart (d : Dev) (src : Nat) (p : Nat) (m : Msg) (t : Word) (pitch : Int) (h : Keep R M d0 d) (hS : Nat.land M 0x10208741 = 0x10208741) :
    Keep R M d0 (Sys2Proof.Machine.Dev.enterPart d src p m t pitch) := by
  unfold Sys2Proof.Machine.Dev.enterPart
  repeat' first
    | with_reducible exact h
    | with_reducible assumption
    | exact sub hS rfl
    | with_reducible exact rfl
    | with_reducible apply Dev_addHist
    | with_reducible apply Dev_count
    | with_reducible apply Dev_takeSeq
    | with_reducible apply Dev_putEntry
    | with_reducible apply Dev_enqueue
    | with_reducible apply Dev_noteOffTag
    | with_reducible apply Dev_headNotes
    | with_reducible apply Dev_setEntry
    | with_reducible apply Dev_sendDn
    | with_reducible refine S.out (by assumption) ?_
    | with_reducible apply S.snd
    | with_reducible apply S.ite
    | with_reducible apply ite
    | dsimp only
    | split
    | with_reducible apply S.mk

theorem Dev_enterFront (d : Dev) (src : Nat) (m : Msg) (rest : List Msg) (h : Keep R M d0 d) (hS : Nat.land M 0x10208741 = 0x10208741) :
    Keep R M d0 (Sys2Proof.Machine.Dev.enterFront d src m rest) := by
  unfold Sys2Proof.Machine.Dev.enterFront
  repeat' first
    | with_reducible exact h
    | with_reducible assumption
    | exact sub hS rfl
    | with_reducible exact rfl
    | with_reducible apply Dev_setWaiting
    | with_reducible apply Dev_enterTuning
    | with_reducible apply Dev_takeSeq
    | with_reducible apply Dev_putEntry
    | with_reducible apply Dev_lateCommit
    | with_reducible apply Dev_nextTaker
    | with_reducible apply Dev_enterPart
    | with_reducible refine S.out (by assumption) ?_
    | with_reducible apply S.snd
    | with_reducible refine F.out (by assumption) ?_
    | with_reducible apply F.fst
    | with_reducible apply S.ite
    | with_reducible apply F.ite
    | with_reducible apply ite
    | dsimp only
    | split
    | with_reducible apply S.mk
    | with_reducible apply F.mk

theorem Dev_forward (d : Dev) (src : Nat) (m : Msg) (h : Keep R M d0 d) (hS : Nat.land M 0x200000 = 0x200000) :
    Keep R M d0 (Sys2Proof.Machine.Dev.forward d src m) := by
  unfold Sys2Proof.Machine.Dev.forward
  repeat' first
    | with_reducible exact h
    | with_reducible assumption
    | exact sub hS rfl
    | with_reducible exact rfl
    | with_reducible apply Dev_sendUp
    | with_reducible refine each (fun _ _ _ => ?_) ?_
    | with_reducible apply ite
    | dsimp only

theorem Dev_jrStamp (d : Dev) (start : Word) (fin : Word) (h : Keep R M d0 d) (hS : Nat.land M 0x201 = 0x201) :
    S R M d0 (Sys2Proof.Machine.Dev.jrStamp d start fin) := by
  unfold Sys2Proof.Machine.Dev.jrStamp
  repeat' first
    | with_reducible exact h
    | with_reducible assumption
    | exact sub hS rfl
    | with_reducible exact rfl
    | with_reducible apply Dev_count
    | with_reducible apply S.ite
    | fail_if_no_progress with_reducible refine upd (m := 0x201) ?_ hS rfl (by (repeat' apply And.intro) <;> first | exact .inr rfl | with_reducible exact .inl rfl)
    | with_reducible apply ite
    | dsimp only
    | split
    | with_reducible apply S.mk

theorem Dev_midi2 (d : Dev) (w0 : Word) (w1 : Word) (start : Word) (fin : Word) (ts : Option Word) (h : Keep R M d0 d) (hS : Nat.land M 0x201 = 0x201) :
    Keep R M d0 (Sys2Proof.Machine.Dev.midi2 d w0 w1 start fin ts) := by
  unfold Sys2Proof.Machine.Dev.midi2
  repeat' first
    | with_reducible exact h
    | with_reducible assumption
    | exact sub hS rfl
    | with_reducible exact rfl
    | with_reducible apply Dev_take
    | with_reducible apply Dev_ccIn
    | with_reducible apply Dev_setChanSt
    | with_reducible apply Dev_count
    | with_reducible apply ite
    | dsimp only
    | split

theorem Dev_sysexDone (d : Dev) (l : List Byte) (start : Word) (fin : Word) (ts : Option Word) (h : Keep R M d0 d) (hS : Nat.land M 0x200 = 0x200) :
    F R M d0 (Sys2Proof.Machine.Dev.sysexDone d l start fin ts) := by
  unfold Sys2Proof.Machine.Dev.sysexDone
  repeat' first
    | with_reducible exact h
    | with_reducible assumption
    | exact sub hS rfl
    | with_reducible exact rfl
    | with_reducible apply Dev_takeAll
    | with_reducible apply F.ite
    | with_reducible refine F.foldl (fun _ _ _ => ?_) ?_
    | with_reducible refine foldl (fun _ _ _ => ?_) ?_
    | with_reducible exact F.fst (by assumption)
    | with_reducible apply ite
    | dsimp only
    | with_reducible apply F.mk

theorem Dev_sysexPacket (d : Dev) (k : Nat) (st : Nat) (bs : List Byte) (start : Word) (fin : Word) (ts : Option Word) (h : Keep R M d0 d) (hS : Nat.land M 0x201 = 0x201) :
    F R M d0 (Sys2Proof.Machine.Dev.sysexPacket d k st bs start fin ts) := by
  unfold Sys2Proof.Machine.Dev.sysexPacket
  repeat' first
    | with_reducible exact h
    | with_reducible assumption
    | exact sub hS rfl
    | with_reducible exact rfl
    | with_reducible apply Dev_sysexDone
    | with_reducible apply Dev_count
    | with_reducible refine F.out (by assumption) ?_
    | with_reducible apply F.fst
    | with_reducible apply F.ite
    | fail_if_no_progress with_reducible refine upd (m := 0x201) ?_ hS rfl (by (repeat' apply And.intro) <;> first | exact .inr rfl | with_reducible exact .inl rfl)
    | with_reducible apply ite
    | dsimp only
    | split
    | with_reducible apply F.mk

theorem Dev_packet (d : Dev) (ws : List UmpWord) (ts : Option Word) (h : Keep R M d0 d) (hS : Nat.land M 0x201 = 0x201) :
    F R M d0 (Sys2Proof.Machine.Dev.packet d ws ts) := by
  unfold Sys2Proof.Machine.Dev.packet
  repeat' first
    | with_reducible exact h
    | with_reducible assumption
    | exact sub hS rfl
    | with_reducible exact rfl
    | with_reducible apply Dev_jrStamp
    | with_reducible apply Dev_midi1
    | with_reducible apply Dev_midi2
    | with_reducible apply Dev_sysexPacket
    | with_reducible apply Dev_count
    | with_reducible refine S.out (by assumption) ?_
    | with_reducible apply S.snd
    | with_reducible refine F.out (by assumption) ?_
    | with_reducible apply F.fst
    | with_reducible apply S.ite
    | with_reducible apply F.ite
    | fail_if_no_progress with_reducible refine upd (m := 0x201) ?_ hS rfl (by (repeat' apply And.intro) <;> first | exact .inr rfl | with_reducible exact .inl rfl)
    | with_reducible apply ite
    | dsimp only
    | split
    | with_reducible apply S.mk
    | with_reducible apply F.mk

theorem Dev_parse (d : Dev) (n : Nat) (a1 : List (Byte × Word × Word)) (h : Keep R M d0 d) (hS : Nat.land M 0x201 = 0x201) :
    F R M d0 (Sys2Proof.Machine.Dev.parse d n a1) := by
  induction a1 generalizing d with
  | nil => exact F.mk h
  | cons b bs ih =>
    unfold Sys2Proof.Machine.Dev.parse
    repeat' first
      | with_reducible apply ih
      | with_reducible apply F.fst
      | with_reducible exact h
      | with_reducible assumption
      | exact sub hS rfl
      | with_reducible exact rfl
      | with_reducible apply Dev_setParser
      | with_reducible apply Dev_count
      | with_reducible apply F.ite
      | with_reducible apply ite
      | dsimp only
      | split
      | with_reducible apply F.mk

theorem activeSensingTimeout (n : Nat) (d : Dev) (h : Keep R M d0 d) (hS : Nat.land M 0x200 = 0x200) :
    Keep R M d0 (Sys2Proof.Machine.activeSensingTimeout n d) := by
  unfold Sys2Proof.Machine.activeSensingTimeout
  repeat' first
    | with_reducible exact h
    | with_reducible assumption
    | exact sub hS rfl
    | with_reducible exact rfl
    | with_reducible apply Dev_takeAll
    | with_reducible apply Dev_setParser
    | with_reducible apply ite
    | dsimp only

theorem eventEntry (src : Nat) (d : Dev) (h : Keep R M d0 d) (hS : Nat.land M 0x1020AF41 = 0x1020AF41) :
    Keep R M d0 (Sys2Proof.Machine.eventEntry src d) := by
  unfold Sys2Proof.Machine.eventEntry
  repeat' first
    | with_reducible exact h
    | with_reducible assumption
    | exact sub hS rfl
    | with_reducible exact rfl
    | with_reducible apply Dev_enterDn
    | with_reducible apply Dev_setWaiting
    | with_reducible apply Dev_forward
    | with_reducible apply Dev_enterFront
    | fail_if_no_progress with_reducible refine upd (m := 0x1020AF41) ?_ hS rfl (by (repeat' apply And.intro) <;> first | exact .inr rfl | with_reducible exact .inl rfl)
    | with_reducible apply ite
    | dsimp only
    | split

theorem hwmClear (_v : Word) (d : Dev) (h : Keep R M d0 d) (hS : Nat.land M 0x1 = 0x1) :
    Keep R M d0 (Sys2Proof.Machine.hwmClear _v d) := by
  unfold Sys2Proof.Machine.hwmClear
  repeat' first
    | with_reducible exact h
    | with_reducible assumption
    | exact sub hS rfl
    | with_reducible exact rfl
    | with_reducible apply Dev_fp
    | dsimp only

theorem midiMessage (n : Nat) (d : Dev) (h : Keep R M d0 d) (hS : Nat.land M 0x800201 = 0x800201) :
    Keep R M d0 (Sys2Proof.Machine.midiMessage n d) := by
  unfold Sys2Proof.Machine.midiMessage
  repeat' first
    | with_reducible exact h
    | with_reducible assumption
    | exact sub hS rfl
    | with_reducible exact rfl
    | with_reducible apply Dev_parse
    | with_reducible apply Dev_setUart
    | with_reducible apply Dev_actMidi
    | with_reducible refine F.out (by assumption) ?_
    | with_reducible apply F.fst
    | with_reducible apply F.ite
    | with_reducible apply ite
    | dsimp only
    | split
    | with_reducible apply F.mk

/-! ### Machine/LinkRx.lean -/

theorem Dev_ackSet (d : Dev) (p : Nat) (code : Nat) (seq : Nat) (h : Keep R M d0 d) (hS : Nat.land M 0x200000 = 0x200000) :
    Keep R M d0 (Sys2Proof.Machine.Dev.ackSet d p code seq) := by
  unfold Sys2Proof.Machine.Dev.ackSet
  repeat' first
    | with_reducible exact h
    | with_reducible assumption
    | exact sub hS rfl
    | with_reducible exact rfl
    | with_reducible apply Dev_setLport
    | dsimp only

theorem Dev_nakOnce (d : Dev) (p : Nat) (h : Keep R M d0 d) (hS : Nat.land M 0x200000 = 0x200000) :
    Keep R M d0 (Sys2Proof.Machine.Dev.nakOnce d p) := by
  unfold Sys2Proof.Machine.Dev.nakOnce
  repeat' first
    | with_reducible exact h
    | with_reducible assumption
    | exact sub hS rfl
    | with_reducible exact rfl
    | with_reducible apply Dev_ackSet
    | with_reducible apply Dev_setLport
    | with_reducible apply ite
    | dsimp only

theorem Dev_route (d : Dev) (hdr : LinkHdr) (ty : Nat) (pay : List Byte) (h : Keep R M d0 d) (hS : Nat.land M 0x200000 = 0x200000) :
    Keep R M d0 (Sys2Proof.Machine.Dev.route d hdr ty pay) := by
  unfold Sys2Proof.Machine.Dev.route
  repeat' first
    | with_reducible exact h
    | with_reducible assumption
    | exact sub hS rfl
    | with_reducible exact rfl
    | with_reducible apply Dev_sendOn
    | with_reducible refine each (fun _ _ _ => ?_) ?_
    | with_reducible apply ite
    | dsimp only
    | split

theorem Dev_onFrame (d : Dev) (hdr : LinkHdr) (ty : Nat) (pay : List Byte) (f : Dev → Dev) (h : Keep R M d0 d) (hf : ∀ y, Keep R M d0 y → Keep R M d0 (f y)) (hS : Nat.land M 0x200001 = 0x200001) :
    Keep R M d0 (Sys2Proof.Machine.Dev.onFrame d hdr ty pay f) := by
  unfold Sys2Proof.Machine.Dev.onFrame
  repeat' first
    | with_reducible exact h
    | with_reducible assumption
    | exact sub hS rfl
    | with_reducible exact rfl
    | with_reducible apply hf
    | with_reducible apply Dev_nakOnce
    | with_reducible apply Dev_count
    | with_reducible apply Dev_ackSet
    | with_reducible apply Dev_setLport
    | with_reducible apply Dev_route
    | with_reducible apply ite
    | dsimp only

/-! ### Machine/Stage.lean -/

theorem Dev_commitRolls (d : Dev) (set : List (Nat × Word)) (s : Word) (h : Keep R M d0 d) (hS : Nat.land M 0x800 = 0x800) :
    Keep R M d0 (Sys2Proof.Machine.Dev.commitRolls d set s) := by
  unfold Sys2Proof.Machine.Dev.commitRolls
  repeat' first
    | with_reducible exact h
    | with_reducible assumption
    | exact sub hS rfl
    | with_reducible exact rfl
    | with_reducible apply Dev_order
    | with_reducible refine each (fun _ _ _ => ?_) ?_
    | with_reducible apply ite
    | dsimp only

theorem Dev_dropBuffer (d : Dev) (h : Keep R M d0 d) (hS : Nat.land M 0xE01 = 0xE01) :
    Keep R M d0 (Sys2Proof.Machine.Dev.dropBuffer d) := by
  unfold Sys2Proof.Machine.Dev.dropBuffer
  repeat' first
    | with_reducible exact h
    | with_reducible assumption
    | exact sub hS rfl
    | with_reducible exact rfl
    | with_reducible apply Dev_commitRolls
    | with_reducible apply Dev_setWaiting
    | with_reducible apply Dev_fp
    | fail_if_no_progress with_reducible refine upd (m := 0xE01) ?_ hS rfl (by (repeat' apply And.intro) <;> first | exact .inr rfl | with_reducible exact .inl rfl)
    | dsimp only
    | split

theorem Dev_abortChain (d : Dev) (h : Keep R M d0 d) (hS : Nat.land M 0x10200F41 = 0x10200F41) :
    Keep R M d0 (Sys2Proof.Machine.Dev.abortChain d) := by
  unfold Sys2Proof.Machine.Dev.abortChain
  repeat' first
    | with_reducible exact h
    | with_reducible assumption
    | exact sub hS rfl
    | with_reducible exact rfl
    | with_reducible refine raisePlain ?_ (by with_unfolding_all exact rfl) ?_
    | with_reducible apply Dev_raise
    | with_reducible apply Dev_broadcast
    | with_reducible apply Dev_dropBuffer
    | dsimp only

theorem Dev_withSet (d : Dev) (set : List (Nat × Word)) (h : Keep R M d0 d) (hS : Nat.land M 0x1 = 0x1) :
    Keep R M d0 (Sys2Proof.Machine.Dev.withSet d set) := by
  unfold Sys2Proof.Machine.Dev.withSet
  repeat' first
    | with_reducible exact h
    | with_reducible assumption
    | exact sub hS rfl
    | with_reducible exact rfl
    | with_reducible apply Dev_setReg
    | with_reducible refine foldl (fun _ _ _ => ?_) ?_
    | dsimp only

theorem Dev_commitHist (d : Dev) (set : List (Nat × Word)) (t : Word) (h : Keep R M d0 d) (hS : Nat.land M 0x201 = 0x201) :
    Keep R M d0 (Sys2Proof.Machine.Dev.commitHist d set t) := by
  unfold Sys2Proof.Machine.Dev.commitHist
  repeat' first
    | with_reducible exact h
    | with_reducible assumption
    | exact sub hS rfl
    | with_reducible exact rfl
    | with_reducible apply Dev_withSet
    | with_reducible apply Dev_addHist
    | with_reducible refine each (fun _ _ _ => ?_) ?_
    | with_reducible apply ite
    | dsimp only

theorem Dev_pinReg (d : Dev) (a1 : Nat) (w : Word) (h : Keep R M d0 d) (hS : Nat.land M 0x40001 = 0x40001) :
    Keep R M d0 (Sys2Proof.Machine.Dev.pinReg d a1 w) := by
  unfold Sys2Proof.Machine.Dev.pinReg
  repeat' first
    | with_reducible exact h
    | with_reducible assumption
    | exact sub hS rfl
    | with_reducible exact rfl
    | with_reducible apply Dev_setReg
    | with_reducible apply Dev_cvInit
    | with_reducible apply ite
    | dsimp only
    | split

theorem Dev_takePins (d : Dev) (h : Keep R M d0 d) (hS : Nat.land M 0x60401 = 0x60401) :
    Keep R M d0 (Sys2Proof.Machine.Dev.takePins d) := by
  unfold Sys2Proof.Machine.Dev.takePins
  repeat' first
    | with_reducible exact h
    | with_reducible assumption
    | exact sub hS rfl
    | with_reducible exact rfl
    | with_reducible apply Dev_pinReg
    | with_reducible apply Dev_takePort
    | with_reducible refine each (fun _ _ _ => ?_) ?_
    | fail_if_no_progress with_reducible refine upd (m := 0x60401) ?_ hS rfl (by (repeat' apply And.intro) <;> first | exact .inr rfl | with_reducible exact .inl rfl)
    | with_reducible apply ite
    | dsimp only

theorem Dev_applySet (d : Dev) (set : List (Nat × Word)) (s : Word) (t : Word) (h : Keep R M d0 d) (hS : Nat.land M 0x70603 = 0x70603) :
    Keep R M d0 (Sys2Proof.Machine.Dev.applySet d set s t) := by
  unfold Sys2Proof.Machine.Dev.applySet
  repeat' first
    | with_reducible exact h
    | with_reducible assumption
    | exact sub hS rfl
    | with_reducible exact rfl
    | with_reducible apply Dev_commitHist
    | with_reducible apply Dev_setReg
    | with_reducible apply Dev_loadUns
    | with_reducible apply Dev_busOff
    | with_reducible apply Dev_takePins
    | with_reducible apply Dev_setDout
    | with_reducible refine each (fun _ _ _ => ?_) ?_
    | fail_if_no_progress with_reducible refine upd (m := 0x70603) ?_ hS rfl (by (repeat' apply And.intro) <;> first | exact .inr rfl | with_reducible exact .inl rfl)
    | with_reducible apply ite
    | dsimp only

theorem Dev_commitEvent (d : Dev) (t : Word) (epoch : Word) (h : Keep R M d0 d) (hS : Nat.land M 0x10208741 = 0x10208741) :
    Keep R M d0 (Sys2Proof.Machine.Dev.commitEvent d t epoch) := by
  unfold Sys2Proof.Machine.Dev.commitEvent
  repeat' first
    | with_reducible exact h
    | with_reducible assumption
    | exact sub hS rfl
    | with_reducible exact rfl
    | with_reducible apply Dev_post
    | with_reducible apply Dev_enterFront
    | with_reducible apply ite
    | dsimp only

theorem Dev_doAbort (d : Dev) (h : Keep R M d0 d) (hS : Nat.land M 0x10200F41 = 0x10200F41) :
    Keep R M d0 (Sys2Proof.Machine.Dev.doAbort d) := by
  unfold Sys2Proof.Machine.Dev.doAbort
  repeat' first
    | with_reducible exact h
    | with_reducible assumption
    | exact sub hS rfl
    | with_reducible exact rfl
    | with_reducible apply Dev_abortChain
    | with_reducible apply Dev_dropBuffer
    | with_reducible apply ite
    | dsimp only
    | split

theorem Dev_rejectCommit (d : Dev) (rej : Nat) (h : Keep R M d0 d) (hS : Nat.land M 0x10000541 = 0x10000541) :
    Keep R M d0 (Sys2Proof.Machine.Dev.rejectCommit d rej) := by
  unfold Sys2Proof.Machine.Dev.rejectCommit
  repeat' first
    | with_reducible exact h
    | with_reducible assumption
    | exact sub hS rfl
    | with_reducible exact rfl
    | with_reducible refine raisePlain ?_ (by with_unfolding_all exact rfl) ?_
    | with_reducible apply Dev_raise
    | with_reducible apply Dev_fp
    | dsimp only

theorem Dev_fillBuffer (d : Dev) (set : List (Nat × Word)) (s : Word) (epoch : Word) (h : Keep R M d0 d) (hS : Nat.land M 0x10208F41 = 0x10208F41) :
    Keep R M d0 (Sys2Proof.Machine.Dev.fillBuffer d set s epoch) := by
  unfold Sys2Proof.Machine.Dev.fillBuffer
  repeat' first
    | with_reducible exact h
    | with_reducible assumption
    | exact sub hS rfl
    | with_reducible exact rfl
    | with_reducible apply Dev_commitEvent
    | with_reducible apply Dev_commitRolls
    | fail_if_no_progress with_reducible refine upd (m := 0x10208F41) ?_ hS rfl (by (repeat' apply And.intro) <;> first | exact .inr rfl | with_reducible exact .inl rfl)
    | with_reducible apply ite
    | dsimp only

theorem Dev_doCommit (d : Dev) (h : Keep R M d0 d) (hS : Nat.land M 0x10208F41 = 0x10208F41) :
    Keep R M d0 (Sys2Proof.Machine.Dev.doCommit d) := by
  unfold Sys2Proof.Machine.Dev.doCommit
  repeat' first
    | with_reducible exact h
    | with_reducible assumption
    | exact sub hS rfl
    | with_reducible exact rfl
    | with_reducible apply Dev_rejectCommit
    | with_reducible apply Dev_fp
    | with_reducible apply Dev_fillBuffer
    | with_reducible apply Dev_broadcast
    | fail_if_no_progress with_reducible refine upd (m := 0x10208F41) ?_ hS rfl (by (repeat' apply And.intro) <;> first | exact .inr rfl | with_reducible exact .inl rfl)
    | with_reducible apply ite
    | dsimp only
    | split

theorem Dev_doDiscard (d : Dev) (h : Keep R M d0 d) (hS : Nat.land M 0x402 = 0x402) :
    Keep R M d0 (Sys2Proof.Machine.Dev.doDiscard d) := by
  unfold Sys2Proof.Machine.Dev.doDiscard
  repeat' first
    | with_reducible exact h
    | with_reducible assumption
    | exact sub hS rfl
    | with_reducible exact rfl
    | fail_if_no_progress with_reducible refine upd (m := 0x402) ?_ hS rfl (by (repeat' apply And.intro) <;> first | exact .inr rfl | with_reducible exact .inl rfl)
    | dsimp only

theorem Dev_showCheck (d : Dev) (res : Option (Nat × Nat)) (valid : Bool) (h : Keep R M d0 d) (hS : Nat.land M 0x1 = 0x1) :
    Keep R M d0 (Sys2Proof.Machine.Dev.showCheck d res valid) := by
  unfold Sys2Proof.Machine.Dev.showCheck
  repeat' first
    | with_reducible exact h
    | with_reducible assumption
    | exact sub hS rfl
    | with_reducible exact rfl
    | with_reducible apply Dev_fp
    | with_reducible apply Dev_setReg
    | with_reducible apply ite
    | dsimp only
    | split

theorem Dev_startCheck (d : Dev) (andCommit : Bool) (h : Keep R M d0 d) (hS : Nat.land M 0x401 = 0x401) :
    Keep R M d0 (Sys2Proof.Machine.Dev.startCheck d andCommit) := by
  unfold Sys2Proof.Machine.Dev.startCheck
  repeat' first
    | with_reducible exact h
    | with_reducible assumption
    | exact sub hS rfl
    | with_reducible exact rfl
    | with_reducible apply Dev_fp
    | fail_if_no_progress with_reducible refine upd (m := 0x401) ?_ hS rfl (by (repeat' apply And.intro) <;> first | exact .inr rfl | with_reducible exact .inl rfl)
    | dsimp only

theorem Dev_stgCtrl (d : Dev) (v : Word) (h : Keep R M d0 d) (hS : Nat.land M 0x10208F43 = 0x10208F43) :
    Keep R M d0 (Sys2Proof.Machine.Dev.stgCtrl d v) := by
  unfold Sys2Proof.Machine.Dev.stgCtrl
  repeat' first
    | with_reducible exact h
    | with_reducible assumption
    | exact sub hS rfl
    | with_reducible exact rfl
    | with_reducible apply Dev_doDiscard
    | with_reducible apply Dev_fp
    | with_reducible apply Dev_doAbort
    | with_reducible apply Dev_startCheck
    | with_reducible apply Dev_doCommit
    | with_reducible apply ite
    | dsimp only

theorem check (v : Word) (d : Dev) (h : Keep R M d0 d) (hS : Nat.land M 0x10208F43 = 0x10208F43) :
    Keep R M d0 (Sys2Proof.Machine.check v d) := by
  unfold Sys2Proof.Machine.check
  repeat' first
    | with_reducible exact h
    | with_reducible assumption
    | exact sub hS rfl
    | with_reducible exact rfl
    | with_reducible apply Dev_stgCtrl
    | with_reducible apply ite
    | dsimp only

theorem checkComplete (d : Dev) (h : Keep R M d0 d) (hS : Nat.land M 0x10208F41 = 0x10208F41) :
    Keep R M d0 (Sys2Proof.Machine.checkComplete d) := by
  unfold Sys2Proof.Machine.checkComplete
  repeat' first
    | with_reducible exact h
    | with_reducible assumption
    | exact sub hS rfl
    | with_reducible exact rfl
    | with_reducible apply Dev_showCheck
    | with_reducible apply Dev_fp
    | with_reducible apply Dev_doCommit
    | fail_if_no_progress with_reducible refine upd (m := 0x10208F41) ?_ hS rfl (by (repeat' apply And.intro) <;> first | exact .inr rfl | with_reducible exact .inl rfl)
    | with_reducible apply ite
    | dsimp only

theorem commit (v : Word) (d : Dev) (h : Keep R M d0 d) (hS : Nat.land M 0x10208F43 = 0x10208F43) :
    Keep R M d0 (Sys2Proof.Machine.commit v d) := by
  unfold Sys2Proof.Machine.commit
  repeat' first
    | with_reducible exact h
    | with_reducible assumption
    | exact sub hS rfl
    | with_reducible exact rfl
    | with_reducible apply Dev_stgCtrl
    | with_reducible apply ite
    | dsimp only

theorem commitAbort (v : Word) (d : Dev) (h : Keep R M d0 d) (hS : Nat.land M 0x10208F43 = 0x10208F43) :
    Keep R M d0 (Sys2Proof.Machine.commitAbort v d) := by
  unfold Sys2Proof.Machine.commitAbort
  repeat' first
    | with_reducible exact h
    | with_reducible assumption
    | exact sub hS rfl
    | with_reducible exact rfl
    | with_reducible apply Dev_stgCtrl
    | with_reducible apply ite
    | dsimp only

theorem commitApply (d : Dev) (h : Keep R M d0 d) (hS : Nat.land M 0x10070743 = 0x10070743) :
    Keep R M d0 (Sys2Proof.Machine.commitApply d) := by
  unfold Sys2Proof.Machine.commitApply
  repeat' first
    | with_reducible exact h
    | with_reducible assumption
    | exact sub hS rfl
    | with_reducible exact rfl
    | with_reducible refine raisePlain ?_ (by with_unfolding_all exact rfl) ?_
    | with_reducible apply Dev_raise
    | with_reducible apply Dev_fp
    | with_reducible apply Dev_setReg
    | with_reducible apply Dev_applySet
    | with_reducible apply ite
    | dsimp only
    | split

theorem discard (v : Word) (d : Dev) (h : Keep R M d0 d) (hS : Nat.land M 0x10208F43 = 0x10208F43) :
    Keep R M d0 (Sys2Proof.Machine.discard v d) := by
  unfold Sys2Proof.Machine.discard
  repeat' first
    | with_reducible exact h
    | with_reducible assumption
    | exact sub hS rfl
    | with_reducible exact rfl
    | with_reducible apply Dev_stgCtrl
    | with_reducible apply ite
    | dsimp only

theorem stagedWrite (addr : Word) (value : Word) (d : Dev) (h : Keep R M d0 d) (hS : Nat.land M 0x403 = 0x403) :
    Keep R M d0 (Sys2Proof.Machine.stagedWrite addr value d) := by
  unfold Sys2Proof.Machine.stagedWrite
  repeat' first
    | with_reducible exact h
    | with_reducible assumption
    | exact sub hS rfl
    | with_reducible exact rfl
    | with_reducible apply Dev_writeStaged
    | dsimp only

end Sys2Proof.Laws.Keep
end

