-- ==== Sys2Proof/Laws/KeepChain.lean ====
section
/-! SUPPORT. `Keep` carried over the operations of the chain, ageing, images, modes, boot and network: one lemma for each, named after it. -/
namespace Sys2Proof.Laws.Keep
open Sys2Proof.Machine
set_option linter.unusedTactic false
set_option linter.unreachableTactic false
set_option linter.unusedVariables false

variable {R : Fuses → Fuses → Prop} {M : Nat} {d0 x : Dev}

/-! ### Machine/Chain.lean -/

theorem Dev_abortLost (d : Dev) (h : Keep R M d0 d) (hS : Nat.land M 0x10200F41 = 0x10200F41) :
    Keep R M d0 (Sys2Proof.Machine.Dev.abortLost d) := by
  unfold Sys2Proof.Machine.Dev.abortLost
  repeat' first
    | with_reducible exact h
    | with_reducible assumption
    | exact sub hS rfl
    | with_reducible exact rfl
    | with_reducible apply Dev_fp
    | with_reducible apply Dev_abortChain
    | with_reducible apply ite
    | dsimp only

theorem Dev_nextGen (d : Dev) (h : Keep R M d0 d) (hS : Nat.land M 0x1 = 0x1) :
    Keep R M d0 (Sys2Proof.Machine.Dev.nextGen d) := by
  unfold Sys2Proof.Machine.Dev.nextGen
  repeat' first
    | with_reducible exact h
    | with_reducible assumption
    | exact sub hS rfl
    | with_reducible exact rfl
    | with_reducible apply Dev_fp
    | dsimp only

theorem Dev_setMember (d : Dev) (m : Member) (h : Keep R M d0 d) (hS : Nat.land M 0x200000 = 0x200000) :
    Keep R M d0 (Sys2Proof.Machine.Dev.setMember d m) := by
  unfold Sys2Proof.Machine.Dev.setMember
  repeat' first
    | with_reducible exact h
    | with_reducible assumption
    | exact sub hS rfl
    | with_reducible exact rfl
    | fail_if_no_progress with_reducible refine upd (m := 0x200000) ?_ hS rfl (by (repeat' apply And.intro) <;> first | exact .inr rfl | with_reducible exact .inl rfl)
    | with_reducible apply ite
    | dsimp only

theorem Dev_shipTo (d : Dev) (m : Member) (h : Keep R M d0 d) (hS : Nat.land M 0x10200541 = 0x10200541) :
    Keep R M d0 (Sys2Proof.Machine.Dev.shipTo d m) := by
  unfold Sys2Proof.Machine.Dev.shipTo
  repeat' first
    | with_reducible exact h
    | with_reducible assumption
    | exact sub hS rfl
    | with_reducible exact rfl
    | with_reducible refine raisePlain ?_ (by with_unfolding_all exact rfl) ?_
    | with_reducible apply Dev_raise
    | with_reducible apply Dev_setMember
    | fail_if_no_progress with_reducible refine upd (m := 0x10200541) ?_ hS rfl (by (repeat' apply And.intro) <;> first | exact .inr rfl | with_reducible exact .inl rfl)
    | dsimp only

theorem Dev_admitMember (d : Dev) (m : Member) (h : Keep R M d0 d) (hS : Nat.land M 0x10200541 = 0x10200541) :
    Keep R M d0 (Sys2Proof.Machine.Dev.admitMember d m) := by
  unfold Sys2Proof.Machine.Dev.admitMember
  repeat' first
    | with_reducible exact h
    | with_reducible assumption
    | exact sub hS rfl
    | with_reducible exact rfl
    | with_reducible apply Dev_sendTo
    | with_reducible apply Dev_nextGen
    | with_reducible refine raisePlain ?_ (by with_unfolding_all exact rfl) ?_
    | with_reducible apply Dev_raise
    | with_reducible apply Dev_setMember
    | with_reducible apply Dev_shipTo
    | with_reducible refine each (fun _ _ _ => ?_) ?_
    | with_reducible apply ite
    | dsimp only

theorem Dev_portIsolate (d : Dev) (p : Nat) (reason : Nat) (h : Keep R M d0 d) (hS : Nat.land M 0x200001 = 0x200001) :
    Keep R M d0 (Sys2Proof.Machine.Dev.portIsolate d p reason) := by
  unfold Sys2Proof.Machine.Dev.portIsolate
  repeat' first
    | with_reducible exact h
    | with_reducible assumption
    | exact sub hS rfl
    | with_reducible exact rfl
    | with_reducible apply Dev_fp
    | with_reducible apply Dev_setLport
    | dsimp only

theorem Dev_rescue (d : Dev) (ids : List Nat) (t : Word) (h : Keep R M d0 d) (hS : Nat.land M 0x8201 = 0x8201) :
    Keep R M d0 (Sys2Proof.Machine.Dev.rescue d ids t) := by
  unfold Sys2Proof.Machine.Dev.rescue
  repeat' first
    | with_reducible exact h
    | with_reducible assumption
    | exact sub hS rfl
    | with_reducible exact rfl
    | with_reducible apply Dev_count
    | with_reducible apply Dev_post
    | with_reducible refine each (fun _ _ _ => ?_) ?_
    | fail_if_no_progress with_reducible refine upd (m := 0x8201) ?_ hS rfl (by (repeat' apply And.intro) <;> first | exact .inr rfl | with_reducible exact .inl rfl)
    | with_reducible apply ite
    | dsimp only

theorem Dev_showCensus (d : Dev) (h : Keep R M d0 d) (hS : Nat.land M 0x1 = 0x1) :
    Keep R M d0 (Sys2Proof.Machine.Dev.showCensus d) := by
  unfold Sys2Proof.Machine.Dev.showCensus
  repeat' first
    | with_reducible exact h
    | with_reducible assumption
    | exact sub hS rfl
    | with_reducible exact rfl
    | with_reducible apply Dev_fp
    | dsimp only

theorem Dev_loseSubtree (d : Dev) (lost : List Bool) (t : Word) (h : Keep R M d0 d) (hS : Nat.land M 0x10208F41 = 0x10208F41) :
    Keep R M d0 (Sys2Proof.Machine.Dev.loseSubtree d lost t) := by
  unfold Sys2Proof.Machine.Dev.loseSubtree
  repeat' first
    | with_reducible exact h
    | with_reducible assumption
    | exact sub hS rfl
    | with_reducible exact rfl
    | with_reducible refine raisePlain ?_ (by with_unfolding_all exact rfl) ?_
    | with_reducible apply Dev_raise
    | with_reducible apply Dev_rescue
    | with_reducible apply Dev_nextGen
    | with_reducible apply Dev_showCensus
    | with_reducible apply Dev_abortLost
    | fail_if_no_progress with_reducible refine upd (m := 0x10208F41) ?_ hS rfl (by (repeat' apply And.intro) <;> first | exact .inr rfl | with_reducible exact .inl rfl)
    | with_reducible apply ite
    | dsimp only

theorem Dev_assignVia (d : Dev) (p : Nat) (depth : Nat) (verdict : Nat) (id : Nat) (reason : Nat) (h : Keep R M d0 d) (hS : Nat.land M 0x10208F41 = 0x10208F41) :
    Keep R M d0 (Sys2Proof.Machine.Dev.assignVia d p depth verdict id reason) := by
  unfold Sys2Proof.Machine.Dev.assignVia
  repeat' first
    | with_reducible exact h
    | with_reducible assumption
    | exact sub hS rfl
    | with_reducible exact rfl
    | with_reducible apply Dev_setLport
    | with_reducible apply Dev_fp
    | with_reducible apply Dev_portIsolate
    | with_reducible apply Dev_loseSubtree
    | with_reducible apply Dev_sendUp
    | with_reducible apply ite
    | dsimp only

theorem Dev_clearVoices (d : Dev) (h : Keep R M d0 d) (hS : Nat.land M 0xFA01 = 0xFA01) :
    Keep R M d0 (Sys2Proof.Machine.Dev.clearVoices d) := by
  unfold Sys2Proof.Machine.Dev.clearVoices
  repeat' first
    | with_reducible exact h
    | with_reducible assumption
    | exact sub hS rfl
    | with_reducible exact rfl
    | with_reducible apply Dev_setCtx
    | with_reducible apply Dev_freeCtx
    | with_reducible apply Dev_updateScore
    | with_reducible apply Dev_showVoice
    | with_reducible apply Dev_setPend
    | with_reducible apply Dev_freePart
    | with_reducible apply Dev_fp
    | with_reducible apply Dev_setSpn
    | with_reducible apply Dev_showQueue
    | with_reducible apply Dev_showPipe
    | with_reducible refine each (fun _ _ _ => ?_) ?_
    | fail_if_no_progress with_reducible refine upd (m := 0xFA01) ?_ hS rfl (by (repeat' apply And.intro) <;> first | exact .inr rfl | with_reducible exact .inl rfl)
    | with_reducible apply ite
    | dsimp only

theorem Dev_headLost (d : Dev) (h : Keep R M d0 d) (hS : Nat.land M 0x200000 = 0x200000) :
    Keep R M d0 (Sys2Proof.Machine.Dev.headLost d) := by
  unfold Sys2Proof.Machine.Dev.headLost
  repeat' first
    | with_reducible exact h
    | with_reducible assumption
    | exact sub hS rfl
    | with_reducible exact rfl
    | with_reducible apply Dev_broadcast
    | fail_if_no_progress with_reducible refine upd (m := 0x200000) ?_ hS rfl (by (repeat' apply And.intro) <;> first | exact .inr rfl | with_reducible exact .inl rfl)
    | with_reducible apply ite
    | dsimp only

theorem Dev_losePort (d : Dev) (p : Nat) (h : Keep R M d0 d) (hS : Nat.land M 0x10208F41 = 0x10208F41) :
    Keep R M d0 (Sys2Proof.Machine.Dev.losePort d p) := by
  unfold Sys2Proof.Machine.Dev.losePort
  repeat' first
    | with_reducible exact h
    | with_reducible assumption
    | exact sub hS rfl
    | with_reducible exact rfl
    | with_reducible refine raisePlain ?_ (by with_unfolding_all exact rfl) ?_
    | with_reducible apply Dev_raise
    | with_reducible apply Dev_fp
    | with_reducible apply Dev_setLport
    | with_reducible apply Dev_headLost
    | with_reducible apply Dev_loseSubtree
    | with_reducible apply Dev_sendUp
    | with_reducible apply ite
    | dsimp only

theorem Dev_portSums (d : Dev) (p : Nat) (s : Word) (h : Keep R M d0 d) (hS : Nat.land M 0x10208F41 = 0x10208F41) :
    S R M d0 (Sys2Proof.Machine.Dev.portSums d p s) := by
  unfold Sys2Proof.Machine.Dev.portSums
  repeat' first
    | with_reducible exact h
    | with_reducible assumption
    | exact sub hS rfl
    | with_reducible exact rfl
    | with_reducible apply Dev_setLport
    | with_reducible refine raisePlain ?_ (by with_unfolding_all exact rfl) ?_
    | with_reducible apply Dev_raise
    | with_reducible apply Dev_count
    | with_reducible apply Dev_losePort
    | with_reducible apply S.ite
    | with_reducible apply ite
    | dsimp only
    | split
    | with_reducible apply S.mk

theorem Dev_downSums (d : Dev) (s : Word) (h : Keep R M d0 d) (hS : Nat.land M 0x10208F41 = 0x10208F41) :
    S R M d0 (Sys2Proof.Machine.Dev.downSums d s) := by
  unfold Sys2Proof.Machine.Dev.downSums
  repeat' first
    | with_reducible exact h
    | with_reducible assumption
    | exact sub hS rfl
    | with_reducible exact rfl
    | with_reducible apply Dev_portSums
    | with_reducible refine S.out (by assumption) ?_
    | with_reducible apply S.snd
    | with_reducible refine S.foldl (fun _ _ _ => ?_) ?_
    | with_reducible refine foldl (fun _ _ _ => ?_) ?_
    | with_reducible exact S.snd (by assumption)
    | dsimp only
    | split
    | with_reducible apply S.mk

theorem Dev_fadeVoice (d : Dev) (v : Nat) (s : Word) (h : Keep R M d0 d) (hS : Nat.land M 0x10002F41 = 0x10002F41) :
    Keep R M d0 (Sys2Proof.Machine.Dev.fadeVoice d v s) := by
  unfold Sys2Proof.Machine.Dev.fadeVoice
  repeat' first
    | with_reducible exact h
    | with_reducible assumption
    | exact sub hS rfl
    | with_reducible exact rfl
    | with_reducible apply Dev_addLog
    | with_reducible apply ite
    | dsimp only

theorem Dev_fadeAll (d : Dev) (h : Keep R M d0 d) (hS : Nat.land M 0x10002F41 = 0x10002F41) :
    Keep R M d0 (Sys2Proof.Machine.Dev.fadeAll d) := by
  unfold Sys2Proof.Machine.Dev.fadeAll
  repeat' first
    | with_reducible exact h
    | with_reducible assumption
    | exact sub hS rfl
    | with_reducible exact rfl
    | with_reducible apply Dev_fadeVoice
    | with_reducible refine each (fun _ _ _ => ?_) ?_
    | dsimp only

theorem Dev_sendAssign (d : Dev) (m : Member) (verdict : Nat) (h : Keep R M d0 d) (hS : Nat.land M 0x200000 = 0x200000) :
    Keep R M d0 (Sys2Proof.Machine.Dev.sendAssign d m verdict) := by
  unfold Sys2Proof.Machine.Dev.sendAssign
  repeat' first
    | with_reducible exact h
    | with_reducible assumption
    | exact sub hS rfl
    | with_reducible exact rfl
    | with_reducible apply Dev_sendPath
    | dsimp only

theorem Dev_isolateMember (d : Dev) (m : Member) (reason : Nat) (h : Keep R M d0 d) (hS : Nat.land M 0x10208F41 = 0x10208F41) :
    Keep R M d0 (Sys2Proof.Machine.Dev.isolateMember d m reason) := by
  unfold Sys2Proof.Machine.Dev.isolateMember
  repeat' first
    | with_reducible exact h
    | with_reducible assumption
    | exact sub hS rfl
    | with_reducible exact rfl
    | with_reducible apply Dev_assignVia
    | with_reducible apply Dev_sendAssign
    | with_reducible apply Dev_setMember
    | with_reducible apply ite
    | dsimp only

theorem Dev_portIdle (d : Dev) (p : Nat) (h : Keep R M d0 d) (hS : Nat.land M 0x200001 = 0x200001) :
    Keep R M d0 (Sys2Proof.Machine.Dev.portIdle d p) := by
  unfold Sys2Proof.Machine.Dev.portIdle
  repeat' first
    | with_reducible exact h
    | with_reducible assumption
    | exact sub hS rfl
    | with_reducible exact rfl
    | with_reducible apply Dev_fp
    | with_reducible apply Dev_setLport
    | dsimp only

theorem Dev_portUp (d : Dev) (p : Nat) (v : Nat) (h : Keep R M d0 d) (hS : Nat.land M 0x10200541 = 0x10200541) :
    Keep R M d0 (Sys2Proof.Machine.Dev.portUp d p v) := by
  unfold Sys2Proof.Machine.Dev.portUp
  repeat' first
    | with_reducible exact h
    | with_reducible assumption
    | exact sub hS rfl
    | with_reducible exact rfl
    | with_reducible refine raisePlain ?_ (by with_unfolding_all exact rfl) ?_
    | with_reducible apply Dev_raise
    | with_reducible apply Dev_fp
    | with_reducible apply Dev_setLport
    | with_reducible apply Dev_sendUp
    | with_reducible apply ite
    | dsimp only

theorem Dev_publish (d : Dev) (h : Keep R M d0 d) (hS : Nat.land M 0x208000 = 0x208000) :
    Keep R M d0 (Sys2Proof.Machine.Dev.publish d) := by
  unfold Sys2Proof.Machine.Dev.publish
  repeat' first
    | with_reducible exact h
    | with_reducible assumption
    | exact sub hS rfl
    | with_reducible exact rfl
    | with_reducible apply Dev_sendUp
    | fail_if_no_progress with_reducible refine upd (m := 0x208000) ?_ hS rfl (by (repeat' apply And.intro) <;> first | exact .inr rfl | with_reducible exact .inl rfl)
    | with_reducible apply ite
    | dsimp only

theorem Dev_quarantine (d : Dev) (m : Member) (reason : Nat) (h : Keep R M d0 d) (hS : Nat.land M 0x10200541 = 0x10200541) :
    Keep R M d0 (Sys2Proof.Machine.Dev.quarantine d m reason) := by
  unfold Sys2Proof.Machine.Dev.quarantine
  repeat' first
    | with_reducible exact h
    | with_reducible assumption
    | exact sub hS rfl
    | with_reducible exact rfl
    | with_reducible refine raisePlain ?_ (by with_unfolding_all exact rfl) ?_
    | with_reducible apply Dev_raise
    | with_reducible apply Dev_sendAssign
    | with_reducible apply Dev_setMember
    | dsimp only

theorem Dev_resend (d : Dev) (p : Nat) (seq : Nat) (h : Keep R M d0 d) (hS : Nat.land M 0x10208F41 = 0x10208F41) :
    Keep R M d0 (Sys2Proof.Machine.Dev.resend d p seq) := by
  unfold Sys2Proof.Machine.Dev.resend
  repeat' first
    | with_reducible exact h
    | with_reducible assumption
    | exact sub hS rfl
    | with_reducible exact rfl
    | with_reducible apply Dev_count
    | with_reducible apply Dev_setLport
    | with_reducible apply Dev_losePort
    | with_reducible apply ite
    | dsimp only

theorem Dev_sendStatus (d : Dev) (h : Keep R M d0 d) (hS : Nat.land M 0x200000 = 0x200000) :
    Keep R M d0 (Sys2Proof.Machine.Dev.sendStatus d) := by
  unfold Sys2Proof.Machine.Dev.sendStatus
  repeat' first
    | with_reducible exact h
    | with_reducible assumption
    | exact sub hS rfl
    | with_reducible exact rfl
    | with_reducible apply Dev_sendUp
    | dsimp only

theorem Dev_sendSums (d : Dev) (s : Word) (down : Tbl (BitVec 40)) (h : Keep R M d0 d) (hS : Nat.land M 0x200000 = 0x200000) :
    Keep R M d0 (Sys2Proof.Machine.Dev.sendSums d s down) := by
  unfold Sys2Proof.Machine.Dev.sendSums
  repeat' first
    | with_reducible exact h
    | with_reducible assumption
    | exact sub hS rfl
    | with_reducible exact rfl
    | with_reducible apply Dev_sendOn
    | with_reducible refine each (fun _ _ _ => ?_) ?_
    | with_reducible refine foldl (fun _ _ _ => ?_) ?_
    | with_reducible apply ite
    | dsimp only
    | split

theorem Dev_showPins (d : Dev) (h : Keep R M d0 d) (hS : Nat.land M 0x10000000 = 0x10000000) :
    Keep R M d0 (Sys2Proof.Machine.Dev.showPins d) := by
  unfold Sys2Proof.Machine.Dev.showPins
  repeat' first
    | with_reducible exact h
    | with_reducible assumption
    | exact sub hS rfl
    | with_reducible exact rfl
    | fail_if_no_progress with_reducible refine upd (m := 0x10000000) ?_ hS rfl (by (repeat' apply And.intro) <;> first | exact .inr rfl | with_reducible exact .inl rfl)
    | dsimp only

theorem Dev_setChain (d : Dev) (state : Nat) (reason : Nat) (h : Keep R M d0 d) (hS : Nat.land M 0x10000001 = 0x10000001) :
    Keep R M d0 (Sys2Proof.Machine.Dev.setChain d state reason) := by
  unfold Sys2Proof.Machine.Dev.setChain
  repeat' first
    | with_reducible exact h
    | with_reducible assumption
    | exact sub hS rfl
    | with_reducible exact rfl
    | with_reducible apply Dev_showTime
    | with_reducible apply Dev_showPins
    | with_reducible apply Dev_fp
    | dsimp only

/-! ### Machine/Ageing.lean -/

theorem Dev_ageCtrl (d : Dev) (v : Word) (h : Keep R M d0 d) (hS : Nat.land M 0x16000541 = 0x16000541) :
    Keep R M d0 (Sys2Proof.Machine.Dev.ageCtrl d v) := by
  unfold Sys2Proof.Machine.Dev.ageCtrl
  repeat' first
    | with_reducible exact h
    | with_reducible assumption
    | exact sub hS rfl
    | with_reducible exact rfl
    | with_reducible apply Dev_fp
    | with_reducible apply Dev_journal
    | fail_if_no_progress with_reducible refine upd (m := 0x16000541) ?_ hS rfl (by (repeat' apply And.intro) <;> first | exact .inr rfl | with_reducible exact .inl rfl)
    | with_reducible apply ite
    | dsimp only

theorem Dev_setTw (d : Dev) (t : Int) (h : Keep R M d0 d) (hS : Nat.land M 0x4000001 = 0x4000001) :
    Keep R M d0 (Sys2Proof.Machine.Dev.setTw d t) := by
  unfold Sys2Proof.Machine.Dev.setTw
  repeat' first
    | with_reducible exact h
    | with_reducible assumption
    | exact sub hS rfl
    | with_reducible exact rfl
    | with_reducible apply Dev_fp
    | fail_if_no_progress with_reducible refine upd (m := 0x4000001) ?_ hS rfl (by (repeat' apply And.intro) <;> first | exact .inr rfl | with_reducible exact .inl rfl)
    | dsimp only

theorem Dev_tempFlag (d : Dev) (flag : Fld) (thr : Fld) (src : Nat) (temp : Int) (h : Keep R M d0 d) (hS : Nat.land M 0x10000541 = 0x10000541) :
    Keep R M d0 (Sys2Proof.Machine.Dev.tempFlag d flag thr src temp) := by
  unfold Sys2Proof.Machine.Dev.tempFlag
  repeat' first
    | with_reducible exact h
    | with_reducible assumption
    | exact sub hS rfl
    | with_reducible exact rfl
    | with_reducible refine raisePlain ?_ (by with_unfolding_all exact rfl) ?_
    | with_reducible apply Dev_raise
    | with_reducible apply Dev_fp
    | with_reducible apply ite
    | dsimp only

theorem Dev_takeTemp (d : Dev) (t : Int) (h : Keep R M d0 d) (hS : Nat.land M 0x14000541 = 0x14000541) :
    Keep R M d0 (Sys2Proof.Machine.Dev.takeTemp d t) := by
  unfold Sys2Proof.Machine.Dev.takeTemp
  repeat' first
    | with_reducible exact h
    | with_reducible assumption
    | exact sub hS rfl
    | with_reducible exact rfl
    | with_reducible apply Dev_setTw
    | with_reducible apply Dev_fp
    | with_reducible apply Dev_tempFlag
    | dsimp only
    | split

theorem Dev_readSites (d : Dev) (m : Sense) (h : Keep R M d0 d) (hS : Nat.land M 0x14000541 = 0x14000541) :
    Keep R M d0 (Sys2Proof.Machine.Dev.readSites d m) := by
  unfold Sys2Proof.Machine.Dev.readSites
  repeat' first
    | with_reducible exact h
    | with_reducible assumption
    | exact sub hS rfl
    | with_reducible exact rfl
    | with_reducible apply Dev_takeTemp
    | with_reducible apply Dev_fp
    | with_reducible refine each (fun _ _ _ => ?_) ?_
    | with_reducible refine foldl (fun _ _ _ => ?_) ?_
    | fail_if_no_progress with_reducible refine upd (m := 0x14000541) ?_ hS rfl (by (repeat' apply And.intro) <;> first | exact .inr rfl | with_reducible exact .inl rfl)
    | with_reducible apply ite
    | dsimp only

theorem Dev_writeTrend (d : Dev) (h : Keep R M d0 d) (hS : Nat.land M 0x16000541 = 0x16000541) :
    Keep R M d0 (Sys2Proof.Machine.Dev.writeTrend d) := by
  unfold Sys2Proof.Machine.Dev.writeTrend
  repeat' first
    | with_reducible exact h
    | with_reducible assumption
    | exact sub hS rfl
    | with_reducible exact rfl
    | with_reducible apply Dev_journal
    | fail_if_no_progress with_reducible refine upd (m := 0x16000541) ?_ hS rfl (by (repeat' apply And.intro) <;> first | exact .inr rfl | with_reducible exact .inl rfl)
    | dsimp only

theorem Dev_chuckVolts (last : Sense) (a1 : Nat) (a2 : List Sense) (a3 : Dev) (h : Keep R M d0 a3) (hS : Nat.land M 0x14000541 = 0x14000541) :
    Keep R M d0 (Sys2Proof.Machine.Dev.chuckVolts last a1 a2 a3) := by
  induction a1 generalizing last a2 a3 with
  | zero => exact h
  | succ n ih =>
    unfold Sys2Proof.Machine.Dev.chuckVolts
    repeat' first
      | with_reducible apply ih
      | with_reducible exact h
      | with_reducible assumption
      | exact sub hS rfl
      | with_reducible exact rfl
      | with_reducible apply Dev_fp
      | with_reducible apply Dev_readSites
      | fail_if_no_progress with_reducible refine upd (m := 0x14000541) ?_ hS rfl (by (repeat' apply And.intro) <;> first | exact .inr rfl | with_reducible exact .inl rfl)
      | with_reducible apply ite
      | dsimp only
      | split

theorem Dev_exhausted (d : Dev) (h : Keep R M d0 d) (hS : Nat.land M 0x10000541 = 0x10000541) :
    Keep R M d0 (Sys2Proof.Machine.Dev.exhausted d) := by
  unfold Sys2Proof.Machine.Dev.exhausted
  repeat' first
    | with_reducible exact h
    | with_reducible assumption
    | exact sub hS rfl
    | with_reducible exact rfl
    | with_reducible refine raisePlain ?_ (by with_unfolding_all exact rfl) ?_
    | with_reducible apply Dev_raise
    | with_reducible apply Dev_fp
    | dsimp only

theorem Dev_writePlan (d : Dev) (step : Nat) (h : Keep R M d0 d) (hS : Nat.land M 0x12000541 = 0x12000541) :
    Keep R M d0 (Sys2Proof.Machine.Dev.writePlan d step) := by
  unfold Sys2Proof.Machine.Dev.writePlan
  repeat' first
    | with_reducible exact h
    | with_reducible assumption
    | exact sub hS rfl
    | with_reducible exact rfl
    | with_reducible apply Dev_journal
    | dsimp only

theorem Dev_chuckAge (d : Dev) (avs : AvsRes) (senses : List Sense) (h : Keep R M d0 d) (hS : Nat.land M 0x16000541 = 0x16000541) :
    O R M d0 (Sys2Proof.Machine.Dev.chuckAge d avs senses) := by
  unfold Sys2Proof.Machine.Dev.chuckAge
  repeat' first
    | with_reducible exact h
    | with_reducible assumption
    | exact sub hS rfl
    | with_reducible exact rfl
    | with_reducible apply Dev_readSites
    | with_reducible apply Dev_writeTrend
    | with_reducible apply Dev_chuckVolts
    | with_reducible apply Dev_exhausted
    | with_reducible apply Dev_writePlan
    | with_reducible refine raisePlain ?_ (by with_unfolding_all exact rfl) ?_
    | with_reducible apply Dev_raise
    | with_reducible apply Dev_count
    | with_reducible exact O.none
    | with_reducible apply O.some
    | with_reducible apply O.ite
    | with_reducible refine O.getD ?_ ?_
    | fail_if_no_progress with_reducible refine upd (m := 0x16000541) ?_ hS rfl (by (repeat' apply And.intro) <;> first | exact .inr rfl | with_reducible exact .inl rfl)
    | with_reducible apply ite
    | dsimp only
    | split

theorem Dev_endMeasure (d : Dev) (h : Keep R M d0 d) (hS : Nat.land M 0x16000541 = 0x16000541) :
    Keep R M d0 (Sys2Proof.Machine.Dev.endMeasure d) := by
  unfold Sys2Proof.Machine.Dev.endMeasure
  repeat' first
    | with_reducible exact h
    | with_reducible assumption
    | exact sub hS rfl
    | with_reducible exact rfl
    | with_reducible apply Dev_fp
    | with_reducible apply Dev_writePlan
    | with_reducible refine raisePlain ?_ (by with_unfolding_all exact rfl) ?_
    | with_reducible apply Dev_raise
    | with_reducible apply Dev_count
    | fail_if_no_progress with_reducible refine upd (m := 0x16000541) ?_ hS rfl (by (repeat' apply And.intro) <;> first | exact .inr rfl | with_reducible exact .inl rfl)
    | with_reducible apply ite
    | dsimp only

theorem Dev_ladderClock (d : Dev) (h : Keep R M d0 d) (hS : Nat.land M 0x16000541 = 0x16000541) :
    Keep R M d0 (Sys2Proof.Machine.Dev.ladderClock d) := by
  unfold Sys2Proof.Machine.Dev.ladderClock
  repeat' first
    | with_reducible exact h
    | with_reducible assumption
    | exact sub hS rfl
    | with_reducible exact rfl
    | with_reducible apply Dev_exhausted
    | with_reducible apply Dev_endMeasure
    | with_reducible apply Dev_fp
    | fail_if_no_progress with_reducible refine upd (m := 0x16000541) ?_ hS rfl (by (repeat' apply And.intro) <;> first | exact .inr rfl | with_reducible exact .inl rfl)
    | with_reducible apply ite
    | dsimp only
    | split

theorem Dev_ladder (d : Dev) (h : Keep R M d0 d) (hS : Nat.land M 0x16000541 = 0x16000541) :
    Keep R M d0 (Sys2Proof.Machine.Dev.ladder d) := by
  unfold Sys2Proof.Machine.Dev.ladder
  repeat' first
    | with_reducible exact h
    | with_reducible assumption
    | exact sub hS rfl
    | with_reducible exact rfl
    | with_reducible apply Dev_endMeasure
    | with_reducible refine raisePlain ?_ (by with_unfolding_all exact rfl) ?_
    | with_reducible apply Dev_raise
    | with_reducible apply Dev_fp
    | with_reducible apply Dev_ladderClock
    | fail_if_no_progress with_reducible refine upd (m := 0x16000541) ?_ hS rfl (by (repeat' apply And.intro) <;> first | exact .inr rfl | with_reducible exact .inl rfl)
    | with_reducible apply ite
    | dsimp only

theorem Dev_setPlan (d : Dev) (step : Nat) (voices : Nat) (h : Keep R M d0 d) (hS : Nat.land M 0x1 = 0x1) :
    Keep R M d0 (Sys2Proof.Machine.Dev.setPlan d step voices) := by
  unfold Sys2Proof.Machine.Dev.setPlan
  repeat' first
    | with_reducible exact h
    | with_reducible assumption
    | exact sub hS rfl
    | with_reducible exact rfl
    | with_reducible apply Dev_fp
    | with_reducible apply Dev_updateScore
    | with_reducible refine each (fun _ _ _ => ?_) ?_
    | with_reducible apply ite
    | dsimp only

theorem Dev_writeXref (d : Dev) (h : Keep R M d0 d) (hS : Nat.land M 0x12000541 = 0x12000541) :
    Keep R M d0 (Sys2Proof.Machine.Dev.writeXref d) := by
  unfold Sys2Proof.Machine.Dev.writeXref
  repeat' first
    | with_reducible exact h
    | with_reducible assumption
    | exact sub hS rfl
    | with_reducible exact rfl
    | with_reducible apply Dev_journal
    | with_reducible apply Dev_fp
    | with_reducible apply ite
    | dsimp only
    | split

theorem ageCheck (v : Word) (d : Dev) (h : Keep R M d0 d) (hS : Nat.land M 0x16000541 = 0x16000541) :
    Keep R M d0 (Sys2Proof.Machine.ageCheck v d) := by
  unfold Sys2Proof.Machine.ageCheck
  repeat' first
    | with_reducible exact h
    | with_reducible assumption
    | exact sub hS rfl
    | with_reducible exact rfl
    | with_reducible apply Dev_ageCtrl
    | with_reducible apply ite
    | dsimp only

theorem ageClear (v : Word) (d : Dev) (h : Keep R M d0 d) (hS : Nat.land M 0x16000541 = 0x16000541) :
    Keep R M d0 (Sys2Proof.Machine.ageClear v d) := by
  unfold Sys2Proof.Machine.ageClear
  repeat' first
    | with_reducible exact h
    | with_reducible assumption
    | exact sub hS rfl
    | with_reducible exact rfl
    | with_reducible apply Dev_ageCtrl
    | with_reducible apply ite
    | dsimp only

theorem clockStepApply (d : Dev) (h : Keep R M d0 d) (hS : Nat.land M 0x16000541 = 0x16000541) :
    Keep R M d0 (Sys2Proof.Machine.clockStepApply d) := by
  unfold Sys2Proof.Machine.clockStepApply
  repeat' first
    | with_reducible exact h
    | with_reducible assumption
    | exact sub hS rfl
    | with_reducible exact rfl
    | with_reducible apply Dev_endMeasure
    | with_reducible apply Dev_fp
    | with_reducible apply Dev_setPlan
    | fail_if_no_progress with_reducible refine upd (m := 0x16000541) ?_ hS rfl (by (repeat' apply And.intro) <;> first | exact .inr rfl | with_reducible exact .inl rfl)
    | with_reducible apply ite
    | dsimp only
    | split

theorem clockStepBegin (d : Dev) (h : Keep R M d0 d) (hS : Nat.land M 0x4000001 = 0x4000001) :
    Keep R M d0 (Sys2Proof.Machine.clockStepBegin d) := by
  unfold Sys2Proof.Machine.clockStepBegin
  repeat' first
    | with_reducible exact h
    | with_reducible assumption
    | exact sub hS rfl
    | with_reducible exact rfl
    | with_reducible apply Dev_fp
    | fail_if_no_progress with_reducible refine upd (m := 0x4000001) ?_ hS rfl (by (repeat' apply And.intro) <;> first | exact .inr rfl | with_reducible exact .inl rfl)
    | with_reducible apply ite
    | dsimp only
    | split

theorem contextRemoval (d : Dev) (h : Keep R M d0 d) (hS : Nat.land M 0x14002F41 = 0x14002F41) :
    Keep R M d0 (Sys2Proof.Machine.contextRemoval d) := by
  unfold Sys2Proof.Machine.contextRemoval
  repeat' first
    | with_reducible exact h
    | with_reducible assumption
    | exact sub hS rfl
    | with_reducible exact rfl
    | with_reducible apply Dev_fadeVoice
    | with_reducible refine each (fun _ _ _ => ?_) ?_
    | fail_if_no_progress with_reducible refine upd (m := 0x14002F41) ?_ hS rfl (by (repeat' apply And.intro) <;> first | exact .inr rfl | with_reducible exact .inl rfl)
    | with_reducible apply ite
    | dsimp only
    | split

theorem measurement (m : Sense) (d : Dev) (h : Keep R M d0 d) (hS : Nat.land M 0x16000541 = 0x16000541) :
    Keep R M d0 (Sys2Proof.Machine.measurement m d) := by
  unfold Sys2Proof.Machine.measurement
  repeat' first
    | with_reducible exact h
    | with_reducible assumption
    | exact sub hS rfl
    | with_reducible exact rfl
    | with_reducible apply Dev_readSites
    | with_reducible apply Dev_fp
    | with_reducible apply Dev_ladder
    | with_reducible apply Dev_writeTrend
    | fail_if_no_progress with_reducible refine upd (m := 0x16000541) ?_ hS rfl (by (repeat' apply And.intro) <;> first | exact .inr rfl | with_reducible exact .inl rfl)
    | with_reducible apply ite
    | dsimp only

theorem measurementLate (d : Dev) (h : Keep R M d0 d) (hS : Nat.land M 0x4000001 = 0x4000001) :
    Keep R M d0 (Sys2Proof.Machine.measurementLate d) := by
  unfold Sys2Proof.Machine.measurementLate
  repeat' first
    | with_reducible exact h
    | with_reducible assumption
    | exact sub hS rfl
    | with_reducible exact rfl
    | with_reducible apply Dev_count
    | fail_if_no_progress with_reducible refine upd (m := 0x4000001) ?_ hS rfl (by (repeat' apply And.intro) <;> first | exact .inr rfl | with_reducible exact .inl rfl)
    | with_reducible apply ite
    | dsimp only

theorem scheduledMeasurement (d : Dev) (h : Keep R M d0 d) (hS : Nat.land M 0x16000541 = 0x16000541) :
    Keep R M d0 (Sys2Proof.Machine.scheduledMeasurement d) := by
  unfold Sys2Proof.Machine.scheduledMeasurement
  repeat' first
    | with_reducible exact h
    | with_reducible assumption
    | exact sub hS rfl
    | with_reducible exact rfl
    | with_reducible apply Dev_writeXref
    | fail_if_no_progress with_reducible refine upd (m := 0x16000541) ?_ hS rfl (by (repeat' apply And.intro) <;> first | exact .inr rfl | with_reducible exact .inl rfl)
    | with_reducible apply ite
    | dsimp only

theorem temperatureSample (temp : Int) (d : Dev) (h : Keep R M d0 d) (hS : Nat.land M 0x14000541 = 0x14000541) :
    Keep R M d0 (Sys2Proof.Machine.temperatureSample temp d) := by
  unfold Sys2Proof.Machine.temperatureSample
  repeat' first
    | with_reducible exact h
    | with_reducible assumption
    | exact sub hS rfl
    | with_reducible exact rfl
    | with_reducible apply Dev_takeTemp
    | fail_if_no_progress with_reducible refine upd (m := 0x14000541) ?_ hS rfl (by (repeat' apply And.intro) <;> first | exact .inr rfl | with_reducible exact .inl rfl)
    | with_reducible apply ite
    | dsimp only

theorem voltageStep (avs : AvsRes) (m : Sense) (d : Dev) (h : Keep R M d0 d) (hS : Nat.land M 0x16000541 = 0x16000541) :
    Keep R M d0 (Sys2Proof.Machine.voltageStep avs m d) := by
  unfold Sys2Proof.Machine.voltageStep
  repeat' first
    | with_reducible exact h
    | with_reducible assumption
    | exact sub hS rfl
    | with_reducible exact rfl
    | with_reducible apply Dev_ladder
    | with_reducible apply Dev_readSites
    | with_reducible apply Dev_ladderClock
    | with_reducible refine raisePlain ?_ (by with_unfolding_all exact rfl) ?_
    | with_reducible apply Dev_raise
    | with_reducible apply Dev_fp
    | fail_if_no_progress with_reducible refine upd (m := 0x16000541) ?_ hS rfl (by (repeat' apply And.intro) <;> first | exact .inr rfl | with_reducible exact .inl rfl)
    | with_reducible apply ite
    | dsimp only

/-! ### Machine/Image.lean -/

theorem Dev_confirmSlot (d : Dev) (h : Keep R M d0 d) (hS : Nat.land M 0x409 = 0x409) :
    Keep R M d0 (Sys2Proof.Machine.Dev.confirmSlot d) := by
  unfold Sys2Proof.Machine.Dev.confirmSlot
  repeat' first
    | with_reducible exact h
    | with_reducible assumption
    | exact sub hS rfl
    | with_reducible exact rfl
    | with_reducible apply Dev_fp
    | with_reducible apply Dev_fprog
    | fail_if_no_progress with_reducible refine upd (m := 0x409) ?_ hS rfl (by (repeat' apply And.intro) <;> first | exact .inr rfl | with_reducible exact .inl rfl)
    | with_reducible apply ite
    | dsimp only

theorem Dev_countAttempt (d : Dev) (slot : Nat) (h : Keep R M d0 d) (hS : Nat.land M 0x8 = 0x8) :
    Keep R M d0 (Sys2Proof.Machine.Dev.countAttempt d slot) := by
  unfold Sys2Proof.Machine.Dev.countAttempt
  repeat' first
    | with_reducible exact h
    | with_reducible assumption
    | exact sub hS rfl
    | with_reducible exact rfl
    | with_reducible apply Dev_fprog
    | with_reducible apply ite
    | dsimp only
    | split

theorem Dev_probe (d : Dev) (f : FlashId) (h : Keep R M d0 d) (hS : Nat.land M 0x1 = 0x1) :
    S R M d0 (Sys2Proof.Machine.Dev.probe d f) := by
  unfold Sys2Proof.Machine.Dev.probe
  repeat' first
    | with_reducible exact h
    | with_reducible assumption
    | exact sub hS rfl
    | with_reducible exact rfl
    | with_reducible apply Dev_fp
    | with_reducible apply S.ite
    | with_reducible apply ite
    | dsimp only
    | with_reducible apply S.mk

theorem Dev_revokeSpent (d : Dev) (slot : Nat) (h : Keep R M d0 d) (hS : Nat.land M 0x8 = 0x8) :
    Keep R M d0 (Sys2Proof.Machine.Dev.revokeSpent d slot) := by
  unfold Sys2Proof.Machine.Dev.revokeSpent
  repeat' first
    | with_reducible exact h
    | with_reducible assumption
    | exact sub hS rfl
    | with_reducible exact rfl
    | with_reducible apply Dev_fprog
    | with_reducible apply ite
    | dsimp only

theorem Dev_showErased (d : Dev) (h : Keep R M d0 d) (hS : Nat.land M 0x1 = 0x1) :
    Keep R M d0 (Sys2Proof.Machine.Dev.showErased d) := by
  unfold Sys2Proof.Machine.Dev.showErased
  repeat' first
    | with_reducible exact h
    | with_reducible assumption
    | exact sub hS rfl
    | with_reducible exact rfl
    | with_reducible apply Dev_fp
    | with_reducible apply ite
    | dsimp only

/-! ### Machine/Link.lean -/

theorem Dev_becomeHead (d : Dev) (h : Keep R M d0 d) (hS : Nat.land M 0x10220001 = 0x10220001) :
    Keep R M d0 (Sys2Proof.Machine.Dev.becomeHead d) := by
  unfold Sys2Proof.Machine.Dev.becomeHead
  repeat' first
    | with_reducible exact h
    | with_reducible assumption
    | exact sub hS rfl
    | with_reducible exact rfl
    | with_reducible apply Dev_armPorts
    | with_reducible apply Dev_setChain
    | with_reducible apply Dev_fp
    | fail_if_no_progress with_reducible refine upd (m := 0x10220001) ?_ hS rfl (by (repeat' apply And.intro) <;> first | exact .inr rfl | with_reducible exact .inl rfl)
    | dsimp only

theorem Dev_drainHeld (a1 : List DnEntry) (a2 : Dev) (h : Keep R M d0 a2) (hS : Nat.land M 0x1020AF41 = 0x1020AF41) :
    Keep R M d0 (Sys2Proof.Machine.Dev.drainHeld a1 a2) := by
  induction a1 generalizing a2 with
  | nil => exact h
  | cons b bs ih =>
    unfold Sys2Proof.Machine.Dev.drainHeld
    repeat' first
      | with_reducible apply ih
      | with_reducible exact h
      | with_reducible assumption
      | exact sub hS rfl
      | with_reducible exact rfl
      | with_reducible apply Dev_enterDn
      | fail_if_no_progress with_reducible refine upd (m := 0x1020AF41) ?_ hS rfl (by (repeat' apply And.intro) <;> first | exact .inr rfl | with_reducible exact .inl rfl)
      | with_reducible apply ite
      | dsimp only
      | split

theorem Dev_idFor (d : Dev) (path : List Bool) (h : Keep R M d0 d) (hS : Nat.land M 0x200000 = 0x200000) :
    S R M d0 (Sys2Proof.Machine.Dev.idFor d path) := by
  unfold Sys2Proof.Machine.Dev.idFor
  repeat' first
    | with_reducible exact h
    | with_reducible assumption
    | exact sub hS rfl
    | with_reducible exact rfl
    | fail_if_no_progress with_reducible refine upd (m := 0x200000) ?_ hS rfl (by (repeat' apply And.intro) <;> first | exact .inr rfl | with_reducible exact .inl rfl)
    | dsimp only
    | split
    | with_reducible apply S.mk

theorem Dev_lockStep (d : Dev) (err : Nat) (h : Keep R M d0 d) (hS : Nat.land M 0x10202F41 = 0x10202F41) :
    Keep R M d0 (Sys2Proof.Machine.Dev.lockStep d err) := by
  unfold Sys2Proof.Machine.Dev.lockStep
  repeat' first
    | with_reducible exact h
    | with_reducible assumption
    | exact sub hS rfl
    | with_reducible exact rfl
    | with_reducible apply Dev_sendStatus
    | with_reducible apply Dev_fadeAll
    | with_reducible refine raisePlain ?_ (by with_unfolding_all exact rfl) ?_
    | with_reducible apply Dev_raise
    | with_reducible apply Dev_setChain
    | fail_if_no_progress with_reducible refine upd (m := 0x10202F41) ?_ hS rfl (by (repeat' apply And.intro) <;> first | exact .inr rfl | with_reducible exact .inl rfl)
    | with_reducible apply ite
    | dsimp only

theorem Dev_onMember (d : Dev) (dev : Nat) (f : Member → Dev → Dev) (h : Keep R M d0 d) (hf : ∀ a y, Keep R M d0 y → Keep R M d0 (f a y)) (hS : Nat.land M 0x0 = 0x0) :
    Keep R M d0 (Sys2Proof.Machine.Dev.onMember d dev f) := by
  unfold Sys2Proof.Machine.Dev.onMember
  repeat' first
    | with_reducible exact h
    | with_reducible assumption
    | exact sub hS rfl
    | with_reducible exact rfl
    | with_reducible apply hf
    | with_reducible apply ite
    | dsimp only
    | split

theorem Dev_regrid (d : Dev) (h : Keep R M d0 d) (hS : Nat.land M 0x800 = 0x800) :
    Keep R M d0 (Sys2Proof.Machine.Dev.regrid d) := by
  unfold Sys2Proof.Machine.Dev.regrid
  repeat' first
    | with_reducible exact h
    | with_reducible assumption
    | exact sub hS rfl
    | with_reducible exact rfl
    | fail_if_no_progress with_reducible refine upd (m := 0x800) ?_ hS rfl (by (repeat' apply And.intro) <;> first | exact .inr rfl | with_reducible exact .inl rfl)
    | dsimp only

theorem Dev_takeAssign (d : Dev) (m : AssignMsg) (h : Keep R M d0 d) (hS : Nat.land M 0x1020FF41 = 0x1020FF41) :
    Keep R M d0 (Sys2Proof.Machine.Dev.takeAssign d m) := by
  unfold Sys2Proof.Machine.Dev.takeAssign
  repeat' first
    | with_reducible exact h
    | with_reducible assumption
    | exact sub hS rfl
    | with_reducible exact rfl
    | with_reducible apply Dev_fp
    | with_reducible apply Dev_sendOn
    | with_reducible apply Dev_setChain
    | with_reducible apply Dev_portIsolate
    | with_reducible apply Dev_clearVoices
    | with_reducible apply Dev_fadeAll
    | with_reducible refine each (fun _ _ _ => ?_) ?_
    | fail_if_no_progress with_reducible refine upd (m := 0x1020FF41) ?_ hS rfl (by (repeat' apply And.intro) <;> first | exact .inr rfl | with_reducible exact .inl rfl)
    | with_reducible apply ite
    | dsimp only

theorem Dev_takeHello (d : Dev) (m : HelloMsg) (port : Nat) (h : Keep R M d0 d) (hS : Nat.land M 0x10208F41 = 0x10208F41) :
    Keep R M d0 (Sys2Proof.Machine.Dev.takeHello d m port) := by
  unfold Sys2Proof.Machine.Dev.takeHello
  repeat' first
    | with_reducible exact h
    | with_reducible assumption
    | exact sub hS rfl
    | with_reducible exact rfl
    | with_reducible apply Dev_idFor
    | with_reducible apply Dev_assignVia
    | with_reducible apply Dev_sendAssign
    | with_reducible apply Dev_showCensus
    | with_reducible refine raisePlain ?_ (by with_unfolding_all exact rfl) ?_
    | with_reducible apply Dev_raise
    | with_reducible apply Dev_shipTo
    | with_reducible refine S.out (by assumption) ?_
    | with_reducible apply S.snd
    | with_reducible apply S.ite
    | fail_if_no_progress with_reducible refine upd (m := 0x10208F41) ?_ hS rfl (by (repeat' apply And.intro) <;> first | exact .inr rfl | with_reducible exact .inl rfl)
    | with_reducible apply ite
    | dsimp only
    | split
    | with_reducible apply S.mk

theorem Dev_trained (d : Dev) (p : Nat) (role : Nat) (lpvMin : Nat) (lpvMax : Nat) (h : Keep R M d0 d) (hS : Nat.land M 0x10200541 = 0x10200541) :
    Keep R M d0 (Sys2Proof.Machine.Dev.trained d p role lpvMin lpvMax) := by
  unfold Sys2Proof.Machine.Dev.trained
  repeat' first
    | with_reducible exact h
    | with_reducible assumption
    | exact sub hS rfl
    | with_reducible exact rfl
    | with_reducible apply Dev_portIsolate
    | with_reducible apply Dev_setChain
    | with_reducible apply Dev_portUp
    | with_reducible apply ite
    | dsimp only

theorem abort (hdr : LinkHdr) (epoch : Word) (d : Dev) (h : Keep R M d0 d) (hS : Nat.land M 0x10200F41 = 0x10200F41) :
    Keep R M d0 (Sys2Proof.Machine.abort hdr epoch d) := by
  unfold Sys2Proof.Machine.abort
  repeat' first
    | with_reducible exact h
    | with_reducible assumption
    | exact sub hS rfl
    | with_reducible exact rfl
    | intro _
    | with_reducible apply Dev_onFrame
    | with_reducible refine raisePlain ?_ (by with_unfolding_all exact rfl) ?_
    | with_reducible apply Dev_raise
    | with_reducible apply Dev_dropBuffer
    | with_reducible apply ite
    | dsimp only

theorem ack (p : Nat) (seq : Nat) (credit : Nat) (d : Dev) (h : Keep R M d0 d) (hS : Nat.land M 0x200000 = 0x200000) :
    Keep R M d0 (Sys2Proof.Machine.ack p seq credit d) := by
  unfold Sys2Proof.Machine.ack
  repeat' first
    | with_reducible exact h
    | with_reducible assumption
    | exact sub hS rfl
    | with_reducible exact rfl
    | with_reducible apply Dev_setLport
    | with_reducible apply ite
    | dsimp only

theorem admission (d : Dev) (h : Keep R M d0 d) (hS : Nat.land M 0x1022AF41 = 0x1022AF41) :
    Keep R M d0 (Sys2Proof.Machine.admission d) := by
  unfold Sys2Proof.Machine.admission
  repeat' first
    | with_reducible exact h
    | with_reducible assumption
    | exact sub hS rfl
    | with_reducible exact rfl
    | with_reducible apply Dev_fp
    | with_reducible apply Dev_setReg
    | with_reducible apply Dev_drainHeld
    | with_reducible apply Dev_publish
    | with_reducible apply Dev_setChain
    | with_reducible refine raisePlain ?_ (by with_unfolding_all exact rfl) ?_
    | with_reducible apply Dev_raise
    | with_reducible apply Dev_armPorts
    | fail_if_no_progress with_reducible refine upd (m := 0x1022AF41) ?_ hS rfl (by (repeat' apply And.intro) <;> first | exact .inr rfl | with_reducible exact .inl rfl)
    | with_reducible apply ite
    | dsimp only
    | split

theorem assign (hdr : LinkHdr) (m : AssignMsg) (d : Dev) (h : Keep R M d0 d) (hS : Nat.land M 0x1020FF41 = 0x1020FF41) :
    Keep R M d0 (Sys2Proof.Machine.assign hdr m d) := by
  unfold Sys2Proof.Machine.assign
  repeat' first
    | with_reducible exact h
    | with_reducible assumption
    | exact sub hS rfl
    | with_reducible exact rfl
    | intro _
    | with_reducible apply Dev_onFrame
    | with_reducible apply Dev_assignVia
    | with_reducible apply Dev_sendOn
    | with_reducible apply Dev_takeAssign
    | with_reducible apply ite
    | dsimp only

theorem beacon (p : Nat) (d : Dev) (h : Keep R M d0 d) (hS : Nat.land M 0x200000 = 0x200000) :
    Keep R M d0 (Sys2Proof.Machine.beacon p d) := by
  unfold Sys2Proof.Machine.beacon
  repeat' first
    | with_reducible exact h
    | with_reducible assumption
    | exact sub hS rfl
    | with_reducible exact rfl
    | with_reducible apply Dev_setLport
    | with_reducible apply ite
    | dsimp only

theorem chainCommitDeadline (d : Dev) (h : Keep R M d0 d) (hS : Nat.land M 0x10200F41 = 0x10200F41) :
    Keep R M d0 (Sys2Proof.Machine.chainCommitDeadline d) := by
  unfold Sys2Proof.Machine.chainCommitDeadline
  repeat' first
    | with_reducible exact h
    | with_reducible assumption
    | exact sub hS rfl
    | with_reducible exact rfl
    | with_reducible apply Dev_broadcast
    | with_reducible apply Dev_fp
    | with_reducible apply Dev_abortChain
    | fail_if_no_progress with_reducible refine upd (m := 0x10200F41) ?_ hS rfl (by (repeat' apply And.intro) <;> first | exact .inr rfl | with_reducible exact .inl rfl)
    | with_reducible apply ite
    | dsimp only

theorem eventDn (hdr : LinkHdr) (entries : List DnEntry) (d : Dev) (h : Keep R M d0 d) (hS : Nat.land M 0x1020AF41 = 0x1020AF41) :
    Keep R M d0 (Sys2Proof.Machine.eventDn hdr entries d) := by
  unfold Sys2Proof.Machine.eventDn
  repeat' first
    | with_reducible exact h
    | with_reducible assumption
    | exact sub hS rfl
    | with_reducible exact rfl
    | intro _
    | with_reducible apply Dev_onFrame
    | with_reducible apply Dev_drainHeld
    | fail_if_no_progress with_reducible refine upd (m := 0x1020AF41) ?_ hS rfl (by (repeat' apply And.intro) <;> first | exact .inr rfl | with_reducible exact .inl rfl)
    | with_reducible apply ite
    | dsimp only
    | split

theorem eventUp (hdr : LinkHdr) (ev : EvRec) (d : Dev) (h : Keep R M d0 d) (hS : Nat.land M 0x200201 = 0x200201) :
    Keep R M d0 (Sys2Proof.Machine.eventUp hdr ev d) := by
  unfold Sys2Proof.Machine.eventUp
  repeat' first
    | with_reducible exact h
    | with_reducible assumption
    | exact sub hS rfl
    | with_reducible exact rfl
    | intro _
    | with_reducible apply Dev_onFrame
    | with_reducible apply Dev_post
    | with_reducible apply ite
    | dsimp only

theorem go (hdr : LinkHdr) (epoch : Word) (d : Dev) (h : Keep R M d0 d) (hS : Nat.land M 0x10200541 = 0x10200541) :
    Keep R M d0 (Sys2Proof.Machine.go hdr epoch d) := by
  unfold Sys2Proof.Machine.go
  repeat' first
    | with_reducible exact h
    | with_reducible assumption
    | exact sub hS rfl
    | with_reducible exact rfl
    | intro _
    | with_reducible apply Dev_onFrame
    | with_reducible apply Dev_fp
    | with_reducible refine raisePlain ?_ (by with_unfolding_all exact rfl) ?_
    | with_reducible apply Dev_raise
    | with_reducible apply Dev_count
    | fail_if_no_progress with_reducible refine upd (m := 0x10200541) ?_ hS rfl (by (repeat' apply And.intro) <;> first | exact .inr rfl | with_reducible exact .inl rfl)
    | with_reducible apply ite
    | dsimp only

theorem headlost (hdr : LinkHdr) (d : Dev) (h : Keep R M d0 d) (hS : Nat.land M 0x200001 = 0x200001) :
    Keep R M d0 (Sys2Proof.Machine.headlost hdr d) := by
  unfold Sys2Proof.Machine.headlost
  repeat' first
    | with_reducible exact h
    | with_reducible assumption
    | exact sub hS rfl
    | with_reducible exact rfl
    | intro _
    | with_reducible apply Dev_onFrame
    | with_reducible apply Dev_headLost
    | with_reducible apply ite
    | dsimp only

theorem headwaitExpiry (d : Dev) (h : Keep R M d0 d) (hS : Nat.land M 0x10220001 = 0x10220001) :
    Keep R M d0 (Sys2Proof.Machine.headwaitExpiry d) := by
  unfold Sys2Proof.Machine.headwaitExpiry
  repeat' first
    | with_reducible exact h
    | with_reducible assumption
    | exact sub hS rfl
    | with_reducible exact rfl
    | with_reducible apply Dev_becomeHead
    | with_reducible apply ite
    | dsimp only

theorem hello (hdr : LinkHdr) (m : HelloMsg) (d : Dev) (h : Keep R M d0 d) (hS : Nat.land M 0x10208F41 = 0x10208F41) :
    Keep R M d0 (Sys2Proof.Machine.hello hdr m d) := by
  unfold Sys2Proof.Machine.hello
  repeat' first
    | with_reducible exact h
    | with_reducible assumption
    | exact sub hS rfl
    | with_reducible exact rfl
    | intro _
    | with_reducible apply Dev_onFrame
    | with_reducible apply Dev_takeHello
    | with_reducible apply ite
    | dsimp only

theorem linkAdmit (hdr : LinkHdr) (sample : Word) (epoch : Word) (gen : Nat) (d : Dev) (h : Keep R M d0 d) (hS : Nat.land M 0x200001 = 0x200001) :
    Keep R M d0 (Sys2Proof.Machine.linkAdmit hdr sample epoch gen d) := by
  unfold Sys2Proof.Machine.linkAdmit
  repeat' first
    | with_reducible exact h
    | with_reducible assumption
    | exact sub hS rfl
    | with_reducible exact rfl
    | intro _
    | with_reducible apply Dev_onFrame
    | fail_if_no_progress with_reducible refine upd (m := 0x200001) ?_ hS rfl (by (repeat' apply And.intro) <;> first | exact .inr rfl | with_reducible exact .inl rfl)
    | with_reducible apply ite
    | dsimp only

theorem linkLoss (p : Nat) (d : Dev) (h : Keep R M d0 d) (hS : Nat.land M 0x10208F41 = 0x10208F41) :
    Keep R M d0 (Sys2Proof.Machine.linkLoss p d) := by
  unfold Sys2Proof.Machine.linkLoss
  repeat' first
    | with_reducible exact h
    | with_reducible assumption
    | exact sub hS rfl
    | with_reducible exact rfl
    | with_reducible apply Dev_losePort
    | with_reducible apply ite
    | dsimp only

theorem lockTimeout (d : Dev) (h : Keep R M d0 d) (hS : Nat.land M 0x10200001 = 0x10200001) :
    Keep R M d0 (Sys2Proof.Machine.lockTimeout d) := by
  unfold Sys2Proof.Machine.lockTimeout
  repeat' first
    | with_reducible exact h
    | with_reducible assumption
    | exact sub hS rfl
    | with_reducible exact rfl
    | with_reducible apply Dev_sendStatus
    | with_reducible apply Dev_setChain
    | with_reducible apply ite
    | dsimp only

theorem lost (hdr : LinkHdr) (depth : Nat) (t : Word) (path : List Bool) (d : Dev) (h : Keep R M d0 d) (hS : Nat.land M 0x10208F41 = 0x10208F41) :
    Keep R M d0 (Sys2Proof.Machine.lost hdr depth t path d) := by
  unfold Sys2Proof.Machine.lost
  repeat' first
    | with_reducible exact h
    | with_reducible assumption
    | exact sub hS rfl
    | with_reducible exact rfl
    | intro _
    | with_reducible apply Dev_onFrame
    | with_reducible apply Dev_loseSubtree
    | with_reducible apply ite
    | dsimp only

theorem memberIsolate (dev : Nat) (d : Dev) (h : Keep R M d0 d) (hS : Nat.land M 0x10208F41 = 0x10208F41) :
    Keep R M d0 (Sys2Proof.Machine.memberIsolate dev d) := by
  unfold Sys2Proof.Machine.memberIsolate
  repeat' first
    | with_reducible exact h
    | with_reducible assumption
    | exact sub hS rfl
    | with_reducible exact rfl
    | intro _
    | with_reducible apply Dev_onMember
    | with_reducible apply Dev_isolateMember
    | dsimp only

theorem memberQuarantine (dev : Nat) (d : Dev) (h : Keep R M d0 d) (hS : Nat.land M 0x10200541 = 0x10200541) :
    Keep R M d0 (Sys2Proof.Machine.memberQuarantine dev d) := by
  unfold Sys2Proof.Machine.memberQuarantine
  repeat' first
    | with_reducible exact h
    | with_reducible assumption
    | exact sub hS rfl
    | with_reducible exact rfl
    | intro _
    | with_reducible apply Dev_onMember
    | with_reducible apply Dev_quarantine
    | dsimp only

theorem memberRelease (dev : Nat) (d : Dev) (h : Keep R M d0 d) (hS : Nat.land M 0x10200541 = 0x10200541) :
    Keep R M d0 (Sys2Proof.Machine.memberRelease dev d) := by
  unfold Sys2Proof.Machine.memberRelease
  repeat' first
    | with_reducible exact h
    | with_reducible assumption
    | exact sub hS rfl
    | with_reducible exact rfl
    | intro _
    | with_reducible apply Dev_onMember
    | with_reducible apply Dev_admitMember
    | with_reducible apply ite
    | dsimp only

theorem memberShip (dev : Nat) (d : Dev) (h : Keep R M d0 d) (hS : Nat.land M 0x10200541 = 0x10200541) :
    Keep R M d0 (Sys2Proof.Machine.memberShip dev d) := by
  unfold Sys2Proof.Machine.memberShip
  repeat' first
    | with_reducible exact h
    | with_reducible assumption
    | exact sub hS rfl
    | with_reducible exact rfl
    | intro _
    | with_reducible apply Dev_onMember
    | with_reducible apply Dev_shipTo
    | dsimp only

theorem nak (p : Nat) (seq : Nat) (d : Dev) (h : Keep R M d0 d) (hS : Nat.land M 0x10208F41 = 0x10208F41) :
    Keep R M d0 (Sys2Proof.Machine.nak p seq d) := by
  unfold Sys2Proof.Machine.nak
  repeat' first
    | with_reducible exact h
    | with_reducible assumption
    | exact sub hS rfl
    | with_reducible exact rfl
    | with_reducible apply Dev_resend
    | with_reducible apply Dev_setLport
    | with_reducible apply ite
    | dsimp only

theorem orphanEntry (d : Dev) (h : Keep R M d0 d) (hS : Nat.land M 0x1022FF41 = 0x1022FF41) :
    Keep R M d0 (Sys2Proof.Machine.orphanEntry d) := by
  unfold Sys2Proof.Machine.orphanEntry
  repeat' first
    | with_reducible exact h
    | with_reducible assumption
    | exact sub hS rfl
    | with_reducible exact rfl
    | with_reducible apply Dev_portIdle
    | with_reducible apply Dev_stopPorts
    | with_reducible apply Dev_clearVoices
    | with_reducible refine raisePlain ?_ (by with_unfolding_all exact rfl) ?_
    | with_reducible apply Dev_raise
    | with_reducible apply Dev_setChain
    | with_reducible apply Dev_fp
    | with_reducible refine each (fun _ _ _ => ?_) ?_
    | fail_if_no_progress with_reducible refine upd (m := 0x1022FF41) ?_ hS rfl (by (repeat' apply And.intro) <;> first | exact .inr rfl | with_reducible exact .inl rfl)
    | with_reducible apply ite
    | dsimp only
    | split

theorem pdInterval (d : Dev) (h : Keep R M d0 d) (hS : Nat.land M 0x200000 = 0x200000) :
    Keep R M d0 (Sys2Proof.Machine.pdInterval d) := by
  unfold Sys2Proof.Machine.pdInterval
  repeat' first
    | with_reducible exact h
    | with_reducible assumption
    | exact sub hS rfl
    | with_reducible exact rfl
    | with_reducible apply Dev_sendOn
    | with_reducible apply ite
    | dsimp only

theorem pdReq (hdr : LinkHdr) (t2 : Nat) (t3 : Nat) (d : Dev) (h : Keep R M d0 d) (hS : Nat.land M 0x200001 = 0x200001) :
    Keep R M d0 (Sys2Proof.Machine.pdReq hdr t2 t3 d) := by
  unfold Sys2Proof.Machine.pdReq
  repeat' first
    | with_reducible exact h
    | with_reducible assumption
    | exact sub hS rfl
    | with_reducible exact rfl
    | intro _
    | with_reducible apply Dev_onFrame
    | with_reducible apply Dev_sendOn
    | with_reducible apply Dev_fp
    | with_reducible apply ite
    | dsimp only

theorem pdRsp (hdr : LinkHdr) (t1 : Nat) (t2 : Nat) (t3 : Nat) (t4 : Nat) (d : Dev) (h : Keep R M d0 d) (hS : Nat.land M 0x200001 = 0x200001) :
    Keep R M d0 (Sys2Proof.Machine.pdRsp hdr t1 t2 t3 t4 d) := by
  unfold Sys2Proof.Machine.pdRsp
  repeat' first
    | with_reducible exact h
    | with_reducible assumption
    | exact sub hS rfl
    | with_reducible exact rfl
    | intro _
    | with_reducible apply Dev_onFrame
    | with_reducible apply Dev_fp
    | with_reducible apply ite
    | dsimp only

theorem portEnable (p : Nat) (v : Word) (d : Dev) (h : Keep R M d0 d) (hS : Nat.land M 0x10208F41 = 0x10208F41) :
    Keep R M d0 (Sys2Proof.Machine.portEnable p v d) := by
  unfold Sys2Proof.Machine.portEnable
  repeat' first
    | with_reducible exact h
    | with_reducible assumption
    | exact sub hS rfl
    | with_reducible exact rfl
    | with_reducible apply Dev_fp
    | with_reducible apply Dev_portIdle
    | with_reducible apply Dev_losePort
    | with_reducible apply Dev_setLport
    | with_reducible apply Dev_setChain
    | fail_if_no_progress with_reducible refine upd (m := 0x10208F41) ?_ hS rfl (by (repeat' apply And.intro) <;> first | exact .inr rfl | with_reducible exact .inl rfl)
    | with_reducible apply ite
    | dsimp only

theorem prepare (hdr : LinkHdr) (epoch : Word) (t : Word) (d : Dev) (h : Keep R M d0 d) (hS : Nat.land M 0x10208F41 = 0x10208F41) :
    Keep R M d0 (Sys2Proof.Machine.prepare hdr epoch t d) := by
  unfold Sys2Proof.Machine.prepare
  repeat' first
    | with_reducible exact h
    | with_reducible assumption
    | exact sub hS rfl
    | with_reducible exact rfl
    | intro _
    | with_reducible apply Dev_onFrame
    | with_reducible apply Dev_showCheck
    | with_reducible apply Dev_sendUp
    | with_reducible apply Dev_fp
    | with_reducible apply Dev_fillBuffer
    | fail_if_no_progress with_reducible refine upd (m := 0x10208F41) ?_ hS rfl (by (repeat' apply And.intro) <;> first | exact .inr rfl | with_reducible exact .inl rfl)
    | with_reducible apply ite
    | dsimp only
    | split

theorem replayTimeout (p : Nat) (d : Dev) (h : Keep R M d0 d) (hS : Nat.land M 0x10208F41 = 0x10208F41) :
    Keep R M d0 (Sys2Proof.Machine.replayTimeout p d) := by
  unfold Sys2Proof.Machine.replayTimeout
  repeat' first
    | with_reducible exact h
    | with_reducible assumption
    | exact sub hS rfl
    | with_reducible exact rfl
    | with_reducible apply Dev_resend
    | with_reducible apply ite
    | dsimp only
    | split

theorem squelchBreak (p : Nat) (d : Dev) (h : Keep R M d0 d) (hS : Nat.land M 0x10200001 = 0x10200001) :
    Keep R M d0 (Sys2Proof.Machine.squelchBreak p d) := by
  unfold Sys2Proof.Machine.squelchBreak
  repeat' first
    | with_reducible exact h
    | with_reducible assumption
    | exact sub hS rfl
    | with_reducible exact rfl
    | with_reducible apply Dev_fp
    | with_reducible apply Dev_setLport
    | with_reducible apply Dev_setChain
    | fail_if_no_progress with_reducible refine upd (m := 0x10200001) ?_ hS rfl (by (repeat' apply And.intro) <;> first | exact .inr rfl | with_reducible exact .inl rfl)
    | with_reducible apply ite
    | dsimp only

theorem status (hdr : LinkHdr) (m : StatusMsg) (d : Dev) (h : Keep R M d0 d) (hS : Nat.land M 0x10208F41 = 0x10208F41) :
    Keep R M d0 (Sys2Proof.Machine.status hdr m d) := by
  unfold Sys2Proof.Machine.status
  repeat' first
    | with_reducible exact h
    | with_reducible assumption
    | exact sub hS rfl
    | with_reducible exact rfl
    | intro _
    | with_reducible apply Dev_onFrame
    | with_reducible apply Dev_fp
    | with_reducible apply Dev_setMember
    | with_reducible apply Dev_isolateMember
    | with_reducible refine raisePlain ?_ (by with_unfolding_all exact rfl) ?_
    | with_reducible apply Dev_raise
    | with_reducible apply Dev_admitMember
    | with_reducible apply ite
    | dsimp only
    | split

theorem sum (hdr : LinkHdr) (sample : Word) (first : Nat) (vals : List (Nat × BitVec 40)) (d : Dev) (h : Keep R M d0 d) (hS : Nat.land M 0x200001 = 0x200001) :
    Keep R M d0 (Sys2Proof.Machine.sum hdr sample first vals d) := by
  unfold Sys2Proof.Machine.sum
  repeat' first
    | with_reducible exact h
    | with_reducible assumption
    | exact sub hS rfl
    | with_reducible exact rfl
    | intro _
    | with_reducible apply Dev_onFrame
    | with_reducible apply Dev_setLport
    | with_reducible refine foldl (fun _ _ _ => ?_) ?_
    | with_reducible apply ite
    | dsimp only

theorem summary (hdr : LinkHdr) (tag : Nat) (epoch : Word) (sample : Word) (sums : List (Word × Nat)) (d : Dev) (h : Keep R M d0 d) (hS : Nat.land M 0x10208541 = 0x10208541) :
    Keep R M d0 (Sys2Proof.Machine.summary hdr tag epoch sample sums d) := by
  unfold Sys2Proof.Machine.summary
  repeat' first
    | with_reducible exact h
    | with_reducible assumption
    | exact sub hS rfl
    | with_reducible exact rfl
    | intro _
    | with_reducible apply Dev_onFrame
    | with_reducible apply Dev_quarantine
    | with_reducible apply Dev_setMember
    | with_reducible apply Dev_deduct
    | with_reducible refine foldl (fun _ _ _ => ?_) ?_
    | fail_if_no_progress with_reducible refine upd (m := 0x10208541) ?_ hS rfl (by (repeat' apply And.intro) <;> first | exact .inr rfl | with_reducible exact .inl rfl)
    | with_reducible apply ite
    | dsimp only
    | split

theorem sync (hdr : LinkHdr) (t : Word) (err : Nat) (d : Dev) (h : Keep R M d0 d) (hS : Nat.land M 0x10202FD1 = 0x10202FD1) :
    Keep R M d0 (Sys2Proof.Machine.sync hdr t err d) := by
  unfold Sys2Proof.Machine.sync
  repeat' first
    | with_reducible exact h
    | with_reducible assumption
    | exact sub hS rfl
    | with_reducible exact rfl
    | intro _
    | with_reducible apply Dev_onFrame
    | with_reducible apply Dev_fp
    | with_reducible apply Dev_regrid
    | with_reducible apply Dev_addOff
    | with_reducible apply Dev_fresh
    | with_reducible apply Dev_setAdj
    | with_reducible apply Dev_lockStep
    | with_reducible refine S.out (by assumption) ?_
    | with_reducible apply S.snd
    | with_reducible apply S.ite
    | fail_if_no_progress with_reducible refine upd (m := 0x10202FD1) ?_ hS rfl (by (repeat' apply And.intro) <;> first | exact .inr rfl | with_reducible exact .inl rfl)
    | with_reducible apply ite
    | dsimp only
    | split
    | with_reducible apply S.mk

theorem syncInterval (d : Dev) (h : Keep R M d0 d) (hS : Nat.land M 0x200000 = 0x200000) :
    Keep R M d0 (Sys2Proof.Machine.syncInterval d) := by
  unfold Sys2Proof.Machine.syncInterval
  repeat' first
    | with_reducible exact h
    | with_reducible assumption
    | exact sub hS rfl
    | with_reducible exact rfl
    | with_reducible apply Dev_sendOn
    | with_reducible refine each (fun _ _ _ => ?_) ?_
    | with_reducible apply ite
    | dsimp only

theorem trainingSet (p : Nat) (role : Nat) (lpvMin : Nat) (lpvMax : Nat) (set : Nat) (count : Nat) (d : Dev) (h : Keep R M d0 d) (hS : Nat.land M 0x10200541 = 0x10200541) :
    Keep R M d0 (Sys2Proof.Machine.trainingSet p role lpvMin lpvMax set count d) := by
  unfold Sys2Proof.Machine.trainingSet
  repeat' first
    | with_reducible exact h
    | with_reducible assumption
    | exact sub hS rfl
    | with_reducible exact rfl
    | with_reducible apply Dev_setLport
    | with_reducible apply Dev_trained
    | with_reducible apply ite
    | dsimp only

theorem trainingTimeout (p : Nat) (d : Dev) (h : Keep R M d0 d) (hS : Nat.land M 0x200001 = 0x200001) :
    Keep R M d0 (Sys2Proof.Machine.trainingTimeout p d) := by
  unfold Sys2Proof.Machine.trainingTimeout
  repeat' first
    | with_reducible exact h
    | with_reducible assumption
    | exact sub hS rfl
    | with_reducible exact rfl
    | with_reducible apply Dev_fp
    | with_reducible apply Dev_setLport
    | with_reducible apply ite
    | dsimp only

theorem vote (hdr : LinkHdr) (epoch : Word) (yes : Bool) (rule : Nat) (reg : Word) (d : Dev) (h : Keep R M d0 d) (hS : Nat.land M 0x10200541 = 0x10200541) :
    Keep R M d0 (Sys2Proof.Machine.vote hdr epoch yes rule reg d) := by
  unfold Sys2Proof.Machine.vote
  repeat' first
    | with_reducible exact h
    | with_reducible assumption
    | exact sub hS rfl
    | with_reducible exact rfl
    | intro _
    | with_reducible apply Dev_onFrame
    | with_reducible apply Dev_quarantine
    | with_reducible apply Dev_fp
    | fail_if_no_progress with_reducible refine upd (m := 0x10200541) ?_ hS rfl (by (repeat' apply And.intro) <;> first | exact .inr rfl | with_reducible exact .inl rfl)
    | with_reducible apply ite
    | dsimp only
    | split

/-! ### Machine/Entry.lean -/

theorem Dev_blank (d : Dev) (por : Bool) (h : Keep R M d0 d) (hS : Nat.land M 0x1FFFFFFF = 0x1FFFFFFF) :
    Keep R M d0 (Sys2Proof.Machine.Dev.blank d por) := by
  unfold Sys2Proof.Machine.Dev.blank
  dsimp only
  refine Dev_setReg _ _ _ (Dev_setReg _ _ _ (Dev_setReg _ _ _ (Dev_setReg _ _ _ ⟨h.fuses, fun w => ?_, splice_trans hS h.frame rfl⟩ (sub hS rfl)) (sub hS rfl)) (sub hS rfl)) (sub hS rfl)
  have := (canonical_iff _).mp (h.canon w)
  refine (canonical_iff _).mpr ⟨rfl, ?_, this.2.2.1, rfl⟩
  cases por
  · exact this.2.1
  · rfl

theorem Dev_confirmAtRun (d : Dev) (h : Keep R M d0 d) (hS : Nat.land M 0x409 = 0x409) :
    Keep R M d0 (Sys2Proof.Machine.Dev.confirmAtRun d) := by
  unfold Sys2Proof.Machine.Dev.confirmAtRun
  repeat' first
    | with_reducible exact h
    | with_reducible assumption
    | exact sub hS rfl
    | with_reducible exact rfl
    | with_reducible apply Dev_confirmSlot
    | with_reducible apply ite
    | dsimp only

theorem Dev_countBoot (d : Dev) (h : Keep R M d0 d) (hS : Nat.land M 0x12000541 = 0x12000541) :
    Keep R M d0 (Sys2Proof.Machine.Dev.countBoot d) := by
  unfold Sys2Proof.Machine.Dev.countBoot
  repeat' first
    | with_reducible exact h
    | with_reducible assumption
    | exact sub hS rfl
    | with_reducible exact rfl
    | with_reducible apply Dev_addCounter
    | with_reducible apply Dev_writeCounters
    | with_reducible apply ite
    | dsimp only

theorem Dev_enterRest (d : Dev) (h : Keep R M d0 d) (hS : Nat.land M 0x106208C1 = 0x106208C1) :
    Keep R M d0 (Sys2Proof.Machine.Dev.enterRest d) := by
  unfold Sys2Proof.Machine.Dev.enterRest
  repeat' first
    | with_reducible exact h
    | with_reducible assumption
    | exact sub hS rfl
    | with_reducible exact rfl
    | with_reducible apply Dev_portIdle
    | with_reducible apply Dev_stopStreams
    | with_reducible apply Dev_stopPorts
    | with_reducible apply Dev_enter
    | with_reducible apply Dev_fp
    | with_reducible apply Dev_showPins
    | with_reducible refine each (fun _ _ _ => ?_) ?_
    | fail_if_no_progress with_reducible refine upd (m := 0x106208C1) ?_ hS rfl (by (repeat' apply And.intro) <;> first | exact .inr rfl | with_reducible exact .inl rfl)
    | with_reducible apply ite
    | dsimp only

theorem Dev_setAnchor (d : Dev) (h : Keep R M d0 d) (hS : Nat.land M 0x10800 = 0x10800) :
    Keep R M d0 (Sys2Proof.Machine.Dev.setAnchor d) := by
  unfold Sys2Proof.Machine.Dev.setAnchor
  repeat' first
    | with_reducible exact h
    | with_reducible assumption
    | exact sub hS rfl
    | with_reducible exact rfl
    | fail_if_no_progress with_reducible refine upd (m := 0x10800) ?_ hS rfl (by (repeat' apply And.intro) <;> first | exact .inr rfl | with_reducible exact .inl rfl)
    | dsimp only

theorem Dev_restampHist (d : Dev) (t : Word) (all : Bool) (h : Keep R M d0 d) (hS : Nat.land M 0x200 = 0x200) :
    Keep R M d0 (Sys2Proof.Machine.Dev.restampHist d t all) := by
  unfold Sys2Proof.Machine.Dev.restampHist
  repeat' first
    | with_reducible exact h
    | with_reducible assumption
    | exact sub hS rfl
    | with_reducible exact rfl
    | with_reducible refine foldl (fun _ _ _ => ?_) ?_
    | fail_if_no_progress with_reducible refine upd (m := 0x200) ?_ hS rfl (by (repeat' apply And.intro) <;> first | exact .inr rfl | with_reducible exact .inl rfl)
    | with_reducible apply ite
    | dsimp only
    | split

theorem Dev_publishExt (d : Dev) (sec : Nat) (t : Word) (h : Keep R M d0 d) (hS : Nat.land M 0x1 = 0x1) :
    Keep R M d0 (Sys2Proof.Machine.Dev.publishExt d sec t) := by
  unfold Sys2Proof.Machine.Dev.publishExt
  repeat' first
    | with_reducible exact h
    | with_reducible assumption
    | exact sub hS rfl
    | with_reducible exact rfl
    | with_reducible apply Dev_fp
    | with_reducible apply Dev_setReg
    | dsimp only

theorem Dev_takeRole (d : Dev) (h : Keep R M d0 d) (hS : Nat.land M 0x10220001 = 0x10220001) :
    Keep R M d0 (Sys2Proof.Machine.Dev.takeRole d) := by
  unfold Sys2Proof.Machine.Dev.takeRole
  repeat' first
    | with_reducible exact h
    | with_reducible assumption
    | exact sub hS rfl
    | with_reducible exact rfl
    | with_reducible apply Dev_becomeHead
    | with_reducible apply Dev_setChain
    | fail_if_no_progress with_reducible refine upd (m := 0x10220001) ?_ hS rfl (by (repeat' apply And.intro) <;> first | exact .inr rfl | with_reducible exact .inl rfl)
    | with_reducible apply ite
    | dsimp only

theorem Dev_enterRun (d : Dev) (h : Keep R M d0 d) (hS : Nat.land M 0x12370F4B = 0x12370F4B) :
    Keep R M d0 (Sys2Proof.Machine.Dev.enterRun d) := by
  unfold Sys2Proof.Machine.Dev.enterRun
  repeat' first
    | with_reducible exact h
    | with_reducible assumption
    | exact sub hS rfl
    | with_reducible exact rfl
    | with_reducible apply Dev_giveBank
    | with_reducible apply Dev_setReg
    | with_reducible apply Dev_setAnchor
    | with_reducible apply Dev_enter
    | with_reducible apply Dev_setDout
    | with_reducible apply Dev_takeBanks
    | with_reducible apply Dev_restampHist
    | with_reducible apply Dev_autoTimers
    | with_reducible apply Dev_cvRun
    | with_reducible apply Dev_publishExt
    | with_reducible apply Dev_fp
    | with_reducible apply Dev_takeRole
    | with_reducible apply Dev_countBoot
    | with_reducible apply Dev_showErased
    | with_reducible apply Dev_confirmAtRun
    | with_reducible refine each (fun _ _ _ => ?_) ?_
    | fail_if_no_progress with_reducible refine upd (m := 0x12370F4B) ?_ hS rfl (by (repeat' apply And.intro) <;> first | exact .inr rfl | with_reducible exact .inl rfl)
    | with_reducible apply ite
    | dsimp only

theorem Dev_stopEngines (d : Dev) (h : Keep R M d0 d) (hS : Nat.land M 0x720801 = 0x720801) :
    Keep R M d0 (Sys2Proof.Machine.Dev.stopEngines d) := by
  unfold Sys2Proof.Machine.Dev.stopEngines
  repeat' first
    | with_reducible exact h
    | with_reducible assumption
    | exact sub hS rfl
    | with_reducible exact rfl
    | with_reducible apply Dev_portIdle
    | with_reducible apply Dev_stopTimers
    | with_reducible apply Dev_stopStreams
    | with_reducible apply Dev_stopPorts
    | with_reducible refine each (fun _ _ _ => ?_) ?_
    | fail_if_no_progress with_reducible refine upd (m := 0x720801) ?_ hS rfl (by (repeat' apply And.intro) <;> first | exact .inr rfl | with_reducible exact .inl rfl)
    | dsimp only

theorem Dev_handover (d : Dev) (ns : Nat) (h : Keep R M d0 d) (hS : Nat.land M 0xC1 = 0xC1) :
    Keep R M d0 (Sys2Proof.Machine.Dev.handover d ns) := by
  unfold Sys2Proof.Machine.Dev.handover
  repeat' first
    | with_reducible exact h
    | with_reducible assumption
    | exact sub hS rfl
    | with_reducible exact rfl
    | with_reducible apply Dev_addOff
    | with_reducible apply Dev_fp
    | fail_if_no_progress with_reducible refine upd (m := 0xC1) ?_ hS rfl (by (repeat' apply And.intro) <;> first | exact .inr rfl | with_reducible exact .inl rfl)
    | dsimp only
    | split

theorem Dev_hostClear (d : Dev) (h : Keep R M d0 d) (hS : Nat.land M 0x1800000 = 0x1800000) :
    Keep R M d0 (Sys2Proof.Machine.Dev.hostClear d) := by
  unfold Sys2Proof.Machine.Dev.hostClear
  repeat' first
    | with_reducible exact h
    | with_reducible assumption
    | exact sub hS rfl
    | with_reducible exact rfl
    | with_reducible apply Dev_setUart
    | fail_if_no_progress with_reducible refine upd (m := 0x1800000) ?_ hS rfl (by (repeat' apply And.intro) <;> first | exact .inr rfl | with_reducible exact .inl rfl)
    | dsimp only

theorem Dev_serviceActions (d : Dev) (h : Keep R M d0 d) (hS : Nat.land M 0x1800005 = 0x1800005) :
    Keep R M d0 (Sys2Proof.Machine.Dev.serviceActions d) := by
  unfold Sys2Proof.Machine.Dev.serviceActions
  repeat' first
    | with_reducible exact h
    | with_reducible assumption
    | exact sub hS rfl
    | with_reducible exact rfl
    | with_reducible apply Dev_hostClear
    | with_reducible apply Dev_fillHeartwood
    | with_reducible apply Dev_giveBank
    | with_reducible refine each (fun _ _ _ => ?_) ?_
    | with_reducible apply ite
    | dsimp only

theorem Dev_enterService (d : Dev) (h : Keep R M d0 d) (hS : Nat.land M 0x11F209C5 = 0x11F209C5) :
    Keep R M d0 (Sys2Proof.Machine.Dev.enterService d) := by
  unfold Sys2Proof.Machine.Dev.enterService
  repeat' first
    | with_reducible exact h
    | with_reducible assumption
    | exact sub hS rfl
    | with_reducible exact rfl
    | with_reducible apply Dev_stopEngines
    | with_reducible apply Dev_handover
    | with_reducible apply Dev_serviceActions
    | with_reducible apply Dev_enter
    | fail_if_no_progress with_reducible refine upd (m := 0x11F209C5) ?_ hS rfl (by (repeat' apply And.intro) <;> first | exact .inr rfl | with_reducible exact .inl rfl)
    | dsimp only

theorem Dev_resumeRun (d : Dev) (hfrcNs : Nat) (h : Keep R M d0 d) (hS : Nat.land M 0x10070AC1 = 0x10070AC1) :
    Keep R M d0 (Sys2Proof.Machine.Dev.resumeRun d hfrcNs) := by
  unfold Sys2Proof.Machine.Dev.resumeRun
  repeat' first
    | with_reducible exact h
    | with_reducible assumption
    | exact sub hS rfl
    | with_reducible exact rfl
    | with_reducible apply Dev_enter
    | with_reducible apply Dev_handover
    | with_reducible apply Dev_setAnchor
    | with_reducible apply Dev_armPorts
    | with_reducible apply Dev_restampHist
    | with_reducible apply Dev_showPins
    | with_reducible apply Dev_cvRun
    | fail_if_no_progress with_reducible refine upd (m := 0x10070AC1) ?_ hS rfl (by (repeat' apply And.intro) <;> first | exact .inr rfl | with_reducible exact .inl rfl)
    | with_reducible apply ite
    | dsimp only

theorem Dev_sample (d : Dev) (s : Straps) (h : Keep R M d0 d) (hS : Nat.land M 0x41 = 0x41) :
    Keep R M d0 (Sys2Proof.Machine.Dev.sample d s) := by
  unfold Sys2Proof.Machine.Dev.sample
  repeat' first
    | with_reducible exact h
    | with_reducible assumption
    | exact sub hS rfl
    | with_reducible exact rfl
    | with_reducible apply Dev_fp
    | fail_if_no_progress with_reducible refine upd (m := 0x41) ?_ hS rfl (by (repeat' apply And.intro) <;> first | exact .inr rfl | with_reducible exact .inl rfl)
    | with_reducible apply ite
    | dsimp only

theorem Dev_shelfEntry (d : Dev) (h : Keep R M d0 d) (hS : Nat.land M 0x840 = 0x840) :
    Keep R M d0 (Sys2Proof.Machine.Dev.shelfEntry d) := by
  unfold Sys2Proof.Machine.Dev.shelfEntry
  repeat' first
    | with_reducible exact h
    | with_reducible assumption
    | exact sub hS rfl
    | with_reducible exact rfl
    | fail_if_no_progress with_reducible refine upd (m := 0x840) ?_ hS rfl (by (repeat' apply And.intro) <;> first | exact .inr rfl | with_reducible exact .inl rfl)
    | dsimp only

/-! ### Machine/Boot.lean -/

theorem Dev_pairWrite (d : Dev) (a1 : Nat) (v : Word) (h : Keep R M d0 d) (hS : Nat.land M 0x100403 = 0x100403) :
    Keep R M d0 (Sys2Proof.Machine.Dev.pairWrite d a1 v) := by
  unfold Sys2Proof.Machine.Dev.pairWrite
  repeat' first
    | with_reducible exact h
    | with_reducible assumption
    | exact sub hS rfl
    | with_reducible exact rfl
    | with_reducible apply coefficientWrite
    | with_reducible apply Dev_writeStaged
    | with_reducible apply Dev_setReg
    | with_reducible apply Dev_tmrPerWrite
    | with_reducible apply Dev_tmrCmpWrite
    | with_reducible refine foldl (fun _ _ _ => ?_) ?_
    | with_reducible apply ite
    | dsimp only
    | split

theorem Dev_applyRecord (d : Dev) (r : JRec) (h : Keep R M d0 d) (hS : Nat.land M 0x6100407 = 0x6100407) :
    Keep R M d0 (Sys2Proof.Machine.Dev.applyRecord d r) := by
  unfold Sys2Proof.Machine.Dev.applyRecord
  repeat' first
    | with_reducible exact h
    | with_reducible assumption
    | exact sub hS rfl
    | with_reducible exact rfl
    | with_reducible apply Dev_wbs
    | with_reducible apply Dev_setReg
    | with_reducible apply Dev_fp
    | with_reducible apply Dev_pairWrite
    | with_reducible apply Dev_setTw
    | with_reducible refine each (fun _ _ _ => ?_) ?_
    | fail_if_no_progress with_reducible refine upd (m := 0x6100407) ?_ hS rfl (by (repeat' apply And.intro) <;> first | exact .inr rfl | with_reducible exact .inl rfl)
    | with_reducible apply ite
    | dsimp only
    | split

theorem Dev_applySettings (d : Dev) (h : Keep R M d0 d) (hS : Nat.land M 0x100403 = 0x100403) :
    Keep R M d0 (Sys2Proof.Machine.Dev.applySettings d) := by
  unfold Sys2Proof.Machine.Dev.applySettings
  repeat' first
    | with_reducible exact h
    | with_reducible assumption
    | exact sub hS rfl
    | with_reducible exact rfl
    | with_reducible apply Dev_pairWrite
    | with_reducible apply Dev_fp
    | with_reducible refine each (fun _ _ _ => ?_) ?_
    | with_reducible refine foldl (fun _ _ _ => ?_) ?_
    | with_reducible apply ite
    | dsimp only
    | split

theorem Dev_bootCode (d : Dev) (c : Nat) (h : Keep R M d0 d) (hS : Nat.land M 0x1 = 0x1) :
    Keep R M d0 (Sys2Proof.Machine.Dev.bootCode d c) := by
  unfold Sys2Proof.Machine.Dev.bootCode
  repeat' first
    | with_reducible exact h
    | with_reducible assumption
    | exact sub hS rfl
    | with_reducible exact rfl
    | with_reducible apply Dev_fp
    | with_reducible apply ite
    | dsimp only

theorem Dev_keepRule (d : Dev) (s : BootStep) (h : Keep R M d0 d) (hS : Nat.land M 0x1 = 0x1) :
    Keep R M d0 (Sys2Proof.Machine.Dev.keepRule d s) := by
  unfold Sys2Proof.Machine.Dev.keepRule
  repeat' first
    | with_reducible exact h
    | with_reducible assumption
    | exact sub hS rfl
    | with_reducible exact rfl
    | with_reducible apply Dev_showCheck
    | with_reducible apply ite
    | dsimp only

theorem Dev_undoRegs (d : Dev) (h : Keep R M d0 d) (hS : Nat.land M 0x1 = 0x1) :
    Keep R M d0 (Sys2Proof.Machine.Dev.undoRegs d) := by
  unfold Sys2Proof.Machine.Dev.undoRegs
  repeat' first
    | with_reducible exact h
    | with_reducible assumption
    | exact sub hS rfl
    | with_reducible exact rfl
    | with_reducible apply Dev_setReg
    | with_reducible refine each (fun _ _ _ => ?_) ?_
    | with_reducible apply ite
    | dsimp only

theorem Dev_clearMemory (d : Dev) (h : Keep R M d0 d) (hS : Nat.land M 0x45 = 0x45) :
    Keep R M d0 (Sys2Proof.Machine.Dev.clearMemory d) := by
  unfold Sys2Proof.Machine.Dev.clearMemory
  exact Dev_fp _ _ _ (upd (m := 0x40) (setMem h (sub hS rfl) (fun w => twf_filter (fun _ => (0 : Byte)) _ _ w)) (sub hS rfl) rfl
    (by (repeat' apply And.intro) <;> first | exact .inr rfl | with_reducible exact .inl rfl)) (sub hS rfl)

theorem Dev_undoAttempt (d : Dev) (h : Keep R M d0 d) (hS : Nat.land M 0x6144247 = 0x6144247) :
    Keep R M d0 (Sys2Proof.Machine.Dev.undoAttempt d) := by
  unfold Sys2Proof.Machine.Dev.undoAttempt
  repeat' first
    | with_reducible exact h
    | with_reducible assumption
    | exact sub hS rfl
    | with_reducible exact rfl
    | with_reducible apply Dev_undoRegs
    | with_reducible apply Dev_wbs
    | with_reducible apply Dev_clearMemory
    | fail_if_no_progress with_reducible refine upd (m := 0x6144247) ?_ hS rfl (by (repeat' apply And.intro) <;> first | exact .inr rfl | with_reducible exact .inl rfl)
    | dsimp only

theorem Dev_bootFail (d : Dev) (b : Boot) (c : Nat) (h : Keep R M d0 d) (hS : Nat.land M 0x17F64BC7 = 0x17F64BC7) :
    Keep R M d0 (Sys2Proof.Machine.Dev.bootFail d b c) := by
  unfold Sys2Proof.Machine.Dev.bootFail
  repeat' first
    | with_reducible exact h
    | with_reducible assumption
    | exact sub hS rfl
    | with_reducible exact rfl
    | with_reducible apply Dev_bootCode
    | with_reducible apply Dev_keepRule
    | with_reducible apply Dev_undoAttempt
    | with_reducible apply Dev_enterService
    | fail_if_no_progress with_reducible refine upd (m := 0x17F64BC7) ?_ hS rfl (by (repeat' apply And.intro) <;> first | exact .inr rfl | with_reducible exact .inl rfl)
    | with_reducible apply ite
    | dsimp only

theorem Dev_slotStep (d : Dev) (b : Boot) (h : Keep R M d0 d) (hS : Nat.land M 0x11F209CD = 0x11F209CD) :
    Keep R M d0 (Sys2Proof.Machine.Dev.slotStep d b) := by
  unfold Sys2Proof.Machine.Dev.slotStep
  repeat' first
    | with_reducible exact h
    | with_reducible assumption
    | exact sub hS rfl
    | with_reducible exact rfl
    | with_reducible apply Dev_revokeSpent
    | with_reducible apply Dev_enterService
    | with_reducible apply Dev_bootCode
    | with_reducible apply Dev_countAttempt
    | fail_if_no_progress with_reducible refine upd (m := 0x11F209CD) ?_ hS rfl (by (repeat' apply And.intro) <;> first | exact .inr rfl | with_reducible exact .inl rfl)
    | with_reducible apply ite
    | dsimp only
    | split

theorem Dev_keepHeader (d : Dev) (hdr : List Byte) (h : Keep R M d0 d) (hS : Nat.land M 0x405 = 0x405) :
    Keep R M d0 (Sys2Proof.Machine.Dev.keepHeader d hdr) := by
  unfold Sys2Proof.Machine.Dev.keepHeader
  repeat' first
    | with_reducible exact h
    | with_reducible assumption
    | exact sub hS rfl
    | with_reducible exact rfl
    | with_reducible apply Dev_wbs
    | with_reducible apply Dev_setReg
    | with_reducible refine each (fun _ _ _ => ?_) ?_
    | fail_if_no_progress with_reducible refine upd (m := 0x405) ?_ hS rfl (by (repeat' apply And.intro) <;> first | exact .inr rfl | with_reducible exact .inl rfl)
    | dsimp only

theorem Dev_romSpindles (d : Dev) (h : Keep R M d0 d) (hS : Nat.land M 0x41 = 0x41) :
    Keep R M d0 (Sys2Proof.Machine.Dev.romSpindles d) := by
  unfold Sys2Proof.Machine.Dev.romSpindles
  repeat' first
    | with_reducible exact h
    | with_reducible assumption
    | exact sub hS rfl
    | with_reducible exact rfl
    | fail_if_no_progress with_reducible refine upd (m := 0x40) ?_ (sub hS rfl) rfl (by (repeat' apply And.intro) <;> first | exact .inr rfl | with_reducible exact .inl rfl)
    | with_reducible apply Dev_fp
    | with_reducible refine each (fun _ _ _ => ?_) ?_
    | with_reducible apply ite
    | dsimp only

theorem Dev_loadPairs (d : Dev) (b : List Byte) (h : Keep R M d0 d) (hS : Nat.land M 0x100403 = 0x100403) :
    E R M d0 (Sys2Proof.Machine.Dev.loadPairs d b) := by
  unfold Sys2Proof.Machine.Dev.loadPairs
  repeat' first
    | with_reducible exact h
    | with_reducible assumption
    | exact sub hS rfl
    | with_reducible exact rfl
    | with_reducible apply Dev_pairWrite
    | with_reducible exact E.error
    | with_reducible apply E.ok
    | with_reducible apply E.ite
    | with_reducible refine each (fun _ _ _ => ?_) ?_
    | with_reducible apply ite
    | dsimp only

theorem Dev_loadProgram (d : Dev) (s : List Byte) (taken : Nat) (h : Keep R M d0 d) (hS : Nat.land M 0x4005 = 0x4005) :
    E R M d0 (Sys2Proof.Machine.Dev.loadProgram d s taken) := by
  unfold Sys2Proof.Machine.Dev.loadProgram
  repeat' first
    | with_reducible exact h
    | with_reducible assumption
    | exact sub hS rfl
    | with_reducible exact rfl
    | with_reducible apply Dev_wbs
    | with_reducible apply Dev_fp
    | with_reducible apply Dev_setSpn
    | with_reducible exact E.error
    | with_reducible apply E.ok
    | with_reducible apply E.ite
    | with_reducible refine each (fun _ _ _ => ?_) ?_
    | with_reducible apply ite
    | dsimp only
    | split

theorem Dev_loadPatches (d : Dev) (b : List Byte) (recs : List (Nat × Nat)) (h : Keep R M d0 d) (hS : Nat.land M 0x205 = 0x205) :
    E R M d0 (Sys2Proof.Machine.Dev.loadPatches d b recs) := by
  unfold Sys2Proof.Machine.Dev.loadPatches
  repeat' first
    | with_reducible exact h
    | with_reducible assumption
    | exact sub hS rfl
    | with_reducible exact rfl
    | with_reducible apply Dev_wbs
    | with_reducible exact E.error
    | with_reducible apply E.ok
    | with_reducible apply E.ite
    | with_reducible refine each (fun _ _ _ => ?_) ?_
    | fail_if_no_progress with_reducible refine upd (m := 0x205) ?_ hS rfl (by (repeat' apply And.intro) <;> first | exact .inr rfl | with_reducible exact .inl rfl)
    | with_reducible apply ite
    | dsimp only

theorem Dev_loadTuning (d : Dev) (b : List Byte) (h : Keep R M d0 d) (hS : Nat.land M 0x200 = 0x200) :
    Keep R M d0 (Sys2Proof.Machine.Dev.loadTuning d b) := by
  unfold Sys2Proof.Machine.Dev.loadTuning
  repeat' first
    | with_reducible exact h
    | with_reducible assumption
    | exact sub hS rfl
    | with_reducible exact rfl
    | with_reducible apply Dev_addHist
    | with_reducible refine each (fun _ _ _ => ?_) ?_
    | dsimp only
    | split

theorem Dev_loadChainPolicy (d : Dev) (b : List Byte) (h : Keep R M d0 d) (hS : Nat.land M 0x1 = 0x1) :
    E R M d0 (Sys2Proof.Machine.Dev.loadChainPolicy d b) := by
  unfold Sys2Proof.Machine.Dev.loadChainPolicy
  repeat' first
    | with_reducible exact h
    | with_reducible assumption
    | exact sub hS rfl
    | with_reducible exact rfl
    | with_reducible apply Dev_fp
    | with_reducible exact E.error
    | with_reducible apply E.ok
    | with_reducible apply E.ite
    | with_reducible apply ite
    | dsimp only
    | split

theorem Dev_loadJournalPolicy (d : Dev) (b : List Byte) (h : Keep R M d0 d) (hS : Nat.land M 0x1 = 0x1) :
    E R M d0 (Sys2Proof.Machine.Dev.loadJournalPolicy d b) := by
  unfold Sys2Proof.Machine.Dev.loadJournalPolicy
  repeat' first
    | with_reducible exact h
    | with_reducible assumption
    | exact sub hS rfl
    | with_reducible exact rfl
    | with_reducible apply Dev_fp
    | with_reducible exact E.error
    | with_reducible apply E.ok
    | with_reducible apply E.ite
    | with_reducible apply ite
    | dsimp only

theorem Dev_loadAgePolicy (d : Dev) (b : List Byte) (h : Keep R M d0 d) (hS : Nat.land M 0x4000000 = 0x4000000) :
    E R M d0 (Sys2Proof.Machine.Dev.loadAgePolicy d b) := by
  unfold Sys2Proof.Machine.Dev.loadAgePolicy
  repeat' first
    | with_reducible exact h
    | with_reducible assumption
    | exact sub hS rfl
    | with_reducible exact rfl
    | with_reducible exact E.error
    | with_reducible apply E.ok
    | with_reducible apply E.ite
    | fail_if_no_progress with_reducible refine upd (m := 0x4000000) ?_ hS rfl (by (repeat' apply And.intro) <;> first | exact .inr rfl | with_reducible exact .inl rfl)
    | with_reducible apply ite
    | dsimp only

theorem Dev_loadSection (d : Dev) (base : Nat) (es : List SectEnt) (k : Nat) (h : Keep R M d0 d) (hS : Nat.land M 0x4104607 = 0x4104607) :
    E R M d0 (Sys2Proof.Machine.Dev.loadSection d base es k) := by
  unfold Sys2Proof.Machine.Dev.loadSection
  repeat' first
    | with_reducible exact h
    | with_reducible assumption
    | exact sub hS rfl
    | with_reducible exact rfl
    | with_reducible apply Dev_loadPairs
    | with_reducible apply Dev_loadProgram
    | with_reducible apply Dev_loadPatches
    | with_reducible apply Dev_wbs
    | with_reducible apply Dev_loadTuning
    | with_reducible apply Dev_loadChainPolicy
    | with_reducible apply Dev_loadJournalPolicy
    | with_reducible apply Dev_loadAgePolicy
    | with_reducible refine E.out (by assumption) ?_
    | with_reducible exact E.error
    | with_reducible apply E.ok
    | with_reducible apply E.ite
    | with_reducible refine each (fun _ _ _ => ?_) ?_
    | with_reducible apply ite
    | dsimp only
    | split

theorem Dev_replay (d : Dev) (h : Keep R M d0 d) (hS : Nat.land M 0x610040F = 0x610040F) :
    E R M d0 (Sys2Proof.Machine.Dev.replay d) := by
  unfold Sys2Proof.Machine.Dev.replay
  repeat' first
    | with_reducible exact h
    | with_reducible assumption
    | exact sub hS rfl
    | with_reducible exact rfl
    | with_reducible apply Dev_fp
    | with_reducible apply Dev_jreplay
    | with_reducible apply Dev_applySettings
    | with_reducible apply Dev_applyRecord
    | with_reducible refine O.out (by assumption) ?_
    | with_reducible exact O.none
    | with_reducible apply O.some
    | with_reducible apply O.ite
    | with_reducible exact E.error
    | with_reducible apply E.ok
    | with_reducible apply E.ite
    | with_reducible refine each (fun _ _ _ => ?_) ?_
    | fail_if_no_progress with_reducible refine upd (m := 0x610040F) ?_ hS rfl (by (repeat' apply And.intro) <;> first | exact .inr rfl | with_reducible exact .inl rfl)
    | with_reducible apply ite
    | dsimp only
    | split

theorem Dev_bootStep (d : Dev) (b : Boot) (env : BootEnv) (h : Keep R M d0 d) (hS : Nat.land M 0x1610474F = 0x1610474F) :
    ES R M d0 (Sys2Proof.Machine.Dev.bootStep d b env) := by
  unfold Sys2Proof.Machine.Dev.bootStep
  repeat' first
    | with_reducible exact h
    | with_reducible assumption
    | exact sub hS rfl
    | with_reducible exact rfl
    | with_reducible apply Dev_setClocks
    | with_reducible apply Dev_probe
    | with_reducible apply Dev_keepHeader
    | with_reducible apply Dev_clearMemory
    | with_reducible apply Dev_romSpindles
    | with_reducible apply Dev_loadSection
    | with_reducible apply Dev_showCheck
    | with_reducible apply Dev_replay
    | with_reducible apply Dev_chuckAge
    | with_reducible apply Dev_fp
    | with_reducible apply Dev_setPlan
    | with_reducible refine O.out (by assumption) ?_
    | with_reducible refine E.out (by assumption) ?_
    | with_reducible refine S.out (by assumption) ?_
    | with_reducible apply S.snd
    | with_reducible exact O.none
    | with_reducible apply O.some
    | with_reducible apply O.ite
    | with_reducible exact E.error
    | with_reducible apply E.ok
    | with_reducible apply E.ite
    | with_reducible exact ES.error
    | with_reducible apply ES.ok
    | with_reducible apply ES.map
    | with_reducible apply ES.ite
    | with_reducible apply S.ite
    | fail_if_no_progress with_reducible refine upd (m := 0x1610474F) ?_ hS rfl (by (repeat' apply And.intro) <;> first | exact .inr rfl | with_reducible exact .inl rfl)
    | with_reducible apply ite
    | dsimp only
    | split
    | with_reducible apply S.mk

theorem Dev_bootOne (d : Dev) (env : BootEnv) (h : Keep R M d0 d) (hS : Nat.land M 0x17F74FCF = 0x17F74FCF) :
    Keep R M d0 (Sys2Proof.Machine.Dev.bootOne d env) := by
  unfold Sys2Proof.Machine.Dev.bootOne
  repeat' first
    | with_reducible exact h
    | with_reducible assumption
    | exact sub hS rfl
    | with_reducible exact rfl
    | with_reducible apply Dev_enterService
    | with_reducible apply Dev_bootCode
    | with_reducible apply Dev_slotStep
    | with_reducible apply Dev_bootFail
    | with_reducible apply Dev_keepHeader
    | with_reducible refine raisePlain ?_ (by with_unfolding_all exact rfl) ?_
    | with_reducible apply Dev_raise
    | with_reducible apply Dev_bootStep
    | with_reducible apply Dev_enterRun
    | with_reducible refine ES.out (by assumption) ?_
    | with_reducible exact ES.error
    | with_reducible apply ES.ok
    | with_reducible apply ES.map
    | with_reducible apply ES.ite
    | fail_if_no_progress with_reducible refine upd (m := 0x17F74FCF) ?_ hS rfl (by (repeat' apply And.intro) <;> first | exact .inr rfl | with_reducible exact .inl rfl)
    | with_reducible apply ite
    | dsimp only
    | split

theorem Dev_bootRun (env : BootEnv) (a1 : Nat) (a2 : Dev) (h : Keep R M d0 a2) (hS : Nat.land M 0x17F74FCF = 0x17F74FCF) :
    Keep R M d0 (Sys2Proof.Machine.Dev.bootRun env a1 a2) := by
  induction a1 generalizing a2 with
  | zero => exact h
  | succ n ih =>
    unfold Sys2Proof.Machine.Dev.bootRun
    repeat' first
      | with_reducible apply ih
      | with_reducible exact h
      | with_reducible assumption
      | exact sub hS rfl
      | with_reducible exact rfl
      | with_reducible apply Dev_bootOne
      | with_reducible apply ite
      | dsimp only
      | split

theorem Dev_enterChuck (d : Dev) (h : Keep R M d0 d) (hS : Nat.land M 0x10000045 = 0x10000045) :
    Keep R M d0 (Sys2Proof.Machine.Dev.enterChuck d) := by
  unfold Sys2Proof.Machine.Dev.enterChuck
  repeat' first
    | with_reducible exact h
    | with_reducible assumption
    | exact sub hS rfl
    | with_reducible exact rfl
    | with_reducible apply Dev_enter
    | with_reducible apply Dev_fillHeartwood
    | with_reducible apply Dev_fp
    | with_reducible refine each (fun _ _ _ => ?_) ?_
    | fail_if_no_progress with_reducible refine upd (m := 0x10000045) ?_ hS rfl (by (repeat' apply And.intro) <;> first | exact .inr rfl | with_reducible exact .inl rfl)
    | with_reducible apply ite
    | dsimp only

theorem blankAdvance (env : BootEnv) (d : Dev) (h : Keep R M d0 d) (hS : Nat.land M 0x17F74FCF = 0x17F74FCF) :
    Keep R M d0 (Sys2Proof.Machine.blankAdvance env d) := by
  unfold Sys2Proof.Machine.blankAdvance
  repeat' first
    | with_reducible exact h
    | with_reducible assumption
    | exact sub hS rfl
    | with_reducible exact rfl
    | with_reducible apply Dev_bootRun
    | with_reducible apply Dev_enterService
    | with_reducible apply Dev_probe
    | with_reducible apply Dev_enterChuck
    | with_reducible refine S.out (by assumption) ?_
    | with_reducible apply S.snd
    | with_reducible apply S.ite
    | with_reducible apply ite
    | dsimp only
    | with_reducible apply S.mk

theorem selfConfirmation (d : Dev) (h : Keep R M d0 d) (hS : Nat.land M 0x409 = 0x409) :
    Keep R M d0 (Sys2Proof.Machine.selfConfirmation d) := by
  unfold Sys2Proof.Machine.selfConfirmation
  repeat' first
    | with_reducible exact h
    | with_reducible assumption
    | exact sub hS rfl
    | with_reducible exact rfl
    | with_reducible apply Dev_confirmSlot
    | with_reducible apply ite
    | dsimp only

/-! ### Machine/Modes.lean -/

theorem Dev_hold (d : Dev) (m : Mode) (h : Keep R M d0 d) (hS : Nat.land M 0x40 = 0x40) :
    Keep R M d0 (Sys2Proof.Machine.Dev.hold d m) := by
  unfold Sys2Proof.Machine.Dev.hold
  repeat' first
    | with_reducible exact h
    | with_reducible assumption
    | exact sub hS rfl
    | with_reducible exact rfl
    | fail_if_no_progress with_reducible refine upd (m := 0x40) ?_ hS rfl (by (repeat' apply And.intro) <;> first | exact .inr rfl | with_reducible exact .inl rfl)
    | dsimp only

theorem Dev_act (d : Dev) (req : Nat) (h : Keep R M d0 d) (hS : Nat.land M 0x11F70BC5 = 0x11F70BC5) :
    Keep R M d0 (Sys2Proof.Machine.Dev.act d req) := by
  unfold Sys2Proof.Machine.Dev.act
  repeat' first
    | with_reducible exact h
    | with_reducible assumption
    | exact sub hS rfl
    | with_reducible exact rfl
    | with_reducible apply Dev_enterChuck
    | with_reducible apply Dev_hold
    | with_reducible apply Dev_resumeRun
    | with_reducible apply Dev_enterRest
    | with_reducible apply Dev_shelfEntry
    | with_reducible apply Dev_enterService
    | with_reducible apply ite
    | dsimp only
    | split

theorem Dev_modeWrite (d : Dev) (w : ModeWrite) (h : Keep R M d0 d) (hS : Nat.land M 0x1 = 0x1) :
    Keep R M d0 (Sys2Proof.Machine.Dev.modeWrite d w) := by
  unfold Sys2Proof.Machine.Dev.modeWrite
  repeat' first
    | with_reducible exact h
    | with_reducible assumption
    | exact sub hS rfl
    | with_reducible exact rfl
    | with_reducible apply Dev_fp
    | with_reducible apply ite
    | dsimp only

theorem Dev_request (d : Dev) (w : ModeWrite) (req : Nat) (h : Keep R M d0 d) (hS : Nat.land M 0x11F70BC5 = 0x11F70BC5) :
    Keep R M d0 (Sys2Proof.Machine.Dev.request d w req) := by
  unfold Sys2Proof.Machine.Dev.request
  repeat' first
    | with_reducible exact h
    | with_reducible assumption
    | exact sub hS rfl
    | with_reducible exact rfl
    | with_reducible apply Dev_modeWrite
    | with_reducible apply Dev_act
    | with_reducible apply Dev_count
    | fail_if_no_progress with_reducible refine upd (m := 0x11F70BC5) ?_ hS rfl (by (repeat' apply And.intro) <;> first | exact .inr rfl | with_reducible exact .inl rfl)
    | with_reducible apply ite
    | dsimp only
    | split

theorem Dev_wake (d : Dev) (k : Nat) (hfrcNs : Nat) (h : Keep R M d0 d) (hS : Nat.land M 0x10070FC1 = 0x10070FC1) :
    Keep R M d0 (Sys2Proof.Machine.Dev.wake d k hfrcNs) := by
  unfold Sys2Proof.Machine.Dev.wake
  repeat' first
    | with_reducible exact h
    | with_reducible assumption
    | exact sub hS rfl
    | with_reducible exact rfl
    | with_reducible apply Dev_resumeRun
    | with_reducible refine raisePlain ?_ (by with_unfolding_all exact rfl) ?_
    | with_reducible apply Dev_raise
    | with_reducible apply Dev_setBit
    | with_reducible apply ite
    | dsimp only

theorem idleEntry (d : Dev) (h : Keep R M d0 d) (hS : Nat.land M 0x106208C1 = 0x106208C1) :
    Keep R M d0 (Sys2Proof.Machine.idleEntry d) := by
  unfold Sys2Proof.Machine.idleEntry
  repeat' first
    | with_reducible exact h
    | with_reducible assumption
    | exact sub hS rfl
    | with_reducible exact rfl
    | with_reducible apply Dev_enterRest
    | with_reducible apply ite
    | dsimp only

theorem illClr (depth : Bool) (d : Dev) (h : Keep R M d0 d) (hS : Nat.land M 0x11F70BC5 = 0x11F70BC5) :
    Keep R M d0 (Sys2Proof.Machine.illClr depth d) := by
  unfold Sys2Proof.Machine.illClr
  repeat' first
    | with_reducible exact h
    | with_reducible assumption
    | exact sub hS rfl
    | with_reducible exact rfl
    | with_reducible apply Dev_request
    | dsimp only

theorem matchTimer (n : Nat) (d : Dev) (h : Keep R M d0 d) (hS : Nat.land M 0x10170FC1 = 0x10170FC1) :
    Keep R M d0 (Sys2Proof.Machine.matchTimer n d) := by
  unfold Sys2Proof.Machine.matchTimer
  repeat' first
    | with_reducible exact h
    | with_reducible assumption
    | exact sub hS rfl
    | with_reducible exact rfl
    | with_reducible apply matchAt
    | with_reducible apply Dev_wake
    | with_reducible apply ite
    | dsimp only

theorem modeRequest6 (w : ModeWrite) (d : Dev) (h : Keep R M d0 d) (hS : Nat.land M 0x11F70BC5 = 0x11F70BC5) :
    Keep R M d0 (Sys2Proof.Machine.modeRequest6 w d) := by
  unfold Sys2Proof.Machine.modeRequest6
  repeat' first
    | with_reducible exact h
    | with_reducible assumption
    | exact sub hS rfl
    | with_reducible exact rfl
    | with_reducible apply Dev_request
    | dsimp only

theorem modeRequestCancel (w : ModeWrite) (d : Dev) (h : Keep R M d0 d) (hS : Nat.land M 0x11F70BC5 = 0x11F70BC5) :
    Keep R M d0 (Sys2Proof.Machine.modeRequestCancel w d) := by
  unfold Sys2Proof.Machine.modeRequestCancel
  repeat' first
    | with_reducible exact h
    | with_reducible assumption
    | exact sub hS rfl
    | with_reducible exact rfl
    | with_reducible apply Dev_request
    | dsimp only

theorem modeRequestChuck (w : ModeWrite) (d : Dev) (h : Keep R M d0 d) (hS : Nat.land M 0x11F70BC5 = 0x11F70BC5) :
    Keep R M d0 (Sys2Proof.Machine.modeRequestChuck w d) := by
  unfold Sys2Proof.Machine.modeRequestChuck
  repeat' first
    | with_reducible exact h
    | with_reducible assumption
    | exact sub hS rfl
    | with_reducible exact rfl
    | with_reducible apply Dev_request
    | dsimp only

theorem modeRequestRest (w : ModeWrite) (d : Dev) (h : Keep R M d0 d) (hS : Nat.land M 0x11F70BC5 = 0x11F70BC5) :
    Keep R M d0 (Sys2Proof.Machine.modeRequestRest w d) := by
  unfold Sys2Proof.Machine.modeRequestRest
  repeat' first
    | with_reducible exact h
    | with_reducible assumption
    | exact sub hS rfl
    | with_reducible exact rfl
    | with_reducible apply Dev_request
    | dsimp only

theorem modeRequestRun (w : ModeWrite) (d : Dev) (h : Keep R M d0 d) (hS : Nat.land M 0x11F70BC5 = 0x11F70BC5) :
    Keep R M d0 (Sys2Proof.Machine.modeRequestRun w d) := by
  unfold Sys2Proof.Machine.modeRequestRun
  repeat' first
    | with_reducible exact h
    | with_reducible assumption
    | exact sub hS rfl
    | with_reducible exact rfl
    | with_reducible apply Dev_request
    | dsimp only

theorem modeRequestService (w : ModeWrite) (d : Dev) (h : Keep R M d0 d) (hS : Nat.land M 0x11F70BC5 = 0x11F70BC5) :
    Keep R M d0 (Sys2Proof.Machine.modeRequestService w d) := by
  unfold Sys2Proof.Machine.modeRequestService
  repeat' first
    | with_reducible exact h
    | with_reducible assumption
    | exact sub hS rfl
    | with_reducible exact rfl
    | with_reducible apply Dev_request
    | dsimp only

theorem modeRequestShelf (w : ModeWrite) (d : Dev) (h : Keep R M d0 d) (hS : Nat.land M 0x11F70BC5 = 0x11F70BC5) :
    Keep R M d0 (Sys2Proof.Machine.modeRequestShelf w d) := by
  unfold Sys2Proof.Machine.modeRequestShelf
  repeat' first
    | with_reducible exact h
    | with_reducible assumption
    | exact sub hS rfl
    | with_reducible exact rfl
    | with_reducible apply Dev_request
    | dsimp only

theorem pendingRequestEntry (d : Dev) (h : Keep R M d0 d) (hS : Nat.land M 0x106208C1 = 0x106208C1) :
    Keep R M d0 (Sys2Proof.Machine.pendingRequestEntry d) := by
  unfold Sys2Proof.Machine.pendingRequestEntry
  repeat' first
    | with_reducible exact h
    | with_reducible assumption
    | exact sub hS rfl
    | with_reducible exact rfl
    | with_reducible apply Dev_enterRest
    | with_reducible apply Dev_shelfEntry
    | with_reducible apply ite
    | dsimp only
    | split

theorem pinReset (d : Dev) (h : Keep R M d0 d) (hS : Nat.land M 0x1FFFFFFF = 0x1FFFFFFF) :
    Keep R M d0 (Sys2Proof.Machine.pinReset d) := by
  unfold Sys2Proof.Machine.pinReset
  repeat' first
    | with_reducible exact h
    | with_reducible assumption
    | exact sub hS rfl
    | with_reducible exact rfl
    | with_reducible apply Dev_fp
    | with_reducible apply Dev_blank
    | fail_if_no_progress with_reducible refine upd (m := 0x1FFFFFFF) ?_ hS rfl (by (repeat' apply And.intro) <;> first | exact .inr rfl | with_reducible exact .inl rfl)
    | with_reducible apply ite
    | dsimp only

theorem powerOn (vaonLost : Bool) (straps : Straps) (d : Dev) (h : Keep R M d0 d) (hS : Nat.land M 0x1FFFFFFF = 0x1FFFFFFF) :
    Keep R M d0 (Sys2Proof.Machine.powerOn vaonLost straps d) := by
  unfold Sys2Proof.Machine.powerOn
  repeat' first
    | with_reducible exact h
    | with_reducible assumption
    | exact sub hS rfl
    | with_reducible exact rfl
    | with_reducible apply Dev_blank
    | with_reducible apply Dev_fp
    | with_reducible apply Dev_setReg
    | with_reducible apply Dev_sample
    | fail_if_no_progress with_reducible refine upd (m := 0x1FFFFFFF) ?_ hS rfl (by (repeat' apply And.intro) <;> first | exact .inr rfl | with_reducible exact .inl rfl)
    | with_reducible apply ite
    | dsimp only
    | split

theorem pwrEnHigh (d : Dev) (h : Keep R M d0 d) (hS : Nat.land M 0x40 = 0x40) :
    Keep R M d0 (Sys2Proof.Machine.pwrEnHigh d) := by
  unfold Sys2Proof.Machine.pwrEnHigh
  repeat' first
    | with_reducible exact h
    | with_reducible assumption
    | exact sub hS rfl
    | with_reducible exact rfl
    | fail_if_no_progress with_reducible refine upd (m := 0x40) ?_ hS rfl (by (repeat' apply And.intro) <;> first | exact .inr rfl | with_reducible exact .inl rfl)
    | with_reducible apply ite
    | dsimp only

theorem pwrEnLow (d : Dev) (h : Keep R M d0 d) (hS : Nat.land M 0x1FFFFFFF = 0x1FFFFFFF) :
    Keep R M d0 (Sys2Proof.Machine.pwrEnLow d) := by
  unfold Sys2Proof.Machine.pwrEnLow
  repeat' first
    | with_reducible exact h
    | with_reducible assumption
    | exact sub hS rfl
    | with_reducible exact rfl
    | with_reducible apply Dev_blank
    | with_reducible apply Dev_fp
    | with_reducible apply Dev_setClocks
    | fail_if_no_progress with_reducible refine upd (m := 0x1FFFFFFF) ?_ hS rfl (by (repeat' apply And.intro) <;> first | exact .inr rfl | with_reducible exact .inl rfl)
    | with_reducible apply ite
    | dsimp only

theorem resetNRisingEdge (straps : Straps) (d : Dev) (h : Keep R M d0 d) (hS : Nat.land M 0x41 = 0x41) :
    Keep R M d0 (Sys2Proof.Machine.resetNRisingEdge straps d) := by
  unfold Sys2Proof.Machine.resetNRisingEdge
  repeat' first
    | with_reducible exact h
    | with_reducible assumption
    | exact sub hS rfl
    | with_reducible exact rfl
    | with_reducible apply Dev_sample
    | fail_if_no_progress with_reducible refine upd (m := 0x41) ?_ hS rfl (by (repeat' apply And.intro) <;> first | exact .inr rfl | with_reducible exact .inl rfl)
    | with_reducible apply ite
    | dsimp only

theorem restWake (src : Nat) (hfrcNs : Nat) (d : Dev) (h : Keep R M d0 d) (hS : Nat.land M 0x10070FC1 = 0x10070FC1) :
    Keep R M d0 (Sys2Proof.Machine.restWake src hfrcNs d) := by
  unfold Sys2Proof.Machine.restWake
  repeat' first
    | with_reducible exact h
    | with_reducible assumption
    | exact sub hS rfl
    | with_reducible exact rfl
    | with_reducible apply Dev_wake
    | dsimp only

theorem shelfWake (src : Nat) (d : Dev) (h : Keep R M d0 d) (hS : Nat.land M 0x40 = 0x40) :
    Keep R M d0 (Sys2Proof.Machine.shelfWake src d) := by
  unfold Sys2Proof.Machine.shelfWake
  repeat' first
    | with_reducible exact h
    | with_reducible assumption
    | exact sub hS rfl
    | with_reducible exact rfl
    | fail_if_no_progress with_reducible refine upd (m := 0x40) ?_ hS rfl (by (repeat' apply And.intro) <;> first | exact .inr rfl | with_reducible exact .inl rfl)
    | with_reducible apply ite
    | dsimp only

theorem softwareReset (v : Word) (d : Dev) (h : Keep R M d0 d) (hS : Nat.land M 0x1FFFFFFF = 0x1FFFFFFF) :
    Keep R M d0 (Sys2Proof.Machine.softwareReset v d) := by
  unfold Sys2Proof.Machine.softwareReset
  repeat' first
    | with_reducible exact h
    | with_reducible assumption
    | exact sub hS rfl
    | with_reducible exact rfl
    | with_reducible apply Dev_fp
    | with_reducible apply Dev_blank
    | with_reducible apply ite
    | dsimp only

theorem xo32Qualified (d : Dev) (h : Keep R M d0 d) (hS : Nat.land M 0x1 = 0x1) :
    Keep R M d0 (Sys2Proof.Machine.xo32Qualified d) := by
  unfold Sys2Proof.Machine.xo32Qualified
  repeat' first
    | with_reducible exact h
    | with_reducible assumption
    | exact sub hS rfl
    | with_reducible exact rfl
    | with_reducible apply Dev_fp
    | with_reducible apply ite
    | dsimp only

theorem xrefLeavesRange (inRange : Bool) (d : Dev) (h : Keep R M d0 d) (hS : Nat.land M 0x1 = 0x1) :
    Keep R M d0 (Sys2Proof.Machine.xrefLeavesRange inRange d) := by
  unfold Sys2Proof.Machine.xrefLeavesRange
  repeat' first
    | with_reducible exact h
    | with_reducible assumption
    | exact sub hS rfl
    | with_reducible exact rfl
    | with_reducible apply Dev_fp
    | with_reducible apply ite
    | dsimp only

theorem zeroFillComplete (d : Dev) (h : Keep R M d0 d) (hS : Nat.land M 0x11F209C5 = 0x11F209C5) :
    Keep R M d0 (Sys2Proof.Machine.zeroFillComplete d) := by
  unfold Sys2Proof.Machine.zeroFillComplete
  repeat' first
    | with_reducible exact h
    | with_reducible assumption
    | exact sub hS rfl
    | with_reducible exact rfl
    | with_reducible apply Dev_fp
    | with_reducible apply Dev_enterChuck
    | with_reducible apply Dev_enterService
    | fail_if_no_progress with_reducible refine upd (m := 0x11F209C5) ?_ hS rfl (by (repeat' apply And.intro) <;> first | exact .inr rfl | with_reducible exact .inl rfl)
    | with_reducible apply ite
    | dsimp only
    | split

/-! ### Machine/Net.lean -/

theorem Dev_openDiv (d : Dev) (n : Int) (k : Nat) (h : Keep R M d0 d) (hS : Nat.land M 0x10 = 0x10) :
    S R M d0 (Sys2Proof.Machine.Dev.openDiv d n k) := by
  unfold Sys2Proof.Machine.Dev.openDiv
  repeat' first
    | with_reducible exact h
    | with_reducible assumption
    | exact sub hS rfl
    | with_reducible exact rfl
    | with_reducible apply Dev_fresh
    | with_reducible refine S.out (by assumption) ?_
    | with_reducible apply S.snd
    | with_reducible apply S.ite
    | with_reducible apply ite
    | dsimp only
    | split
    | with_reducible apply S.mk

theorem Dev_framePt (d : Dev) (n : Nat) (f : AvtpFrame) (h : Keep R M d0 d) (hS : Nat.land M 0x10 = 0x10) :
    S R M d0 (Sys2Proof.Machine.Dev.framePt d n f) := by
  unfold Sys2Proof.Machine.Dev.framePt
  repeat' first
    | with_reducible exact h
    | with_reducible assumption
    | exact sub hS rfl
    | with_reducible exact rfl
    | with_reducible apply Dev_fresh
    | with_reducible apply Dev_openDiv
    | with_reducible refine S.out (by assumption) ?_
    | with_reducible apply S.snd
    | with_reducible apply S.ite
    | with_reducible apply ite
    | dsimp only
    | with_reducible apply S.mk

theorem Dev_setStream (d : Dev) (n : Nat) (x : Stream) (h : Keep R M d0 d) (hS : Nat.land M 0x400000 = 0x400000) :
    Keep R M d0 (Sys2Proof.Machine.Dev.setStream d n x) := by
  unfold Sys2Proof.Machine.Dev.setStream
  repeat' first
    | with_reducible exact h
    | with_reducible assumption
    | exact sub hS rfl
    | with_reducible exact rfl
    | fail_if_no_progress with_reducible refine upd (m := 0x400000) ?_ hS rfl (by (repeat' apply And.intro) <;> first | exact .inr rfl | with_reducible exact .inl rfl)
    | dsimp only

theorem Dev_placeFrame (d : Dev) (n : Nat) (a1 : Int) (a2 : List (List Word)) (h : Keep R M d0 d) (hS : Nat.land M 0x400000 = 0x400000) :
    F R M d0 (Sys2Proof.Machine.Dev.placeFrame d n a1 a2) := by
  induction a2 generalizing d a1 with
  | nil => exact F.mk h
  | cons b bs ih =>
    unfold Sys2Proof.Machine.Dev.placeFrame
    repeat' first
      | with_reducible apply ih
      | with_reducible apply F.fst
      | with_reducible exact h
      | with_reducible assumption
      | exact sub hS rfl
      | with_reducible exact rfl
      | with_reducible apply Dev_setStream
      | with_reducible apply F.ite
      | with_reducible refine F.foldl (fun _ _ _ => ?_) ?_
      | with_reducible refine foldl (fun _ _ _ => ?_) ?_
      | with_reducible exact F.fst (by assumption)
      | with_reducible apply ite
      | dsimp only
      | split
      | with_reducible apply F.mk

theorem Dev_streamFault (d : Dev) (h : Keep R M d0 d) (hS : Nat.land M 0x10000541 = 0x10000541) :
    Keep R M d0 (Sys2Proof.Machine.Dev.streamFault d) := by
  unfold Sys2Proof.Machine.Dev.streamFault
  repeat' first
    | with_reducible exact h
    | with_reducible assumption
    | exact sub hS rfl
    | with_reducible exact rfl
    | with_reducible refine raisePlain ?_ (by with_unfolding_all exact rfl) ?_
    | with_reducible apply Dev_raise
    | dsimp only

theorem Dev_acceptFrame (d : Dev) (n : Nat) (f : AvtpFrame) (ahead : Nat) (h : Keep R M d0 d) (hS : Nat.land M 0x10400551 = 0x10400551) :
    Keep R M d0 (Sys2Proof.Machine.Dev.acceptFrame d n f ahead) := by
  unfold Sys2Proof.Machine.Dev.acceptFrame
  repeat' first
    | with_reducible exact h
    | with_reducible assumption
    | exact sub hS rfl
    | with_reducible exact rfl
    | with_reducible apply Dev_framePt
    | with_reducible apply Dev_setStream
    | with_reducible apply Dev_placeFrame
    | with_reducible apply Dev_count
    | with_reducible apply Dev_streamFault
    | with_reducible refine S.out (by assumption) ?_
    | with_reducible apply S.snd
    | with_reducible refine F.out (by assumption) ?_
    | with_reducible apply F.fst
    | with_reducible apply S.ite
    | with_reducible apply F.ite
    | with_reducible apply ite
    | dsimp only
    | with_reducible apply S.mk
    | with_reducible apply F.mk

theorem Dev_setDom (d : Dev) (k : Nat) (x : Dom) (h : Keep R M d0 d) (hS : Nat.land M 0x400000 = 0x400000) :
    Keep R M d0 (Sys2Proof.Machine.Dev.setDom d k x) := by
  unfold Sys2Proof.Machine.Dev.setDom
  repeat' first
    | with_reducible exact h
    | with_reducible assumption
    | exact sub hS rfl
    | with_reducible exact rfl
    | fail_if_no_progress with_reducible refine upd (m := 0x400000) ?_ hS rfl (by (repeat' apply And.intro) <;> first | exact .inr rfl | with_reducible exact .inl rfl)
    | dsimp only

theorem Dev_takeDiff (d : Dev) (k : Nat) (h : Keep R M d0 d) (hS : Nat.land M 0x400001 = 0x400001) :
    Keep R M d0 (Sys2Proof.Machine.Dev.takeDiff d k) := by
  unfold Sys2Proof.Machine.Dev.takeDiff
  repeat' first
    | with_reducible exact h
    | with_reducible assumption
    | exact sub hS rfl
    | with_reducible exact rfl
    | with_reducible apply Dev_setDom
    | with_reducible apply Dev_setReg
    | dsimp only

theorem Dev_chooseDom (d : Dev) (was : Bool) (h : Keep R M d0 d) (hS : Nat.land M 0x104005C1 = 0x104005C1) :
    Keep R M d0 (Sys2Proof.Machine.Dev.chooseDom d was) := by
  unfold Sys2Proof.Machine.Dev.chooseDom
  repeat' first
    | with_reducible exact h
    | with_reducible assumption
    | exact sub hS rfl
    | with_reducible exact rfl
    | with_reducible refine raisePlain ?_ (by with_unfolding_all exact rfl) ?_
    | with_reducible apply Dev_raise
    | with_reducible apply Dev_showTime
    | with_reducible apply Dev_takeDiff
    | fail_if_no_progress with_reducible refine upd (m := 0x104005C1) ?_ hS rfl (by (repeat' apply And.intro) <;> first | exact .inr rfl | with_reducible exact .inl rfl)
    | with_reducible apply ite
    | dsimp only
    | split

theorem Dev_deliverStream (d : Dev) (n : Nat) (c : Nat) (o : Nat) (x : Word) (h : Keep R M d0 d) (hS : Nat.land M 0x10430545 = 0x10430545) :
    Keep R M d0 (Sys2Proof.Machine.Dev.deliverStream d n c o x) := by
  unfold Sys2Proof.Machine.Dev.deliverStream
  repeat' first
    | with_reducible exact h
    | with_reducible assumption
    | exact sub hS rfl
    | with_reducible exact rfl
    | with_reducible apply Dev_setStream
    | with_reducible apply Dev_ringEntry
    | with_reducible apply Dev_feedFrom
    | with_reducible refine each (fun _ _ _ => ?_) ?_
    | fail_if_no_progress with_reducible refine upd (m := 0x10430545) ?_ hS rfl (by (repeat' apply And.intro) <;> first | exact .inr rfl | with_reducible exact .inl rfl)
    | with_reducible apply ite
    | dsimp only

theorem Dev_deliverStreams (d : Dev) (h : Keep R M d0 d) (hS : Nat.land M 0x10430545 = 0x10430545) :
    Keep R M d0 (Sys2Proof.Machine.Dev.deliverStreams d) := by
  unfold Sys2Proof.Machine.Dev.deliverStreams
  repeat' first
    | with_reducible exact h
    | with_reducible assumption
    | exact sub hS rfl
    | with_reducible exact rfl
    | with_reducible apply Dev_setStream
    | with_reducible apply Dev_deliverStream
    | with_reducible refine each (fun _ _ _ => ?_) ?_
    | with_reducible apply ite
    | dsimp only

theorem Dev_loseDom (k : Nat) (d : Dev) (h : Keep R M d0 d) (hS : Nat.land M 0x104005C1 = 0x104005C1) :
    Keep R M d0 (Sys2Proof.Machine.Dev.loseDom k d) := by
  unfold Sys2Proof.Machine.Dev.loseDom
  repeat' first
    | with_reducible exact h
    | with_reducible assumption
    | exact sub hS rfl
    | with_reducible exact rfl
    | with_reducible apply Dev_fp
    | with_reducible apply Dev_setDom
    | with_reducible apply Dev_chooseDom
    | with_reducible apply ite
    | dsimp only

theorem Dev_pullAdj (d : Dev) (k : Nat) (h : Keep R M d0 d) (hS : Nat.land M 0x91 = 0x91) :
    Keep R M d0 (Sys2Proof.Machine.Dev.pullAdj d k) := by
  unfold Sys2Proof.Machine.Dev.pullAdj
  repeat' first
    | with_reducible exact h
    | with_reducible assumption
    | exact sub hS rfl
    | with_reducible exact rfl
    | with_reducible apply Dev_openDiv
    | with_reducible apply Dev_setAdj
    | with_reducible refine S.out (by assumption) ?_
    | with_reducible apply S.snd
    | dsimp only
    | split
    | with_reducible apply S.mk

theorem Dev_settleStreams (d : Dev) (h : Keep R M d0 d) (hS : Nat.land M 0x400001 = 0x400001) :
    Keep R M d0 (Sys2Proof.Machine.Dev.settleStreams d) := by
  unfold Sys2Proof.Machine.Dev.settleStreams
  repeat' first
    | with_reducible exact h
    | with_reducible assumption
    | exact sub hS rfl
    | with_reducible exact rfl
    | with_reducible apply Dev_fp
    | with_reducible apply Dev_setStream
    | with_reducible refine each (fun _ _ _ => ?_) ?_
    | with_reducible apply ite
    | dsimp only

theorem Dev_shiftStamps (d : Dev) (n : Word) (h : Keep R M d0 d) (hS : Nat.land M 0x1E01 = 0x1E01) :
    Keep R M d0 (Sys2Proof.Machine.Dev.shiftStamps d n) := by
  unfold Sys2Proof.Machine.Dev.shiftStamps
  repeat' first
    | with_reducible exact h
    | with_reducible assumption
    | exact sub hS rfl
    | with_reducible exact rfl
    | with_reducible apply Dev_setVoice
    | with_reducible apply Dev_setReg
    | with_reducible refine each (fun _ _ _ => ?_) ?_
    | fail_if_no_progress with_reducible refine upd (m := 0x1E01) ?_ hS rfl (by (repeat' apply And.intro) <;> first | exact .inr rfl | with_reducible exact .inl rfl)
    | with_reducible apply ite
    | dsimp only

theorem Dev_talkFrom (d : Dev) (type : Nat) (index : Nat) (o : Nat) (x : Word) (h : Keep R M d0 d) (hS : Nat.land M 0x400000 = 0x400000) :
    Keep R M d0 (Sys2Proof.Machine.Dev.talkFrom d type index o x) := by
  unfold Sys2Proof.Machine.Dev.talkFrom
  repeat' first
    | with_reducible exact h
    | with_reducible assumption
    | exact sub hS rfl
    | with_reducible exact rfl
    | with_reducible apply Dev_setStream
    | with_reducible refine each (fun _ _ _ => ?_) ?_
    | with_reducible apply ite
    | dsimp only

theorem Dev_talkBuses (d : Dev) (s : Word) (h : Keep R M d0 d) (hS : Nat.land M 0x400000 = 0x400000) :
    Keep R M d0 (Sys2Proof.Machine.Dev.talkBuses d s) := by
  unfold Sys2Proof.Machine.Dev.talkBuses
  repeat' first
    | with_reducible exact h
    | with_reducible assumption
    | exact sub hS rfl
    | with_reducible exact rfl
    | with_reducible apply Dev_talkFrom
    | with_reducible refine each (fun _ _ _ => ?_) ?_
    | with_reducible apply ite
    | dsimp only

theorem Dev_talkPorts (d : Dev) (before : Dev) (h : Keep R M d0 d) (h : Keep R M d0 before) (hS : Nat.land M 0x400000 = 0x400000) :
    Keep R M d0 (Sys2Proof.Machine.Dev.talkPorts d before) := by
  unfold Sys2Proof.Machine.Dev.talkPorts
  repeat' first
    | with_reducible exact h
    | with_reducible assumption
    | exact sub hS rfl
    | with_reducible exact rfl
    | with_reducible apply Dev_talkFrom
    | with_reducible refine each (fun _ _ _ => ?_) ?_
    | with_reducible apply ite
    | dsimp only

theorem alarm (d : Dev) (h : Keep R M d0 d) (hS : Nat.land M 0x10070FC1 = 0x10070FC1) :
    Keep R M d0 (Sys2Proof.Machine.alarm d) := by
  unfold Sys2Proof.Machine.alarm
  repeat' first
    | with_reducible exact h
    | with_reducible assumption
    | exact sub hS rfl
    | with_reducible exact rfl
    | with_reducible apply Dev_wake
    | with_reducible apply Dev_fp
    | with_reducible apply ite
    | dsimp only

theorem announce (k : Nat) (gm : Nat) (d : Dev) (h : Keep R M d0 d) (hS : Nat.land M 0x104005C1 = 0x104005C1) :
    Keep R M d0 (Sys2Proof.Machine.announce k gm d) := by
  unfold Sys2Proof.Machine.announce
  repeat' first
    | with_reducible exact h
    | with_reducible assumption
    | exact sub hS rfl
    | with_reducible exact rfl
    | with_reducible apply Dev_setDom
    | with_reducible apply Dev_loseDom
    | with_reducible apply ite
    | dsimp only

theorem avtpFrame (n : Nat) (f : AvtpFrame) (d : Dev) (h : Keep R M d0 d) (hS : Nat.land M 0x10400551 = 0x10400551) :
    Keep R M d0 (Sys2Proof.Machine.avtpFrame n f d) := by
  unfold Sys2Proof.Machine.avtpFrame
  repeat' first
    | with_reducible exact h
    | with_reducible assumption
    | exact sub hS rfl
    | with_reducible exact rfl
    | with_reducible apply Dev_count
    | with_reducible apply Dev_streamFault
    | with_reducible apply Dev_acceptFrame
    | with_reducible apply ite
    | dsimp only

theorem domainLost (k : Nat) (d : Dev) (h : Keep R M d0 d) (hS : Nat.land M 0x104005C1 = 0x104005C1) :
    Keep R M d0 (Sys2Proof.Machine.domainLost k d) := by
  unfold Sys2Proof.Machine.domainLost
  repeat' first
    | with_reducible exact h
    | with_reducible assumption
    | exact sub hS rfl
    | with_reducible exact rfl
    | with_reducible apply Dev_loseDom
    | with_reducible apply ite
    | dsimp only

theorem extensionAnchor (d : Dev) (h : Keep R M d0 d) (hS : Nat.land M 0x1 = 0x1) :
    Keep R M d0 (Sys2Proof.Machine.extensionAnchor d) := by
  unfold Sys2Proof.Machine.extensionAnchor
  repeat' first
    | with_reducible exact h
    | with_reducible assumption
    | exact sub hS rfl
    | with_reducible exact rfl
    | with_reducible apply Dev_publishExt
    | with_reducible apply ite
    | dsimp only
    | split

theorem gptpSync (k : Nat) (m : SyncMeas) (d : Dev) (h : Keep R M d0 d) (hS : Nat.land M 0x104005D1 = 0x104005D1) :
    Keep R M d0 (Sys2Proof.Machine.gptpSync k m d) := by
  unfold Sys2Proof.Machine.gptpSync
  repeat' first
    | with_reducible exact h
    | with_reducible assumption
    | exact sub hS rfl
    | with_reducible exact rfl
    | with_reducible apply Dev_setDom
    | with_reducible apply Dev_fp
    | with_reducible apply Dev_setReg
    | with_reducible apply Dev_chooseDom
    | with_reducible apply Dev_pullAdj
    | with_reducible apply ite
    | dsimp only

theorem msrp (n : Nat) (ready : Bool) (failed : Bool) (d : Dev) (h : Keep R M d0 d) (hS : Nat.land M 0x10000541 = 0x10000541) :
    Keep R M d0 (Sys2Proof.Machine.msrp n ready failed d) := by
  unfold Sys2Proof.Machine.msrp
  repeat' first
    | with_reducible exact h
    | with_reducible assumption
    | exact sub hS rfl
    | with_reducible exact rfl
    | with_reducible apply Dev_fp
    | with_reducible apply Dev_streamFault
    | with_reducible apply ite
    | dsimp only

theorem mvrp (vid : Nat) (joined : Bool) (d : Dev) (h : Keep R M d0 d) (hS : Nat.land M 0x400000 = 0x400000) :
    Keep R M d0 (Sys2Proof.Machine.mvrp vid joined d) := by
  unfold Sys2Proof.Machine.mvrp
  repeat' first
    | with_reducible exact h
    | with_reducible assumption
    | exact sub hS rfl
    | with_reducible exact rfl
    | fail_if_no_progress with_reducible refine upd (m := 0x400000) ?_ hS rfl (by (repeat' apply And.intro) <;> first | exact .inr rfl | with_reducible exact .inl rfl)
    | with_reducible apply ite
    | dsimp only

theorem networkLinkChange (up : Bool) (speed : Nat) (d : Dev) (h : Keep R M d0 d) (hS : Nat.land M 0x10000541 = 0x10000541) :
    Keep R M d0 (Sys2Proof.Machine.networkLinkChange up speed d) := by
  unfold Sys2Proof.Machine.networkLinkChange
  repeat' first
    | with_reducible exact h
    | with_reducible assumption
    | exact sub hS rfl
    | with_reducible exact rfl
    | with_reducible apply Dev_fp
    | with_reducible refine raisePlain ?_ (by with_unfolding_all exact rfl) ?_
    | with_reducible apply Dev_raise
    | with_reducible apply ite
    | dsimp only

theorem osBoundaryAll (d : Dev) (h : Keep R M d0 d) (hS : Nat.land M 0x10430545 = 0x10430545) :
    Keep R M d0 (Sys2Proof.Machine.osBoundaryAll d) := by
  unfold Sys2Proof.Machine.osBoundaryAll
  repeat' first
    | with_reducible exact h
    | with_reducible assumption
    | exact sub hS rfl
    | with_reducible exact rfl
    | with_reducible apply Dev_deliverStreams
    | with_reducible apply Dev_talkPorts
    | with_reducible apply osBoundary
    | dsimp only

theorem peerDelay (capable : Bool) (ns : Int) (d : Dev) (h : Keep R M d0 d) (hS : Nat.land M 0x104005C1 = 0x104005C1) :
    Keep R M d0 (Sys2Proof.Machine.peerDelay capable ns d) := by
  unfold Sys2Proof.Machine.peerDelay
  repeat' first
    | with_reducible exact h
    | with_reducible assumption
    | exact sub hS rfl
    | with_reducible exact rfl
    | with_reducible apply Dev_loseDom
    | fail_if_no_progress with_reducible refine upd (m := 0x104005C1) ?_ hS rfl (by (repeat' apply And.intro) <;> first | exact .inr rfl | with_reducible exact .inl rfl)
    | with_reducible apply ite
    | dsimp only

theorem streamTimeout (n : Nat) (d : Dev) (h : Keep R M d0 d) (hS : Nat.land M 0x10000541 = 0x10000541) :
    Keep R M d0 (Sys2Proof.Machine.streamTimeout n d) := by
  unfold Sys2Proof.Machine.streamTimeout
  repeat' first
    | with_reducible exact h
    | with_reducible assumption
    | exact sub hS rfl
    | with_reducible exact rfl
    | with_reducible apply Dev_streamFault
    | with_reducible apply Dev_fp
    | with_reducible apply ite
    | dsimp only

theorem talkerLaunch (n : Nat) (creditOk : Bool) (d : Dev) (h : Keep R M d0 d) (hS : Nat.land M 0x10400541 = 0x10400541) :
    Keep R M d0 (Sys2Proof.Machine.talkerLaunch n creditOk d) := by
  unfold Sys2Proof.Machine.talkerLaunch
  repeat' first
    | with_reducible exact h
    | with_reducible assumption
    | exact sub hS rfl
    | with_reducible exact rfl
    | with_reducible apply Dev_streamFault
    | with_reducible apply Dev_count
    | with_reducible apply Dev_setStream
    | with_reducible apply ite
    | dsimp only

theorem timeCntlRead (d : Dev) (h : Keep R M d0 d) (hS : Nat.land M 0x1 = 0x1) :
    Keep R M d0 (Sys2Proof.Machine.timeCntlRead d) := by
  unfold Sys2Proof.Machine.timeCntlRead
  repeat' first
    | with_reducible exact h
    | with_reducible assumption
    | exact sub hS rfl
    | with_reducible exact rfl
    | with_reducible apply Dev_setReg
    | dsimp only

theorem timeStep (d : Dev) (h : Keep R M d0 d) (hS : Nat.land M 0x10401FC1 = 0x10401FC1) :
    Keep R M d0 (Sys2Proof.Machine.timeStep d) := by
  unfold Sys2Proof.Machine.timeStep
  repeat' first
    | with_reducible exact h
    | with_reducible assumption
    | exact sub hS rfl
    | with_reducible exact rfl
    | with_reducible apply Dev_shiftStamps
    | with_reducible apply Dev_addOff
    | with_reducible apply Dev_takeDiff
    | with_reducible apply Dev_fp
    | with_reducible apply Dev_setReg
    | with_reducible refine raisePlain ?_ (by with_unfolding_all exact rfl) ?_
    | with_reducible apply Dev_raise
    | fail_if_no_progress with_reducible refine upd (m := 0x10401FC1) ?_ hS rfl (by (repeat' apply And.intro) <;> first | exact .inr rfl | with_reducible exact .inl rfl)
    | with_reducible apply ite
    | dsimp only
    | split

end Sys2Proof.Laws.Keep
end

