-- ==== Sys2Proof/Laws/KeepHost.lean ====
section
/-! SUPPORT. `Keep` carried over the operations of the VS boundary, bus, register access, UARTs, host commands, fatal faults and the idle step: one lemma for each, named after it. -/
namespace Sys2Proof.Laws.Keep
open Sys2Proof.Machine
set_option linter.unusedTactic false
set_option linter.unreachableTactic false
set_option linter.unusedVariables false

variable {R : Fuses → Fuses → Prop} {M : Nat} {d0 x : Dev}

/-! ### Machine/Boundary.lean -/

theorem Dev_advanceC (d : Dev) (h : Keep R M d0 d) (hS : Nat.land M 0x800 = 0x800) :
    Keep R M d0 (Sys2Proof.Machine.Dev.advanceC d) := by
  unfold Sys2Proof.Machine.Dev.advanceC
  repeat' first
    | with_reducible exact h
    | with_reducible assumption
    | exact sub hS rfl
    | with_reducible exact rfl
    | fail_if_no_progress with_reducible refine upd (m := 0x800) ?_ hS rfl (by (repeat' apply And.intro) <;> first | exact .inr rfl | with_reducible exact .inl rfl)
    | dsimp only

theorem Dev_apllResidual (d : Dev) (h : Keep R M d0 d) (hS : Nat.land M 0x11 = 0x11) :
    Keep R M d0 (Sys2Proof.Machine.Dev.apllResidual d) := by
  unfold Sys2Proof.Machine.Dev.apllResidual
  repeat' first
    | with_reducible exact h
    | with_reducible assumption
    | exact sub hS rfl
    | with_reducible exact rfl
    | with_reducible apply Dev_fresh
    | with_reducible apply Dev_fp
    | with_reducible refine S.out (by assumption) ?_
    | with_reducible apply S.snd
    | dsimp only
    | split
    | with_reducible apply S.mk

theorem Dev_commitSample (d : Dev) (s : Word) (h : Keep R M d0 d) (hS : Nat.land M 0x126F8F51 = 0x126F8F51) :
    Keep R M d0 (Sys2Proof.Machine.Dev.commitSample d s) := by
  unfold Sys2Proof.Machine.Dev.commitSample
  repeat' first
    | with_reducible exact h
    | with_reducible assumption
    | exact sub hS rfl
    | with_reducible exact rfl
    | with_reducible apply Dev_downSums
    | with_reducible apply Dev_commitBuses
    | with_reducible apply Dev_sendSums
    | with_reducible apply Dev_commitCv
    | with_reducible apply Dev_pruneOuts
    | with_reducible apply Dev_talkBuses
    | with_reducible apply Dev_feedBuses
    | with_reducible refine S.out (by assumption) ?_
    | with_reducible apply S.snd
    | with_reducible apply S.ite
    | fail_if_no_progress with_reducible refine upd (m := 0x126F8F51) ?_ hS rfl (by (repeat' apply And.intro) <;> first | exact .inr rfl | with_reducible exact .inl rfl)
    | with_reducible apply ite
    | dsimp only
    | split
    | with_reducible apply S.mk

theorem Dev_unpause (d : Dev) (n : Nat) (h : Keep R M d0 d) (hS : Nat.land M 0x2000 = 0x2000) :
    Keep R M d0 (Sys2Proof.Machine.Dev.unpause d n) := by
  unfold Sys2Proof.Machine.Dev.unpause
  repeat' first
    | with_reducible exact h
    | with_reducible assumption
    | exact sub hS rfl
    | with_reducible exact rfl
    | with_reducible apply Dev_setCtx
    | with_reducible refine each (fun _ _ _ => ?_) ?_
    | with_reducible apply ite
    | dsimp only

theorem Dev_spindleBoundary (n : Nat) (d : Dev) (h : Keep R M d0 d) (hS : Nat.land M 0x6001 = 0x6001) :
    Keep R M d0 (Sys2Proof.Machine.Dev.spindleBoundary n d) := by
  unfold Sys2Proof.Machine.Dev.spindleBoundary
  repeat' first
    | with_reducible exact h
    | with_reducible assumption
    | exact sub hS rfl
    | with_reducible exact rfl
    | with_reducible apply Dev_unpause
    | with_reducible apply Dev_spnBoundary
    | with_reducible apply Dev_setCtx
    | with_reducible apply Dev_fp
    | with_reducible apply Dev_setBit
    | with_reducible apply Dev_clrBit
    | with_reducible refine each (fun _ _ _ => ?_) ?_
    | with_reducible apply ite
    | dsimp only

theorem Dev_forget (d : Dev) (h : Keep R M d0 d) (hS : Nat.land M 0x10E00 = 0x10E00) :
    Keep R M d0 (Sys2Proof.Machine.Dev.forget d) := by
  unfold Sys2Proof.Machine.Dev.forget
  repeat' first
    | with_reducible exact h
    | with_reducible assumption
    | exact sub hS rfl
    | with_reducible exact rfl
    | with_reducible apply Dev_restampHist
    | fail_if_no_progress with_reducible refine upd (m := 0x10E00) ?_ hS rfl (by (repeat' apply And.intro) <;> first | exact .inr rfl | with_reducible exact .inl rfl)
    | dsimp only

theorem Dev_boundaryRun (d : Dev) (h : Keep R M d0 d) (hS : Nat.land M 0x127FEF51 = 0x127FEF51) :
    Keep R M d0 (Sys2Proof.Machine.Dev.boundaryRun d) := by
  unfold Sys2Proof.Machine.Dev.boundaryRun
  repeat' first
    | with_reducible exact h
    | with_reducible assumption
    | exact sub hS rfl
    | with_reducible exact rfl
    | with_reducible apply Dev_advanceC
    | with_reducible apply Dev_commitSample
    | with_reducible apply Dev_settleStreams
    | with_reducible apply Dev_takePins
    | with_reducible apply Dev_retire
    | with_reducible apply Dev_drainHeld
    | with_reducible apply Dev_spindleBoundary
    | with_reducible apply Dev_updateScore
    | with_reducible apply Dev_apllResidual
    | with_reducible apply Dev_forget
    | with_reducible apply Dev_tmrTicks
    | with_reducible apply Dev_publish
    | with_reducible refine each (fun _ _ _ => ?_) ?_
    | fail_if_no_progress with_reducible refine upd (m := 0x127FEF51) ?_ hS rfl (by (repeat' apply And.intro) <;> first | exact .inr rfl | with_reducible exact .inl rfl)
    | dsimp only

theorem vsBoundary (d : Dev) (h : Keep R M d0 d) (hS : Nat.land M 0x127FEF51 = 0x127FEF51) :
    Keep R M d0 (Sys2Proof.Machine.vsBoundary d) := by
  unfold Sys2Proof.Machine.vsBoundary
  repeat' first
    | with_reducible exact h
    | with_reducible assumption
    | exact sub hS rfl
    | with_reducible exact rfl
    | with_reducible apply Dev_boundaryRun
    | with_reducible apply Dev_tmrTicks
    | with_reducible apply Dev_advanceC
    | with_reducible apply Dev_restampHist
    | with_reducible apply ite
    | dsimp only

/-! ### Machine/Bus.lean -/

theorem Dev_bankWrite (d : Dev) (k : Nat) (v : Word) (h : Keep R M d0 d) (hS : Nat.land M 0x1 = 0x1) :
    Keep R M d0 (Sys2Proof.Machine.Dev.bankWrite d k v) := by
  unfold Sys2Proof.Machine.Dev.bankWrite
  repeat' first
    | with_reducible exact h
    | with_reducible assumption
    | exact sub hS rfl
    | with_reducible exact rfl
    | with_reducible apply Dev_fp
    | with_reducible apply bankHandover
    | with_reducible apply ite
    | dsimp only

theorem Dev_readReg (d : Dev) (a1 : Nat) (h : Keep R M d0 d) (hS : Nat.land M 0x10000541 = 0x10000541) :
    S R M d0 (Sys2Proof.Machine.Dev.readReg d a1) := by
  unfold Sys2Proof.Machine.Dev.readReg
  repeat' first
    | with_reducible exact h
    | with_reducible assumption
    | exact sub hS rfl
    | with_reducible exact rfl
    | with_reducible apply timeCntlRead
    | with_reducible apply fcntRead
    | with_reducible apply capRead
    | with_reducible apply S.ite
    | with_reducible apply ite
    | dsimp only
    | split
    | with_reducible apply S.mk

theorem Dev_busRead (d : Dev) (a1 : Nat) (bad : Nat) (h : Keep R M d0 d) (hS : Nat.land M 0x10000541 = 0x10000541) :
    S R M d0 (Sys2Proof.Machine.Dev.busRead d a1 bad) := by
  unfold Sys2Proof.Machine.Dev.busRead
  repeat' first
    | with_reducible exact h
    | with_reducible assumption
    | exact sub hS rfl
    | with_reducible exact rfl
    | with_reducible apply Dev_readReg
    | with_reducible apply Dev_ecc
    | with_reducible apply Dev_violation
    | with_reducible refine S.out (by assumption) ?_
    | with_reducible apply S.snd
    | with_reducible apply S.ite
    | with_reducible apply ite
    | dsimp only
    | with_reducible apply S.mk

theorem Dev_modeReg (d : Dev) (v : Word) (h : Keep R M d0 d) (hS : Nat.land M 0x11F70BC5 = 0x11F70BC5) :
    Keep R M d0 (Sys2Proof.Machine.Dev.modeReg d v) := by
  unfold Sys2Proof.Machine.Dev.modeReg
  repeat' first
    | with_reducible exact h
    | with_reducible assumption
    | exact sub hS rfl
    | with_reducible exact rfl
    | with_reducible apply Dev_request
    | dsimp only

theorem Dev_memberCommand (d : Dev) (v : Word) (h : Keep R M d0 d) (hS : Nat.land M 0x10208F41 = 0x10208F41) :
    Keep R M d0 (Sys2Proof.Machine.Dev.memberCommand d v) := by
  unfold Sys2Proof.Machine.Dev.memberCommand
  repeat' first
    | with_reducible exact h
    | with_reducible assumption
    | exact sub hS rfl
    | with_reducible exact rfl
    | with_reducible apply memberRelease
    | with_reducible apply memberQuarantine
    | with_reducible apply memberIsolate
    | with_reducible apply memberShip
    | with_reducible apply ite
    | dsimp only
    | split

theorem Dev_timeCtrl (d : Dev) (v : Word) (h : Keep R M d0 d) (hS : Nat.land M 0x104005C3 = 0x104005C3) :
    Keep R M d0 (Sys2Proof.Machine.Dev.timeCtrl d v) := by
  unfold Sys2Proof.Machine.Dev.timeCtrl
  repeat' first
    | with_reducible exact h
    | with_reducible assumption
    | exact sub hS rfl
    | with_reducible exact rfl
    | with_reducible apply Dev_writeReg
    | with_reducible apply Dev_setAdj
    | with_reducible apply Dev_chooseDom
    | with_reducible apply ite
    | dsimp only

theorem evtRawClear (hdr : Nat) (v : Word) (d : Dev) (h : Keep R M d0 d) (hS : Nat.land M 0x101 = 0x101) :
    Keep R M d0 (Sys2Proof.Machine.evtRawClear hdr v d) := by
  unfold Sys2Proof.Machine.evtRawClear
  repeat' first
    | with_reducible exact h
    | with_reducible assumption
    | exact sub hS rfl
    | with_reducible exact rfl
    | with_reducible apply Dev_clrBit
    | with_reducible refine each (fun _ _ _ => ?_) ?_
    | fail_if_no_progress with_reducible refine upd (m := 0x101) ?_ hS rfl (by (repeat' apply And.intro) <;> first | exact .inr rfl | with_reducible exact .inl rfl)
    | with_reducible apply ite
    | dsimp only

theorem Dev_domCfg (d : Dev) (k : Nat) (v : Word) (h : Keep R M d0 d) (hS : Nat.land M 0x104005C3 = 0x104005C3) :
    Keep R M d0 (Sys2Proof.Machine.Dev.domCfg d k v) := by
  unfold Sys2Proof.Machine.Dev.domCfg
  repeat' first
    | with_reducible exact h
    | with_reducible assumption
    | exact sub hS rfl
    | with_reducible exact rfl
    | with_reducible apply Dev_writeReg
    | with_reducible apply Dev_loseDom
    | with_reducible apply ite
    | dsimp only

theorem uartDividerWrite (n : Nat) (div : Nat) (d : Dev) (h : Keep R M d0 d) (hS : Nat.land M 0x800001 = 0x800001) :
    Keep R M d0 (Sys2Proof.Machine.uartDividerWrite n div d) := by
  unfold Sys2Proof.Machine.uartDividerWrite
  repeat' first
    | with_reducible exact h
    | with_reducible assumption
    | exact sub hS rfl
    | with_reducible exact rfl
    | with_reducible apply Dev_fp
    | with_reducible apply Dev_setUart
    | with_reducible apply ite
    | dsimp only

theorem Dev_uartCfg (d : Dev) (n : Nat) (v : Word) (h : Keep R M d0 d) (hS : Nat.land M 0x800001 = 0x800001) :
    Keep R M d0 (Sys2Proof.Machine.Dev.uartCfg d n v) := by
  unfold Sys2Proof.Machine.Dev.uartCfg
  repeat' first
    | with_reducible exact h
    | with_reducible assumption
    | exact sub hS rfl
    | with_reducible exact rfl
    | with_reducible apply uartDividerWrite
    | with_reducible apply Dev_fp
    | dsimp only

theorem Dev_writeAct (d : Dev) (a1 : Nat) (v : Word) (h : Keep R M d0 d) (hS : Nat.land M 0x1FFFFFFF = 0x1FFFFFFF) :
    Keep R M d0 (Sys2Proof.Machine.Dev.writeAct d a1 v) := by
  unfold Sys2Proof.Machine.Dev.writeAct
  repeat' first
    | with_reducible exact h
    | with_reducible assumption
    | exact sub hS rfl
    | with_reducible exact rfl
    | with_reducible apply Dev_modeReg
    | with_reducible apply softwareReset
    | with_reducible apply Dev_stgCtrl
    | with_reducible apply hwmClear
    | with_reducible apply qhwmClear
    | with_reducible apply mixSync
    | with_reducible apply sapStart
    | with_reducible apply autoTuneGo
    | with_reducible apply timerStop
    | with_reducible apply timerStart
    | with_reducible apply Dev_memberCommand
    | with_reducible apply Dev_ageCtrl
    | with_reducible apply Dev_timeCtrl
    | with_reducible apply evtRawClear
    | with_reducible apply Dev_writeReg
    | with_reducible apply peakClear
    | with_reducible apply Dev_writeStaged
    | with_reducible apply coefficientWrite
    | with_reducible apply cvoChnSet
    | with_reducible apply Dev_tmrPerWrite
    | with_reducible apply Dev_tmrCmpWrite
    | with_reducible apply Dev_tmrStatWrite
    | with_reducible apply portEnable
    | with_reducible apply Dev_domCfg
    | with_reducible apply Dev_uartCfg
    | with_reducible apply Dev_bankWrite
    | with_reducible apply ite
    | dsimp only
    | split

theorem Dev_spnWrite (d : Dev) (a1 : Nat) (v : Word) (h : Keep R M d0 d) (hS : Nat.land M 0x45 = 0x45) :
    Keep R M d0 (Sys2Proof.Machine.Dev.spnWrite d a1 v) := by
  unfold Sys2Proof.Machine.Dev.spnWrite
  exact Dev_ww32 _ _ _ (upd (m := 0x40) h (sub hS rfl) rfl
    (by (repeat' apply And.intro) <;> first | exact .inr rfl | with_reducible exact .inl rfl)) (sub hS rfl)

theorem Dev_busWrite (d : Dev) (a1 : Nat) (v : Word) (h : Keep R M d0 d) (hS : Nat.land M 0x1FFFFFFF = 0x1FFFFFFF) :
    Keep R M d0 (Sys2Proof.Machine.Dev.busWrite d a1 v) := by
  unfold Sys2Proof.Machine.Dev.busWrite
  repeat' first
    | with_reducible exact h
    | with_reducible assumption
    | exact sub hS rfl
    | with_reducible exact rfl
    | with_reducible apply Dev_writeAct
    | with_reducible apply Dev_rmwWrite
    | with_reducible apply Dev_violation
    | with_reducible apply Dev_spnWrite
    | with_reducible apply Dev_ww32
    | with_reducible apply ite
    | dsimp only

theorem holdoffEnd (k : Nat) (d : Dev) (h : Keep R M d0 d) (hS : Nat.land M 0x100 = 0x100) :
    Keep R M d0 (Sys2Proof.Machine.holdoffEnd k d) := by
  unfold Sys2Proof.Machine.holdoffEnd
  repeat' first
    | with_reducible exact h
    | with_reducible assumption
    | exact sub hS rfl
    | with_reducible exact rfl
    | fail_if_no_progress with_reducible refine upd (m := 0x100) ?_ hS rfl (by (repeat' apply And.intro) <;> first | exact .inr rfl | with_reducible exact .inl rfl)
    | dsimp only

theorem registerWrite (addr : Word) (value : Word) (d : Dev) (h : Keep R M d0 d) (hS : Nat.land M 0x1FFFFFFF = 0x1FFFFFFF) :
    Keep R M d0 (Sys2Proof.Machine.registerWrite addr value d) := by
  unfold Sys2Proof.Machine.registerWrite
  repeat' first
    | with_reducible exact h
    | with_reducible assumption
    | exact sub hS rfl
    | with_reducible exact rfl
    | with_reducible apply Dev_busWrite
    | dsimp only

/-! ### Machine/RegLink.lean -/

theorem Dev_addPiece (d : Dev) (offset : Nat) (data : List Byte) (h : Keep R M d0 d) (hS : Nat.land M 0x200000 = 0x200000) :
    Keep R M d0 (Sys2Proof.Machine.Dev.addPiece d offset data) := by
  refine setCbl h (sub hS rfl) (fun w => ?_)
  suffices hs : ∀ (l : List (Byte × Nat)) (t : Tbl Byte), Memory.wf 0xFF t = true →
      Memory.wf 0xFF (l.foldl (fun (t : Tbl Byte) b => tput 0xFF t (offset + b.2) b.1) t) = true from hs _ _ w
  intro l
  induction l with
  | nil => exact fun _ w => w
  | cons b l ih => exact fun t w => ih _ (twf_tput (fun _ => (0xFF : Byte)) t _ _ w)

theorem Dev_banksToOwners (d : Dev) (h : Keep R M d0 d) (hS : Nat.land M 0x1 = 0x1) :
    Keep R M d0 (Sys2Proof.Machine.Dev.banksToOwners d) := by
  unfold Sys2Proof.Machine.Dev.banksToOwners
  repeat' first
    | with_reducible exact h
    | with_reducible assumption
    | exact sub hS rfl
    | with_reducible exact rfl
    | with_reducible apply Dev_giveBank
    | with_reducible refine each (fun _ _ _ => ?_) ?_
    | dsimp only

theorem Dev_clearImg (d : Dev) (h : Keep R M d0 d) (hS : Nat.land M 0x200000 = 0x200000) :
    Keep R M d0 (Sys2Proof.Machine.Dev.clearImg d) := by
  exact setCbl h (sub hS rfl) (fun _ => rfl)

theorem Dev_forwardNext (d : Dev) (h : Keep R M d0 d) (hS : Nat.land M 0x11A00541 = 0x11A00541) :
    Keep R M d0 (Sys2Proof.Machine.Dev.forwardNext d) := by
  unfold Sys2Proof.Machine.Dev.forwardNext
  repeat' first
    | with_reducible exact h
    | with_reducible assumption
    | exact sub hS rfl
    | with_reducible exact rfl
    | with_reducible apply Dev_respondWait
    | with_reducible apply Dev_sendTo
    | fail_if_no_progress with_reducible refine upd (m := 0x11A00541) ?_ hS rfl (by (repeat' apply And.intro) <;> first | exact .inr rfl | with_reducible exact .inl rfl)
    | with_reducible apply ite
    | dsimp only
    | split

theorem Dev_imgToFlash (d : Dev) (h : Keep R M d0 d) (hS : Nat.land M 0x8 = 0x8) :
    Keep R M d0 (Sys2Proof.Machine.Dev.imgToFlash d) := by
  unfold Sys2Proof.Machine.Dev.imgToFlash
  repeat' first
    | with_reducible exact h
    | with_reducible assumption
    | exact sub hS rfl
    | with_reducible exact rfl
    | with_reducible apply Dev_ferase
    | with_reducible apply Dev_fprog
    | with_reducible refine each (fun _ _ _ => ?_) ?_
    | with_reducible apply ite
    | dsimp only
    | split

theorem Dev_shipSections (d : Dev) (es : List SectEnt) (a1 : Nat) (a2 : Nat) (h : Keep R M d0 d) (hS : Nat.land M 0x4104607 = 0x4104607) :
    E R M d0 (Sys2Proof.Machine.Dev.shipSections d es a1 a2) := by
  induction a1 generalizing d a2 with
  | zero => exact E.ok h
  | succ n ih =>
    unfold Sys2Proof.Machine.Dev.shipSections
    repeat' first
      | with_reducible apply ih
      | with_reducible exact h
      | with_reducible assumption
      | exact sub hS rfl
      | with_reducible exact rfl
      | with_reducible apply Dev_loadSection
      | with_reducible refine E.out (by assumption) ?_
      | with_reducible exact E.error
      | with_reducible apply E.ok
      | with_reducible apply E.ite
      | with_reducible apply ite
      | dsimp only
      | split

theorem Dev_useImg (d : Dev) (h : Keep R M d0 d) (hS : Nat.land M 0x208 = 0x208) :
    Keep R M d0 (Sys2Proof.Machine.Dev.useImg d) := by
  refine ⟨h.fuses, fun w => ?_, splice_trans hS h.frame rfl⟩
  have := (canonical_iff _).mp (h.canon w)
  exact (canonical_iff _).mpr ⟨this.1, this.2.1, this.2.2.2, this.2.2.2⟩

theorem Dev_shipNamed (d : Dev) (kept : Tbl Byte) (hdr : List Byte) (h : Keep R M d0 d) (hS : Nat.land M 0x49 = 0x49) (hk : d0.canonical = true → Memory.wf 0xFF kept = true) :
    E R M d0 (Sys2Proof.Machine.Dev.shipNamed d kept hdr) := by
  unfold Sys2Proof.Machine.Dev.shipNamed
  have h' : Keep R M d0 { d with flash := kept } := ⟨h.fuses, fun w => by
    have := (canonical_iff _).mp (h.canon w)
    exact (canonical_iff _).mpr ⟨this.1, this.2.1, hk w, this.2.2.2⟩, splice_trans hS h.frame rfl⟩
  exact E.ite E.error (E.ok (Dev_fp _ _ _ (Dev_fp _ _ _ (each (fun _ _ hy => Dev_setReg _ _ _ hy (sub hS rfl))
    (Dev_setReg _ _ _ (Dev_romSpindles _ h' (sub hS rfl)) (sub hS rfl))) (sub hS rfl)) (sub hS rfl)))

theorem Dev_shipLoad (d : Dev) (h : Keep R M d0 d) (hS : Nat.land M 0x410464F = 0x410464F) :
    E R M d0 (Sys2Proof.Machine.Dev.shipLoad d) := by
  unfold Sys2Proof.Machine.Dev.shipLoad
  refine E.ite E.error (E.ite E.error (E.bindD (Dev_shipSections _ _ _ _ (Dev_useImg _ (each (fun _ _ hy => Dev_setSpn _ _ _ hy (sub hS rfl))
    (each (fun _ _ hy => Dev_fp _ _ _ hy (sub hS rfl)) (Dev_clearMemory _ h (sub hS rfl)))) (sub hS rfl)) (sub hS rfl)) (fun y hy => Dev_shipNamed _ _ _ hy (sub hS rfl) (fun w => ?_))))
  exact ((canonical_iff _).mp (h.canon w)).2.2.1

theorem Dev_shipStep (d : Dev) (h : Keep R M d0 d) (hS : Nat.land M 0x200000 = 0x200000) :
    Keep R M d0 (Sys2Proof.Machine.Dev.shipStep d) := by
  unfold Sys2Proof.Machine.Dev.shipStep
  repeat' first
    | with_reducible exact h
    | with_reducible assumption
    | exact sub hS rfl
    | with_reducible exact rfl
    | with_reducible apply Dev_sendOn
    | fail_if_no_progress with_reducible refine upd (m := 0x200000) ?_ hS rfl (by (repeat' apply And.intro) <;> first | exact .inr rfl | with_reducible exact .inl rfl)
    | with_reducible apply ite
    | dsimp only
    | split

theorem imageLoad (env : BootEnv) (d : Dev) (h : Keep R M d0 d) (hS : Nat.land M 0x1430FF4F = 0x1430FF4F) :
    Keep R M d0 (Sys2Proof.Machine.imageLoad env d) := by
  unfold Sys2Proof.Machine.imageLoad
  repeat' first
    | with_reducible exact h
    | with_reducible assumption
    | exact sub hS rfl
    | with_reducible exact rfl
    | with_reducible refine raisePlain ?_ (by with_unfolding_all exact rfl) ?_
    | with_reducible apply Dev_raise
    | with_reducible apply Dev_clearMemory
    | with_reducible apply Dev_shipLoad
    | with_reducible apply Dev_fp
    | with_reducible apply Dev_banksToOwners
    | with_reducible apply Dev_clearImg
    | with_reducible apply Dev_sendStatus
    | with_reducible apply Dev_setChain
    | with_reducible apply Dev_portIsolate
    | with_reducible apply Dev_clearVoices
    | with_reducible refine E.out (by assumption) ?_
    | with_reducible exact E.error
    | with_reducible apply E.ok
    | with_reducible apply E.ite
    | with_reducible apply ite
    | dsimp only
    | split

theorem img (hdr : LinkHdr) (offset : Nat) (data : List Byte) (d : Dev) (h : Keep R M d0 d) (hS : Nat.land M 0x10200549 = 0x10200549) :
    Keep R M d0 (Sys2Proof.Machine.img hdr offset data d) := by
  unfold Sys2Proof.Machine.img
  repeat' first
    | with_reducible exact h
    | with_reducible assumption
    | exact sub hS rfl
    | with_reducible exact rfl
    | intro _
    | with_reducible apply Dev_onFrame
    | with_reducible apply Dev_addPiece
    | with_reducible refine raisePlain ?_ (by with_unfolding_all exact rfl) ?_
    | with_reducible apply Dev_raise
    | with_reducible apply Dev_clearImg
    | with_reducible apply Dev_imgToFlash
    | with_reducible apply ite
    | dsimp only

theorem memberResponseTimeout (tag : Nat) (d : Dev) (h : Keep R M d0 d) (hS : Nat.land M 0x11A00541 = 0x11A00541) :
    Keep R M d0 (Sys2Proof.Machine.memberResponseTimeout tag d) := by
  unfold Sys2Proof.Machine.memberResponseTimeout
  repeat' first
    | with_reducible exact h
    | with_reducible assumption
    | exact sub hS rfl
    | with_reducible exact rfl
    | with_reducible apply Dev_respondWait
    | fail_if_no_progress with_reducible refine upd (m := 0x11A00541) ?_ hS rfl (by (repeat' apply And.intro) <;> first | exact .inr rfl | with_reducible exact .inl rfl)
    | with_reducible apply ite
    | dsimp only

theorem regReq (hdr : LinkHdr) (tag : Nat) (write : Bool) (addr : Word) (value : Word) (d : Dev) (h : Keep R M d0 d) (hS : Nat.land M 0x1FFFFFFF = 0x1FFFFFFF) :
    Keep R M d0 (Sys2Proof.Machine.regReq hdr tag write addr value d) := by
  unfold Sys2Proof.Machine.regReq
  repeat' first
    | with_reducible exact h
    | with_reducible assumption
    | exact sub hS rfl
    | with_reducible exact rfl
    | intro _
    | with_reducible apply Dev_onFrame
    | with_reducible apply Dev_busWrite
    | with_reducible apply Dev_busRead
    | with_reducible apply Dev_sendUp
    | with_reducible refine S.out (by assumption) ?_
    | with_reducible apply S.snd
    | with_reducible apply S.ite
    | with_reducible apply ite
    | dsimp only
    | with_reducible apply S.mk

theorem regRsp (hdr : LinkHdr) (tag : Nat) (status : Nat) (value : Word) (d : Dev) (h : Keep R M d0 d) (hS : Nat.land M 0x11A00541 = 0x11A00541) :
    Keep R M d0 (Sys2Proof.Machine.regRsp hdr tag status value d) := by
  unfold Sys2Proof.Machine.regRsp
  repeat' first
    | with_reducible exact h
    | with_reducible assumption
    | exact sub hS rfl
    | with_reducible exact rfl
    | intro _
    | with_reducible apply Dev_onFrame
    | with_reducible apply Dev_forwardNext
    | fail_if_no_progress with_reducible refine upd (m := 0x11A00541) ?_ hS rfl (by (repeat' apply And.intro) <;> first | exact .inr rfl | with_reducible exact .inl rfl)
    | with_reducible apply ite
    | dsimp only
    | split

/-! ### Machine/Uart.lean -/

theorem Dev_dropSof (d : Dev) (f : Fld) (h : Keep R M d0 d) (hS : Nat.land M 0x11000541 = 0x11000541) :
    Keep R M d0 (Sys2Proof.Machine.Dev.dropSof d f) := by
  unfold Sys2Proof.Machine.Dev.dropSof
  repeat' first
    | with_reducible exact h
    | with_reducible assumption
    | exact sub hS rfl
    | with_reducible exact rfl
    | with_reducible refine raisePlain ?_ (by with_unfolding_all exact rfl) ?_
    | with_reducible apply Dev_raise
    | with_reducible apply Dev_count
    | fail_if_no_progress with_reducible refine upd (m := 0x11000541) ?_ hS rfl (by (repeat' apply And.intro) <;> first | exact .inr rfl | with_reducible exact .inl rfl)
    | dsimp only

theorem Dev_settle (a1 : Nat) (a2 : Dev) (h : Keep R M d0 a2) (hS : Nat.land M 0x11000541 = 0x11000541) :
    Keep R M d0 (Sys2Proof.Machine.Dev.settle a1 a2) := by
  induction a1 generalizing a2 with
  | zero => exact h
  | succ n ih =>
    unfold Sys2Proof.Machine.Dev.settle
    repeat' first
      | with_reducible apply ih
      | with_reducible exact h
      | with_reducible assumption
      | exact sub hS rfl
      | with_reducible exact rfl
      | with_reducible apply Dev_dropSof
      | fail_if_no_progress with_reducible refine upd (m := 0x11000541) ?_ hS rfl (by (repeat' apply And.intro) <;> first | exact .inr rfl | with_reducible exact .inl rfl)
      | with_reducible apply ite
      | dsimp only
      | split

theorem Dev_drainBytes (a1 : List (Byte × Word × Word)) (a2 : Dev) (h : Keep R M d0 a2) (hS : Nat.land M 0x11000541 = 0x11000541) :
    S R M d0 (Sys2Proof.Machine.Dev.drainBytes a1 a2) := by
  induction a1 generalizing a2 with
  | nil => exact S.mk h
  | cons b bs ih =>
    unfold Sys2Proof.Machine.Dev.drainBytes
    repeat' first
      | with_reducible apply ih
      | with_reducible apply S.snd
      | with_reducible exact h
      | with_reducible assumption
      | exact sub hS rfl
      | with_reducible exact rfl
      | with_reducible apply Dev_settle
      | with_reducible apply S.ite
      | fail_if_no_progress with_reducible refine upd (m := 0x11000541) ?_ hS rfl (by (repeat' apply And.intro) <;> first | exact .inr rfl | with_reducible exact .inl rfl)
      | with_reducible apply ite
      | dsimp only
      | split
      | with_reducible apply S.mk

theorem Dev_flushMidi (n : Nat) (a1 : Nat) (a2 : Dev) (h : Keep R M d0 a2) (hS : Nat.land M 0x800201 = 0x800201) :
    Keep R M d0 (Sys2Proof.Machine.Dev.flushMidi n a1 a2) := by
  induction a1 generalizing a2 with
  | zero => exact h
  | succ n ih =>
    unfold Sys2Proof.Machine.Dev.flushMidi
    repeat' first
      | with_reducible apply ih
      | with_reducible exact h
      | with_reducible assumption
      | exact sub hS rfl
      | with_reducible exact rfl
      | with_reducible apply midiMessage
      | dsimp only
      | split

theorem Dev_showRts (d : Dev) (h : Keep R M d0 d) (hS : Nat.land M 0x800000 = 0x800000) :
    Keep R M d0 (Sys2Proof.Machine.Dev.showRts d) := by
  unfold Sys2Proof.Machine.Dev.showRts
  repeat' first
    | with_reducible exact h
    | with_reducible assumption
    | exact sub hS rfl
    | with_reducible exact rfl
    | with_reducible apply Dev_setUart
    | with_reducible apply ite
    | dsimp only

theorem Dev_hostDrain (d : Dev) (h : Keep R M d0 d) (hS : Nat.land M 0x11800541 = 0x11800541) :
    Keep R M d0 (Sys2Proof.Machine.Dev.hostDrain d) := by
  unfold Sys2Proof.Machine.Dev.hostDrain
  repeat' first
    | with_reducible exact h
    | with_reducible assumption
    | exact sub hS rfl
    | with_reducible exact rfl
    | with_reducible apply Dev_settle
    | with_reducible apply Dev_drainBytes
    | with_reducible apply Dev_showRts
    | with_reducible apply Dev_setUart
    | with_reducible refine S.out (by assumption) ?_
    | with_reducible apply S.snd
    | with_reducible apply S.ite
    | with_reducible apply ite
    | dsimp only
    | with_reducible apply S.mk

theorem Dev_takeByte (d : Dev) (n : Nat) (x : Byte × Word × Word) (h : Keep R M d0 d) (hS : Nat.land M 0x11800541 = 0x11800541) :
    Keep R M d0 (Sys2Proof.Machine.Dev.takeByte d n x) := by
  unfold Sys2Proof.Machine.Dev.takeByte
  repeat' first
    | with_reducible exact h
    | with_reducible assumption
    | exact sub hS rfl
    | with_reducible exact rfl
    | with_reducible apply Dev_count
    | with_reducible apply Dev_fp
    | with_reducible refine raisePlain ?_ (by with_unfolding_all exact rfl) ?_
    | with_reducible apply Dev_raise
    | with_reducible apply Dev_setUart
    | with_reducible apply Dev_hostDrain
    | with_reducible apply ite
    | dsimp only

theorem character (n : Nat) (start : Word) (bits : List Samples) (d : Dev) (h : Keep R M d0 d) (hS : Nat.land M 0x11800541 = 0x11800541) :
    Keep R M d0 (Sys2Proof.Machine.character n start bits d) := by
  unfold Sys2Proof.Machine.character
  repeat' first
    | with_reducible exact h
    | with_reducible assumption
    | exact sub hS rfl
    | with_reducible exact rfl
    | with_reducible apply Dev_count
    | with_reducible apply Dev_fp
    | with_reducible apply Dev_setUart
    | with_reducible refine raisePlain ?_ (by with_unfolding_all exact rfl) ?_
    | with_reducible apply Dev_raise
    | with_reducible apply Dev_takeByte
    | with_reducible apply ite
    | dsimp only

theorem interByteTimeout (d : Dev) (h : Keep R M d0 d) (hS : Nat.land M 0x11800541 = 0x11800541) :
    Keep R M d0 (Sys2Proof.Machine.interByteTimeout d) := by
  unfold Sys2Proof.Machine.interByteTimeout
  repeat' first
    | with_reducible exact h
    | with_reducible assumption
    | exact sub hS rfl
    | with_reducible exact rfl
    | with_reducible apply Dev_hostDrain
    | with_reducible apply Dev_dropSof
    | with_reducible apply ite
    | dsimp only

theorem lineDead (n : Nat) (d : Dev) (h : Keep R M d0 d) (hS : Nat.land M 0x11800741 = 0x11800741) :
    Keep R M d0 (Sys2Proof.Machine.lineDead n d) := by
  unfold Sys2Proof.Machine.lineDead
  repeat' first
    | with_reducible exact h
    | with_reducible assumption
    | exact sub hS rfl
    | with_reducible exact rfl
    | with_reducible refine raisePlain ?_ (by with_unfolding_all exact rfl) ?_
    | with_reducible apply Dev_raise
    | with_reducible apply Dev_fp
    | with_reducible apply Dev_flushMidi
    | with_reducible apply Dev_setParser
    | with_reducible apply Dev_takeAll
    | fail_if_no_progress with_reducible refine upd (m := 0x11800741) ?_ hS rfl (by (repeat' apply And.intro) <;> first | exact .inr rfl | with_reducible exact .inl rfl)
    | with_reducible apply ite
    | dsimp only

theorem lineDeadExit (n : Nat) (d : Dev) (h : Keep R M d0 d) (hS : Nat.land M 0x800001 = 0x800001) :
    Keep R M d0 (Sys2Proof.Machine.lineDeadExit n d) := by
  unfold Sys2Proof.Machine.lineDeadExit
  repeat' first
    | with_reducible exact h
    | with_reducible assumption
    | exact sub hS rfl
    | with_reducible exact rfl
    | with_reducible apply Dev_fp
    | with_reducible apply Dev_setUart
    | with_reducible apply ite
    | dsimp only

theorem transmitCharacter (n : Nat) (ctsHigh : Bool) (d : Dev) (h : Keep R M d0 d) (hS : Nat.land M 0x800001 = 0x800001) :
    Keep R M d0 (Sys2Proof.Machine.transmitCharacter n ctsHigh d) := by
  unfold Sys2Proof.Machine.transmitCharacter
  repeat' first
    | with_reducible exact h
    | with_reducible assumption
    | exact sub hS rfl
    | with_reducible exact rfl
    | with_reducible apply Dev_setUart
    | with_reducible apply Dev_fp
    | with_reducible apply ite
    | dsimp only
    | split

/-! ### Machine/Host.lean -/

theorem Dev_badFrame (d : Dev) (h : Keep R M d0 d) (hS : Nat.land M 0x10000541 = 0x10000541) :
    Keep R M d0 (Sys2Proof.Machine.Dev.badFrame d) := by
  unfold Sys2Proof.Machine.Dev.badFrame
  repeat' first
    | with_reducible exact h
    | with_reducible assumption
    | exact sub hS rfl
    | with_reducible exact rfl
    | with_reducible refine raisePlain ?_ (by with_unfolding_all exact rfl) ?_
    | with_reducible apply Dev_raise
    | with_reducible apply Dev_count
    | dsimp only

theorem Dev_frameDone (d : Dev) (h : Keep R M d0 d) (hS : Nat.land M 0x11800541 = 0x11800541) :
    Keep R M d0 (Sys2Proof.Machine.Dev.frameDone d) := by
  unfold Sys2Proof.Machine.Dev.frameDone
  repeat' first
    | with_reducible exact h
    | with_reducible assumption
    | exact sub hS rfl
    | with_reducible exact rfl
    | with_reducible apply Dev_hostDrain
    | fail_if_no_progress with_reducible refine upd (m := 0x11800541) ?_ hS rfl (by (repeat' apply And.intro) <;> first | exact .inr rfl | with_reducible exact .inl rfl)
    | dsimp only

theorem Dev_forwardHost (d : Dev) (hdr : HostHdr) (op : Nat) (todo : List (Bool × Nat × Word)) (h : Keep R M d0 d) (hS : Nat.land M 0x11A00541 = 0x11A00541) :
    Keep R M d0 (Sys2Proof.Machine.Dev.forwardHost d hdr op todo) := by
  unfold Sys2Proof.Machine.Dev.forwardHost
  repeat' first
    | with_reducible exact h
    | with_reducible assumption
    | exact sub hS rfl
    | with_reducible exact rfl
    | with_reducible apply Dev_respond
    | with_reducible apply Dev_forwardNext
    | fail_if_no_progress with_reducible refine upd (m := 0x11A00541) ?_ hS rfl (by (repeat' apply And.intro) <;> first | exact .inr rfl | with_reducible exact .inl rfl)
    | with_reducible apply ite
    | dsimp only

theorem Dev_onHost (d : Dev) (hdr : HostHdr) (op : Nat) (room : Nat) (modes : Dev → Bool) (todo : List (Bool × Nat × Word)) (f : Dev → Dev) (h : Keep R M d0 d) (hf : ∀ y, Keep R M d0 y → Keep R M d0 (f y)) (hS : Nat.land M 0x11A70FC1 = 0x11A70FC1) :
    Keep R M d0 (Sys2Proof.Machine.Dev.onHost d hdr op room modes todo f) := by
  unfold Sys2Proof.Machine.Dev.onHost
  repeat' first
    | with_reducible exact h
    | with_reducible assumption
    | exact sub hS rfl
    | with_reducible exact rfl
    | with_reducible apply hf
    | with_reducible apply Dev_wake
    | with_reducible apply Dev_badFrame
    | with_reducible apply Dev_frameDone
    | with_reducible apply Dev_txPush
    | with_reducible apply Dev_count
    | with_reducible apply Dev_forwardHost
    | with_reducible apply Dev_respond
    | fail_if_no_progress with_reducible refine upd (m := 0x11A70FC1) ?_ hS rfl (by (repeat' apply And.intro) <;> first | exact .inr rfl | with_reducible exact .inl rfl)
    | with_reducible apply ite
    | dsimp only
    | split

theorem Dev_jreply (d : Dev) (hdr : HostHdr) (result : Nat) (pay : List Byte) (h : Keep R M d0 d) (hS : Nat.land M 0x11800541 = 0x11800541) :
    Keep R M d0 (Sys2Proof.Machine.Dev.jreply d hdr result pay) := by
  unfold Sys2Proof.Machine.Dev.jreply
  repeat' first
    | with_reducible exact h
    | with_reducible assumption
    | exact sub hS rfl
    | with_reducible exact rfl
    | with_reducible apply Dev_respond
    | dsimp only

theorem Dev_jwait (d : Dev) (hdr : HostHdr) (h : Keep R M d0 d) (hS : Nat.land M 0x1000000 = 0x1000000) :
    Keep R M d0 (Sys2Proof.Machine.Dev.jwait d hdr) := by
  unfold Sys2Proof.Machine.Dev.jwait
  repeat' first
    | with_reducible exact h
    | with_reducible assumption
    | exact sub hS rfl
    | with_reducible exact rfl
    | fail_if_no_progress with_reducible refine upd (m := 0x1000000) ?_ hS rfl (by (repeat' apply And.intro) <;> first | exact .inr rfl | with_reducible exact .inl rfl)
    | dsimp only

theorem Dev_jhost (d : Dev) (hdr : HostHdr) (ty : Nat) (key : Nat) (txid : Nat) (pay : List Byte) (h : Keep R M d0 d) (hS : Nat.land M 0x13800541 = 0x13800541) :
    Keep R M d0 (Sys2Proof.Machine.Dev.jhost d hdr ty key txid pay) := by
  unfold Sys2Proof.Machine.Dev.jhost
  repeat' first
    | with_reducible exact h
    | with_reducible assumption
    | exact sub hS rfl
    | with_reducible exact rfl
    | with_reducible apply Dev_jreply
    | with_reducible apply Dev_jpost
    | with_reducible apply Dev_jwait
    | with_reducible refine S.out (by assumption) ?_
    | with_reducible apply S.snd
    | with_reducible apply S.ite
    | with_reducible apply ite
    | dsimp only
    | with_reducible apply S.mk

theorem Dev_onJournal (d : Dev) (hdr : HostHdr) (room : Nat) (f : Dev → Dev) (h : Keep R M d0 d) (hf : ∀ y, Keep R M d0 y → Keep R M d0 (f y)) (hS : Nat.land M 0x11A70FC1 = 0x11A70FC1) :
    Keep R M d0 (Sys2Proof.Machine.Dev.onJournal d hdr room f) := by
  unfold Sys2Proof.Machine.Dev.onJournal
  repeat' first
    | with_reducible exact h
    | with_reducible assumption
    | exact sub hS rfl
    | with_reducible exact rfl
    | with_reducible apply hf
    | intro _
    | with_reducible apply Dev_onHost
    | dsimp only

theorem Dev_packets (d : Dev) (l : List (List UmpWord)) (ts : Option Word) (h : Keep R M d0 d) (hS : Nat.land M 0x603 = 0x603) :
    Keep R M d0 (Sys2Proof.Machine.Dev.packets d l ts) := by
  unfold Sys2Proof.Machine.Dev.packets
  repeat' first
    | with_reducible exact h
    | with_reducible assumption
    | exact sub hS rfl
    | with_reducible exact rfl
    | with_reducible apply Dev_packet
    | with_reducible apply Dev_writeStaged
    | with_reducible apply Dev_count
    | with_reducible refine F.out (by assumption) ?_
    | with_reducible apply F.fst
    | with_reducible apply F.ite
    | with_reducible refine each (fun _ _ _ => ?_) ?_
    | with_reducible apply ite
    | dsimp only
    | split
    | with_reducible apply F.mk

theorem Dev_readWords (d : Dev) (bad : Nat) (a1 : List Nat) (h : Keep R M d0 d) (hS : Nat.land M 0x10000541 = 0x10000541) :
    S R M d0 (Sys2Proof.Machine.Dev.readWords d bad a1) := by
  induction a1 generalizing d bad with
  | nil => exact S.mk h
  | cons b bs ih =>
    have h2 := ih _ 0 (Dev_busRead d b bad h (sub hS rfl))
    exact h2

theorem Dev_submitPatch (d : Dev) (slot : Nat) (stamp : Word) (data : List Byte) (h : Keep R M d0 d) (hS : Nat.land M 0x10000745 = 0x10000745) :
    Keep R M d0 (Sys2Proof.Machine.Dev.submitPatch d slot stamp data) := by
  unfold Sys2Proof.Machine.Dev.submitPatch
  repeat' first
    | with_reducible exact h
    | with_reducible assumption
    | exact sub hS rfl
    | with_reducible exact rfl
    | with_reducible apply Dev_fabricWrite
    | with_reducible apply Dev_post
    | with_reducible refine each (fun _ _ _ => ?_) ?_
    | dsimp only

theorem Dev_umpWords (d : Dev) (hdr : HostHdr) (op : Nat) (ts : Option Word) (words : List UmpWord) (h : Keep R M d0 d) (hS : Nat.land M 0x11A70FC3 = 0x11A70FC3) :
    Keep R M d0 (Sys2Proof.Machine.Dev.umpWords d hdr op ts words) := by
  unfold Sys2Proof.Machine.Dev.umpWords
  repeat' first
    | with_reducible exact h
    | with_reducible assumption
    | exact sub hS rfl
    | with_reducible exact rfl
    | intro _
    | with_reducible apply Dev_onHost
    | with_reducible apply Dev_respond
    | with_reducible apply Dev_packets
    | with_reducible apply ite
    | dsimp only
    | split

theorem Dev_writeWords (d : Dev) (a1 : List (Nat × Word)) (h : Keep R M d0 d) (hS : Nat.land M 0x1FFFFFFF = 0x1FFFFFFF) :
    S R M d0 (Sys2Proof.Machine.Dev.writeWords d a1) := by
  induction a1 generalizing d with
  | nil => exact S.mk h
  | cons b bs ih =>
    unfold Sys2Proof.Machine.Dev.writeWords
    repeat' first
      | with_reducible apply ih
      | with_reducible apply S.snd
      | with_reducible exact h
      | with_reducible assumption
      | exact sub hS rfl
      | with_reducible exact rfl
      | with_reducible apply Dev_busWrite
      | with_reducible apply S.ite
      | with_reducible apply ite
      | dsimp only
      | split
      | with_reducible apply S.mk

theorem confirm (hdr : HostHdr) (d : Dev) (h : Keep R M d0 d) (hS : Nat.land M 0x11A70FC9 = 0x11A70FC9) :
    Keep R M d0 (Sys2Proof.Machine.confirm hdr d) := by
  unfold Sys2Proof.Machine.confirm
  repeat' first
    | with_reducible exact h
    | with_reducible assumption
    | exact sub hS rfl
    | with_reducible exact rfl
    | intro _
    | with_reducible apply Dev_onHost
    | with_reducible apply Dev_respond
    | with_reducible apply Dev_confirmSlot
    | dsimp only

theorem dumpRead (hdr : HostHdr) (source : Nat) (offset : Nat) (len : Nat) (d : Dev) (h : Keep R M d0 d) (hS : Nat.land M 0x11A70FC1 = 0x11A70FC1) :
    Keep R M d0 (Sys2Proof.Machine.dumpRead hdr source offset len d) := by
  unfold Sys2Proof.Machine.dumpRead
  repeat' first
    | with_reducible exact h
    | with_reducible assumption
    | exact sub hS rfl
    | with_reducible exact rfl
    | intro _
    | with_reducible apply Dev_onHost
    | with_reducible apply Dev_respond
    | with_reducible apply ite
    | dsimp only

theorem flashErase (hdr : HostHdr) (first : Nat) (count : Nat) (d : Dev) (h : Keep R M d0 d) (hS : Nat.land M 0x11A70FC9 = 0x11A70FC9) :
    Keep R M d0 (Sys2Proof.Machine.flashErase hdr first count d) := by
  unfold Sys2Proof.Machine.flashErase
  repeat' first
    | with_reducible exact h
    | with_reducible assumption
    | exact sub hS rfl
    | with_reducible exact rfl
    | intro _
    | with_reducible apply Dev_onHost
    | with_reducible apply Dev_respond
    | with_reducible apply Dev_showErased
    | with_reducible apply Dev_ferase
    | with_reducible refine each (fun _ _ _ => ?_) ?_
    | with_reducible apply ite
    | dsimp only

theorem flashProg (hdr : HostHdr) (offset : Nat) (data : List Byte) (d : Dev) (h : Keep R M d0 d) (hS : Nat.land M 0x11A70FC9 = 0x11A70FC9) :
    Keep R M d0 (Sys2Proof.Machine.flashProg hdr offset data d) := by
  unfold Sys2Proof.Machine.flashProg
  repeat' first
    | with_reducible exact h
    | with_reducible assumption
    | exact sub hS rfl
    | with_reducible exact rfl
    | intro _
    | with_reducible apply Dev_onHost
    | with_reducible apply Dev_respond
    | with_reducible apply Dev_showErased
    | with_reducible apply Dev_fprog
    | with_reducible apply ite
    | dsimp only

theorem flashRead (hdr : HostHdr) (offset : Nat) (len : Nat) (d : Dev) (h : Keep R M d0 d) (hS : Nat.land M 0x11A70FC1 = 0x11A70FC1) :
    Keep R M d0 (Sys2Proof.Machine.flashRead hdr offset len d) := by
  unfold Sys2Proof.Machine.flashRead
  repeat' first
    | with_reducible exact h
    | with_reducible assumption
    | exact sub hS rfl
    | with_reducible exact rfl
    | intro _
    | with_reducible apply Dev_onHost
    | with_reducible apply Dev_respond
    | with_reducible apply ite
    | dsimp only

theorem heldPatchWrite (slot : Nat) (d : Dev) (h : Keep R M d0 d) (hS : Nat.land M 0x10000745 = 0x10000745) :
    Keep R M d0 (Sys2Proof.Machine.heldPatchWrite slot d) := by
  unfold Sys2Proof.Machine.heldPatchWrite
  repeat' first
    | with_reducible exact h
    | with_reducible assumption
    | exact sub hS rfl
    | with_reducible exact rfl
    | with_reducible apply Dev_submitPatch
    | fail_if_no_progress with_reducible refine upd (m := 0x10000745) ?_ hS rfl (by (repeat' apply And.intro) <;> first | exact .inr rfl | with_reducible exact .inl rfl)
    | with_reducible apply ite
    | dsimp only
    | split

theorem journalDelete (hdr : HostHdr) (type : Nat) (key : Nat) (txid : Nat) (d : Dev) (h : Keep R M d0 d) (hS : Nat.land M 0x13A70FC1 = 0x13A70FC1) :
    Keep R M d0 (Sys2Proof.Machine.journalDelete hdr type key txid d) := by
  unfold Sys2Proof.Machine.journalDelete
  repeat' first
    | with_reducible exact h
    | with_reducible assumption
    | exact sub hS rfl
    | with_reducible exact rfl
    | intro _
    | with_reducible apply Dev_onJournal
    | with_reducible apply Dev_jreply
    | with_reducible apply Dev_jhost
    | with_reducible apply ite
    | dsimp only

theorem journalFormat (hdr : HostHdr) (d : Dev) (h : Keep R M d0 d) (hS : Nat.land M 0x13A70FC9 = 0x13A70FC9) :
    Keep R M d0 (Sys2Proof.Machine.journalFormat hdr d) := by
  unfold Sys2Proof.Machine.journalFormat
  refine Dev_onHost _ _ _ _ _ _ _ h (fun y hy => ?_) (sub hS rfl)
  split
  · exact Dev_jreply _ _ _ _ hy (sub hS rfl)
  · have h3 := fun s => Dev_fp _ NVJ_STAT_RO 0 (Dev_ferase _ (s + 1) (Dev_ferase _ s hy (sub hS rfl)) (sub hS rfl)) (sub hS rfl)
    exact ite (Dev_jreply _ _ _ _ hy (sub hS rfl)) (Dev_jreply _ _ _ _ (O.getD (Dev_jreplay _ _ _ (h3 _) (sub hS rfl)) (h3 _)) (sub hS rfl))

theorem journalNext (hdr : HostHdr) (type : Nat) (key : Nat) (d : Dev) (h : Keep R M d0 d) (hS : Nat.land M 0x11A70FC1 = 0x11A70FC1) :
    Keep R M d0 (Sys2Proof.Machine.journalNext hdr type key d) := by
  unfold Sys2Proof.Machine.journalNext
  repeat' first
    | with_reducible exact h
    | with_reducible assumption
    | exact sub hS rfl
    | with_reducible exact rfl
    | intro _
    | with_reducible apply Dev_onJournal
    | with_reducible apply Dev_jreply
    | with_reducible apply ite
    | dsimp only
    | split

theorem journalRead (hdr : HostHdr) (type : Nat) (key : Nat) (offset : Nat) (len : Nat) (d : Dev) (h : Keep R M d0 d) (hS : Nat.land M 0x11A70FC1 = 0x11A70FC1) :
    Keep R M d0 (Sys2Proof.Machine.journalRead hdr type key offset len d) := by
  unfold Sys2Proof.Machine.journalRead
  repeat' first
    | with_reducible exact h
    | with_reducible assumption
    | exact sub hS rfl
    | with_reducible exact rfl
    | intro _
    | with_reducible apply Dev_onJournal
    | with_reducible apply Dev_respond
    | with_reducible apply Dev_jreply
    | with_reducible apply ite
    | dsimp only
    | split

theorem journalRecall (hdr : HostHdr) (preset : Nat) (d : Dev) (h : Keep R M d0 d) (hS : Nat.land M 0x11A70FC3 = 0x11A70FC3) :
    Keep R M d0 (Sys2Proof.Machine.journalRecall hdr preset d) := by
  unfold Sys2Proof.Machine.journalRecall
  repeat' first
    | with_reducible exact h
    | with_reducible assumption
    | exact sub hS rfl
    | with_reducible exact rfl
    | intro _
    | with_reducible apply Dev_onJournal
    | with_reducible apply Dev_jreply
    | with_reducible apply Dev_writeStaged
    | with_reducible refine each (fun _ _ _ => ?_) ?_
    | dsimp only
    | split

theorem journalStat (hdr : HostHdr) (d : Dev) (h : Keep R M d0 d) (hS : Nat.land M 0x11A70FC1 = 0x11A70FC1) :
    Keep R M d0 (Sys2Proof.Machine.journalStat hdr d) := by
  unfold Sys2Proof.Machine.journalStat
  repeat' first
    | with_reducible exact h
    | with_reducible assumption
    | exact sub hS rfl
    | with_reducible exact rfl
    | intro _
    | with_reducible apply Dev_onJournal
    | with_reducible apply Dev_jreply
    | dsimp only

theorem journalTxabort (hdr : HostHdr) (txid : Nat) (d : Dev) (h : Keep R M d0 d) (hS : Nat.land M 0x13A70FC1 = 0x13A70FC1) :
    Keep R M d0 (Sys2Proof.Machine.journalTxabort hdr txid d) := by
  unfold Sys2Proof.Machine.journalTxabort
  repeat' first
    | with_reducible exact h
    | with_reducible assumption
    | exact sub hS rfl
    | with_reducible exact rfl
    | intro _
    | with_reducible apply Dev_onJournal
    | with_reducible apply Dev_jreply
    | with_reducible apply Dev_jshow
    | with_reducible apply Dev_count
    | fail_if_no_progress with_reducible refine upd (m := 0x13A70FC1) ?_ hS rfl (by (repeat' apply And.intro) <;> first | exact .inr rfl | with_reducible exact .inl rfl)
    | with_reducible apply ite
    | dsimp only

theorem journalTxcommit (hdr : HostHdr) (txid : Nat) (d : Dev) (h : Keep R M d0 d) (hS : Nat.land M 0x13A70FC1 = 0x13A70FC1) :
    Keep R M d0 (Sys2Proof.Machine.journalTxcommit hdr txid d) := by
  unfold Sys2Proof.Machine.journalTxcommit
  repeat' first
    | with_reducible exact h
    | with_reducible assumption
    | exact sub hS rfl
    | with_reducible exact rfl
    | intro _
    | with_reducible apply Dev_onJournal
    | with_reducible apply Dev_jreply
    | with_reducible apply Dev_jhost
    | with_reducible apply ite
    | dsimp only

theorem journalTxopen (hdr : HostHdr) (d : Dev) (h : Keep R M d0 d) (hS : Nat.land M 0x13A70FC1 = 0x13A70FC1) :
    Keep R M d0 (Sys2Proof.Machine.journalTxopen hdr d) := by
  unfold Sys2Proof.Machine.journalTxopen
  refine Dev_onJournal _ _ _ _ h (fun y hy => ite (Dev_jreply _ _ _ _ hy (sub hS rfl)) ?_) (sub hS rfl)
  split
  · exact Dev_jreply _ _ _ _ hy (sub hS rfl)
  · next t z e => exact Dev_jreply _ _ _ _ (Dev_txOpen _ hy (sub hS rfl) _ _ e) (sub hS rfl)

theorem journalWrite (hdr : HostHdr) (type : Nat) (key : Nat) (txid : Nat) (data : List Byte) (d : Dev) (h : Keep R M d0 d) (hS : Nat.land M 0x13A70FC1 = 0x13A70FC1) :
    Keep R M d0 (Sys2Proof.Machine.journalWrite hdr type key txid data d) := by
  unfold Sys2Proof.Machine.journalWrite
  repeat' first
    | with_reducible exact h
    | with_reducible assumption
    | exact sub hS rfl
    | with_reducible exact rfl
    | intro _
    | with_reducible apply Dev_onJournal
    | with_reducible apply Dev_respond
    | with_reducible apply Dev_jreply
    | with_reducible apply Dev_jhost
    | with_reducible apply ite
    | dsimp only

theorem midiOut (hdr : HostHdr) (port : Nat) (data : List Byte) (d : Dev) (h : Keep R M d0 d) (hS : Nat.land M 0x11A70FC1 = 0x11A70FC1) :
    Keep R M d0 (Sys2Proof.Machine.midiOut hdr port data d) := by
  unfold Sys2Proof.Machine.midiOut
  repeat' first
    | with_reducible exact h
    | with_reducible assumption
    | exact sub hS rfl
    | with_reducible exact rfl
    | intro _
    | with_reducible apply Dev_onHost
    | with_reducible apply Dev_respond
    | with_reducible apply Dev_txPush
    | with_reducible apply ite
    | dsimp only

theorem patchWrite (hdr : HostHdr) (slot : Nat) (stamp : Word) (data : List Byte) (d : Dev) (h : Keep R M d0 d) (hS : Nat.land M 0x11A70FC5 = 0x11A70FC5) :
    Keep R M d0 (Sys2Proof.Machine.patchWrite hdr slot stamp data d) := by
  unfold Sys2Proof.Machine.patchWrite
  repeat' first
    | with_reducible exact h
    | with_reducible assumption
    | exact sub hS rfl
    | with_reducible exact rfl
    | intro _
    | with_reducible apply Dev_onHost
    | with_reducible apply Dev_respond
    | with_reducible apply Dev_submitPatch
    | fail_if_no_progress with_reducible refine upd (m := 0x11A70FC5) ?_ hS rfl (by (repeat' apply And.intro) <;> first | exact .inr rfl | with_reducible exact .inl rfl)
    | with_reducible apply ite
    | dsimp only

theorem ping (hdr : HostHdr) (d : Dev) (h : Keep R M d0 d) (hS : Nat.land M 0x11A70FC1 = 0x11A70FC1) :
    Keep R M d0 (Sys2Proof.Machine.ping hdr d) := by
  unfold Sys2Proof.Machine.ping
  repeat' first
    | with_reducible exact h
    | with_reducible assumption
    | exact sub hS rfl
    | with_reducible exact rfl
    | intro _
    | with_reducible apply Dev_onHost
    | with_reducible apply Dev_respond
    | dsimp only

theorem regRead (hdr : HostHdr) (addr : Word) (count : Nat) (bad : Nat) (d : Dev) (h : Keep R M d0 d) (hS : Nat.land M 0x11A70FC1 = 0x11A70FC1) :
    Keep R M d0 (Sys2Proof.Machine.regRead hdr addr count bad d) := by
  unfold Sys2Proof.Machine.regRead
  repeat' first
    | with_reducible exact h
    | with_reducible assumption
    | exact sub hS rfl
    | with_reducible exact rfl
    | intro _
    | with_reducible apply Dev_onHost
    | with_reducible apply Dev_respond
    | with_reducible apply Dev_readWords
    | with_reducible refine S.out (by assumption) ?_
    | with_reducible apply S.snd
    | with_reducible apply S.ite
    | with_reducible apply ite
    | dsimp only
    | with_reducible apply S.mk

theorem regWrite (hdr : HostHdr) (addr : Word) (words : List Word) (d : Dev) (h : Keep R M d0 d) (hS : Nat.land M 0x1FFFFFFF = 0x1FFFFFFF) :
    Keep R M d0 (Sys2Proof.Machine.regWrite hdr addr words d) := by
  unfold Sys2Proof.Machine.regWrite
  repeat' first
    | with_reducible exact h
    | with_reducible assumption
    | exact sub hS rfl
    | with_reducible exact rfl
    | intro _
    | with_reducible apply Dev_onHost
    | with_reducible apply Dev_respond
    | with_reducible apply Dev_writeWords
    | with_reducible refine S.out (by assumption) ?_
    | with_reducible apply S.snd
    | with_reducible apply S.ite
    | with_reducible apply ite
    | dsimp only
    | with_reducible apply S.mk

theorem timedUmp (hdr : HostHdr) (t : Word) (words : List UmpWord) (d : Dev) (h : Keep R M d0 d) (hS : Nat.land M 0x11A70FC3 = 0x11A70FC3) :
    Keep R M d0 (Sys2Proof.Machine.timedUmp hdr t words d) := by
  unfold Sys2Proof.Machine.timedUmp
  repeat' first
    | with_reducible exact h
    | with_reducible assumption
    | exact sub hS rfl
    | with_reducible exact rfl
    | with_reducible apply Dev_umpWords
    | dsimp only

theorem ump (hdr : HostHdr) (words : List UmpWord) (d : Dev) (h : Keep R M d0 d) (hS : Nat.land M 0x11A70FC3 = 0x11A70FC3) :
    Keep R M d0 (Sys2Proof.Machine.ump hdr words d) := by
  unfold Sys2Proof.Machine.ump
  repeat' first
    | with_reducible exact h
    | with_reducible assumption
    | exact sub hS rfl
    | with_reducible exact rfl
    | with_reducible apply Dev_umpWords
    | dsimp only

theorem unknownOpcode (hdr : HostHdr) (opcode : Nat) (d : Dev) (h : Keep R M d0 d) (hS : Nat.land M 0x11A70FC1 = 0x11A70FC1) :
    Keep R M d0 (Sys2Proof.Machine.unknownOpcode hdr opcode d) := by
  unfold Sys2Proof.Machine.unknownOpcode
  repeat' first
    | with_reducible exact h
    | with_reducible assumption
    | exact sub hS rfl
    | with_reducible exact rfl
    | intro _
    | with_reducible apply Dev_onHost
    | with_reducible apply Dev_respond
    | dsimp only

theorem verify (hdr : HostHdr) (slot : Nat) (d : Dev) (h : Keep R M d0 d) (hS : Nat.land M 0x11A70FC1 = 0x11A70FC1) :
    Keep R M d0 (Sys2Proof.Machine.verify hdr slot d) := by
  unfold Sys2Proof.Machine.verify
  repeat' first
    | with_reducible exact h
    | with_reducible assumption
    | exact sub hS rfl
    | with_reducible exact rfl
    | intro _
    | with_reducible apply Dev_onHost
    | with_reducible apply Dev_respond
    | with_reducible apply ite
    | dsimp only

/-! ### Machine/Fatal.lean -/

theorem Dev_dumpOut (d : Dev) (res : Nat) (slot : Nat) (h : Keep R M d0 d) (hS : Nat.land M 0x101 = 0x101) :
    Keep R M d0 (Sys2Proof.Machine.Dev.dumpOut d res slot) := by
  unfold Sys2Proof.Machine.Dev.dumpOut
  repeat' first
    | with_reducible exact h
    | with_reducible assumption
    | exact sub hS rfl
    | with_reducible exact rfl
    | with_reducible apply Dev_fp
    | fail_if_no_progress with_reducible refine upd (m := 0x101) ?_ hS rfl (by (repeat' apply And.intro) <;> first | exact .inr rfl | with_reducible exact .inl rfl)
    | dsimp only

theorem Dev_dumpToFlash (d : Dev) (a1 : Nat) (head : List Byte) (l : List (Nat × Nat × List Byte)) (h : Keep R M d0 d) (hS : Nat.land M 0x8 = 0x8) :
    Keep R M d0 (Sys2Proof.Machine.Dev.dumpToFlash d a1 head l) := by
  exact setFlash h (sub hS rfl) (fun w => twf_putRange 0xFF _ _ _ _ w)

theorem Dev_dumpToRam (d : Dev) (hdr : List Byte) (l : List (Nat × Nat × List Byte)) (h : Keep R M d0 d) (hS : Nat.land M 0x4 = 0x4) :
    Keep R M d0 (Sys2Proof.Machine.Dev.dumpToRam d hdr l) := by
  exact setMem h (sub hS rfl) (fun w => twf_putRange 0 _ _ _ _ w)

theorem Dev_startClocks (d : Dev) (h : Keep R M d0 d) (hS : Nat.land M 0xC1 = 0xC1) :
    Keep R M d0 (Sys2Proof.Machine.Dev.startClocks d) := by
  unfold Sys2Proof.Machine.Dev.startClocks
  repeat' first
    | with_reducible exact h
    | with_reducible assumption
    | exact sub hS rfl
    | with_reducible exact rfl
    | with_reducible apply Dev_setClocks
    | with_reducible apply Dev_handover
    | with_reducible apply ite
    | dsimp only

theorem dumpSlotErase (d : Dev) (h : Keep R M d0 d) (hS : Nat.land M 0x109 = 0x109) :
    Keep R M d0 (Sys2Proof.Machine.dumpSlotErase d) := by
  unfold Sys2Proof.Machine.dumpSlotErase
  repeat' first
    | with_reducible exact h
    | with_reducible assumption
    | exact sub hS rfl
    | with_reducible exact rfl
    | with_reducible apply Dev_ferase
    | with_reducible apply Dev_showErased
    | fail_if_no_progress with_reducible refine upd (m := 0x109) ?_ hS rfl (by (repeat' apply And.intro) <;> first | exact .inr rfl | with_reducible exact .inl rfl)
    | with_reducible apply ite
    | dsimp only
    | split

theorem dumpWritten (d : Dev) (h : Keep R M d0 d) (hS : Nat.land M 0x10000541 = 0x10000541) :
    Keep R M d0 (Sys2Proof.Machine.dumpWritten d) := by
  unfold Sys2Proof.Machine.dumpWritten
  repeat' first
    | with_reducible exact h
    | with_reducible assumption
    | exact sub hS rfl
    | with_reducible exact rfl
    | with_reducible refine raisePlain ?_ (by with_unfolding_all exact rfl) ?_
    | with_reducible apply Dev_raise
    | with_reducible apply Dev_fp
    | fail_if_no_progress with_reducible refine upd (m := 0x10000541) ?_ hS rfl (by (repeat' apply And.intro) <;> first | exact .inr rfl | with_reducible exact .inl rfl)
    | with_reducible apply ite
    | dsimp only

theorem fatalServiceEntry (d : Dev) (h : Keep R M d0 d) (hS : Nat.land M 0x11F209C5 = 0x11F209C5) :
    Keep R M d0 (Sys2Proof.Machine.fatalServiceEntry d) := by
  unfold Sys2Proof.Machine.fatalServiceEntry
  repeat' first
    | with_reducible exact h
    | with_reducible assumption
    | exact sub hS rfl
    | with_reducible exact rfl
    | with_reducible apply Dev_enterService
    | with_reducible apply ite
    | dsimp only

theorem shavingsDump (readBackOk : Bool) (d : Dev) (h : Keep R M d0 d) (hS : Nat.land M 0x20001CD = 0x20001CD) :
    Keep R M d0 (Sys2Proof.Machine.shavingsDump readBackOk d) := by
  unfold Sys2Proof.Machine.shavingsDump
  repeat' first
    | with_reducible exact h
    | with_reducible assumption
    | exact sub hS rfl
    | with_reducible exact rfl
    | with_reducible apply Dev_addCounter
    | with_reducible apply Dev_jabandon
    | with_reducible apply Dev_startClocks
    | with_reducible apply Dev_dumpToRam
    | with_reducible apply Dev_fp
    | with_reducible apply Dev_dumpOut
    | with_reducible apply Dev_showErased
    | with_reducible apply Dev_dumpToFlash
    | fail_if_no_progress with_reducible refine upd (m := 0x20001CD) ?_ hS rfl (by (repeat' apply And.intro) <;> first | exact .inr rfl | with_reducible exact .inl rfl)
    | with_reducible apply ite
    | dsimp only
    | split

theorem watchdogExpiry (d : Dev) (h : Keep R M d0 d) (hS : Nat.land M 0x11F20DC5 = 0x11F20DC5) :
    Keep R M d0 (Sys2Proof.Machine.watchdogExpiry d) := by
  unfold Sys2Proof.Machine.watchdogExpiry
  repeat' first
    | with_reducible exact h
    | with_reducible assumption
    | exact sub hS rfl
    | with_reducible exact rfl
    | with_reducible apply Dev_enterService
    | with_reducible apply Dev_bootCode
    | with_reducible refine raisePlain ?_ (by with_unfolding_all exact rfl) ?_
    | with_reducible apply Dev_raise
    | with_reducible apply Dev_count
    | with_reducible apply Dev_serviceActions
    | with_reducible apply Dev_fp
    | fail_if_no_progress with_reducible refine upd (m := 0x11F20DC5) ?_ hS rfl (by (repeat' apply And.intro) <;> first | exact .inr rfl | with_reducible exact .inl rfl)
    | with_reducible apply ite
    | dsimp only
    | split

/-! ### Machine/Tick.lean -/

theorem Dev_pass (d : Dev) (u : Nat) (h : Keep R M d0 d) (hS : Nat.land M 0x120005C1 = 0x120005C1) :
    Keep R M d0 (Sys2Proof.Machine.Dev.pass d u) := by
  unfold Sys2Proof.Machine.Dev.pass
  repeat' first
    | with_reducible exact h
    | with_reducible assumption
    | exact sub hS rfl
    | with_reducible exact rfl
    | with_reducible apply Dev_jsecond
    | fail_if_no_progress with_reducible refine upd (m := 0x120005C1) ?_ hS rfl (by (repeat' apply And.intro) <;> first | exact .inr rfl | with_reducible exact .inl rfl)
    | with_reducible apply ite
    | dsimp only

theorem Dev_xoTimers (d : Dev) (h : Keep R M d0 d) (hS : Nat.land M 0x10170FC1 = 0x10170FC1) :
    Keep R M d0 (Sys2Proof.Machine.Dev.xoTimers d) := by
  unfold Sys2Proof.Machine.Dev.xoTimers
  repeat' first
    | with_reducible exact h
    | with_reducible assumption
    | exact sub hS rfl
    | with_reducible exact rfl
    | with_reducible apply Dev_tmrTicks
    | with_reducible apply Dev_wake
    | with_reducible apply ite
    | dsimp only

theorem Dev_xoEdge (d : Dev) (h : Keep R M d0 d) (hS : Nat.land M 0x10170FC1 = 0x10170FC1) :
    Keep R M d0 (Sys2Proof.Machine.Dev.xoEdge d) := by
  unfold Sys2Proof.Machine.Dev.xoEdge
  repeat' first
    | with_reducible exact h
    | with_reducible assumption
    | exact sub hS rfl
    | with_reducible exact rfl
    | with_reducible apply Dev_setReg
    | with_reducible apply Dev_xoTimers
    | fail_if_no_progress with_reducible refine upd (m := 0x10170FC1) ?_ hS rfl (by (repeat' apply And.intro) <;> first | exact .inr rfl | with_reducible exact .inl rfl)
    | with_reducible apply ite
    | dsimp only

theorem Dev_coldTick (d : Dev) (h : Keep R M d0 d) (hS : Nat.land M 0x12170FC1 = 0x12170FC1) :
    Keep R M d0 (Sys2Proof.Machine.Dev.coldTick d) := by
  unfold Sys2Proof.Machine.Dev.coldTick
  repeat' first
    | with_reducible exact h
    | with_reducible assumption
    | exact sub hS rfl
    | with_reducible exact rfl
    | with_reducible apply Dev_pass
    | with_reducible apply Dev_xoEdge
    | fail_if_no_progress with_reducible refine upd (m := 0x12170FC1) ?_ hS rfl (by (repeat' apply And.intro) <;> first | exact .inr rfl | with_reducible exact .inl rfl)
    | dsimp only
    | split

theorem Dev_xoPhase (d : Dev) (h : Keep R M d0 d) (hS : Nat.land M 0x10170FC1 = 0x10170FC1) :
    Keep R M d0 (Sys2Proof.Machine.Dev.xoPhase d) := by
  unfold Sys2Proof.Machine.Dev.xoPhase
  repeat' first
    | with_reducible exact h
    | with_reducible assumption
    | exact sub hS rfl
    | with_reducible exact rfl
    | with_reducible apply Dev_xoEdge
    | fail_if_no_progress with_reducible refine upd (m := 0x10170FC1) ?_ hS rfl (by (repeat' apply And.intro) <;> first | exact .inr rfl | with_reducible exact .inl rfl)
    | with_reducible apply ite
    | dsimp only

theorem Dev_pclkTick (d : Dev) (h : Keep R M d0 d) (hS : Nat.land M 0x12370FC1 = 0x12370FC1) :
    Keep R M d0 (Sys2Proof.Machine.Dev.pclkTick d) := by
  unfold Sys2Proof.Machine.Dev.pclkTick
  repeat' first
    | with_reducible exact h
    | with_reducible assumption
    | exact sub hS rfl
    | with_reducible exact rfl
    | with_reducible apply Dev_tmrTicks
    | with_reducible apply Dev_pass
    | with_reducible apply Dev_xoPhase
    | with_reducible apply Dev_shipStep
    | fail_if_no_progress with_reducible refine upd (m := 0x12370FC1) ?_ hS rfl (by (repeat' apply And.intro) <;> first | exact .inr rfl | with_reducible exact .inl rfl)
    | with_reducible apply ite
    | dsimp only

theorem Dev_idle (d : Dev) (h : Keep R M d0 d) (hS : Nat.land M 0x12370FC1 = 0x12370FC1) :
    Keep R M d0 (Sys2Proof.Machine.Dev.idle d) := by
  unfold Sys2Proof.Machine.Dev.idle
  repeat' first
    | with_reducible exact h
    | with_reducible assumption
    | exact sub hS rfl
    | with_reducible exact rfl
    | with_reducible apply Dev_xoEdge
    | with_reducible apply Dev_pclkTick
    | with_reducible apply Dev_coldTick
    | with_reducible apply ite
    | dsimp only

/-! ### Burning fuses (R438) -/

/-- A FUSE_BURN frame, where the burn itself is as `R` says. -/
theorem Dev_burn (d : Dev) (hdr : HostHdr) (ok : Dev → Bool) (f : Dev → Dev) (h : Keep R M d0 d)
    (hS : Nat.land M 0x11A70FC1 = 0x11A70FC1) (hf : ∀ y, ok y = true → Keep R M d0 y → Keep R M d0 (f y)) :
    Keep R M d0 (Sys2Proof.Machine.Dev.burn d hdr ok f) := by
  unfold Sys2Proof.Machine.Dev.burn
  refine Dev_onHost _ _ _ _ _ _ _ h (fun y hy => ?_) (sub hS rfl)
  split
  · next c => exact Dev_respond _ _ _ _ _ (hf y c hy) (sub hS rfl)
  · exact Dev_respond _ _ _ _ _ hy (sub hS rfl)

theorem Grown.refl (f : Fuses) : Grown f f :=
  ⟨⟨fun _ _ h => h, fun _ h => h, Nat.le_refl _, Nat.le_refl _, Nat.le_refl _⟩, id⟩

theorem Grown.trans {a b c : Fuses} (h : Grown a b) (k : Grown b c) : Grown a c :=
  ⟨⟨fun i v e => k.1.1 i v (h.1.1 i v e), fun i m => k.1.2.1 i (h.1.2.1 i m), Nat.le_trans h.1.2.2.1 k.1.2.2.1,
    Nat.le_trans h.1.2.2.2.1 k.1.2.2.2.1, Nat.le_trans h.1.2.2.2.2 k.1.2.2.2.2⟩, fun s => k.2 (h.2 s)⟩

/-- Fuses are sound, part by part. -/
theorem sound_iff (f : Fuses) : f.sound = true ↔
    f.hash.Pairwise (fun p q => p.1 < q.1) ∧ (∀ p ∈ f.hash, p.1 < 4 ∧ p.2.length = 32) ∧ (∀ k ∈ f.revoked, k < 4) ∧
    f.minVer ≤ 32 ∧ f.lcs ≤ 3 := by
  simp [Fuses.sound, tsorted_none_iff, and_assoc]

theorem fuseBurnKeyHash (hdr : HostHdr) (index : Nat) (value : List Byte) (d : Dev) (h : Keep Grown M d0 d) (hS : Nat.land M 0x19A70FC1 = 0x19A70FC1) :
    Keep Grown M d0 (Sys2Proof.Machine.fuseBurnKeyHash hdr index value d) := by
  unfold Sys2Proof.Machine.fuseBurnKeyHash
  refine Dev_burn _ _ _ _ h (sub hS rfl) (fun y ok hy => setFuses hy (sub hS rfl) (Grown.trans hy.fuses ⟨⟨fun k v e => ?_, fun _ m => m, Nat.le_refl _,
    Nat.le_refl _, Nat.le_refl _⟩, fun s => ?_⟩))
  · simp only [Bool.and_eq_true, decide_eq_true_eq, beq_iff_eq, Option.isNone_iff_eq_none] at ok
    have hk : k ≠ index := fun e' => by rw [e', ok.2] at e; cases e
    simpa [tfind_tins_other _ _ hk] using e
  · simp only [Bool.and_eq_true, decide_eq_true_eq, beq_iff_eq] at ok
    rw [sound_iff] at s ⊢
    refine ⟨pairwise_tins _ _ _ s.1, fun p hp => ?_, s.2.2⟩
    rcases mem_tins hp with hp | hp
    · rw [hp]; exact ok.1
    · exact s.2.1 p hp

theorem fuseBurnRevoke (hdr : HostHdr) (index : Nat) (d : Dev) (h : Keep Grown M d0 d) (hS : Nat.land M 0x19A70FC1 = 0x19A70FC1) :
    Keep Grown M d0 (Sys2Proof.Machine.fuseBurnRevoke hdr index d) := by
  unfold Sys2Proof.Machine.fuseBurnRevoke
  refine Dev_burn _ _ _ _ h (sub hS rfl) (fun y ok hy => ite hy (setFuses hy (sub hS rfl) (Grown.trans hy.fuses ⟨⟨fun _ _ e => e, fun k m =>
    List.mem_append_left _ m, Nat.le_refl _, Nat.le_refl _, Nat.le_refl _⟩, fun s => ?_⟩)))
  rw [sound_iff] at s ⊢
  refine ⟨s.1, s.2.1, fun k hk => ?_, s.2.2.2⟩
  rcases List.mem_append.mp hk with hk | hk
  · exact s.2.2.1 k hk
  · rw [List.mem_singleton.mp hk]; exact of_decide_eq_true ok

theorem fuseBurnMinVersion (hdr : HostHdr) (index : Nat) (d : Dev) (h : Keep Grown M d0 d) (hS : Nat.land M 0x19A70FC1 = 0x19A70FC1) :
    Keep Grown M d0 (Sys2Proof.Machine.fuseBurnMinVersion hdr index d) := by
  unfold Sys2Proof.Machine.fuseBurnMinVersion
  refine Dev_burn _ _ _ _ h (sub hS rfl) (fun y ok hy => ?_)
  simp only [Bool.and_eq_true, decide_eq_true_eq] at ok
  refine setFuses hy (sub hS rfl) (Grown.trans hy.fuses ⟨⟨fun _ _ e => e, fun _ m => m, ok.2, Nat.le_refl _, Nat.le_refl _⟩, fun s => ?_⟩)
  rw [sound_iff] at s ⊢
  exact ⟨s.1, s.2.1, s.2.2.1, ok.1, s.2.2.2.2⟩

theorem fuseBurnLifeCycle (hdr : HostHdr) (index : Nat) (d : Dev) (h : Keep Grown M d0 d) (hS : Nat.land M 0x19A70FC5 = 0x19A70FC5) :
    Keep Grown M d0 (Sys2Proof.Machine.fuseBurnLifeCycle hdr index d) := by
  unfold Sys2Proof.Machine.fuseBurnLifeCycle
  refine Dev_burn _ _ _ _ h (sub hS rfl) (fun y ok hy => ?_)
  simp only [Bool.and_eq_true, decide_eq_true_eq] at ok
  refine ite hy (Dev_wipe _ _ (setFuses hy (sub hS rfl) (Grown.trans hy.fuses ⟨⟨fun _ _ e => e, fun _ m => m, Nat.le_refl _, ok.2,
    Nat.le_succ _⟩, fun s => ?_⟩)) (sub hS rfl))
  rw [sound_iff] at s ⊢
  exact ⟨s.1, s.2.1, s.2.2.1, s.2.2.2.1, ok.1⟩

end Sys2Proof.Laws.Keep
end

