-- ==== Sys2Proof/Tests/Slice0.lean ====
section
/-! SUPPORT. Tests: ill-formed terms that WellFormed refuses, the spec's worked examples and other results worked out by hand,
and for every clause of every statement with hypotheses a state and operands that meet them (the theorems named witness_…;
their docstrings name the statement and the clauses). -/
namespace Sys2Proof.Tests
open Sys2Proof.Machine
set_option Elab.async false

/-! ### WellFormed: each check refuses an ill-formed term -/

/-- A link header and the message records of a well-formed term. -/
def lk (port dst src seq : Nat) : LinkHdr := ⟨port, dst, src, seq, true⟩

theorem test_wf_link : (Instr.headlost (lk 2 255 255 65535)).wf = true ∧ (Instr.headlost (lk 3 0 0 0)).wf = false ∧
    (Instr.headlost (lk 0 256 0 0)).wf = false ∧ (Instr.headlost (lk 0 0 256 0)).wf = false ∧
    (Instr.headlost (lk 0 0 0 65536)).wf = false := by decide +kernel

theorem test_wf_host : (Instr.ping ⟨255, 255, false⟩).wf = true ∧ (Instr.ping ⟨256, 0, true⟩).wf = false ∧
    (Instr.ping ⟨0, 256, true⟩).wf = false := by decide +kernel

theorem test_wf_spindle : (Instr.peakClear 15 0).wf = true ∧ (Instr.peakClear 16 0).wf = false ∧
    (Instr.contextSwitch 0 17).wf = true ∧ (Instr.contextSwitch 0 18).wf = false ∧ (Instr.rollbackOrder 0 18 0).wf = false := by decide +kernel

theorem test_wf_serial : (Instr.lineDead 4).wf = true ∧ (Instr.lineDead 5).wf = false ∧ (Instr.midiMessage 4).wf = false ∧
    (Instr.uartDividerWrite 0 65536).wf = false ∧ (Instr.uartDividerWrite 0 0).wf = false ∧
    (Instr.character 0 0 (List.replicate 10 ⟨true, true, true⟩)).wf = true ∧
    (Instr.character 0 0 (List.replicate 9 ⟨true, true, true⟩)).wf = false := by
  decide +kernel

theorem test_wf_ports : (Instr.beacon 2).wf = true ∧ (Instr.beacon 3).wf = false ∧ (Instr.ack 0 65536 0).wf = false ∧
    (Instr.trainingSet 0 0 0 0 1 0).wf = true ∧ (Instr.trainingSet 0 0 0 0 3 0).wf = false ∧ (Instr.frameLost 4).wf = false ∧
    (Instr.frameStart 0 0 (List.replicate 33 0)).wf = false := by decide +kernel

theorem test_wf_words : (Instr.scrubRead 2).wf = true ∧ (Instr.scrubRead 3).wf = false ∧ (Instr.bankHandover 15 7).wf = true ∧
    (Instr.bankHandover 16 0).wf = false ∧ (Instr.bankHandover 0 8).wf = false ∧ (Instr.pdmControlSample 8 []).wf = false := by decide +kernel

theorem test_wf_events : (Instr.restWake 10 0).wf = true ∧ (Instr.restWake 11 0).wf = false ∧ (Instr.shelfWake 7).wf = true ∧
    (Instr.shelfWake 1).wf = false ∧ (Instr.eventEntry 9).wf = false ∧ (Instr.eventApply 65536).wf = false ∧
    (Instr.heldPatchWrite 1024).wf = false ∧ (Instr.holdoffEnd 64).wf = false ∧ (Instr.evtRawClear 2 0).wf = false := by decide +kernel

theorem test_wf_audio : (Instr.cvoChnSet 16 0).wf = false ∧ (Instr.cvoChnSet 0 65536).wf = false ∧ (Instr.overTemperature 2).wf = false ∧
    (Instr.matchHit 16).wf = false ∧ (Instr.capRead 16 none).wf = false ∧ (Instr.autoTuneDue 16).wf = false := by decide +kernel

theorem test_wf_chain : (Instr.eventDn (lk 0 0 0 0) []).wf = false ∧ (Instr.summary (lk 0 0 0 0) 0 0 0 []).wf = false ∧
    (Instr.regReq (lk 0 0 0 0) 256 false 0 0).wf = false ∧ (Instr.img (lk 0 0 0 0) 0 []).wf = false ∧
    (Instr.img (lk 0 0 0 0) 0 (List.replicate 121 0)).wf = false ∧ (Instr.linkAdmit (lk 0 0 0 0) 0 0 65536).wf = false ∧
    (Instr.sum (lk 0 0 0 0) 0 8 []).wf = false ∧ (Instr.sum (lk 0 0 0 0) 0 16 [(32, 0)]).wf = false ∧
    (Instr.lost (lk 0 0 0 0) 256 0 []).wf = false ∧ (Instr.memberRelease 256).wf = false ∧
    (Instr.memberResponseTimeout 256).wf = false := by decide +kernel

theorem test_wf_network : (Instr.domainLost 2).wf = false ∧ (Instr.streamTimeout 7).wf = true ∧ (Instr.streamTimeout 8).wf = false := by
  decide +kernel

theorem test_wf_frames : (Instr.regRead ⟨0, 0, true⟩ 0 256 0).wf = false ∧ (Instr.regRead ⟨0, 0, true⟩ 0 1 3).wf = false ∧
    (Instr.unknownOpcode ⟨0, 0, true⟩ 0x7F).wf = true ∧ (Instr.unknownOpcode ⟨0, 0, true⟩ 0x01).wf = false ∧
    (Instr.unknownOpcode ⟨0, 0, true⟩ 0x81).wf = false ∧ (Instr.flashProg ⟨0, 0, true⟩ 4294967296 []).wf = false ∧
    (Instr.journalRead ⟨0, 0, true⟩ 65536 0 0 1).wf = false ∧ (Instr.fuseBurnRevoke ⟨0, 0, true⟩ 256).wf = false ∧
    (Instr.patchWrite ⟨0, 0, true⟩ 65536 0 []).wf = false := by decide +kernel

/-- No row of the table has bits: no word spells a command. -/
theorem test_no_word_spells_a_command : decodeTableWord 8 1 = none ∧ decodeTableWord 32 0 = none := by decide +kernel

/-! ### States of the tests -/

/-- The reset device with fields and registers written. -/
def Dv (fl : List (Fld × Nat)) (rg : List (Nat × Word) := []) : Dev :=
  rg.foldl (fun d p => d.setReg p.1 p.2) (fl.foldl (fun d p => d.fp p.1 p.2) Dev.reset)

/-- In mode m, straps sampled and memories filled; in RUN the engine is on. -/
def Dev.inMode (d : Dev) (m : Mode) : Dev :=
  { d with pwr := { d.pwr with mode := m, zeroFill := false, sampled := true }, eng := { d.eng with on := m == .run } }

def run (fl : List (Fld × Nat)) (rg : List (Nat × Word) := []) : Dev := Dev.inMode (Dv fl rg) .run

/-- A state whose queue is empty. -/
def St (d : Dev) : State := { pending := [], dev := d }

/-- A device whose port to the host is on. -/
def hst (m : Mode := .run) (fl : List (Fld × Nat) := []) (rg : List (Nat × Word) := []) : Dev :=
  Dev.inMode (Dv ([(UART_CFG_EN 4, 1)] ++ fl) rg) m

/-- A header with a good CRC. -/
def hh (tag : Nat := 7) (dev : Nat := 0) : HostHdr := ⟨tag, dev, true⟩

/-- Bytes written from an offset on. -/
def flashAt (fl : Tbl Byte) (o : Nat) (l : List Byte) : Tbl Byte :=
  (l.zip (List.range l.length)).foldl (fun f p => tput 0xFF f (o + p.2) p.1) fl

/-- A partition table (R50): slots A and B, journal, dump. -/
def tableOf : List Byte :=
  let b := leBytes 4 0x54504C54 ++ leBytes 2 1 ++ leBytes 2 4 ++ leBytes 4 4096 ++ leBytes 4 0 ++
    [(1, 1, 4), (2, 5, 4), (3, 16, 32), (4, 64, 64)].flatMap (fun (e : Nat × Nat × Nat) =>
      leBytes 2 e.1 ++ leBytes 2 0 ++ leBytes 4 e.2.1 ++ leBytes 4 e.2.2 ++ leBytes 4 0)
  b ++ leBytes 4 (crc32c b)

/-- The device with that table in its flash. -/
def withTable (d : Dev) : Dev := { d with flash := flashAt d.flash 0 tableOf }

/-- The runs of bytes other than 0 of an image whose signing key is 1: offset, length, bytes big-endian. -/
def imgRuns : List (Nat × Nat × Nat) := [
  (0x0, 176, 0x4452594701000008400a0000070000000000000000000000030000000100ffff01000000000800000800000000000000226868b59be3e5e479cc22d7bda11055bad06bb205b77454ea36c65885f5c28406000000000900000800000000000000d018125ec1f0062d1df4823d2ad459a3979d5d175649b6f5efd0548c76f5201602000000000a000040000000000000005b10caa379bdc5ed9562c87a487a06e1b3f7cc001d9d2928463765482fecda35),
  (0x620, 128, 0x6b17d1f2e12c4247f8bce6e563a440f277037d812deb33a0f4a13945d898c2964fe342e2fe1a7f9b8ee7eb4a7c0f9e162bce33576b315ececbb6406837bf51f56b17d1f2e12c4247f8bce6e563a440f277037d812deb33a0f4a13945d898c296297b2a28dc4de212b00b16d95ffb2e2e2dd6d350f55413e2235ce59bc59ce958),
  (0x800, 5, 0x0100000008),
  (0x900, 5, 0x0600000008),
  (0xA00, 21, 0x0200000040000000ffff0000010000000000010010)]

/-- The hash of the image's key in fuse slot 0. -/
def keyFuse : Tbl (List Byte) := [(0, beBytes 32 0xd875db7def232236aec738c6b0bb3e80142f5d0fd8f4df24fed6eef5cbb50d9f)]

/-! ### A signed image

The image of `imgRuns` is signed with the key 1 (ECDSA P-256 with nonce 1): its signature holds over its header. -/

/-- The bytes of runs, 0 between them. -/
def runsFrom : Nat → List (Nat × Nat × Nat) → List Byte
  | _, [] => []
  | o, r :: l => List.replicate (r.1 - o) 0 ++ beBytes r.2.1 r.2.2 ++ runsFrom (r.1 + r.2.1) l

/-- The whole image. -/
def imgBytes : List Byte := runsFrom 0 imgRuns ++ List.replicate 43 0

/-- The header of the image. -/
def imgH : List Byte := imgBytes.take 0x800

/-- The image as a table of bytes from offset `o` on. -/
def imgTable (o : Nat) : Tbl Byte := (List.range 0xA40).map fun i => (o + i, imgBytes.getD i 0)

theorem imgBytes_length : imgBytes.length = 0xA40 := by decide +kernel

theorem tfind_rows (f : Nat → Byte) (o k : Nat) (l : List Nat) (h : k ∈ l) :
    tfind (l.map fun i => (o + i, f i)) (o + k) = some (f k) := by
  induction l with
  | nil => simp at h
  | cons a t ih =>
    by_cases ha : a = k
    · simp [tfind, ha]
    · have hne : ¬ o + a = o + k := by omega
      simp only [List.map_cons, tfind, hne, if_false]
      exact ih (by simpa [Ne.symm ha] using h)

theorem tfind_past (b t : Tbl Byte) (j : Nat) (h : ∀ p ∈ b, p.1 < j) : tfind (b ++ t) j = tfind t j := by
  induction b with
  | nil => rfl
  | cons p b ih =>
    have hp := h p (by simp)
    have hne : ¬ p.1 = j := by omega
    simp only [List.cons_append, tfind, hne, if_false]
    exact ih fun q hq => h q (by simp [hq])

/-- A run of bytes read from a table that holds the image from `o` on, other entries below it. -/
theorem img_read (b : Tbl Byte) (o a n : Nat) (hb : ∀ p ∈ b, p.1 < o) (h : a + n ≤ 0xA40) :
    ((List.range n).map fun i => tget 0xFF (b ++ imgTable o) (o + a + i)) = (imgBytes.drop a).take n := by
  have hl := imgBytes_length
  apply List.ext_getElem
  · rw [List.length_map, List.length_range, List.length_take, List.length_drop, hl]; omega
  · intro k h1 h2
    have hk : k < n := by simpa using h1
    have key := tfind_rows (fun i => imgBytes.getD i 0) o (a + k) (List.range 0xA40) (List.mem_range.2 (by omega))
    have past := tfind_past b (imgTable o) (o + (a + k)) fun p hp => by have := hb p hp; omega
    rw [List.getElem_map, List.getElem_range, List.getElem_take, List.getElem_drop, tget, Nat.add_assoc,
      past, show tfind (imgTable o) (o + (a + k)) = _ from key, Option.getD_some, List.getD_eq_getElem?_getD, List.getElem?_eq_getElem (by omega), Option.getD_some]

theorem img_sig : ecdsaOk (part imgH 0x620 64) (part imgH 0x660 64) (imgH.take 0x660) = true := by decide +kernel

theorem img_fields : headOk imgH = true ∧ le imgH 8 4 = 0xA40 ∧
    le imgH 0x14 4 = 0 ∧ le imgH 0x10 4 = 0 ∧ le imgH 0x1A 1 = 0 ∧ le imgH 0x1B 1 = 0 ∧
    sha256 (part imgH 0x620 64) = beBytes 32 0xd875db7def232236aec738c6b0bb3e80142f5d0fd8f4df24fed6eef5cbb50d9f := by
  decide +kernel

theorem img_sectionCode : sectionCode imgH = 0 := by decide +kernel

/-- Every device whose fuses hold the key's hash accepts the header. -/
theorem img_header (d : Dev) (limit : Nat) (hl : 0xA40 ≤ limit) (hh : d.fuses.hash = keyFuse) (hr : d.fuses.revoked = [])
    (hm : d.fuses.minVer = 0) : d.headerCode imgH limit = 0 := by
  obtain ⟨h1, h2, h3, h4, h5, h6, h7⟩ := img_fields
  simp [Dev.headerCode, h1, h2, h3, h4, h5, h6, h7, img_sig, hh, hr, hm, hl, keyFuse, tfind]

/-! ### States that meet the hypotheses of the statements about every command -/

/-- `StepRunsFrontCommand`: a waiting command; an empty queue in SHELF without its crystal, and in RUN with the link clock. -/
theorem witness_StepRunsFrontCommand :
    { State.reset with pending := [.ping (hh 7)] }.pending = Instr.ping (hh 7) :: [] ∧ State.reset.pending = [] ∧
    (let d := Dev.inMode (Dv []) .shelf; d.pwr.mode = .shelf ∧ d.on SYS_CLKSTAT_XO32_OK = false) ∧
    (let d := run [(SYS_CLKSTAT_LPLL_LOCK, 1)]; d.pwr.mode = .run ∧ d.lclk = true) := by decide +kernel

/-- `CanonicalFormIsKept`: a step from reset, where the form holds. -/
theorem witness_CanonicalFormIsKept :
    (∃ t, step State.reset = .next t) ∧ State.reset.dev.canonical = true ∧ State.reset.queueOk = true :=
  ⟨⟨_, rfl⟩, by decide +kernel, by decide +kernel⟩

/-- `FusesOnlyGrow`: a command that burns no fuse at the front of the queue. -/
theorem witness_FusesOnlyGrow :
    (∃ t, step { State.reset with pending := [.zeroFillComplete] } = .next t) ∧ State.reset.dev.fuses.sound = true ∧
    (Instr.zeroFillComplete).burnsFuses = false := ⟨⟨_, rfl⟩, by decide +kernel, by decide +kernel⟩

/-- `CommandsKeepOtherParts`: a command that may move none of the parts named. -/
theorem witness_CommandsKeepOtherParts :
    (∃ t, exec .zeroFillComplete State.reset = .next t) ∧
    (let c := Instr.zeroFillComplete
     c.mayStage = false ∧ c.mayFlash = false ∧ c.mayJournal = false ∧ c.mayTune = false ∧ c.mayAllocate = false ∧ c.mayAge = false ∧
     c.mayMoveScrubber = false) := ⟨⟨_, rfl⟩, by decide +kernel⟩

/-- `TreeTakesHighestScore`: a pass that returns a leaf, of two equal scores the lower number, and one that returns none. -/
theorem witness_TreeTakesHighestScore :
    (run [(ALLOC_STAT_NUM, 256)] [(rALLOC_SCORE 9, 7), (rALLOC_SCORE 4, 7)]).treePass (fun _ => true) = some 4 ∧
    (run []).treePass (fun _ => false) = none := by decide +kernel

namespace Host1

/-! ### Swilum frames, registers over the link, shipping -/

def hq (d : Dev) (w : HostWait) : Dev := { d with host := { d.host with wait := some w } }
def w1 : HostWait := { tag := 7, op := 2, dev := 9, todo := [(false, 0x30000, 0)], got := [], st := 0, again := 0 }
def cch (d : Dev) : Dev := { d with host := { d.host with cache := [(7, swilum 7 0x81 1 [0,1,2])] } }
def fullq (d : Dev) (n : Nat) : Dev := { d with uarts := tput Uart.idle d.uarts 4 { d.uart 4 with txq := List.replicate n 0 } }
def lnk (d : Dev) (k : Nat) (x : LPort) : Dev := { d with cbl := { d.cbl with ports := tput LPort.idle d.cbl.ports k x } }
def jn : LPort := { LPort.idle with joined := true, tx := 65535, rx := 5, credit := 7 }
def hd := lnk (lnk (hst .run [(CBL_STAT_STATE,1),(CBL_STAT_DEVID,1),(CBL_P_CTRL_EN 0,1),(CBL_P_CTRL_EN 1,1),(CBL_P_CTRL_EN 2,1),(CBL_P_STAT_LSTATE 1,2),(CBL_P_STAT_LSTATE 2,2)]) 1 jn) 2 { jn with behind := [9] }
def mb := lnk (lnk (lnk (hst .run [(CBL_STAT_STATE,4),(CBL_STAT_DEVID,3),(CBL_STAT_DEPTH,1),(CBL_P_CTRL_EN 0,1),(CBL_P_CTRL_EN 1,1),(CBL_P_CTRL_EN 2,1),(CBL_P_STAT_LSTATE 0,2),(CBL_P_STAT_LSTATE 1,2),(CBL_P_STAT_LSTATE 2,2)]) 0 jn) 1 jn) 2 { jn with behind := [9] }
def lh (p dst src seq : Nat) (ok := true) : LinkHdr := ⟨p, dst, src, seq, ok⟩
def mem1 (id : Nat) (st rs : Nat) : Member := { id := id, depth := 1, parent := 1, state := st, reason := rs, path := [true], port := 2, err := 0, epoch := 0, digest := [], admitted := true, shipped := false }
def hc (l : List Member) : Dev := { hd with cbl := { hd.cbl with census := l, reqTag := 255 } }
def rq (d : Dev) (w : HostWait) : Dev := let d := hq d w; { d with cbl := { d.cbl with reqs := [(254,8),(255,9)] } }
def envOk : BootEnv := { steps := 99, flash := { sfdpOk := true, jedec := 0x123456, sectors := 4096, octal := true, trainOk := true, eccst := false }, clocksOk := true, avs := ⟨true, 800, 0, 0⟩, senses := [], readOk := true, stockBad := false }
def shp := { mb with cbl := { mb.cbl with img := imgTable 0, imgEnd := 0xA40 }, fuses := { mb.fuses with hash := keyFuse } }

/-- `HostFramesAreAnswered`, clause 1. -/
theorem witness_HostFramesAreAnswered_a :
    let s : State := St (hst.fp UART_HCNT_CRC 0xFFFF)
    let c : Instr := (.ping {hh with ok := false})
    let h : HostHdr := {hh with ok := false}
    let op : Nat := 1
    let room : Nat := 8
    let d := s.dev
    hostFrame c = some (h, op, room) ∧ d.listening ∧ h.ok = false := by decide +kernel

/-- `HostFramesAreAnswered`, clause 6. -/
theorem witness_HostFramesAreAnswered_b :
    let s : State := St (fullq hst 2032)
    let c : Instr := .ping (hh 8)
    let h : HostHdr := hh 8
    let op : Nat := 1
    let room : Nat := 8
    let d := s.dev
    hostFrame c = some (h, op, room) ∧ d.freshFrame h ∧ d.txRoom room = false := by decide +kernel

/-- `HostFramesAreAnswered`, clause 7. -/
theorem witness_HostFramesAreAnswered_c :
    let s : State := St hst
    let c : Instr := .unknownOpcode (hh 8 3) 0x7F
    let h : HostHdr := hh 8 3
    let op : Nat := 0x7F
    let room : Nat := 0
    let d := s.dev
    hostFrame c = some (h, op, room) ∧ d.freshFrame h ∧ d.txRoom room = true ∧ h.devid ≠ 0 ∧ h.devid ≠ d.devid ∧
    (d.isHead = false ∨ h.devid ∉ d.censusIds) := by decide +kernel

/-- `HostFramesAreAnswered`, clause 8. -/
theorem witness_HostFramesAreAnswered_d :
    let s : State := St (hst .service)
    let c : Instr := .midiOut (hh 0) 0 [1]
    let h : HostHdr := hh 0
    let op : Nat := 10
    let room : Nat := 0
    let d := s.dev
    hostFrame c = some (h, op, room) ∧ d.freshFrame h ∧ d.txRoom room = true ∧ (h.devid = 0 ∨ h.devid = d.devid) ∧
    d.permits c = false := by decide +kernel

/-- `HostFramesAreAnswered`, clause 9. -/
theorem witness_HostFramesAreAnswered_e :
    let s : State := St (hst .shelf)
    let c : Instr := .unknownOpcode (hh 8 3) 0x7F
    let h : HostHdr := hh 8 3
    let op : Nat := 0x7F
    let room : Nat := 0
    let d := s.dev
    hostFrame c = some (h, op, room) ∧ d.hostOn = false := by decide +kernel

/-- `HostFramesAreAnswered`, clause 2. -/
theorem witness_HostFramesAreAnswered_2 :
    let s : State := (St (hq hst w1))
    let c : Instr := (.ping hh)
    let h : HostHdr := hh
    let op : Nat := 1
    let room : Nat := 8
    let d := s.dev
    hostFrame c = some (h, op, room) ∧ d.listening ∧ h.ok = true ∧ ∃ w ∈ d.host.wait, w.tag = h.tag ∧ h.tag ≠ 0 := by decide +kernel

/-- `HostFramesAreAnswered`, clause 3. -/
theorem witness_HostFramesAreAnswered_3 :
    let s : State := (St (hq hst w1))
    let c : Instr := (.ump (hh 8) [])
    let h : HostHdr := (hh 8)
    let op : Nat := 8
    let room : Nat := 0
    let d := s.dev
    let other (w : HostWait) : Prop := d.host.wait = some w ∧ ¬(w.tag = h.tag ∧ h.tag ≠ 0)
    hostFrame c = some (h, op, room) ∧ d.listening ∧ h.ok = true ∧ ∃ w ∈ d.host.wait, other w := by decide +kernel

/-- `HostFramesAreAnswered`, clause 4. -/
theorem witness_HostFramesAreAnswered_4 :
    let s : State := (St (cch hst))
    let c : Instr := (.confirm hh)
    let h : HostHdr := hh
    let op : Nat := 0x24
    let room : Nat := 0
    let d := s.dev
    hostFrame c = some (h, op, room) ∧ d.listening ∧ h.ok = true ∧ d.host.wait = none ∧ h.tag ≠ 0 ∧ ∃ e ∈ d.host.cache.find? (fun e => e.1 == h.tag), d.txRoom (e.2.length - 9) = true := by decide +kernel

/-- `HostFramesAreAnswered`, clause 5. -/
theorem witness_HostFramesAreAnswered_5 :
    let s : State := (St (fullq (cch hst) 2038))
    let c : Instr := (.confirm hh)
    let h : HostHdr := hh
    let op : Nat := 0x24
    let room : Nat := 0
    let d := s.dev
    hostFrame c = some (h, op, room) ∧ d.listening ∧ h.ok = true ∧ d.host.wait = none ∧ h.tag ≠ 0 ∧ ∃ e ∈ d.host.cache.find? (fun e => e.1 == h.tag), d.txRoom (e.2.length - 9) = false := by decide +kernel

/-- `HostRegistersAndMusic` (HostReadsAndWritesRegisters), clauses 1, 2, 4, 7, 8. -/
theorem witness_HostReadsAndWritesRegisters_a :
    let s : State := St hst
    let h : HostHdr := hh
    let addr : Word := 0x30003
    let bad : Nat := 0
    let count : Nat := 0
    let op : Nat := 0x7F
    let l : List Word := []
    let d := s.dev
    let a := addr.toNat / 4 * 4
    d.executes (.ping h) ∧ d.executes (.regRead h addr 1 bad) ∧ a < 0x150000 ∧ d.ruled a = false ∧
    d.executes (.regRead h addr count bad) ∧ (count = 0 ∨ 64 < count) ∧ d.executes (.regWrite h addr l) ∧
    (l = [] ∨ 64 < l.length) ∧ d.executes (.unknownOpcode h op) := by decide +kernel

/-- `HostRegistersAndMusic` (HostReadsAndWritesRegisters), clauses 3, 6. -/
theorem witness_HostReadsAndWritesRegisters_b :
    let s : State := St hst
    let h : HostHdr := hh
    let addr : Word := 0x0FFFC
    let v : Word := 5
    let bad : Nat := 0
    let d := s.dev
    let a := addr.toNat / 4 * 4
    d.executes (.regRead h addr 1 bad) ∧ d.ruled a = true ∧ d.executes (.regWrite h addr [v]) := by decide +kernel

/-- `HostRegistersAndMusic` (HostReadsAndWritesRegisters), clause 5. -/
theorem witness_HostReadsAndWritesRegisters_c :
    let s : State := St hst
    let h : HostHdr := hh
    let addr : Word := 0x30008
    let v : Word := 0xFFFFFFFF
    let d := s.dev
    let a := addr.toNat / 4 * 4
    d.executes (.regWrite h addr [v]) ∧ a / 0x10000 = 3 ∧ a ≠ rNOTE_STAT ∧ (regAt a).isSome = true ∧ isStaged a = false := by decide +kernel

/-- `HostRegistersAndMusic` (HostReadsAndWritesRegisters), clause 9. -/
theorem witness_HostReadsAndWritesRegisters_d :
    let s : State := St (hc [mem1 9 4 0])
    let h : HostHdr := hh 7 9
    let q : Nat := 2
    let d := s.dev
    d.freshFrame h ∧ d.txRoom 256 = true ∧ h.devid ≠ 0 ∧ h.devid ≠ d.devid ∧ d.isHead = true ∧ h.devid ∈ d.censusIds ∧
    d.portTo h.devid = some q ∧ (d.lport q).joined = true := by decide +kernel

/-- `LinkRegisterAccessAndShipping` (MemberRegisterAccess), clauses 1, 7. -/
theorem witness_MemberRegisterAccess_a :
    let s : State := St mb
    let h : LinkHdr := lh 0 3 1 5
    let addr : Word := 0x30004
    let tag : Nat := 255
    let d := s.dev
    let a := addr.toNat / 4 * 4
    let member : Prop := d.takes h ∧ h.port = 0 ∧ d.isMember = true
    member ∧ a < 0x150000 ∧ d.ruled a = false ∧ (∀ r ∈ d.cbl.reqs, r.1 ≠ tag) := by decide +kernel

/-- `LinkRegisterAccessAndShipping` (MemberRegisterAccess), clause 2. -/
theorem witness_MemberRegisterAccess_b :
    let s : State := St mb
    let h : LinkHdr := lh 0 3 1 5
    let addr : Word := 0x2FFFC
    let d := s.dev
    let a := addr.toNat / 4 * 4
    let member : Prop := d.takes h ∧ h.port = 0 ∧ d.isMember = true
    member ∧ d.ruled a = true := by decide +kernel

/-- `LinkRegisterAccessAndShipping` (MemberRegisterAccess), clause 3. -/
theorem witness_MemberRegisterAccess_c :
    let s : State := St mb
    let h : LinkHdr := lh 0 3 1 5
    let addr : Word := 0x30008
    let d := s.dev
    let a := addr.toNat / 4 * 4
    let member : Prop := d.takes h ∧ h.port = 0 ∧ d.isMember = true
    member ∧ a / 0x10000 = 3 ∧ a ≠ rNOTE_STAT ∧ (regAt a).isSome = true ∧ isStaged a = false := by decide +kernel

/-- `LinkRegisterAccessAndShipping` (MemberRegisterAccess), clause 4. -/
theorem witness_MemberRegisterAccess_d :
    let s : State := (St (rq (hc [mem1 9 4 0]) {w1 with todo := [(true,4,5)]}))
    let h : LinkHdr := lh 2 1 9 5
    let tag : Nat := 255
    let w : HostWait := {w1 with todo := [(true,4,5)]}
    let b : Nat := 4
    let u : Word := 5
    let x : Bool := true
    let d := s.dev
    let head : Prop := d.takes h ∧ d.isHead = true ∧ d.host.wait = some w ∧ (tag, h.src) ∈ d.cbl.reqs
    head ∧ w.todo = [(x, b, u)] ∧ w.again = 0 := by decide +kernel

/-- `LinkRegisterAccessAndShipping` (MemberRegisterAccess), clause 6. -/
theorem witness_MemberRegisterAccess_e :
    let s : State := (St (rq (hc [mem1 9 4 0]) {w1 with todo := [(false,4,5),(true,8,9)]}))
    let tag : Nat := 255
    let w : HostWait := {w1 with todo := [(false,4,5),(true,8,9)]}
    let b : Nat := 9
    let d := s.dev
    d.alive = true ∧ d.host.wait = some w ∧ w.again = 0 ∧ (tag, b) ∈ d.cbl.reqs := by decide +kernel

/-- `LinkRegisterAccessAndShipping` (MemberRegisterAccess), clause 5. -/
theorem witness_MemberRegisterAccess_5 :
    let s : State := (St (rq (hc [mem1 9 4 0]) {w1 with todo := [(false,4,5),(true,8,9)]}))
    let h : LinkHdr := (lh 2 1 9 5)
    let tag : Nat := 255
    let w : HostWait := {w1 with todo := [(false,4,5),(true,8,9)]}
    let d := s.dev
    let head : Prop := d.takes h ∧ d.isHead = true ∧ d.host.wait = some w ∧ (tag, h.src) ∈ d.cbl.reqs
    head ∧ ∃ y ∈ w.todo, ∃ z ∈ w.todo, w.todo = [y, z] := by decide +kernel

/-- `LinkRegisterAccessAndShipping` (ShippedImageIsLoaded), clauses 1, 4. -/
theorem witness_ShippedImageIsLoaded :
    let s : State := St mb
    let h : LinkHdr := lh 0 3 1 5
    let d := s.dev
    let ready : Prop := d.isMember = true ∧ d.running = true ∧ d.allFree = true ∧ d.imgWhole = true ∧ d.imgSecond = false
    d.takes h ∧ d.isMember = true ∧ d.fg CBL_POL0_SHIP ≠ 2 ∧ ¬ready := by decide +kernel

theorem shp_head : shp.imgHead = imgH := by
  have h := img_read [] 0 0 0x800 (by simp) (by omega)
  simpa [Dev.imgHead, shp, imgH] using h

def sct (a n : Nat) : List Byte := (imgBytes.drop a).take n

theorem shp_sections (d : Dev) (a n : Nat) (h : d.flash = imgTable 0) (hn : a + n ≤ 0xA40) :
    d.fbs a n = sct a n := by
  have h := h ▸ img_read [] 0 a n (by simp) hn
  simpa [Dev.fbs, sct] using h

/-- The memory is clear, the banks are held and the image stands in the place of the flash. -/
def shpLoads : Dev :=
  (each (List.range 16) (fun n d => d.setSpn n { d.spn n with rom := true })
    (each (List.range 16) (fun k d => d.fp (MEM_BANK_CUR k) 5) shp.clearMemory)).useImg

def ent (ty off len dig : Nat) : SectEnt := ⟨ty, 0, off, len, beBytes 32 dig⟩

def ents : List SectEnt :=
  [ent 1 0x800 8 0x226868b59be3e5e479cc22d7bda11055bad06bb205b77454ea36c65885f5c284,
   ent 6 0x900 8 0xd018125ec1f0062d1df4823d2ad459a3979d5d175649b6f5efd0548c76f52016,
   ent 2 0xA00 64 0x5b10caa379bdc5ed9562c87a487a06e1b3f7cc001d9d2928463765482fecda35]

theorem img_ents : sectEnts imgH = ents := by decide +kernel

theorem sct_facts : (sct 0x800 8).drop 8 = [] ∧
    sha256 (sct 0x800 8) = beBytes 32 0x226868b59be3e5e479cc22d7bda11055bad06bb205b77454ea36c65885f5c284 ∧
    sha256 (sct 0x900 8) = beBytes 32 0xd018125ec1f0062d1df4823d2ad459a3979d5d175649b6f5efd0548c76f52016 ∧
    sha256 (sct 0xA00 64) = beBytes 32 0x5b10caa379bdc5ed9562c87a487a06e1b3f7cc001d9d2928463765482fecda35 ∧
    le (sct 0x800 8) 0 2 = 1 ∧ le (sct 0x800 8) 2 2 = 0 ∧ le (sct 0x800 8) 4 4 = 8 ∧
    le (sct 0x900 8) 0 2 = 6 ∧ le (sct 0x900 8) 2 2 = 0 ∧ le (sct 0x900 8) 4 4 = 8 ∧
    le (sct 0xA00 64) 0 2 = 2 ∧ le (sct 0xA00 64) 2 2 = 0 ∧ le (sct 0xA00 64) 4 4 = 64 := by decide +kernel

theorem each_cbl (f : Nat → Dev → Dev) (h : ∀ n d, (f n d).cbl = d.cbl) (l : List Nat) (d : Dev) : (each l f d).cbl = d.cbl := by
  induction l generalizing d with
  | nil => rfl
  | cons a t ih => exact (ih (f a d)).trans (h a d)

theorem shp_flash : shpLoads.flash = imgTable 0 := by
  have e1 := each_cbl (fun n d => d.setSpn n { d.spn n with rom := true }) (fun _ _ => rfl) (List.range 16)
    (each (List.range 16) (fun k d => d.fp (MEM_BANK_CUR k) 5) shp.clearMemory)
  have e2 := each_cbl (fun k d => d.fp (MEM_BANK_CUR k) 5) (fun _ _ => rfl) (List.range 16) shp.clearMemory
  have e3 : shp.clearMemory.cbl = shp.cbl := rfl
  have e4 : shp.cbl = { mb.cbl with img := imgTable 0, imgEnd := 0xA40 } := by rw [shp]
  have e5 := e1.trans (e2.trans (e3.trans e4))
  rw [shpLoads, Dev.useImg]
  simp only [e5]

section
variable (d : Dev) (hf : d.flash = imgTable 0)
include hf

theorem img_sct1 : d.loadSection 0 ents 0 = .ok d := by
  have h := shp_sections d 0x800 8 hf (by omega)
  obtain ⟨f1, f2, f3, f4, f5, f6, f7, f8, f9, f10, f11, f12, f13⟩ := sct_facts
  simp [Dev.loadSection, Dev.sectBytes, ents, ent, h, f1, f2, f5, f6, f7, Dev.loadPairs, pairsOf, each]

theorem img_sct2 : d.loadSection 0 ents 1 = .ok d := by
  have h := shp_sections d 0x900 8 hf (by omega)
  obtain ⟨f1, f2, f3, f4, f5, f6, f7, f8, f9, f10, f11, f12, f13⟩ := sct_facts
  simp [Dev.loadSection, Dev.sectBytes, ents, ent, h, f3, f8, f9, f10]

theorem img_sct3 : d.loadSection 0 ents 2 = d.loadProgram (sct 0xA00 64) 0 := by
  have h := shp_sections d 0xA00 64 hf (by omega)
  obtain ⟨f1, f2, f3, f4, f5, f6, f7, f8, f9, f10, f11, f12, f13⟩ := sct_facts
  simp [Dev.loadSection, Dev.sectBytes, ents, ent, h, f4, f11, f12, f13, Dev.masksBefore]

theorem img_pairs : (pairsOf ((d.sectBytes 0 (ent 1 0x800 8
    0x226868b59be3e5e479cc22d7bda11055bad06bb205b77454ea36c65885f5c284)).drop 8)).any d.changesLk = false := by
  have h := shp_sections d 0x800 8 hf (by omega)
  simp [Dev.sectBytes, ent, h, sct_facts.1, pairsOf]

theorem img_loads : d.shipSections (sectEnts imgH) 33 0 = d.loadProgram (sct 0xA00 64) 0 := by
  have k1 := img_sct1 d hf
  have k2 := img_sct2 d hf
  have k3 := img_sct3 d hf
  have p1 := img_pairs d hf
  have hi : ∀ (n k : Nat) (e : SectEnt), ents[k]? = some e → e.ty ≠ 1 ∨
      (pairsOf ((d.sectBytes 0 e).drop 8)).any d.changesLk = false → d.shipSections ents (n + 1) k =
        match d.loadSection 0 ents k with
        | .error c => .error c
        | .ok d => d.shipSections ents n (k + 1) := by
    intro n k e he hn
    have hc : ¬(e.ty = 1 ∧ (pairsOf ((d.sectBytes 0 e).drop 8)).any d.changesLk = true) := by
      rintro ⟨a, b⟩
      rcases hn with hn | hn
      · exact hn a
      · rw [hn] at b; cases b
    rw [Dev.shipSections]
    simp only [he, if_neg hc] <;> rfl
  rw [img_ents, hi 32 0 _ rfl (.inr p1), k1]
  show d.shipSections ents 32 1 = _
  rw [hi 31 1 _ rfl (.inl (by decide)), k2]
  show d.shipSections ents 31 2 = _
  rw [hi 30 2 _ rfl (.inl (by decide)), k3]
  cases d.loadProgram (sct 0xA00 64) 0 with
  | error c => rfl
  | ok x => rfl

end

theorem shp_program : ((shpLoads.loadProgram (sct 0xA00 64) 0).bind fun y => y.shipNamed shp.flash imgH).toOption.isSome = true := by
  decide +kernel

/-- The load of the signed image succeeds. -/
theorem shp_loads : ∃ e, shp.shipLoad = .ok e := by
  have h : shp.headerCode imgH (2 ^ 32) = 0 := img_header shp _ (by omega) rfl rfl rfl
  have hp := shp_program
  rw [Dev.shipLoad, shp_head]
  simp only [h, img_sectionCode, ne_eq, not_true_eq_false, if_false]
  rw [← shpLoads, img_loads shpLoads shp_flash]
  revert hp
  cases (shpLoads.loadProgram (sct 0xA00 64) 0).bind fun y => y.shipNamed shp.flash imgH with
  | error c => intro hp; cases hp
  | ok x => exact fun _ => ⟨x, rfl⟩

/-- `LinkRegisterAccessAndShipping` (ShippedImageIsLoaded), clause 2. -/
theorem witness_ShippedImageIsLoaded_2 :
    let s : State := (St shp)
    let env : BootEnv := envOk
    let d := s.dev
    let ready : Prop := d.isMember = true ∧ d.running = true ∧ d.allFree = true ∧ d.imgWhole = true ∧ d.imgSecond = false
    ready ∧ env.stockBad = false ∧ ∃ e, d.shipLoad = .ok e := by
  have hw : shp.imgWhole = true := by
    rw [Dev.imgWhole, shp_head]
    decide +kernel
  exact ⟨⟨by decide +kernel, by decide +kernel, by decide +kernel, hw, by decide +kernel⟩, rfl, shp_loads⟩

/-- `LinkRegisterAccessAndShipping` (ShippedImageIsLoaded), clause 3. -/
theorem witness_ShippedImageIsLoaded_3 :
    let s : State := (St {shp with cbl := { shp.cbl with img := [(0x18, 0), (0x19, 0)], imgEnd := 0x800 }})
    let env : BootEnv := envOk
    let d := s.dev
    let ready : Prop := d.isMember = true ∧ d.running = true ∧ d.allFree = true ∧ d.imgWhole = true ∧ d.imgSecond = false
    ready ∧ env.stockBad = false ∧ d.shipLoad.toOption = none := by decide +kernel

end Host1

namespace Host2

/-! ### Music, flash, journal and fuses by host command -/

def m0 : Msg := Msg.ofPart 0x21 0 0 0 0 1 0
def pe : PipeEnt := { ev := ⟨0,0,false,0,0,false,0,0,0,0,0,0⟩, sample := 0, phi := 0, pitch := 0, applied := false, queued := false, refused := false, voices := [], tag := 0, u := 1, starts := false }
def ccw : UmpWord := ⟨0x20B0407F, 100, 200⟩
def ccx : UmpWord := ⟨0x2FBF5F00, 100, 200⟩
def hm := hst .run ((List.range 6).map fun k => (NOTE_SRC_EN k, 1))
def pat (d : Dev) : Dev := { d with note := { d.note with patchSlots := 2, patchBase := 1024 } }
def dat : List Byte := (List.range 912).map (BitVec.ofNat 8)
def held (d : Dev) : Dev := { d with note := { d.note with patchHeld := [(0, 9, dat), (1, 5, dat), (1, 6, dat)] } }
def hf (m : Mode) (sl := 0) := withTable (hst m [(STG_BOOT_SLOT, sl)])
def jr (ty key seq : Nat) (pay : List Byte) : JRec := { ty := ty, key := key, txid := 0, seq := seq, sect := 0, pay := pay }
def hj (recs : List JRec) (fl : List (Fld × Nat) := [(NVJ_TOKENS_VALUE, 5)]) : Dev :=
  let d := hst .run fl
  { d with nvj := { d.nvj with ready := true, base := 16, len := 32, recs := recs, seq := 10 } }
def op (d : Dev) (l : List (Nat × Nat × Nat)) : Dev := { d with nvj := { d.nvj with open_ := l, txid := 65535 } }
def fz : Dev := { hst .service with fuses := { hash := [(0, beBytes 32 7)], revoked := [2], minVer := 4, lcs := 1, lcChanges := 1 } }

/-- `HostRegistersAndMusic` (HostSendsMusic), clauses 1, 2, 5, 10, 12. -/
theorem witness_HostSendsMusic_a :
    let s : State := St hm
    let h : HostHdr := hh
    let u : UmpWord := ccw
    let stamp : Word := 77
    let port : Nat := 3
    let slot : Nat := 0
    let data : List Byte := List.replicate 64 1
    let d := s.dev
    let w := u.w
    let cc : Prop := fieldOf w 31 28 = 2 ∧ fieldOf w 23 20 = 11 ∧ 64 ≤ fieldOf w 14 8 ∧ fieldOf w 14 8 < 96 ∧
      d.srcOn 6 (d.arrival 6 u.start u.done) = true
    let fits : Prop := port < 4 ∧ data ≠ [] ∧ data.length ≤ 64
    let patch : Prop := slot < d.note.patchSlots ∧ data.length = 912
    d.executes (.timedUmp h stamp [u]) ∧ cc ∧ d.executes (.ump h [u]) ∧ d.note.jrPend = none ∧
    d.executes (.midiOut h port data) ∧ fits ∧ (d.uart port).txq.length + data.length ≤ 64 ∧
    d.executes (.patchWrite h slot stamp data) ∧ ¬patch ∧
    (d.running = false ∨ d.patchBusy slot = true ∨ (∀ x ∈ d.note.patchHeld, x.1 ≠ slot)) := by decide +kernel

/-- `HostRegistersAndMusic` (HostSendsMusic), clauses 3, 7. -/
theorem witness_HostSendsMusic_b :
    let s : State := St hm
    let h : HostHdr := hh
    let words : List UmpWord := []
    let port : Nat := 3
    let data : List Byte := []
    let d := s.dev
    let fits : Prop := port < 4 ∧ data ≠ [] ∧ data.length ≤ 64
    d.executes (.ump h words) ∧ (words = [] ∨ 64 < words.length ∨ splitUmp (words.length + 1) words = none) ∧
    d.executes (.midiOut h port data) ∧ ¬fits := by decide +kernel

/-- `HostRegistersAndMusic` (HostSendsMusic), clause 4. -/
theorem witness_HostSendsMusic_c :
    let s : State := (St {hm with note := {hm.note with pipe := List.replicate 128 pe, wait := [(6,[m0])]}})
    let d := s.dev
    d.pipeFree = false ∧ d.waiting 6 ≠ [] := by decide +kernel

/-- `HostRegistersAndMusic` (HostSendsMusic), clause 6. -/
theorem witness_HostSendsMusic_d :
    let s : State := (St (hm.setUart 3 {hm.uart 3 with txq := [1]}))
    let h : HostHdr := hh
    let port : Nat := 3
    let data : List Byte := List.replicate 64 1
    let d := s.dev
    let fits : Prop := port < 4 ∧ data ≠ [] ∧ data.length ≤ 64
    d.executes (.midiOut h port data) ∧ fits ∧ 64 < (d.uart port).txq.length + data.length := by decide +kernel

/-- `HostRegistersAndMusic` (HostSendsMusic), clause 8. -/
theorem witness_HostSendsMusic_e :
    let s : State := St (pat hm)
    let h : HostHdr := hh
    let stamp : Word := 77
    let slot : Nat := 1
    let data : List Byte := dat
    let d := s.dev
    let patch : Prop := slot < d.note.patchSlots ∧ data.length = 912
    let idle : Prop := d.patchBusy slot = false ∧ ∀ x ∈ d.note.patchHeld, x.1 ≠ slot
    d.executes (.patchWrite h slot stamp data) ∧ patch ∧ idle := by decide +kernel

/-- `HostRegistersAndMusic` (HostSendsMusic), clauses 9, 11. -/
theorem witness_HostSendsMusic_f :
    let s : State := St (held (pat hm))
    let h : HostHdr := hh
    let stamp : Word := 5
    let slot : Nat := 1
    let data : List Byte := dat
    let d := s.dev
    let patch : Prop := slot < d.note.patchSlots ∧ data.length = 912
    let idle : Prop := d.patchBusy slot = false ∧ ∀ x ∈ d.note.patchHeld, x.1 ≠ slot
    d.executes (.patchWrite h slot stamp data) ∧ patch ∧ ¬idle ∧ d.running = true ∧ d.patchBusy slot = false ∧
    data.length = 912 ∧ d.note.patchHeld.find? (fun x => x.1 == slot) = some (slot, stamp, data) := by decide +kernel

/-- `HostReadsAndWritesFlash`, clauses 1, 3, 7, 9, 11. -/
theorem witness_HostReadsAndWritesFlash_a :
    let s : State := St (hf .run 2)
    let h : HostHdr := hh
    let offset : Nat := 0
    let len : Nat := 1000
    let first : Nat := 1
    let count : Nat := 4
    let slot : Nat := 1
    let data : List Byte := [0x0F]
    let d := s.dev
    let in_ : Prop := 0 < len ∧ len ≤ 1000 ∧ offset + len ≤ d.flashBytes
    let range : Prop := count ≠ 0 ∧ first + count ≤ d.flashSectors
    let page : Prop := data ≠ [] ∧ offset % 256 + data.length ≤ 256 ∧ offset + data.length ≤ d.flashBytes
    d.executes (.flashRead h offset len) ∧ in_ ∧ d.executes (.flashErase h first count) ∧ range ∧
    (∀ k, k < first + count → first ≤ k → d.flashRefused k = false) ∧ d.executes (.flashProg h offset data) ∧ page ∧
    d.flashRefused (offset / 0x10000) = true ∧ d.executes (.verify h slot) ∧ (slot = 1 ∨ slot = 2) ∧ d.executes (.confirm h) := by decide +kernel

/-- `HostReadsAndWritesFlash`, clauses 2, 5, 8, 15. -/
theorem witness_HostReadsAndWritesFlash_b :
    let s : State := St (hf .run 2)
    let h : HostHdr := hh
    let offset : Nat := 0x100FF
    let len : Nat := 1001
    let first : Nat := 9
    let count : Nat := 0
    let source : Nat := 1
    let data : List Byte := [0x0F, 0]
    let d := s.dev
    let in_ : Prop := 0 < len ∧ len ≤ 1000 ∧ offset + len ≤ d.flashBytes
    let range : Prop := count ≠ 0 ∧ first + count ≤ d.flashSectors
    let page : Prop := data ≠ [] ∧ offset % 256 + data.length ≤ 256 ∧ offset + data.length ≤ d.flashBytes
    let inDump : Prop := source ≤ 2 ∧ 0 < len ∧ len ≤ 1000 ∧ offset + len ≤ 0x200000
    d.executes (.flashRead h offset len) ∧ ¬in_ ∧ d.executes (.flashErase h first count) ∧ ¬range ∧
    d.executes (.flashProg h offset data) ∧ ¬page ∧ d.executes (.dumpRead h source offset len) ∧ ¬inDump := by decide +kernel

/-- `HostReadsAndWritesFlash`, clauses 4, 10. -/
theorem witness_HostReadsAndWritesFlash_c :
    let s : State := St (hf .run 1)
    let h : HostHdr := hh
    let first : Nat := 1
    let count : Nat := 4
    let slot : Nat := 0
    let d := s.dev
    let range : Prop := count ≠ 0 ∧ first + count ≤ d.flashSectors
    d.executes (.flashErase h first count) ∧ range ∧ (∃ k, k < first + count ∧ first ≤ k ∧ d.flashRefused k = true) ∧
    d.executes (.verify h slot) ∧ slot ≠ 1 ∧ slot ≠ 2 := by decide +kernel

/-- `HostReadsAndWritesFlash`, clauses 6, 13. -/
theorem witness_HostReadsAndWritesFlash_d :
    let s : State := St (hf .run 2)
    let h : HostHdr := hh
    let offset : Nat := 0x100FF
    let len : Nat := 1000
    let source : Nat := 1
    let data : List Byte := [0x0F]
    let d := s.dev
    let page : Prop := data ≠ [] ∧ offset % 256 + data.length ≤ 256 ∧ offset + data.length ≤ d.flashBytes
    let inDump : Prop := source ≤ 2 ∧ 0 < len ∧ len ≤ 1000 ∧ offset + len ≤ 0x200000
    d.executes (.flashProg h offset data) ∧ page ∧ d.flashRefused (offset / 0x10000) = false ∧
    d.executes (.dumpRead h source offset len) ∧ inDump ∧ source ≠ 0 ∧ (d.region 4).isSome = true ∧
    (∀ e ∈ d.evt.erase, e.1 ≠ source) := by decide +kernel

/-- `HostReadsAndWritesFlash`, clause 12. -/
theorem witness_HostReadsAndWritesFlash_e :
    let s : State := (St {hf .service 2 with evt := {(hf .service 2).evt with dumpValid := true, erase := some (1, 3)}})
    let h : HostHdr := hh
    let offset : Nat := 0x1FFC18
    let len : Nat := 1000
    let source : Nat := 0
    let d := s.dev
    let inDump : Prop := source ≤ 2 ∧ 0 < len ∧ len ≤ 1000 ∧ offset + len ≤ 0x200000
    d.executes (.dumpRead h source offset len) ∧ inDump ∧ source = 0 ∧ d.evt.dumpValid = true := by decide +kernel

/-- `HostReadsAndWritesFlash`, clause 14. -/
theorem witness_HostReadsAndWritesFlash_f :
    let s : State := (St {hf .service 2 with evt := {(hf .service 2).evt with dumpValid := true, erase := some (1, 3)}})
    let h : HostHdr := hh
    let offset : Nat := 0x1FFC18
    let len : Nat := 1000
    let source : Nat := 1
    let d := s.dev
    let inDump : Prop := source ≤ 2 ∧ 0 < len ∧ len ≤ 1000 ∧ offset + len ≤ 0x200000
    d.executes (.dumpRead h source offset len) ∧ inDump ∧ source ≠ 0 ∧ (d.region 4).isSome = true ∧
    (∃ e ∈ d.evt.erase, e.1 = source) := by decide +kernel

/-- `HostUsesTheJournal`, clauses 1, 2, 8, 11, 12, 16, 18. -/
theorem witness_HostUsesTheJournal_a :
    let s : State := St (hj [jr 0x10 3 1 [1,2,3], jr 0x10 7 2 [1]])
    let h : HostHdr := hh
    let ty : Nat := 0x10
    let key : Nat := 3
    let txid : Nat := 0
    let offset : Nat := 0
    let len : Nat := 1000
    let preset : Nat := 9
    let data : List Byte := [7]
    let r : JRec := jr 0x10 3 1 [1,2,3]
    let d := s.dev
    let up : Prop := d.nvj.ready = true ∧ d.on NVJ_STAT_PFAIL = false
    let put (ty key txid : Nat) (pay : List Byte) (host : Bool) : Prop := (d.jpost ty key txid pay host).1 = 0
    let del : List Byte := leBytes 2 ty ++ leBytes 2 key
    d.executes (.journalStat h) ∧ d.executes (.journalRead h ty key offset len) ∧ 0 < len ∧ len ≤ 1000 ∧
    d.jfind ty key = some r ∧ d.executes (.journalWrite h ty key 0 data) ∧ data.length ≤ 1008 ∧ hostType ty = true ∧ up ∧
    put ty key 0 data true ∧ d.executes (.journalDelete h ty key 0) ∧ put 2 0 0 del true ∧ d.executes (.journalTxopen h) ∧
    d.nvj.ready = true ∧ d.on NVJ_STAT_RO = false ∧ d.nvj.open_.length < 4 ∧ d.executes (.journalTxabort h txid) ∧
    d.txIsOpen txid = false ∧ d.executes (.journalRecall h preset) ∧ d.jfind 0x21 preset = none := by decide +kernel

/-- `HostUsesTheJournal`, clauses 3, 5. -/
theorem witness_HostUsesTheJournal_b :
    let s : State := St (hj [jr 0x10 3 1 [1,2,3], jr 0x10 7 2 [1]])
    let h : HostHdr := hh
    let ty : Nat := 0x10
    let key : Nat := 8
    let offset : Nat := 0
    let len : Nat := 1
    let d := s.dev
    d.executes (.journalRead h ty key offset len) ∧ 0 < len ∧ len ≤ 1000 ∧ d.jfind ty key = none ∧
    d.executes (.journalNext h ty key) ∧ jappended ty = false ∧ (∀ x ∈ d.jlives, x.ty = ty → x.key ≤ key) := by decide +kernel

/-- `HostUsesTheJournal`, clause 6. -/
theorem witness_HostUsesTheJournal_c :
    let s : State := St (hj [jr 0x10 3 1 [1,2,3], jr 0x10 7 2 [1]])
    let h : HostHdr := hh
    let ty : Nat := 0x50
    let key : Nat := 8
    let txid : Nat := 0
    let data : List Byte := [7]
    let d := s.dev
    d.executes (.journalWrite h ty key txid data) ∧ data.length ≤ 1008 ∧ hostType ty = false := by decide +kernel

/-- `HostUsesTheJournal`, clause 7. -/
theorem witness_HostUsesTheJournal_d :
    let s : State := St (hj [] [(NVJ_STAT_PFAIL,1)])
    let h : HostHdr := hh
    let ty : Nat := 0xFFFF
    let key : Nat := 8
    let txid : Nat := 0
    let data : List Byte := [7]
    let d := s.dev
    d.executes (.journalWrite h ty key txid data) ∧ data.length ≤ 1008 ∧ hostType ty = true ∧ d.on NVJ_STAT_PFAIL = true := by decide +kernel

/-- `HostUsesTheJournal`, clauses 9, 13. -/
theorem witness_HostUsesTheJournal_e :
    let s : State := St (op (hj []) [(5,0,0),(6,1,1),(7,0,0),(9,0,0)])
    let h : HostHdr := hh
    let ty : Nat := 0xFFFF
    let key : Nat := 8
    let txid : Nat := 8
    let data : List Byte := [7]
    let d := s.dev
    let up : Prop := d.nvj.ready = true ∧ d.on NVJ_STAT_PFAIL = false
    d.executes (.journalWrite h ty key txid data) ∧ data.length ≤ 1008 ∧ hostType ty = true ∧ up ∧ txid ≠ 0 ∧
    d.txIsOpen txid = false ∧ d.executes (.journalTxopen h) ∧ d.nvj.ready = true ∧ d.on NVJ_STAT_RO = false ∧
    4 ≤ d.nvj.open_.length := by decide +kernel

/-- `HostUsesTheJournal`, clauses 10, 14, 15. -/
theorem witness_HostUsesTheJournal_f :
    let s : State := St (op (hj [jr 0x21 9 1 (leBytes 4 0x30004 ++ leBytes 4 5)]) [(5,0,0),(6,1,1),(7,0,0)])
    let h : HostHdr := hh
    let ty : Nat := 0xFFFF
    let key : Nat := 8
    let txid : Nat := 5
    let data : List Byte := [7]
    let d := s.dev
    let up : Prop := d.nvj.ready = true ∧ d.on NVJ_STAT_PFAIL = false
    let put (ty key txid : Nat) (pay : List Byte) (host : Bool) : Prop := (d.jpost ty key txid pay host).1 = 0
    d.executes (.journalWrite h ty key txid data) ∧ data.length ≤ 1008 ∧ hostType ty = true ∧ up ∧ txid ≠ 0 ∧
    d.txIsOpen txid = true ∧ put ty key txid data false ∧ d.executes (.journalTxcommit h txid) ∧ put 1 0 txid [] true ∧
    d.executes (.journalTxabort h txid) := by decide +kernel

/-- `HostUsesTheJournal`, clause 19. -/
theorem witness_HostUsesTheJournal_g :
    let s : State := St (hst .service)
    let h : HostHdr := hh
    let d := s.dev
    d.executes (.journalFormat h) ∧ d.region 3 = none := by decide +kernel

/-- `HostUsesTheJournal`, clause 20. -/
theorem witness_HostUsesTheJournal_h :
    let s : State := St (withTable (hst .service))
    let h : HostHdr := hh
    let d := s.dev
    d.executes (.journalFormat h) ∧ (d.region 3).isSome = true ∧ d.on NVJ_STAT_PFAIL = false := by decide +kernel

/-- `HostUsesTheJournal`, clause 4. -/
theorem witness_HostUsesTheJournal_4 :
    let s : State := (St (hj [jr 0x10 3 1 [1,2,3], jr 0x10 7 2 [1]]))
    let h : HostHdr := hh
    let ty : Nat := 0x10
    let key : Nat := 3
    let d := s.dev
    d.executes (.journalNext h ty key) ∧ jappended ty = false ∧ ∃ k ∈ d.nextKey ty key, key < k := by decide +kernel

/-- `HostUsesTheJournal`, clause 17. -/
theorem witness_HostUsesTheJournal_17 :
    let s : State := St (hj [jr 0x21 9 1 (leBytes 4 0x30004 ++ leBytes 4 5)])
    let h : HostHdr := hh
    let preset : Nat := 9
    let r : JRec := jr 0x21 9 1 (leBytes 4 0x30004 ++ leBytes 4 5)
    let d := s.dev
    let p : Nat × Word := (0x30004, 5)
    d.executes (.journalRecall h preset) ∧ d.jfind 0x21 preset = some r ∧ pairsOf r.pay = [p] ∧
    isStaged p.1 = true ∧ d.voiceAbsent p.1 = false ∧ d.pwr.mode = .run := by decide +kernel

/-- `FuseBurnsOnlyGoForward`, clauses 1, 3, 6, 7. -/
theorem witness_FuseBurnsOnlyGoForward_a :
    let s : State := St fz
    let h : HostHdr := hh
    let index : Nat := 3
    let value : List Byte := beBytes 32 5
    let d := s.dev
    let f := d.fuses
    let fresh : Prop := index < 4 ∧ value.length = 32 ∧ tfind f.hash index = none
    d.executes (.fuseBurnKeyHash h index value) ∧ fresh ∧ d.executes (.fuseBurnRevoke h index) ∧ index < 4 ∧
    d.executes (.fuseBurnMinVersion h index) ∧ (32 < index ∨ index < f.minVer) ∧ d.executes (.fuseBurnLifeCycle h index) ∧
    index ≤ 3 ∧ f.lcs < index := by decide +kernel

/-- `FuseBurnsOnlyGoForward`, clauses 2, 8. -/
theorem witness_FuseBurnsOnlyGoForward_b :
    let s : State := St fz
    let h : HostHdr := hh
    let index : Nat := 0
    let value : List Byte := beBytes 32 5
    let d := s.dev
    let f := d.fuses
    let fresh : Prop := index < 4 ∧ value.length = 32 ∧ tfind f.hash index = none
    d.executes (.fuseBurnKeyHash h index value) ∧ ¬fresh ∧ d.executes (.fuseBurnLifeCycle h index) ∧
    (3 < index ∨ index < f.lcs) := by decide +kernel

/-- `FuseBurnsOnlyGoForward`, clauses 4, 5. -/
theorem witness_FuseBurnsOnlyGoForward_c :
    let s : State := St fz
    let h : HostHdr := hh
    let index : Nat := 4
    let d := s.dev
    let f := d.fuses
    d.executes (.fuseBurnRevoke h index) ∧ 4 ≤ index ∧ d.executes (.fuseBurnMinVersion h index) ∧ index ≤ 32 ∧
    f.minVer ≤ index := by decide +kernel

end Host2

namespace Cv

/-! ### Control voltages and auto-tune -/

def cq (d : Dev) (n : Nat) (l : List (Word × Nat)) : Dev := { d with cv := { d.cv with queue := tput [] d.cv.queue n l } }
def cvd := run [(CVO_CH_CFG_SRC 15, 1), (CVO_CH_CFG_SRC 0, 0), (CVO_CH_TRIM_GAIN 15, 0x8000), (CVO_CH_TRIM_OFS 15, 0xFFFF)]
def tn (d : Dev) (f : Tune → Tune) : Dev := { d with tune := f d.tune }
def td := tn (run ((List.range 16).map fun k => (CVO_ATJ_EN k, 1))) fun t => { t with due := [(15, true), (3, false)], quiet := [(3, 0), (4, 999999)] }

/-- `CvOutputsAndAutoTune` (CvCodesLoadAtTicks), clauses 1, 3, 5, 6. -/
theorem witness_CvCodesLoadAtTicks_a :
    let s : State := St (cq cvd 15 [(cvd.nextTick, 9), (7, 8)])
    let n : Nat := 15
    let k : Nat := 0
    let d := s.dev
    let idle : Prop := d.tune.phase = .idle
    let sets : Prop := d.hears = true ∧ n < 16 ∧ d.running = true ∧ (d.fg (CVO_CH_CFG_SRC n) = 1 ∨ d.claimed n = true)
    sets ∧ d.running = true ∧ d.cvTick d.eng.c = true ∧ idle ∧ n < 16 ∧ k < 2 := by decide +kernel

/-- `CvOutputsAndAutoTune` (CvCodesLoadAtTicks), clause 2. -/
theorem witness_CvCodesLoadAtTicks_b :
    let s : State := St (cvd.fp CVO_STAT_OT 3)
    let n : Nat := 0
    let d := s.dev
    let sets : Prop := d.hears = true ∧ n < 16 ∧ d.running = true ∧ (d.fg (CVO_CH_CFG_SRC n) = 1 ∨ d.claimed n = true)
    ¬sets := by decide +kernel

/-- `CvOutputsAndAutoTune` (CvCodesLoadAtTicks), clause 4. -/
theorem witness_CvCodesLoadAtTicks_c :
    let s : State := (St {cvd.fp CVO_CLK_CVDIV 4 with eng := {cvd.eng with c := 1}})
    let d := s.dev
    (d.running = false ∨ d.cvTick d.eng.c = false) := by decide +kernel

/-- `CvOutputsAndAutoTune` (AutoTuneRunsADueChannel), clauses 1, 5. -/
theorem witness_AutoTuneRunsADueChannel_a :
    let s : State := St td
    let v : Word := 0x1F
    let ch : Nat := 15
    let d := s.dev
    let ready (c : Nat) : Bool := d.tune.due.any fun e => e.1 == c && (e.2 || decide (d.voiceRate ≤ tget 0 d.tune.quiet c))
    let first : Prop := ch < 16 ∧ ready ch = true ∧ ∀ c, c < ch → ready c = false
    let claims : Prop := d.running = true ∧ d.tune.phase = .idle ∧ first
    let n := d.fg (CVO_ATJ_TMR ch)
    let timer : Prop := d.fg (TMR_CFG_CLK n) = 0 ∧ d.fg (TMR_CFG_MODE n) = 5
    d.hears = true ∧ bitOf v 4 = true ∧ fieldOf v 3 0 = ch ∧ d.on (CVO_ATJ_EN ch) = true ∧ claims ∧ ¬timer := by decide +kernel

/-- `CvOutputsAndAutoTune` (AutoTuneRunsADueChannel), clauses 2, 7, 8. -/
theorem witness_AutoTuneRunsADueChannel_b :
    let s : State := (St (tn td fun t => {t with phase := .settle, due := []}))
    let ch : Nat := 5
    let d := s.dev
    let ready (c : Nat) : Bool := d.tune.due.any fun e => e.1 == c && (e.2 || decide (d.voiceRate ≤ tget 0 d.tune.quiet c))
    ch < 16 ∧ d.running = true ∧ d.on (CVO_ATJ_EN ch) = true ∧ (∀ e ∈ d.tune.due, e.1 ≠ ch) ∧
    (d.running = false ∨ d.tune.phase ≠ .idle ∨ (∀ c, c < 16 → ready c = false)) ∧ d.tune.phase = .settle := by decide +kernel

/-- `CvOutputsAndAutoTune` (AutoTuneRunsADueChannel), clause 3. -/
theorem witness_AutoTuneRunsADueChannel_c :
    let s : State := St Dev.reset
    let ch : Nat := 5
    let d := s.dev
    (d.running = false ∨ d.on (CVO_ATJ_EN ch) = false) := by decide +kernel

/-- `CvOutputsAndAutoTune` (AutoTuneRunsADueChannel), clause 4. -/
theorem witness_AutoTuneRunsADueChannel_d :
    let s : State := (St (((tn td fun t => {t with due := [(15, true), (3, true)]}).fp (CVO_ATJ_TMR 3) 1).fp (TMR_CFG_MODE 1) 5))
    let ch : Nat := 3
    let d := s.dev
    let ready (c : Nat) : Bool := d.tune.due.any fun e => e.1 == c && (e.2 || decide (d.voiceRate ≤ tget 0 d.tune.quiet c))
    let first : Prop := ch < 16 ∧ ready ch = true ∧ ∀ c, c < ch → ready c = false
    let claims : Prop := d.running = true ∧ d.tune.phase = .idle ∧ first
    let n := d.fg (CVO_ATJ_TMR ch)
    let timer : Prop := d.fg (TMR_CFG_CLK n) = 0 ∧ d.fg (TMR_CFG_MODE n) = 5
    let range : Prop := d.fg (CVO_ATL_LO ch) + (d.fg CVO_AT_CFG_P - 1) ≤ d.fg (CVO_ATL_HI ch)
    claims ∧ timer ∧ range := by decide +kernel

/-- `CvOutputsAndAutoTune` (AutoTuneRunsADueChannel), clause 6. -/
theorem witness_AutoTuneRunsADueChannel_e :
    let s : State := (St ((((((tn td fun t => {t with due := [(15, true), (3, true)]}).fp (CVO_ATJ_TMR 3) 1).fp (TMR_CFG_MODE 1) 5)).fp (CVO_ATL_LO 3) 1).fp (CVO_ATL_HI 3) ((td.fg CVO_AT_CFG_P) - 1)))
    let ch : Nat := 3
    let d := s.dev
    let ready (c : Nat) : Bool := d.tune.due.any fun e => e.1 == c && (e.2 || decide (d.voiceRate ≤ tget 0 d.tune.quiet c))
    let first : Prop := ch < 16 ∧ ready ch = true ∧ ∀ c, c < ch → ready c = false
    let claims : Prop := d.running = true ∧ d.tune.phase = .idle ∧ first
    let n := d.fg (CVO_ATJ_TMR ch)
    let timer : Prop := d.fg (TMR_CFG_CLK n) = 0 ∧ d.fg (TMR_CFG_MODE n) = 5
    let range : Prop := d.fg (CVO_ATL_LO ch) + (d.fg CVO_AT_CFG_P - 1) ≤ d.fg (CVO_ATL_HI ch)
    claims ∧ timer ∧ ¬range := by decide +kernel

/-- `CvOutputsAndAutoTune` (AutoTuneRunsADueChannel), clause 9. -/
theorem witness_AutoTuneRunsADueChannel_f :
    let s : State := (St (tn td fun t => {t with phase := .gate, ch := 15, caps := 1}))
    let d := s.dev
    d.running = true ∧ d.tune.phase = .gate ∧ (d.tune.caps < 2 ∨ d.tune.stuck = true) := by decide +kernel

/-- `CvOutputsAndAutoTune` (AutoTuneRunsADueChannel), clause 10. -/
theorem witness_AutoTuneRunsADueChannel_g :
    let s : State := (St ((tn td fun t => {t with phase := .gate, ch := 15, caps := 2, last := 1001, first := 1}).fp CVO_AT_CFG_P 4))
    let d := s.dev
    d.running = true ∧ d.tune.phase = .gate ∧ 2 ≤ d.tune.caps ∧ d.tune.stuck = false ∧ d.tune.last ≠ d.tune.first ∧
    d.tune.point + 1 < d.fg CVO_AT_CFG_P := by decide +kernel

end Cv

namespace Journal

/-! ### The journal -/

def q1 : QRec := { ty := 0x10, key := 3, txid := 0, pay := List.replicate 1008 0x55, host := true }
def q2 : QRec := { ty := 1, key := 0, txid := 5, pay := [], host := false }
def hj (fl : List (Fld × Nat)) (f : Nvj → Nvj) (m : Mode := .run) : Dev :=
  let d := Dev.inMode (Dv fl) m
  { d with nvj := f { d.nvj with ready := true, base := 16, len := 32, seq := 0xFFFFFFFF, fresh := false, head := 2, fill := 0x10000 - 1024, tail := 2, tailSeq := 1, sects := (2, {ecnt := some 3, sseq := some 1, retired := false}) :: (List.range 20).map (fun k => (k + 3, { ecnt := some k, sseq := none, retired := false })), queue := [q1, q2], sbSeq := 0xFFFFFFFF } }
def fe (ok : Bool) (t c : Nat) : FlashEnv := { ok := ok, time := t, corrected := c }

/-- `JournalEngineWritesRecords`, clauses 1, 6, 7, 11, 12, 14. -/
theorem witness_JournalEngineWritesRecords_a :
    let s : State := St (hj [] id)
    let env : FlashEnv := fe true 500 99
    let q : QRec := q1
    let rest : List QRec := [q2]
    let d := s.dev
    let j := d.nvj
    let pay := d.jpayload q
    let fits : Prop := j.fresh = false ∧ j.fill + jsize pay ≤ 0x10000 ∧ d.logCount + 2 < d.span
    let quick : Prop := env.time ≤ d.fg NVJ_POL2_TPP_US ∧ (d.on NVJ_FLASH_ECCST = true → env.corrected ≤ d.fg NVJ_POL3_CBMAX)
    let writes : Prop := d.jworks = true ∧ j.queue = q :: rest
    writes ∧ fits ∧ quick ∧ env.ok = true ∧ pay.length ≤ 1008 ∧ (d.jworks = false ∨ d.fg NVJ_TOKENS_VALUE = 0) ∧
    d.jworks = true ∧ d.pwr.mode = .run ∧ env.time ≤ d.fg NVJ_POL2_TPP_US ∧ j.sbInB = false ∧ j.sbSlotA < 256 ∧
    d.on NVJ_STAT_PFAIL = false ∧ d.pwr.frozen = false ∧ j.counters.length = 5 ∧ j.ready = true ∧ d.evt.fw = [] ∧
    j.evlog = [] := by decide +kernel

/-- `JournalEngineWritesRecords`, clauses 2, 5. -/
theorem witness_JournalEngineWritesRecords_b :
    let s : State := (St (hj [(NVJ_TOKENS_VALUE,1)] fun j => {j with sbInB := true}))
    let env : FlashEnv := fe false 0 0
    let q : QRec := q1
    let rest : List QRec := [q2]
    let k : Nat := 23
    let d := s.dev
    let j := d.nvj
    let pay := d.jpayload q
    let fits : Prop := j.fresh = false ∧ j.fill + jsize pay ≤ 0x10000 ∧ d.logCount + 2 < d.span
    let writes : Prop := d.jworks = true ∧ j.queue = q :: rest
    let erases : Prop := d.jworks = true ∧ d.logSects.find? d.sectDirty = some k ∧ d.fg NVJ_TOKENS_VALUE ≠ 0
    writes ∧ fits ∧ env.ok = false ∧ erases ∧ (env.ok = false ∨ d.fg NVJ_POL2_TSE_MS < env.time) := by decide +kernel

/-- `JournalEngineWritesRecords`, clauses 3, 8, 10. -/
theorem witness_JournalEngineWritesRecords_c :
    let s : State := (St (hj [(NVJ_STAT_PFAIL,1),(NVJ_TOKENS_VALUE,1)] fun j => {j with sbInB := true}))
    let d := s.dev
    let j := d.nvj
    (d.jworks = false ∨ j.queue = []) ∧ (d.jworks = false ∨ d.pwr.mode ≠ .run) ∧ d.on NVJ_STAT_PFAIL = true := by decide +kernel

/-- `JournalEngineWritesRecords`, clause 4. -/
theorem witness_JournalEngineWritesRecords_d :
    let s : State := St (hj [(NVJ_FLASH_ECCST,1),(NVJ_POL3_CBMAX,4),(NVJ_TOKENS_VALUE,1)] id)
    let env : FlashEnv := fe true 500 4
    let k : Nat := 23
    let d := s.dev
    let erases : Prop := d.jworks = true ∧ d.logSects.find? d.sectDirty = some k ∧ d.fg NVJ_TOKENS_VALUE ≠ 0
    erases ∧ env.ok = true ∧ env.time ≤ d.fg NVJ_POL2_TSE_MS := by decide +kernel

/-- `JournalEngineWritesRecords`, clause 13. -/
theorem witness_JournalEngineWritesRecords_e :
    let s : State := St (hj [] id .rest)
    let d := s.dev
    (d.pwr.mode ≠ .run ∨ d.pwr.frozen = true) := by decide +kernel

/-- `JournalEngineWritesRecords`, clause 15. -/
theorem witness_JournalEngineWritesRecords_f :
    let s : State := (St (hj [] (fun j => {j with evlog := List.replicate 65 (1,2,3)})))
    let d := s.dev
    let j := d.nvj
    let log := (j.evlog.take 64).flatMap fun x => leBytes 4 x.1 ++ [BitVec.ofNat 8 x.2.1, 0] ++ leBytes 2 x.2.2
    j.ready = true ∧ d.pwr.mode = .run ∧ d.pwr.frozen = false ∧ d.evt.fw = [] ∧ j.evlog ≠ [] ∧
    (d.jpost 0x51 0 0 log false).1 = 0 := by decide +kernel

end Journal

namespace Age

/-! ### Ageing -/

def ag (d : Dev) (f : Age → Age) : Dev := { d with age := f d.age }
def rn := run [(AGE_TLIM_TWARN, 400), (AGE_TLIM_TCRIT, 500), (CBL_STAT_STATE, 1)]
def sv := Dev.inMode (Dv []) .service
def sn (x : Int) (t : Int) : Sense := { m := [x,x,x,x,x], ring := [1,2,3,4,5], temp := t }
def av (a : Bool) (mv : Nat) : AvsRes := ⟨a, mv, 0x1FF, 0⟩

/-- `SteadyRestWatchesAndReplans` (SteadyRestKeepsWatch), clauses 1, 3, 7, 8, 9. -/
theorem witness_SteadyRestKeepsWatch_a :
    let s : State := (St (ag rn fun a => {a with tw := some 100, twAt := 392, due := true}))
    let v : Word := 2
    let temp : Int := 400
    let d := s.dev
    let run : Prop := d.pwr.mode = .run ∧ d.pwr.frozen = false
    let small (x : Int) : Prop := -2048 ≤ x ∧ x < 2048
    d.sensing = true ∧ small temp ∧ d.hears = true ∧ run ∧ bitOf v 1 = true ∧ bitOf v 2 = false ∧ d.age.due = true ∧
    d.age.lateCounted = false := by decide +kernel

/-- `SteadyRestWatchesAndReplans` (SteadyRestKeepsWatch), clauses 2, 4. -/
theorem witness_SteadyRestKeepsWatch_b :
    let s : State := St (Dev.inMode (Dv []) .shelf)
    let v : Word := 5
    let d := s.dev
    d.sensing = false ∧ bitOf v 1 = false := by decide +kernel

/-- `SteadyRestWatchesAndReplans` (SteadyRestKeepsWatch), clauses 5, 11. -/
theorem witness_SteadyRestKeepsWatch_c :
    let s : State := (St (ag sv fun a => {a with tw := some 99}))
    let v : Word := 5
    let d := s.dev
    let run : Prop := d.pwr.mode = .run ∧ d.pwr.frozen = false
    d.hears = true ∧ d.pwr.mode = .service ∧ bitOf v 2 = true ∧ ¬run := by decide +kernel

/-- `SteadyRestWatchesAndReplans` (SteadyRestKeepsWatch), clauses 6, 10. -/
theorem witness_SteadyRestKeepsWatch_d :
    let s : State := (St (ag (((rn.fp AGE_STAT_TW 1).fp AGE_STAT_TC 1).fp CBL_STAT_STATE 4) fun a => {a with tw := none, twAt := 392}))
    let v : Word := 5
    let d := s.dev
    d.hears = true ∧ d.pwr.mode ≠ .service ∧ bitOf v 2 = true ∧ bitOf v 1 = false ∧
    (d.age.due = false ∨ d.age.lateCounted = true) := by decide +kernel

/-- `SteadyRestWatchesAndReplans` (SteadyRestReplans), clauses 1, 7, 13. -/
theorem witness_SteadyRestReplans_a :
    let s : State := (St (ag rn fun a => {a with due := true}))
    let m : Sense := sn 40 10
    let d := s.dev
    let temp := m.temp
    let tw := match d.age.tw with
      | some w => max w temp
      | none => temp
    let slack (i : Nat) : Int := 64 * m.m.getD i 0 - d.age.kt * (tw - temp)
    let enough : Prop := ∀ i, i < 5 → 64 * (d.age.minSlack : Int) ≤ slack i
    let takes : Prop := d.age.due = true ∧ d.canMeasure = true
    takes ∧ enough ∧ (d.age.stepping = false ∨ d.alive = false) ∧ (d.age.clk = none ∨ d.running = false) := by decide +kernel

/-- `SteadyRestWatchesAndReplans` (SteadyRestReplans), clause 2. -/
theorem witness_SteadyRestReplans_b :
    let s : State := (St (ag ((rn.fp AGE_CTRL_AUTO 0).fp AGE_VDD_SET 899) fun a => {a with due := true, tw := some 26}))
    let m : Sense := sn 40 10
    let d := s.dev
    let temp := m.temp
    let tw := match d.age.tw with
      | some w => max w temp
      | none => temp
    let slack (i : Nat) : Int := 64 * m.m.getD i 0 - d.age.kt * (tw - temp)
    let enough : Prop := ∀ i, i < 5 → 64 * (d.age.minSlack : Int) ≤ slack i
    let takes : Prop := d.age.due = true ∧ d.canMeasure = true
    takes ∧ ¬enough ∧ d.on AGE_CTRL_AUTO = false := by decide +kernel

/-- `SteadyRestWatchesAndReplans` (SteadyRestReplans), clause 3. -/
theorem witness_SteadyRestReplans_c :
    let s : State := (St (ag rn fun a => {a with due := true, tw := some 26}))
    let m : Sense := sn 40 10
    let d := s.dev
    let temp := m.temp
    let tw := match d.age.tw with
      | some w => max w temp
      | none => temp
    let slack (i : Nat) : Int := 64 * m.m.getD i 0 - d.age.kt * (tw - temp)
    let enough : Prop := ∀ i, i < 5 → 64 * (d.age.minSlack : Int) ≤ slack i
    let takes : Prop := d.age.due = true ∧ d.canMeasure = true
    let below : Prop := d.fg AGE_VDD_SET < d.age.vmax ∧ d.on AGE_STAT_AVSERR = false
    takes ∧ ¬enough ∧ d.on AGE_CTRL_AUTO = true ∧ below ∧ d.age.vmax < 0x10000 := by decide +kernel

/-- `SteadyRestWatchesAndReplans` (SteadyRestReplans), clauses 4, 5. -/
theorem witness_SteadyRestReplans_d :
    let s : State := (St (ag ((rn.fp AGE_CTRL_AUTO 1).fp AGE_VDD_SET 810) fun a => {a with stepping := true, tw := some 26}))
    let m : Sense := sn 41 10
    let avs : AvsRes := av true 800
    let d := s.dev
    let temp := m.temp
    let tw := match d.age.tw with
      | some w => max w temp
      | none => temp
    let slack (i : Nat) : Int := 64 * m.m.getD i 0 - d.age.kt * (tw - temp)
    let enough : Prop := ∀ i, i < 5 → 64 * (d.age.minSlack : Int) ≤ slack i
    let steps : Prop := d.age.stepping = true ∧ d.alive = true
    let confirmed : Prop := avs.ack = true ∧ ((avs.readMv : Int) - (d.fg AGE_VDD_SET : Int)).natAbs ≤ 10
    (d.age.due = false ∨ d.canMeasure = false) ∧ steps ∧ confirmed ∧ enough := by decide +kernel

/-- `SteadyRestWatchesAndReplans` (SteadyRestReplans), clause 6. -/
theorem witness_SteadyRestReplans_e :
    let s : State := (St (ag ((rn.fp AGE_CTRL_AUTO 1).fp AGE_VDD_SET 811) fun a => {a with stepping := true, tw := some 26}))
    let avs : AvsRes := av true 800
    let d := s.dev
    let steps : Prop := d.age.stepping = true ∧ d.alive = true
    let confirmed : Prop := avs.ack = true ∧ ((avs.readMv : Int) - (d.fg AGE_VDD_SET : Int)).natAbs ≤ 10
    steps ∧ ¬confirmed := by decide +kernel

/-- `SteadyRestWatchesAndReplans` (SteadyRestReplans), clause 8. -/
theorem witness_SteadyRestReplans_f :
    let s : State := (St (ag (rn.fp ALLOC_STAT_NUM 17) fun a => {a with clk := some (0, 7, 16)}))
    let p : Nat := 7
    let n : Nat := 16
    let d := s.dev
    d.age.clk = some (0, p, n) ∧ d.running = true ∧ d.commitPending = false := by decide +kernel

/-- `SteadyRestWatchesAndReplans` (SteadyRestReplans), clause 9. -/
theorem witness_SteadyRestReplans_g :
    let s : State := (St (ag ((rn.fp ALLOC_STAT_NUM 17).fp STG_STATUS_PENDING 1) fun a => {a with clk := some (0, 7, 16)}))
    let p : Nat := 7
    let n : Nat := 16
    let d := s.dev
    d.age.clk = some (0, p, n) ∧ d.commitPending = true := by decide +kernel

/-- `SteadyRestWatchesAndReplans` (SteadyRestReplans), clause 10. -/
theorem witness_SteadyRestReplans_h :
    let s : State := (St (ag (rn.fp ALLOC_STAT_NUM 17) fun a => {a with clk := some (1, 7, 16)}))
    let p : Nat := 7
    let n : Nat := 16
    let d := s.dev
    d.age.clk = some (1, p, n) ∧ d.running = true ∧ (∀ v ∈ d.presentVoices, d.removed v = true → (d.pendOf v).1 = 0) := by decide +kernel

/-- `SteadyRestWatchesAndReplans` (SteadyRestReplans), clause 11. -/
theorem witness_SteadyRestReplans_i :
    let s : State := (St (ag {(rn.fp ALLOC_STAT_NUM 32) with alloc := {rn.alloc with pend := [(1,(4,0))]}} fun a => {a with clk := some (1, 7, 16)}))
    let p : Nat := 7
    let n : Nat := 16
    let d := s.dev
    d.age.clk = some (1, p, n) ∧ (∃ v ∈ d.presentVoices, d.removed v = true ∧ (d.pendOf v).1 ≠ 0) := by decide +kernel

/-- `SteadyRestWatchesAndReplans` (SteadyRestReplans), clause 12. -/
theorem witness_SteadyRestReplans_j :
    let s : State := (St (ag (rn.fp ALLOC_STAT_NUM 17) fun a => {a with changed := true, clk := some (3, 15, 256)}))
    let p : Nat := 15
    let n : Nat := 256
    let st : Nat := 3
    let d := s.dev
    let free : Prop := ∀ v ∈ d.presentVoices, d.removed v = true → (d.voice v).cls = clsFree
    d.age.clk = some (st, p, n) ∧ d.running = true ∧ (st = 3 ∨ (st = 2 ∧ free)) ∧ p < 16 ∧ n ≤ 256 := by decide +kernel

end Age

namespace Fatal

/-! ### Fatal faults -/

def fz (m : Mode) (st : Nat) (fl : List (Fld × Nat)) : Dev := let d := Dev.inMode (Dv fl) m; { d with pwr := { d.pwr with frozen := true, fatalStep := st } }
def er (x : Option (Nat × Nat)) (l : List (Nat × Byte)) : Dev := let d := withTable (run []); { d with evt := { d.evt with erase := x}, flash := l.foldl (fun f p => tput 0xFF f p.1 p.2) d.flash }

/-- `FatalFaultsLeadToService`, clauses 1, 6, 8, 10. -/
theorem witness_FatalFaultsLeadToService_a :
    let s : State := St (run [(EVT_WDT_RESTARTS, 255), (EVT_COUNT_TOTAL 1, 65535)])
    let d := s.dev
    let mode := d.pwr.mode
    let dumps : Prop := d.pwr.frozen = true ∧ d.pwr.fatalStep = 1
    mode = .run ∧ d.pwr.frozen = false ∧ d.pclk = true ∧ ¬dumps ∧ d.pwr.fatalStep ≠ 3 := by decide +kernel

/-- `FatalFaultsLeadToService`, clauses 2, 7. -/
theorem witness_FatalFaultsLeadToService_b :
    let s : State := (St {fz .run 3 [] with evt := {Dev.reset.evt with wdt := true, res := 2}})
    let d := s.dev
    let mode := d.pwr.mode
    mode = .run ∧ d.pwr.frozen = true ∧ d.evt.wdt = true ∧ d.pclk = true ∧ d.pwr.fatalStep = 3 := by decide +kernel

/-- `FatalFaultsLeadToService`, clause 3. -/
theorem witness_FatalFaultsLeadToService_c :
    let s : State := St (Dev.inMode (Dv []) .service)
    let d := s.dev
    let mode := d.pwr.mode
    mode = .service := by decide +kernel

/-- `FatalFaultsLeadToService`, clause 4. -/
theorem witness_FatalFaultsLeadToService_d :
    let s : State := St (Dev.inMode (Dv []) .shelf)
    let d := s.dev
    let mode := d.pwr.mode
    (mode = .blank ∨ mode = .shelf) := by decide +kernel

/-- `FatalFaultsLeadToService`, clause 5. -/
theorem witness_FatalFaultsLeadToService_e :
    let s : State := St (fz .run 1 [])
    let d := s.dev
    let dumps : Prop := d.pwr.frozen = true ∧ d.pwr.fatalStep = 1
    dumps := by decide +kernel

/-- `FatalFaultsLeadToService`, clause 9. -/
theorem witness_FatalFaultsLeadToService_f :
    let s : State := St (fz .rest 4 [])
    let d := s.dev
    d.pwr.frozen = true ∧ d.pwr.fatalStep = 4 := by decide +kernel

/-- `FatalFaultsLeadToService`, clause 11. -/
theorem witness_FatalFaultsLeadToService_g :
    let s : State := St (er (some (1, 30)) [(0x5E0000, 1), (0x5EFFFF, 2), (0x5F0000,3)])
    let k : Nat := 1
    let n : Nat := 30
    let d := s.dev
    let mode := d.pwr.mode
    let up : Prop := d.pwr.frozen = false ∧ (mode = .run ∨ mode = .rest) ∧ (d.region 4).isSome = true
    up ∧ d.evt.erase = some (k, n) ∧ n + 1 < 32 := by decide +kernel

/-- `FatalFaultsLeadToService`, clause 12. -/
theorem witness_FatalFaultsLeadToService_h :
    let s : State := St (er none [(0x5E0000, 1), (0x7EFFFF, 2), (0x5F0000,3)])
    let d := s.dev
    let mode := d.pwr.mode
    let up : Prop := d.pwr.frozen = false ∧ (mode = .run ∨ mode = .rest) ∧ (d.region 4).isSome = true
    up ∧ mode = .run ∧ d.evt.erase = none ∧ d.dumpSlot = none := by decide +kernel

/-- `FatalFaultsLeadToService`, clause 13. -/
theorem witness_FatalFaultsLeadToService_i :
    let s : State := St (er none [(0x5E0000, 1), (0x5F0000,3)])
    let d := s.dev
    let mode := d.pwr.mode
    let up : Prop := d.pwr.frozen = false ∧ (mode = .run ∨ mode = .rest) ∧ (d.region 4).isSome = true
    up ∧ d.evt.erase = none ∧ d.dumpSlot.isSome = true := by decide +kernel

end Fatal

namespace Uart

/-! ### UARTs -/

def s0 : Samples := ⟨false,false,false⟩
def s1 : Samples := ⟨true,true,true⟩
def n1 : Samples := ⟨true,false,true⟩
def ch (b : List Bool) (stop : Samples := s1) : List Samples := s0 :: b.map (fun x => if x then s1 else s0) ++ [stop]
def by_ (x : Byte) : List Samples := ch ((List.range 8).map x.getLsbD)
def ud (fl : List (Fld × Nat) := []) := run ((List.range 5).map (fun k => (UART_CFG_EN k, 1)) ++ [(UART_CFG_DIV 3, 200)] ++ fl)
def uq (d : Dev) (n : Nat) (f : Uart → Uart) : Dev := d.setUart n (f (d.uart n))
def frame : List Byte := swilum 1 0x23 0 [1]
def hpart (l : List Byte) : Dev := { ud with host := { ud.host with part := l.map fun b => (b, 0, 0) } }

/-- `ReceivedCharactersAndFrames` (ReceivedCharacterJoinsQueue), clause 1. -/
theorem witness_ReceivedCharacterJoinsQueue :
    let s : State := St ud
    let n : Nat := 3
    let bits : List Samples := by_ 0x81
    let d := s.dev
    let bit (i : Nat) : Bool := samplesMaj (charBit bits i)
    n < 4 ∧ d.receives n = true ∧ bit 0 = false ∧ bit 9 = true := by decide +kernel

/-- `BreaksDeadLinesAndTransmission` (BreaksAndDeadLines), clauses 1, 7. -/
theorem witness_BreaksAndDeadLines_a :
    let s : State := St (ud [(UART_CNT_FERR 3, 255)])
    let n : Nat := 3
    let bits : List Samples := ch ((List.range 8).map (0x80#8).getLsbD) s0
    let d := s.dev
    let bit (i : Nat) : Bool := samplesMaj (charBit bits i)
    let low : Prop := ∀ i, i < 8 → bit (i + 1) = false
    d.receives n = true ∧ bit 0 = false ∧ bit 9 = false ∧ ¬low ∧ d.on (UART_STAT_DEAD n) = false := by decide +kernel

/-- `BreaksDeadLinesAndTransmission` (BreaksAndDeadLines), clause 2. -/
theorem witness_BreaksAndDeadLines_b :
    let s : State := St ud
    let n : Nat := 4
    let bits : List Samples := ch ((List.range 8).map (0#8).getLsbD) s0
    let d := s.dev
    let bit (i : Nat) : Bool := samplesMaj (charBit bits i)
    let low : Prop := ∀ i, i < 8 → bit (i + 1) = false
    d.receives n = true ∧ bit 0 = false ∧ bit 9 = false ∧ low := by decide +kernel

/-- `BreaksDeadLinesAndTransmission` (BreaksAndDeadLines), clauses 3, 4. -/
theorem witness_BreaksAndDeadLines_c :
    let s : State := (St (uq ud 4 fun u => {u with lowPeriod := true}))
    let n : Nat := 4
    let bits : List Samples := (s1 :: by_ 7)
    let d := s.dev
    let bit (i : Nat) : Bool := samplesMaj (charBit bits i)
    d.receives n = true ∧ bit 0 = true ∧ (d.uart n).lowPeriod = true := by decide +kernel

/-- `BreaksDeadLinesAndTransmission` (BreaksAndDeadLines), clauses 5, 6. -/
theorem witness_BreaksAndDeadLines_d :
    let s : State := St (ud [(UART_STAT_DEAD 4, 1)])
    let n : Nat := 4
    let d := s.dev
    let off : Prop := d.receives n = false
    n < 5 ∧ d.hears = true ∧ d.pwr.frozen = false ∧ d.on (UART_STAT_DEAD n) = true ∧ off := by decide +kernel

/-- `BreaksDeadLinesAndTransmission` (TransmitQueueAndDivider), clause 1. -/
theorem witness_TransmitQueueAndDivider_a :
    let s : State := (St (uq (ud [(UART_HCFG_CTSEN, 1)]) 4 fun u => {u with txq := [1, 2], divWait := some 65535}))
    let n : Nat := 4
    let cts : Bool := false
    let b : Byte := 1
    let rest : List Byte := [2]
    let d := s.dev
    let u := d.uart n
    let may : Prop := d.transmits n = true ∧ ¬(n = 4 ∧ cts = true ∧ d.on UART_HCFG_CTSEN = true)
    u.txq = b :: rest ∧ may := by decide +kernel

/-- `BreaksDeadLinesAndTransmission` (TransmitQueueAndDivider), clauses 2, 5. -/
theorem witness_TransmitQueueAndDivider_b :
    let s : State := (St (uq ud 4 fun u => {u with txq := [1], divWait := some 65535}))
    let n : Nat := 4
    let div : Nat := 65535
    let cts : Bool := true
    let b : Byte := 1
    let rest : List Byte := []
    let d := s.dev
    let u := d.uart n
    let may : Prop := d.transmits n = true ∧ ¬(n = 4 ∧ cts = true ∧ d.on UART_HCFG_CTSEN = true)
    u.txq = b :: rest ∧ ¬may ∧ d.hears = true ∧ n < 5 ∧ 0 < div ∧ div < 65536 ∧ u.txq ≠ [] := by decide +kernel

/-- `BreaksDeadLinesAndTransmission` (TransmitQueueAndDivider), clauses 3, 4. -/
theorem witness_TransmitQueueAndDivider_c :
    let s : State := St ud
    let n : Nat := 4
    let div : Nat := 1
    let d := s.dev
    let u := d.uart n
    u.txq = [] ∧ d.hears = true ∧ n < 5 ∧ 0 < div ∧ div < 65536 := by decide +kernel

/-- `ReceivedCharactersAndFrames` (HostFramesAreParsed), clauses 1, 3. -/
theorem witness_HostFramesAreParsed_a :
    let s : State := St (hpart frame.dropLast)
    let bits : List Samples := by_ (frame.getLast!)
    let x : Byte := frame.getLast!
    let d := s.dev
    let l := d.host.part
    let whole := l.map (·.1) ++ [x]
    let len := leNat ((whole.drop 1).take 2)
    let clean : Prop := samplesMaj (charBit bits 0) = false ∧ samplesMaj (charBit bits 9) = true ∧
      ∀ i, i < 8 → x.getLsbD i = samplesMaj (charBit bits (i + 1))
    let good : Prop := crc16 ((whole.drop 1).take (5 + len)) = leNat (whole.drop (6 + len))
    d.receives 4 = true ∧ clean ∧ d.host.frame = none ∧ (d.uart 4).rxq = [] ∧ whole.headD 0 = 0xA5 ∧ 3 ≤ l.length ∧
    len ≤ 1024 ∧ whole.length = 8 + len ∧ good ∧ l ≠ [] := by decide +kernel

/-- `ReceivedCharactersAndFrames` (HostFramesAreParsed), clause 2. -/
theorem witness_HostFramesAreParsed_b :
    let s : State := St (hpart frame.dropLast)
    let bits : List Samples := by_ (frame.getLast! + 1)
    let x : Byte := frame.getLast! + 1
    let d := s.dev
    let l := d.host.part
    let whole := l.map (·.1) ++ [x]
    let len := leNat ((whole.drop 1).take 2)
    let clean : Prop := samplesMaj (charBit bits 0) = false ∧ samplesMaj (charBit bits 9) = true ∧
      ∀ i, i < 8 → x.getLsbD i = samplesMaj (charBit bits (i + 1))
    let good : Prop := crc16 ((whole.drop 1).take (5 + len)) = leNat (whole.drop (6 + len))
    d.receives 4 = true ∧ clean ∧ d.host.frame = none ∧ (d.uart 4).rxq = [] ∧ whole.headD 0 = 0xA5 ∧ 3 ≤ l.length ∧
    len ≤ 1024 ∧ whole.length = 8 + len ∧ ¬good ∧ (∀ b ∈ whole.drop 1, b ≠ 0xA5) := by decide +kernel

/-- `ReceivedCharactersAndFrames` (HostFramesAreParsed), clause 4. -/
theorem witness_HostFramesAreParsed_c :
    let s : State := St (hpart [])
    let d := s.dev
    let l := d.host.part
    (l = [] ∨ d.host.frame.isSome = true) := by decide +kernel

end Uart

namespace Intake

/-! ### Intake -/

def idd (fl : List (Fld × Nat) := []) := run (((List.range 6).map fun k => (NOTE_SRC_EN k, 1)) ++ fl)
def rx (d : Dev) (n : Nat) (l : List (Byte × Word × Word)) : Dev := d.setUart n { d.uart n with rxq := l }
def pz (d : Dev) (n : Nat) (f : Parser → Parser) : Dev := { d with note := { d.note with parsers := tput Parser.idle d.note.parsers n (f (d.parser n)) } }
def wq (d : Dev) (n k : Nat) : Dev := { d with note := { d.note with wait := [(n, List.replicate k (Msg.ofPart 0x21 0 0 0 0 1 0))] } }
def pd (fl : List (Fld × Nat) := []) := idd ([(NOTE_PART_MAP_EN 31, 1), (NOTE_PART_MAP_PORTS 31, 31), (NOTE_PART_MAP_CHAN 31, 0xFFFF)] ++ fl)
def cc (ch : Nat) (st : Word) : Msg := { Msg.live 0x10 0 ch st (st + 9) with index := 74, value := 0x80000000 }
def w1 (d : Dev) (src : Nat) (l : List Msg) : Dev := { d with note := { d.note with wait := tput [] [] src l, seq := 65535 } }
def pe : PipeEnt := { ev := ⟨0,0x10,false,0,31,false,0,2,0,7,0,0⟩, sample := 0, phi := 0, pitch := 0, applied := false, queued := false, refused := false, voices := [], tag := 0, u := 1, starts := false }
def pp (d : Dev) (l : List PipeEnt) : Dev := { d with note := { d.note with pipe := l } }
def vd := (pd [(ALLOC_STAT_NUM, 256)])
def on_ : PipeEnt := {pe with ev := {pe.ev with kind := 1}, voices := [0, 255], tag := 3, starts := true}

/-- `MidiMessagesAreParsed`, clauses 1, 8. -/
theorem witness_MidiMessagesAreParsed_a :
    let s : State := St (rx idd 3 [(0x9F,1,2),(127,3,4),(127,5,6),(1,7,8)])
    let n : Nat := 3
    let c : Nat := 15
    let a : Nat := 127
    let b : Nat := 127
    let t0 : Word := 1
    let f0 : Word := 2
    let t1 : Word := 3
    let f1 : Word := 4
    let t2 : Word := 5
    let f2 : Word := 6
    let rest : List (Byte × Word × Word) := [(1,7,8)]
    let d := s.dev
    let src := 2 + n
    let by_ (x : Nat) : Byte := BitVec.ofNat 8 x
    let p := d.parser n
    let q := d.waiting src
    let quiet (r st : Nat) : Prop := p.running = r ∧ p.status = st ∧ p.data = [] ∧ p.sysex = none
    let on (st fin : Word) : Prop := d.srcOn src (d.arrival src st fin) = true
    d.alive = true ∧ n < 4 ∧ c < 16 ∧ a < 128 ∧ b < 128 ∧ q.length < 8 ∧ quiet 0 0 ∧ on t0 f2 ∧
    (d.uart n).rxq = [(by_ (0x90 + c), t0, f0), (by_ a, t1, f1), (by_ b, t2, f2)] ++ rest ∧ 0 < b ∧ p.armed = false := by decide +kernel

/-- `MidiMessagesAreParsed`, clause 2. -/
theorem witness_MidiMessagesAreParsed_b :
    let s : State := St (wq (rx idd 0 [(0x90,1,2),(0,3,4),(0,5,6)]) 2 7)
    let n : Nat := 0
    let c : Nat := 0
    let a : Nat := 0
    let b : Nat := 0
    let t0 : Word := 1
    let f0 : Word := 2
    let t1 : Word := 3
    let f1 : Word := 4
    let t2 : Word := 5
    let f2 : Word := 6
    let rest : List (Byte × Word × Word) := []
    let d := s.dev
    let src := 2 + n
    let by_ (x : Nat) : Byte := BitVec.ofNat 8 x
    let p := d.parser n
    let q := d.waiting src
    let quiet (r st : Nat) : Prop := p.running = r ∧ p.status = st ∧ p.data = [] ∧ p.sysex = none
    let on (st fin : Word) : Prop := d.srcOn src (d.arrival src st fin) = true
    d.alive = true ∧ n < 4 ∧ c < 16 ∧ a < 128 ∧ b < 128 ∧ q.length < 8 ∧ quiet 0 0 ∧ on t0 f2 ∧
    (d.uart n).rxq = [(by_ (0x90 + c), t0, f0), (by_ a, t1, f1), (by_ b, t2, f2)] ++ rest ∧ b = 0 := by decide +kernel

/-- `MidiMessagesAreParsed`, clause 3. -/
theorem witness_MidiMessagesAreParsed_c :
    let s : State := (St (pz (rx idd 0 [(0,3,4),(127,5,6)]) 0 fun p => {p with running := 0x95}))
    let n : Nat := 0
    let c : Nat := 5
    let a : Nat := 0
    let b : Nat := 127
    let t1 : Word := 3
    let f1 : Word := 4
    let t2 : Word := 5
    let f2 : Word := 6
    let rest : List (Byte × Word × Word) := []
    let d := s.dev
    let src := 2 + n
    let by_ (x : Nat) : Byte := BitVec.ofNat 8 x
    let p := d.parser n
    let q := d.waiting src
    let quiet (r st : Nat) : Prop := p.running = r ∧ p.status = st ∧ p.data = [] ∧ p.sysex = none
    let on (st fin : Word) : Prop := d.srcOn src (d.arrival src st fin) = true
    d.alive = true ∧ n < 4 ∧ c < 16 ∧ a < 128 ∧ b < 128 ∧ q.length < 8 ∧ quiet (0x90 + c) 0 ∧ 0 < b ∧ on t1 f2 ∧
    (d.uart n).rxq = [(by_ a, t1, f1), (by_ b, t2, f2)] ++ rest := by decide +kernel

/-- `MidiMessagesAreParsed`, clause 4. -/
theorem witness_MidiMessagesAreParsed_d :
    let s : State := St (rx idd 2 [(0xB3,1,2),(95,3,4),(100,5,6)])
    let n : Nat := 2
    let c : Nat := 3
    let a : Nat := 95
    let b : Nat := 100
    let t0 : Word := 1
    let f0 : Word := 2
    let t1 : Word := 3
    let f1 : Word := 4
    let t2 : Word := 5
    let f2 : Word := 6
    let rest : List (Byte × Word × Word) := []
    let d := s.dev
    let src := 2 + n
    let by_ (x : Nat) : Byte := BitVec.ofNat 8 x
    let p := d.parser n
    let q := d.waiting src
    let quiet (r st : Nat) : Prop := p.running = r ∧ p.status = st ∧ p.data = [] ∧ p.sysex = none
    let on (st fin : Word) : Prop := d.srcOn src (d.arrival src st fin) = true
    d.alive = true ∧ n < 4 ∧ c < 16 ∧ a < 128 ∧ b < 128 ∧ q.length < 8 ∧ quiet 0 0 ∧ on t0 f2 ∧ 64 ≤ a ∧ a < 96 ∧
    (d.uart n).rxq = [(by_ (0xB0 + c), t0, f0), (by_ a, t1, f1), (by_ b, t2, f2)] ++ rest := by decide +kernel

/-- `MidiMessagesAreParsed`, clause 5. -/
theorem witness_MidiMessagesAreParsed_e :
    let s : State := St (rx (idd [(NOTE_SRC_ASENSE 2, 1)]) 2 [(0xFE,1,2),(64,3,4)])
    let n : Nat := 2
    let c : Nat := 3
    let a : Nat := 64
    let b : Nat := 100
    let t0 : Word := 1
    let f0 : Word := 2
    let rest : List (Byte × Word × Word) := [(64,3,4)]
    let d := s.dev
    let src := 2 + n
    let q := d.waiting src
    d.alive = true ∧ n < 4 ∧ c < 16 ∧ a < 128 ∧ b < 128 ∧ q.length < 8 ∧ (d.uart n).rxq = (0xFE, t0, f0) :: rest ∧
    d.on (NOTE_SRC_ASENSE n) = true := by decide +kernel

/-- `MidiMessagesAreParsed`, clauses 6, 7. -/
theorem witness_MidiMessagesAreParsed_f :
    let s : State := (St (wq (pz (rx idd 0 [(0x90,1,2),(0,3,4),(0,5,6)]) 0 fun p => {p with armed := true}) 2 8))
    let n : Nat := 0
    let c : Nat := 0
    let a : Nat := 0
    let b : Nat := 0
    let d := s.dev
    let src := 2 + n
    let p := d.parser n
    let q := d.waiting src
    let on (st fin : Word) : Prop := d.srcOn src (d.arrival src st fin) = true
    d.alive = true ∧ n < 4 ∧ c < 16 ∧ a < 128 ∧ b < 128 ∧ 8 ≤ q.length ∧ p.armed = true ∧ on d.now d.now := by decide +kernel

/-- `EventsEnterThePipeline`, clauses 1, 4. -/
theorem witness_EventsEnterThePipeline_a :
    let s : State := St (w1 pd 2 [cc 0 1, cc 15 2])
    let src : Nat := 2
    let p : Nat := 31
    let m : Msg := cc 0 1
    let rest : List Msg := [cc 15 2]
    let d := s.dev
    let t0 := d.stampOf src m
    let takes (q : Nat) : Prop := m.nextPart ≤ q ∧ d.partTakes q src m t0 = true
    d.running = true ∧ d.isMember = false ∧ (d.isHead && d.hasMembers) = false ∧ 2 ≤ src ∧ src ≤ 6 ∧
    d.waiting src = m :: rest ∧ m.kind = 0x10 ∧ p < 32 ∧ takes p ∧ (∀ q, q < 32 → takes q → q = p) ∧ d.note.pipe.length < 128 ∧
    d.hears = true := by decide +kernel

/-- `EventsEnterThePipeline`, clause 2. -/
theorem witness_EventsEnterThePipeline_b :
    let s : State := St (pp (w1 pd 2 [cc 0 1, cc 15 2]) (List.replicate 128 pe))
    let d := s.dev
    d.isMember = false ∧ 128 ≤ d.note.pipe.length := by decide +kernel

/-- `EventsEnterThePipeline`, clause 3. -/
theorem witness_EventsEnterThePipeline_c :
    let s : State := St Dev.reset
    let d := s.dev
    d.running = false := by decide +kernel

/-- `EventsApplyAtTheFrontier`, clause 1. -/
theorem witness_EventsApplyAtTheFrontier_a :
    let s : State := St (pp vd [on_])
    let seq : Nat := 7
    let e : PipeEnt := on_
    let d := s.dev
    d.entry seq = some e ∧ d.running = true ∧ e.applied = false ∧ e.queued = false ∧ e.refused = false ∧
    later e.sample (d.frontier e.ev.part) ≤ 0 := by decide +kernel

/-- `EventsApplyAtTheFrontier`, clause 2. -/
theorem witness_EventsApplyAtTheFrontier_b :
    let s : State := (St (pp vd [{pe with applied := true}]))
    let seq : Nat := 7
    let e : PipeEnt := {pe with applied := true}
    let d := s.dev
    d.entry seq = some e ∧
    (e.applied = true ∨ e.queued = true ∨ e.refused = true ∨ later e.sample (d.frontier e.ev.part) > 0) := by decide +kernel

end Intake

namespace Alloc

/-! ### Allocation -/

def idd (fl : List (Fld × Nat) := []) := run (((List.range 6).map fun k => (NOTE_SRC_EN k, 1)) ++ fl)
def pd (fl : List (Fld × Nat) := []) := idd ([(NOTE_PART_MAP_EN 31, 1), (NOTE_PART_MAP_PORTS 31, 31), (NOTE_PART_MAP_CHAN 31, 0xFFFF)] ++ fl)
def on_ : PipeEnt := { ev := ⟨0,1,false,60,31,false,0,2,0,7,0,0⟩, sample := 0, phi := 0, pitch := 0, applied := false, queued := true, refused := false, voices := [], tag := 0, u := 1, starts := false }
def ad (n : Nat) (sc : List (Nat × Word)) (u : Nat) : Dev :=
  let d := sc.foldl (fun d x => d.setReg (rALLOC_SCORE x.1) x.2) (pd [(ALLOC_STAT_NUM, n), (NOTE_PART_MODE_UNISON 31, u)])
  { d with note := { d.note with pipe := [on_] }, alloc := { d.alloc with queue := [7, 9], tag := 0xFFFF } }

/-- `AllocatorServesTheFront`, clauses 1, 4. -/
theorem witness_AllocatorServesTheFront_a :
    let s : State := St (ad 16 [(0, 5), (16, 6), (32, 6)] 1)
    let q : Nat := 7
    let rest : List Nat := [9]
    let e : PipeEnt := on_
    let vs : List Nat := [16]
    let d := s.dev
    let p := e.ev.part
    let u := max 1 (d.fgAlloc (NOTE_PART_MODE_UNISON p))
    let front : Prop := d.running = true ∧ d.alloc.queue = q :: rest ∧ d.entry q = some e ∧ e.ev.seq = q ∧
      (d.isHead && d.hasMembers) = false ∧ d.fgAlloc (NOTE_PART_MODE_VOICING p) = 0 ∧ d.fgAlloc (NOTE_PART_STEAL_RETRIG p) = 0
    front ∧ d.findLeaves p u false = some (vs, false) ∧ d.hears = true := by decide +kernel

/-- `AllocatorServesTheFront`, clause 2. -/
theorem witness_AllocatorServesTheFront_b :
    let s : State := St (ad 16 [(0, 5), (16, 6), (32, 6)] 4)
    let q : Nat := 7
    let rest : List Nat := [9]
    let e : PipeEnt := on_
    let d := s.dev
    let p := e.ev.part
    let u := max 1 (d.fgAlloc (NOTE_PART_MODE_UNISON p))
    let front : Prop := d.running = true ∧ d.alloc.queue = q :: rest ∧ d.entry q = some e ∧ e.ev.seq = q ∧
      (d.isHead && d.hasMembers) = false ∧ d.fgAlloc (NOTE_PART_MODE_VOICING p) = 0 ∧ d.fgAlloc (NOTE_PART_STEAL_RETRIG p) = 0
    front ∧ d.findLeaves p u false = none := by decide +kernel

/-- `AllocatorServesTheFront`, clause 3. -/
theorem witness_AllocatorServesTheFront_c :
    let s : State := St Dev.reset
    let d := s.dev
    d.alloc.queue = [] := by decide +kernel

end Alloc

namespace Spn

/-! ### Spindles -/

def vo : Voice := { Voice.free with cls := 3, part := 31 }
def sd (n c : Nat) (sp : Spn) (x : Ctx) (fl : List (Fld × Nat) := []) : Dev :=
  let d := run ([(ALLOC_STAT_NUM, 256)] ++ fl)
  { ((d.setSpn n sp).setCtx (18 * n + c) x) with voices := tput Voice.free [] (16 * n + c % 16) vo }
def spx : Spn := { Spn.idle with rom := false, cycles := 7 }
def ck (s : Word) : Ckpt := { sample := s, regs := { Regs.zero with pc := 5 }, x := [], y := [], blk := [], voice := vo }
def tr (d : Dev) (l : List (Nat × Nat × Word × Nat)) : Dev := { d with eng := { d.eng with transit := l } }
def cb (d : Dev) (c : Word) : Dev := { d with eng := { d.eng with c := c } }

/-- `ContextSwitchBeginsSample`, clause 1. -/
theorem witness_ContextSwitchBeginsSample_a :
    let s : State := (St (sd 15 17 { spx with susp := some 17 } Ctx.idle))
    let n : Nat := 15
    let c : Nat := 17
    let d := s.dev
    let sp := d.spn n
    let open_ : Prop := d.running = true ∧ n < 16 ∧ d.on (SPN_STATUS_TRAPPED n) = false ∧ sp.cur = none
    open_ ∧ c < 18 ∧ sp.susp = some c := by decide +kernel

/-- `ContextSwitchBeginsSample`, clause 2. -/
theorem witness_ContextSwitchBeginsSample_b :
    let s : State := St (sd 15 15 spx Ctx.idle [(SPN_PROG_ENTRY 15, 2047)])
    let n : Nat := 15
    let c : Nat := 15
    let d := s.dev
    let i := 18 * n + c
    let x := d.ctx i
    let sp := d.spn n
    let open_ : Prop := d.running = true ∧ n < 16 ∧ d.on (SPN_STATUS_TRAPPED n) = false ∧ sp.cur = none
    open_ ∧ c < 16 ∧ sp.susp ≠ some c ∧ sp.rom = false ∧ (d.noteOf i).cls ≠ clsFree ∧ x.roll = none ∧
    d.mayRender i x.next = true ∧ (∀ e ∈ x.log, e.sample ≠ x.next) := by decide +kernel

/-- `ContextSwitchBeginsSample`, clause 3. -/
theorem witness_ContextSwitchBeginsSample_c :
    let s : State := (St (sd 0 3 { spx with cur := some 3} {Ctx.idle with next := 3} ))
    let n : Nat := 0
    let d := s.dev
    let sp := d.spn n
    let open_ : Prop := d.running = true ∧ n < 16 ∧ d.on (SPN_STATUS_TRAPPED n) = false ∧ sp.cur = none
    ¬open_ := by decide +kernel

/-- `ContextSwitchBeginsSample`, clause 4. -/
theorem witness_ContextSwitchBeginsSample_d :
    let s : State := (St (sd 0 3 spx {Ctx.idle with next := 0x40000000} ))
    let n : Nat := 0
    let c : Nat := 3
    let d := s.dev
    let i := 18 * n + c
    let x := d.ctx i
    let sp := d.spn n
    c < 16 ∧ sp.susp ≠ some c ∧ (d.noteOf i).cls ≠ clsFree ∧ later x.next (d.frontier (d.noteOf i).part) > 0 := by decide +kernel

/-- `RollbackAndSpindleLoad` (RollbackRestoresCheckpoint), clause 1. -/
theorem witness_RollbackRestoresCheckpoint_a :
    let s : State := (St (tr (sd 0 3 spx {Ctx.idle with next := 1, ckpts := [ck 0, ck 0xFFFFFFF0]} ) [(0,4,2,8),(0,3,2,9)]))
    let n : Nat := 0
    let c : Nat := 3
    let sample : Word := 2
    let seq : Nat := 9
    let k : Ckpt := ck 0
    let d := s.dev
    let i := 18 * n + c
    let x := d.ctx i
    let found : Prop := (d.eng.transit.find? fun o => o.1 == n && o.2.1 == c && o.2.2.1 == sample) = some (n, c, sample, seq)
    let ok : Prop := d.running = true ∧ n < 16 ∧ c < 16 ∧ d.on (SPN_STATUS_TRAPPED n) = false
    found ∧ ok ∧ (d.noteOf i).cls ≠ clsFree ∧ x.roll = none ∧ d.ckptFor i sample = some k ∧ (d.spn n).cur = none ∧
    (d.spn n).susp = none ∧ d.forecast n c sample (x.next - 1) false = true := by decide +kernel

/-- `RollbackAndSpindleLoad` (RollbackRestoresCheckpoint), clause 3. -/
theorem witness_RollbackRestoresCheckpoint_b :
    let s : State := (St (tr (sd 0 3 spx {Ctx.idle with next := 3, ckpts := [ck 0, ck 16]} [(SPN_STATUS_TRAPPED 0, 1)]) [(0,4,2,8),(0,3,2,9)]))
    let n : Nat := 0
    let c : Nat := 3
    let sample : Word := 2
    let seq : Nat := 9
    let d := s.dev
    let found : Prop := (d.eng.transit.find? fun o => o.1 == n && o.2.1 == c && o.2.2.1 == sample) = some (n, c, sample, seq)
    found ∧ d.running = true ∧ d.on (SPN_STATUS_TRAPPED n) = true := by decide +kernel

/-- `RollbackAndSpindleLoad` (RollbackRestoresCheckpoint), clause 4. -/
theorem witness_RollbackRestoresCheckpoint_c :
    let s : State := (St (tr (sd 0 3 spx {Ctx.idle with next := 3, ckpts := [ck 0, ck 16]} [(SPN_STATUS_TRAPPED 0, 1)]) [(0,4,2,8),(0,2,2,9)]))
    let n : Nat := 0
    let c : Nat := 3
    let d := s.dev
    (∀ o ∈ d.eng.transit, ¬(o.1 = n ∧ o.2.1 = c)) := by decide +kernel

/-- `RollbackAndSpindleLoad` (RollbackRestoresCheckpoint), clause 2. -/
theorem witness_RollbackRestoresCheckpoint_2 :
    let s : State := (St (tr (sd 0 3 spx {Ctx.idle with next := 2, roll := some ⟨1, 5⟩, ckpts := [ck 0, ck 16]} ) [(0,4,2,8),(0,3,2,9)]))
    let n : Nat := 0
    let c : Nat := 3
    let sample : Word := 2
    let seq : Nat := 9
    let d := s.dev
    let i := 18 * n + c
    let x := d.ctx i
    let found : Prop := (d.eng.transit.find? fun o => o.1 == n && o.2.1 == c && o.2.2.1 == sample) = some (n, c, sample, seq)
    let ok : Prop := d.running = true ∧ n < 16 ∧ c < 16 ∧ d.on (SPN_STATUS_TRAPPED n) = false
    found ∧ ok ∧ ∃ r ∈ x.roll, later sample x.next ≥ 0 := by decide +kernel

/-- `RollbackAndSpindleLoad` (SpindleLoadCounters), clauses 1, 2. -/
theorem witness_SpindleLoadCounters :
    let s : State := (St (sd 15 3 {spx with cycles := 65536} Ctx.idle [(SPN_LOAD_PEAK 15, 65534)]))
    let n : Nat := 15
    let d := s.dev
    n < 16 ∧
    d.hears = true := by decide +kernel

/-- `VsBoundaryAdvancesC`, clause 1. -/
theorem witness_VsBoundaryAdvancesC_a :
    let s : State := St (run [])
    let d := s.dev
    d.running = true := by decide +kernel

/-- `VsBoundaryAdvancesC`, clause 2. -/
theorem witness_VsBoundaryAdvancesC_b :
    let s : State := St (Dev.inMode (Dv [(TMR_CFG_CLK 1, 2)]) .rest)
    let d := s.dev
    let warm : Prop := d.pwr.mode = .rest ∧ d.pwr.cold = false ∧ d.pwr.frozen = false
    warm := by decide +kernel

/-- `VsBoundaryAdvancesC`, clause 3. -/
theorem witness_VsBoundaryAdvancesC_c :
    let s : State := St Dev.reset
    let d := s.dev
    let warm : Prop := d.pwr.mode = .rest ∧ d.pwr.cold = false ∧ d.pwr.frozen = false
    d.running = false ∧ ¬warm := by decide +kernel

end Spn

namespace Bus

/-! ### The bus -/

/-- `AccessCodesOfAWrite`, clause 2. -/
theorem witness_AccessCodesOfAWrite_a :
    let f : FieldDesc := { (regFields 0x30008).headD ⟨31,0,.rw⟩ with hi := 1, lo := 1, acc := .rw }
    f.lo ≤ f.hi ∧ f.hi < 32 ∧ f.acc = .rw := by decide +kernel

/-- `AccessCodesOfAWrite`, clause 3. -/
theorem witness_AccessCodesOfAWrite_b :
    let f : FieldDesc := { (regFields 0x30008).headD ⟨31,0,.rw⟩ with hi := 0, lo := 0, acc := .lk }
    f.lo ≤ f.hi ∧ f.hi < 32 ∧ f.acc = .lk := by decide +kernel

/-- `AccessCodesOfAWrite`, clause 6. -/
theorem witness_AccessCodesOfAWrite_c :
    let f : FieldDesc := { (regFields 0x30008).headD ⟨31,0,.rw⟩ with hi := 31, lo := 0, acc := .cnt }
    f.lo ≤ f.hi ∧ f.hi < 32 ∧ f.acc = .cnt := by decide +kernel

/-- `AccessCodesOfAWrite`, clause 7. -/
theorem witness_AccessCodesOfAWrite_d :
    let f : FieldDesc := { (regFields 0x30008).headD ⟨31,0,.rw⟩ with hi := 31, lo := 31, acc := .ro }
    f.lo ≤ f.hi ∧ f.hi < 32 ∧ (f.acc = .ro ∨ f.acc = .wo ∨ f.acc = .st) := by decide +kernel

/-- `AccessCodesOfAWrite`, clause 1. -/
theorem witness_AccessCodesOfAWrite_1 :
    let f : FieldDesc := { (regFields 0x30008).headD ⟨31,0,.rw⟩ with hi := 31, lo := 31, acc := .w1c }
    f.lo ≤ f.hi ∧ f.hi < 32 ∧ ∃ i < 32, (i < f.lo ∨ f.hi < i) := by decide +kernel

/-- `AccessCodesOfAWrite`, clause 4. -/
theorem witness_AccessCodesOfAWrite_4 :
    let f : FieldDesc := { (regFields 0x30008).headD ⟨31,0,.rw⟩ with hi := 31, lo := 31, acc := .w1c }
    f.lo ≤ f.hi ∧ f.hi < 32 ∧ f.acc = .w1c ∧ ∃ i < 32, f.lo ≤ i ∧ i ≤ f.hi := by decide +kernel

/-- `AccessCodesOfAWrite`, clause 5. -/
theorem witness_AccessCodesOfAWrite_5 :
    let f : FieldDesc := { (regFields 0x30008).headD ⟨31,0,.rw⟩ with hi := 31, lo := 0, acc := .w1s }
    f.lo ≤ f.hi ∧ f.hi < 32 ∧ f.acc = .w1s ∧ ∃ i < 32, f.lo ≤ i ∧ i ≤ f.hi := by decide +kernel

/-- `RegisterWriteReachesItsTarget`, clause 1. -/
theorem witness_RegisterWriteReachesItsTarget_a :
    let s : State := St (run [])
    let addr : Word := 0x3000B
    let d := s.dev
    let a := addr.toNat / 4 * 4
    d.hears = true ∧ a / 0x10000 = 3 ∧ a ≠ rNOTE_STAT ∧ (regAt a).isSome = true := by decide +kernel

/-- `RegisterWriteReachesItsTarget`, clause 2. -/
theorem witness_RegisterWriteReachesItsTarget_b :
    let s : State := St (run [])
    let addr : Word := 0x14FFFC
    let d := s.dev
    let a := addr.toNat / 4 * 4
    d.hears = true ∧ a < 0x150000 ∧ (regAt a).isNone = true := by decide +kernel

/-- `RegisterWriteReachesItsTarget`, clause 3. -/
theorem witness_RegisterWriteReachesItsTarget_c :
    let s : State := St (run [])
    let addr : Word := 0x0400F000
    let d := s.dev
    let a := addr.toNat / 4 * 4
    let open_ : Prop := d.pwr.mode = .chuck ∨ d.pwr.mode = .service
    let space : Prop := 0x4000000 ≤ a ∧ a < 0x4400000
    let mailbox : Prop := space ∧ 0xF000 ≤ spnOfs a ∧ spnOfs a < 0x10000
    d.hears = true ∧ ((space ∧ spnOfs a < 0x28000 ∧ open_) ∨ mailbox) ∧ d.pwr.zeroFill = false := by decide +kernel

/-- `RegisterWriteReachesItsTarget`, clause 4. -/
theorem witness_RegisterWriteReachesItsTarget_d :
    let s : State := St (run [])
    let addr : Word := 0x04000000
    let d := s.dev
    let a := addr.toNat / 4 * 4
    let open_ : Prop := d.pwr.mode = .chuck ∨ d.pwr.mode = .service
    let space : Prop := 0x4000000 ≤ a ∧ a < 0x4400000
    let mailbox : Prop := space ∧ 0xF000 ≤ spnOfs a ∧ spnOfs a < 0x10000
    d.hears = true ∧ space ∧ ¬open_ ∧ ¬mailbox := by decide +kernel

/-- `RegisterWriteReachesItsTarget`, clause 5. -/
theorem witness_RegisterWriteReachesItsTarget_e :
    let s : State := St (run [(MEM_BANK_CUR 15, 6)])
    let addr : Word := 0x03FFFFFC
    let d := s.dev
    let a := addr.toNat / 4 * 4
    d.hears = true ∧ stockBase ≤ a ∧ a < 0x4000000 ∧ d.pwr.zeroFill = false ∧ d.bankCur (bankOf (a - stockBase)) = 6 := by decide +kernel

/-- `EventSourcesAreRaisedAndCleared` (RaisingAnEventSource), clauses 1, 4. -/
theorem witness_RaisingAnEventSource :
    let k : Nat := 63
    k < 64 ∧ fatalSource k = false ∧ countIdx k = none := by decide +kernel

/-- `EventSourcesAreRaisedAndCleared` (RaisingAnEventSource), clause 3. -/
theorem witness_RaisingAnEventSource_3 :
    let k : Nat := 63
    k < 64 ∧ fatalSource k = false ∧ ∃ j < 64, j ≠ k := by decide +kernel

/-- `EventSourcesAreRaisedAndCleared` (RaisingAnEventSource), clause 2. -/
theorem witness_RaisingAnEventSource_2 :
    let k : Nat := 60
    k < 64 ∧ fatalSource k = false ∧ ∃ i ∈ countIdx k, i < 64 := by decide +kernel
/-- `EventSourcesAreRaisedAndCleared` (ClearingEventFlags), clause 1. -/
theorem witness_ClearingEventFlags :
    let s : State := (St { run [(EVT_CTRL_HOLDOFF, 5)] [(rEVT_RAW 0, 0xFFFFFFFF), (rEVT_RAW 1, 0xFFFFFFFF)] with evt := { Dev.reset.evt with hold := [0,30], level := [52, 53] } })
    let h : Nat := 1
    let d := s.dev
    d.hears = true ∧ h < 2 := by decide +kernel

end Bus

namespace Mem

/-! ### Memory -/

def wn : List (Fld × Nat) := [(MEM_WIN_A_EN 255, 1), (MEM_WIN_A_BASE 255, 0x300000 - 4)]
def sc (a : Nat) (m : Mode := .run) : Dev := { Dev.inMode (Dv [(MEM_SCRUB_EN, 1), (MEM_STAT_PASSES, 65535)]) m with scrubAt := a }
def hw : Dev := { run [] with mem := [(hwBase - 1, 7), (hwBase, 5), (hwBase + 0xFFFF, 6)], fuses := { Dev.reset.fuses with lcs := 3, hash := [(0, beBytes 32 99)] } }

/-- `BankHandoverNeedsIdleBank`, clauses 1, 3. -/
theorem witness_BankHandoverNeedsIdleBank_a :
    let s : State := St (run wn)
    let k : Nat := 0
    let owner : Nat := 5
    let d := s.dev
    let chuck : Prop := d.pwr.mode = .chuck
    s.dev.hears = true ∧ k < 16 ∧ owner < 8 ∧ owner = 5 ∧ ¬chuck ∧ owner = d.bankCur k := by decide +kernel

/-- `BankHandoverNeedsIdleBank`, clauses 2, 7. -/
theorem witness_BankHandoverNeedsIdleBank_b :
    let s : State := St (Dev.inMode (Dv ([(MEM_BANK_CUR 1, 6)] ++ wn)) .chuck)
    let k : Nat := 1
    let owner : Nat := 0
    let d := s.dev
    let chuck : Prop := d.pwr.mode = .chuck
    s.dev.hears = true ∧ k < 16 ∧ owner < 8 ∧ owner ≠ 5 ∧ chuck ∧ d.bankCur k = 6 := by decide +kernel

/-- `BankHandoverNeedsIdleBank`, clause 4. -/
theorem witness_BankHandoverNeedsIdleBank_c :
    let s : State := St (run wn)
    let k : Nat := 0
    let owner : Nat := 7
    let d := s.dev
    let chuck : Prop := d.pwr.mode = .chuck
    s.dev.hears = true ∧ k < 16 ∧ owner < 8 ∧ owner ≠ 5 ∧ ¬chuck ∧ owner ≠ d.bankCur k ∧ d.bankIdle k = true := by decide +kernel

/-- `BankHandoverNeedsIdleBank`, clauses 5, 6. -/
theorem witness_BankHandoverNeedsIdleBank_d :
    let s : State := St (run ([(MEM_BANK_CUR 1, 0)] ++ wn))
    let k : Nat := 1
    let owner : Nat := 6
    let d := s.dev
    let chuck : Prop := d.pwr.mode = .chuck
    s.dev.hears = true ∧ k < 16 ∧ owner < 8 ∧ owner ≠ 5 ∧ ¬chuck ∧ owner ≠ d.bankCur k ∧ d.bankIdle k = false ∧
    d.bankCur k = 0 := by decide +kernel

/-- `ScrubberAndHeartwood` (ScrubberReadsNextWord), clause 1. -/
theorem witness_ScrubberReadsNextWord_a :
    let s : State := St (sc (stockSize - 8))
    let d := s.dev
    let on : Prop := d.on MEM_SCRUB_EN = true ∧ d.pwr.frozen = false ∧ (d.pwr.mode = .run ∨ (d.pwr.mode = .rest ∧ d.pwr.cold = false))
    on ∧ d.scrubAt < stockSize := by decide +kernel

/-- `ScrubberAndHeartwood` (ScrubberReadsNextWord), clause 2. -/
theorem witness_ScrubberReadsNextWord_b :
    let s : State := St (sc 0 .service)
    let d := s.dev
    let on : Prop := d.on MEM_SCRUB_EN = true ∧ d.pwr.frozen = false ∧ (d.pwr.mode = .run ∨ (d.pwr.mode = .rest ∧ d.pwr.cold = false))
    ¬on := by decide +kernel

/-- `ScrubberAndHeartwood` (HeartwoodIsWipedAndRefilled), clause 1. -/
theorem witness_HeartwoodIsWipedAndRefilled_a :
    let s : State := St hw
    let d := s.dev
    let powered : Prop := d.pwr.mode ≠ .shelf
    powered := by decide +kernel

/-- `ScrubberAndHeartwood` (HeartwoodIsWipedAndRefilled), clauses 2, 4. -/
theorem witness_HeartwoodIsWipedAndRefilled_b :
    let s : State := St (Dev.inMode hw .shelf)
    let high : Bool := false
    let d := s.dev
    let powered : Prop := d.pwr.mode ≠ .shelf
    ¬powered ∧ high = false := by decide +kernel

/-- `ScrubberAndHeartwood` (HeartwoodIsWipedAndRefilled), clause 3. -/
theorem witness_HeartwoodIsWipedAndRefilled_c :
    let s : State := St (hw.fp MEM_HW_WIPING 1)
    let high : Bool := true
    let d := s.dev
    high = true ∧ d.on MEM_HW_WIPING = true := by decide +kernel

end Mem

namespace Stage

/-! ### Staged change -/

def stg (d : Dev) (f : Stg → Stg) : Dev := { d with stg := f d.stg }
def stgd (d : Dev) (l : List (Nat × Word)) : Dev := { d with staged := l }

/-- `CheckAndCommitRefusals` (CheckJudgesTheSnapshot), clauses 1, 3. -/
theorem witness_CheckJudgesTheSnapshot_a :
    let s : State := St (stgd (run []) [(0x30100, 5)])
    let v : Word := 0x33
    let g := s.dev.stg
    s.dev.hears = true ∧ bitOf v 0 = true ∧ bitOf v 2 = false ∧ bitOf v 3 = false ∧ g.checking = false := by decide +kernel

/-- `CheckAndCommitRefusals` (CheckJudgesTheSnapshot), clause 2. -/
theorem witness_CheckJudgesTheSnapshot_b :
    let s : State := (St (stg (run []) fun g => {g with checking := true, snap := []}))
    let g := s.dev.stg
    g.checking = true ∧ g.thenCommit = false := by decide +kernel

/-- `CheckAndCommitRefusals` (CommitRefusals), clause 1. -/
theorem witness_CommitRefusals_a :
    let s : State := St (Dev.inMode (Dv []) .service)
    let v : Word := 0x02
    let d := s.dev
    let run : Prop := d.pwr.mode = .run
    d.hears = true ∧ bitOf v 1 = true ∧ bitOf v 0 = false ∧ bitOf v 2 = false ∧ bitOf v 3 = false ∧ ¬run := by decide +kernel

/-- `CheckAndCommitRefusals` (CommitRefusals), clause 2. -/
theorem witness_CommitRefusals_b :
    let s : State := St (run [])
    let v : Word := 0x02
    let d := s.dev
    let run : Prop := d.pwr.mode = .run
    let pass : Prop := d.fg STG_STATUS_RESULT = 1
    d.hears = true ∧ bitOf v 1 = true ∧ bitOf v 0 = false ∧ bitOf v 2 = false ∧ bitOf v 3 = false ∧ run ∧ ¬pass := by decide +kernel

/-- `CheckAndCommitRefusals` (CommitRefusals), clause 3. -/
theorem witness_CommitRefusals_c :
    let s : State := St (run [(STG_STATUS_RESULT, 1), (STG_STATUS_PENDING, 1)])
    let v : Word := 0x02
    let d := s.dev
    let run : Prop := d.pwr.mode = .run
    let pass : Prop := d.fg STG_STATUS_RESULT = 1
    let idle : Prop := d.on STG_STATUS_PENDING = false
    d.hears = true ∧ bitOf v 1 = true ∧ bitOf v 0 = false ∧ bitOf v 2 = false ∧ bitOf v 3 = false ∧ run ∧ pass ∧ ¬idle := by decide +kernel

/-- `CheckAndCommitRefusals` (CommitRefusals), clause 4. -/
theorem witness_CommitRefusals_d :
    let s : State := St (run [(STG_STATUS_RESULT, 1), (CBL_STAT_STATE, 4)])
    let v : Word := 0x02
    let d := s.dev
    let run : Prop := d.pwr.mode = .run
    let pass : Prop := d.fg STG_STATUS_RESULT = 1
    let idle : Prop := d.on STG_STATUS_PENDING = false
    let head : Prop := d.isHead = true
    d.hears = true ∧ bitOf v 1 = true ∧ bitOf v 0 = false ∧ bitOf v 2 = false ∧ bitOf v 3 = false ∧ run ∧ pass ∧ idle ∧ ¬head := by decide +kernel

/-- `CheckAndCommitRefusals` (CommitRefusals), clause 5. -/
theorem witness_CommitRefusals_e :
    let s : State := St (run [(STG_STATUS_RESULT, 1), (CBL_STAT_STATE, 1), (AGE_STAT_CLKSEQ, 1)])
    let v : Word := 0x02
    let d := s.dev
    let run : Prop := d.pwr.mode = .run
    let pass : Prop := d.fg STG_STATUS_RESULT = 1
    let idle : Prop := d.on STG_STATUS_PENDING = false
    let head : Prop := d.isHead = true
    let still : Prop := d.on AGE_STAT_CLKSEQ = false
    d.hears = true ∧ bitOf v 1 = true ∧ bitOf v 0 = false ∧ bitOf v 2 = false ∧ bitOf v 3 = false ∧ run ∧ pass ∧ idle ∧ head ∧
    ¬still := by decide +kernel

/-- `CheckAndCommitRefusals` (CommitRefusals), clause 6. -/
theorem witness_CommitRefusals_f :
    let s : State := St (run [(STG_STATUS_RESULT, 1), (CBL_STAT_STATE, 1)])
    let v : Word := 0x22
    let d := s.dev
    let run : Prop := d.pwr.mode = .run
    let pass : Prop := d.fg STG_STATUS_RESULT = 1
    let idle : Prop := d.on STG_STATUS_PENDING = false
    let head : Prop := d.isHead = true
    let still : Prop := d.on AGE_STAT_CLKSEQ = false
    let free : Prop := 2 ≤ fieldOf v 5 4
    d.hears = true ∧ bitOf v 1 = true ∧ bitOf v 0 = false ∧ bitOf v 2 = false ∧ bitOf v 3 = false ∧ run ∧ pass ∧ idle ∧ head ∧
    still ∧ free := by decide +kernel

/-- `CommitAppliesAtItsSample` (AcceptedCommitFillsBuffer), clause 1. -/
theorem witness_AcceptedCommitFillsBuffer :
    let s : State := (St (stg (run [(STG_STATUS_RESULT, 1), (CBL_STAT_STATE, 1)]) fun g => {g with snap := [(0x30100, 7)]}))
    let v : Word := 0xFFFFFFC2
    let d := s.dev
    d.hears = true ∧ bitOf v 1 = true ∧ bitOf v 0 = false ∧ bitOf v 2 = false ∧ bitOf v 3 = false ∧ fieldOf v 5 4 = 0 ∧
    d.pwr.mode = .run ∧ d.fg STG_STATUS_RESULT = 1 ∧ d.on STG_STATUS_PENDING = false ∧ d.isHead = true ∧
    d.on AGE_STAT_CLKSEQ = false ∧ d.cbl.census = [] := by decide +kernel

/-- `CommitAppliesAtItsSample`, clause 1. -/
theorem witness_CommitAppliesAtItsSample_a :
    let s : State := (St (stgd (stg (run [(STG_STATUS_CSTATE, 1), (STG_STATUS_PENDING, 1), (CBL_STAT_STATE, 1)]) fun g => {g with buffer := some [(rNOTE_PART_MAP 0, 7), (rNOTE_PART_MAP 1, 0xFFFFFFFF)], sample := 0xFFFFFFFF, since := [0x30120]}) [(0x30100, 5), (0x30120, 9)]))
    let set : List (Nat × Word) := [(rNOTE_PART_MAP 0, 7), (rNOTE_PART_MAP 1, 0xFFFFFFFF)]
    let d := s.dev
    let g := d.stg
    let state := d.fg STG_STATUS_CSTATE
    g.buffer = some set ∧ d.running = true ∧ later d.eng.c g.sample ≥ 0 ∧ (∀ m ∈ d.waiting 0, m.kind ≠ 0x20) ∧
    (state = 1 ∨ state = 3) := by decide +kernel

/-- `CommitAppliesAtItsSample`, clause 2. -/
theorem witness_CommitAppliesAtItsSample_b :
    let s : State := (St (stgd (stg (run [(STG_STATUS_CSTATE, 3), (STG_STATUS_PENDING, 1), (CBL_STAT_STATE, 1)]) fun g => {g with buffer := some [], sample := 1, since := [0x30120]}) [(0x30100, 5), (0x30120, 9)]))
    let set : List (Nat × Word) := []
    let d := s.dev
    let g := d.stg
    g.buffer = some set ∧ later d.eng.c g.sample < 0 := by decide +kernel

/-- `CommitAppliesAtItsSample` (StagingCopyAndDiscard), clauses 1, 4. -/
theorem witness_StagingCopyAndDiscard_a :
    let s : State := St (stgd (run []) [(0x30100, 5)])
    let v : Word := 4
    let addr : Word := 0x30100
    let d := s.dev
    let a := addr.toNat
    d.hears = true ∧ bitOf v 2 = true ∧ isStaged a = true ∧ d.voiceAbsent a = false ∧ d.pwr.mode ≠ .chuck := by decide +kernel

/-- `CommitAppliesAtItsSample` (StagingCopyAndDiscard), clause 2. -/
theorem witness_StagingCopyAndDiscard_b :
    let s : State := (St (stg (stgd (run [(STG_STATUS_PENDING, 1), (CBL_STAT_STATE, 1), (STG_STATUS_CSTATE, 1)]) [(0x30100, 5)]) fun g => {g with buffer := some [], sample := 1}))
    let v : Word := 0xFFFFFFF8
    let d := s.dev
    d.hears = true ∧ bitOf v 3 = true ∧ bitOf v 2 = false ∧ bitOf v 1 = false ∧ bitOf v 0 = false ∧
    d.on STG_STATUS_PENDING = true ∧ d.isHead = true ∧ d.fg STG_STATUS_CSTATE = 1 ∧ d.stg.buffer.isSome = true ∧
    later d.stg.sample d.eng.c > 0 := by decide +kernel

/-- `CommitAppliesAtItsSample` (StagingCopyAndDiscard), clause 3. -/
theorem witness_StagingCopyAndDiscard_c :
    let s : State := St (stgd (run [(STG_STATUS_BUSY, 1)]) [(0x30100, 5)])
    let v : Word := 0xFFFFFFF8
    let d := s.dev
    d.hears = true ∧ bitOf v 3 = true ∧ bitOf v 2 = false ∧ bitOf v 1 = false ∧ bitOf v 0 = false ∧
    (d.on STG_STATUS_PENDING = false ∨ d.isHead = false) := by decide +kernel

/-- `CommitAppliesAtItsSample` (StagingCopyAndDiscard), clause 5. -/
theorem witness_StagingCopyAndDiscard_d :
    let s : State := St (run [])
    let addr : Word := 0x3000C
    let d := s.dev
    let a := addr.toNat
    d.hears = true ∧ isStaged a = false := by decide +kernel

end Stage

namespace Tmr

/-! ### Timers -/

def tm (d : Dev) (n : Nat) (f : Tmr → Tmr) : Dev := d.setTmr n (f (d.tmr n))
def ed (d : Dev) (l : List (Nat × Word × Nat × Bool)) : Dev := { d with cv := { d.cv with edges := l } }

/-- `TimersAndGatePins` (TimersStartStopMatchWrap), clauses 1, 2, 4, 5. -/
theorem witness_TimersStartStopMatchWrap_a :
    let s : State := (St (tm (run [(TMR_CFG_MODE 15, 1)] [(rTMR_PHASE 15, 7), (rTMR_CMP 15, 5), (rTMR_PER 15, 9)]) 15 fun x => {x with run := true, perNew := true, cmpNew := true}))
    let n : Nat := 15
    let x := s.dev.tmr n
    let runs (k : Nat) : Prop := k < 16 ∧ (s.dev.tmr k).run = true ∧ s.dev.tmrClock k = true
    s.dev.hears = true ∧ s.dev.alive = true ∧ runs n ∧ x.cmp.toNat ≤ x.per.toNat ∧ s.dev.pwr.mode ≠ .rest := by decide +kernel

/-- `TimersAndGatePins` (TimersStartStopMatchWrap), clauses 3, 6. -/
theorem witness_TimersStartStopMatchWrap_b :
    let s : State := St Dev.reset
    let n : Nat := 16
    let runs (k : Nat) : Prop := k < 16 ∧ (s.dev.tmr k).run = true ∧ s.dev.tmrClock k = true
    s.dev.alive = false ∧ ¬runs n := by decide +kernel

/-- `TimersAndGatePins` (GateEdgesReachTimerPins), clause 4. -/
theorem witness_GateEdgesReachTimerPins_a :
    let s : State := (St (ed (tm (run [(TMR_CFG_MODE 15, 3)]) 15 fun x => {x with run := true}) [(0, 1, 2, false), (15, 0xFFFFFFF0, 2, true)]))
    let n : Nat := 15
    let x := s.dev.tmr n
    x.pulse = 0 := by decide +kernel

/-- `TimersAndGatePins` (GateEdgesReachTimerPins), clauses 2, 3. -/
theorem witness_GateEdgesReachTimerPins_b :
    let s : State := (St (ed (tm (run [(TMR_CFG_MODE 15, 4)]) 14 fun x => {x with run := true, cmp := 7, pulse := 2}) [(0, 1, 2, false), (15, 0xFFFFFFF0, 2, true)]))
    let n : Nat := 14
    let x := s.dev.tmr n
    (∀ e ∈ s.dev.cv.edges, e.1 ≠ n) ∧ x.pulse ≠ 0 ∧ s.dev.tmrClock n = true := by decide +kernel

/-- `TimersAndGatePins` (GateEdgesReachTimerPins), clause 1. -/
theorem witness_GateEdgesReachTimerPins_1 :
    let s : State := (St (ed (tm (run [(TMR_CFG_MODE 15, 3)]) 15 fun x => {x with run := true}) [(0, 1, 2, false), (15, 0xFFFFFFF0, 2, true)]))
    let n : Nat := 15
    s.dev.running = true ∧ ∃ e ∈ s.dev.cv.edges.find? fun e => e.1 == n, e.1 = n ∧ later e.2.1 s.dev.outPoint ≤ 0 := by decide +kernel

/-- `TimersAndGatePins` (CapturesAndStuckInputs), clauses 1, 4, 5. -/
theorem witness_CapturesAndStuckInputs_a :
    let s : State := (St (tm (run [(TMR_CFG_MODE 15, 5), (TMR_CAPCFG_PRESC 15, 3), (TMR_CAPCFG_TOUT 15, 1), (TMR_STAT_NEW 15, 1)]) 15 fun x => {x with run := true, edges := 3}))
    let n : Nat := 15
    let rising : Bool := true
    let x := s.dev.tmr n
    let listens : Prop := n < 16 ∧ x.run = true ∧ s.dev.tmrClock n = true ∧ s.dev.fg (TMR_CFG_MODE n) = 5
    let e := s.dev.fg (TMR_CAPCFG_EDGE n)
    let counts : Prop := e = 2 ∨ (e = 0 ∧ rising = true) ∨ (e = 1 ∧ rising = false)
    let last : Prop := (x.edges + 1) % (s.dev.fg (TMR_CAPCFG_PRESC n) + 1) = 0
    listens ∧ counts ∧ last ∧ s.dev.hears = true ∧ n < 16 ∧ s.dev.fg (TMR_CAPCFG_TOUT n) ≠ 0 := by decide +kernel

/-- `TimersAndGatePins` (CapturesAndStuckInputs), clauses 2, 6. -/
theorem witness_CapturesAndStuckInputs_b :
    let s : State := (St (tm (run [(TMR_CFG_MODE 15, 5), (TMR_CAPCFG_PRESC 15, 3), (TMR_CAPCFG_EDGE 15, 2)]) 15 fun x => {x with run := true, edges := 2}))
    let n : Nat := 15
    let rising : Bool := false
    let x := s.dev.tmr n
    let listens : Prop := n < 16 ∧ x.run = true ∧ s.dev.tmrClock n = true ∧ s.dev.fg (TMR_CFG_MODE n) = 5
    let e := s.dev.fg (TMR_CAPCFG_EDGE n)
    let counts : Prop := e = 2 ∨ (e = 0 ∧ rising = true) ∨ (e = 1 ∧ rising = false)
    let last : Prop := (x.edges + 1) % (s.dev.fg (TMR_CAPCFG_PRESC n) + 1) = 0
    listens ∧ counts ∧ ¬last ∧ s.dev.fg (TMR_CAPCFG_TOUT n) = 0 := by decide +kernel

/-- `TimersAndGatePins` (CapturesAndStuckInputs), clause 3. -/
theorem witness_CapturesAndStuckInputs_c :
    let s : State := (St (tm (run [(TMR_CFG_MODE 15, 5), (TMR_CAPCFG_PRESC 15, 3), (TMR_CAPCFG_EDGE 15, 0)]) 15 fun x => {x with run := true, edges := 2}))
    let n : Nat := 15
    let rising : Bool := false
    let x := s.dev.tmr n
    let listens : Prop := n < 16 ∧ x.run = true ∧ s.dev.tmrClock n = true ∧ s.dev.fg (TMR_CFG_MODE n) = 5
    let e := s.dev.fg (TMR_CAPCFG_EDGE n)
    let counts : Prop := e = 2 ∨ (e = 0 ∧ rising = true) ∨ (e = 1 ∧ rising = false)
    ¬(listens ∧ (e = 3 ∨ counts)) := by decide +kernel

end Tmr

namespace Boot

/-! ### Boot -/

def pw (d : Dev) (f : Pwr → Pwr) : Dev := { d with pwr := f d.pwr }
def envOk : BootEnv := { steps := 1, flash := { sfdpOk := true, jedec := 0x123456, sectors := 4096, octal := true, trainOk := true, eccst := false }, clocksOk := true, avs := ⟨true, 800, 0, 0⟩, senses := [], readOk := true, stockBad := false }
def bl (fl : List (Fld × Nat) := []) : Dev := Dev.inMode (Dv fl) .blank
def bt (st : BootStep) (slot : Nat := 1) (fb := false) : Boot := { step := st, por := true, slot := slot, fellBack := fb, wipes := 0 }
def ch (st : BootStep) (fb := false) (fl : List (Fld × Nat) := []) : Dev := pw (Dev.inMode (Dv ([(NVJ_FLASH_MODE, 2), (NVJ_FLASH_SECTORS, 4096)] ++ fl)) .chuck) fun p => { p with boot := some (bt st 1 fb) }
def img1 (d : Dev) : Dev := { withTable d with flash := (withTable d).flash ++ imgTable 0x10000, fuses := { d.fuses with hash := keyFuse } }
def alv (n : Nat) (c : Nat) : Dev := let d := withTable (run [(STG_BOOT_SLOT, n), (STG_BOOT_CONF, c)]); { d with stg := { d.stg with confirmSec := 5 } }
def rg (d : Dev) (l : List (Nat × Word)) : Dev := l.foldl (fun d p => d.setReg p.1 p.2) d

/-- `BootStepsInOrder` (BlankAdvances), clause 1. -/
theorem witness_BlankAdvances_a :
    let s : State := St (bl [(SYS_STRAP_BOOTSEL, 2)])
    let env : BootEnv := {envOk with steps := 0}
    let p := s.dev.pwr
    let ready : Prop := p.mode = .blank ∧ p.sampled = true ∧ p.zeroFill = false ∧ p.resetLow = false
    let svc : Prop := s.dev.on SYS_STRAP_SVC = true
    let hosted : Prop := s.dev.fg SYS_STRAP_BOOTSEL % 2 = 1
    ready ∧ ¬svc ∧ ¬hosted ∧ env.steps = 0 := by decide +kernel

/-- `BootStepsInOrder` (BlankAdvances), clause 2. -/
theorem witness_BlankAdvances_b :
    let s : State := St (bl [(SYS_STRAP_SVC, 1), (MEM_BANK_CUR 3, 7)])
    let p := s.dev.pwr
    let ready : Prop := p.mode = .blank ∧ p.sampled = true ∧ p.zeroFill = false ∧ p.resetLow = false
    let svc : Prop := s.dev.on SYS_STRAP_SVC = true
    ready ∧ svc := by decide +kernel

/-- `BootStepsInOrder` (BlankAdvances), clause 3. -/
theorem witness_BlankAdvances_c :
    let s : State := St (bl [(SYS_STRAP_BOOTSEL, 1)])
    let p := s.dev.pwr
    let ready : Prop := p.mode = .blank ∧ p.sampled = true ∧ p.zeroFill = false ∧ p.resetLow = false
    let svc : Prop := s.dev.on SYS_STRAP_SVC = true
    let hosted : Prop := s.dev.fg SYS_STRAP_BOOTSEL % 2 = 1
    ready ∧ ¬svc ∧ hosted := by decide +kernel

/-- `BootStepsInOrder` (BlankAdvances), clause 4. -/
theorem witness_BlankAdvances_d :
    let s : State := (St (pw (bl [(SYS_STRAP_BOOTSEL, 1)]) fun p => {p with resetLow := true}))
    let p := s.dev.pwr
    let ready : Prop := p.mode = .blank ∧ p.sampled = true ∧ p.zeroFill = false ∧ p.resetLow = false
    p.mode ≠ .chuck ∧ ¬ready := by decide +kernel

/-- `BootStepsInOrder`, clause 1. -/
theorem witness_BootStepsInOrder_a :
    let s : State := St (ch .clocks)
    let env : BootEnv := envOk
    let b : Boot := (ch .clocks).pwr.boot.getD (bt .clocks)
    let d := s.dev
    d.pwr.mode = .chuck ∧ d.pwr.boot = some b ∧ b.wipes = 0 ∧ env.steps = 1 ∧ env.stockBad = false ∧ b.step = .clocks ∧
    env.clocksOk = true := by decide +kernel

/-- `BootStepsInOrder`, clause 2. -/
theorem witness_BootStepsInOrder_b :
    let s : State := St (ch .clocks)
    let env : BootEnv := {envOk with clocksOk := false}
    let b : Boot := (ch .clocks).pwr.boot.getD (bt .clocks)
    let d := s.dev
    d.pwr.mode = .chuck ∧ d.pwr.boot = some b ∧ b.wipes = 0 ∧ env.steps = 1 ∧ env.stockBad = false ∧ b.step = .clocks ∧
    env.clocksOk = false := by decide +kernel

/-- `BootStepsInOrder`, clause 3. -/
theorem witness_BootStepsInOrder_c :
    let s : State := St (ch .probe)
    let env : BootEnv := envOk
    let b : Boot := (ch .probe).pwr.boot.getD (bt .clocks)
    let d := s.dev
    d.pwr.mode = .chuck ∧ d.pwr.boot = some b ∧ b.wipes = 0 ∧ env.steps = 1 ∧ env.stockBad = false ∧ b.step = .probe ∧
    FlashIdUsable env.flash = true := by decide +kernel

/-- `BootStepsInOrder`, clause 4. -/
theorem witness_BootStepsInOrder_d :
    let s : State := St (ch .probe false [(STG_BOOT_FAIL1, 5)])
    let env : BootEnv := {envOk with flash := {envOk.flash with sectors := 511}}
    let b : Boot := (ch .probe false [(STG_BOOT_FAIL1, 5)]).pwr.boot.getD (bt .clocks)
    let d := s.dev
    d.pwr.mode = .chuck ∧ d.pwr.boot = some b ∧ b.wipes = 0 ∧ env.steps = 1 ∧ env.stockBad = false ∧ b.step = .probe ∧
    FlashIdUsable env.flash = false := by decide +kernel

/-- `BootStepsInOrder`, clause 5. -/
theorem witness_BootStepsInOrder_e :
    let s : State := St (withTable (ch .ptable))
    let env : BootEnv := envOk
    let b : Boot := (withTable (ch .ptable)).pwr.boot.getD (bt .clocks)
    let d := s.dev
    d.pwr.mode = .chuck ∧ d.pwr.boot = some b ∧ b.wipes = 0 ∧ env.steps = 1 ∧ env.stockBad = false ∧ b.step = .ptable ∧
    env.readOk = true ∧ tableCode d.tableBytes d.flashSectors = 0 := by decide +kernel

/-- `BootStepsInOrder`, clause 6. -/
theorem witness_BootStepsInOrder_f :
    let s : State := St (ch .ptable)
    let env : BootEnv := envOk
    let b : Boot := (ch .ptable).pwr.boot.getD (bt .clocks)
    let d := s.dev
    d.pwr.mode = .chuck ∧ d.pwr.boot = some b ∧ b.wipes = 0 ∧ env.steps = 1 ∧ env.stockBad = false ∧ b.step = .ptable ∧
    env.readOk = true ∧ tableCode d.tableBytes d.flashSectors ≠ 0 := by decide +kernel

theorem slot_head : (img1 (ch .header)).slotHead 1 = imgH := by
  have hb : (img1 (ch .header)).slotBase 1 = 0x10000 := by decide +kernel
  have h := img_read (withTable (ch .header)).flash 0x10000 0 0x800 (by decide +kernel) (by omega)
  rw [Dev.slotHead, hb]
  simpa [Dev.fbs, img1, imgH] using h

theorem slot_code : (img1 (ch .header)).headerCode imgH (((img1 (ch .header)).region 1).elim 0 fun r => (r.2 - 1) * 0x10000) = 0 :=
  img_header _ _ (by decide +kernel) rfl rfl rfl

/-- `BootStepsInOrder`, clause 7. -/
theorem witness_BootStepsInOrder_g :
    let s : State := St (img1 (ch .header))
    let env : BootEnv := envOk
    let b : Boot := (img1 (ch .header)).pwr.boot.getD (bt .clocks)
    let d := s.dev
    let head := d.slotHead b.slot
    let hcode := d.headerCode head ((d.region b.slot).elim 0 fun r => (r.2 - 1) * 0x10000)
    d.pwr.mode = .chuck ∧ d.pwr.boot = some b ∧ b.wipes = 0 ∧ env.steps = 1 ∧ env.stockBad = false ∧ b.step = .header ∧
    env.readOk = true ∧ hcode = 0 ∧ sectionCode head = 0 := by
  refine ⟨by decide +kernel, by decide +kernel, by decide +kernel, rfl, rfl, by decide +kernel, rfl, ?_, ?_⟩
  · show (img1 (ch .header)).headerCode ((img1 (ch .header)).slotHead 1) _ = 0
    rw [slot_head]
    exact slot_code
  · show sectionCode ((img1 (ch .header)).slotHead 1) = 0
    rw [slot_head]
    exact img_sectionCode

/-- `BootStepsInOrder`, clause 8. -/
theorem witness_BootStepsInOrder_h :
    let s : State := St (withTable (ch .header))
    let env : BootEnv := envOk
    let b : Boot := (withTable (ch .header)).pwr.boot.getD (bt .clocks)
    let d := s.dev
    let head := d.slotHead b.slot
    let hcode := d.headerCode head ((d.region b.slot).elim 0 fun r => (r.2 - 1) * 0x10000)
    let other : Prop := b.fellBack = false ∧ (d.chooseSlot (some b.slot)).isSome = true
    d.pwr.mode = .chuck ∧ d.pwr.boot = some b ∧ b.wipes = 0 ∧ env.steps = 1 ∧ env.stockBad = false ∧ b.step = .header ∧
    env.readOk = true ∧ hcode ≠ 0 ∧ ¬other := by decide +kernel

/-- `BootStepsInOrder`, clause 9. -/
theorem witness_BootStepsInOrder_i :
    let s : State := (St {withTable (ch .header) with flash := flashAt (withTable (ch .header)).flash (8*0x10000) (leBytes 4 0x4C4F4144 ++ leBytes 4 0x434F4E46)})
    let env : BootEnv := envOk
    let b : Boot := (({withTable (ch .header) with flash := flashAt (withTable (ch .header)).flash (8*0x10000) (leBytes 4 0x4C4F4144 ++ leBytes 4 0x434F4E46)}).pwr.boot.getD (bt .clocks))
    let d := s.dev
    let head := d.slotHead b.slot
    let hcode := d.headerCode head ((d.region b.slot).elim 0 fun r => (r.2 - 1) * 0x10000)
    let other : Prop := b.fellBack = false ∧ (d.chooseSlot (some b.slot)).isSome = true
    d.pwr.mode = .chuck ∧ d.pwr.boot = some b ∧ b.wipes = 0 ∧ env.steps = 1 ∧ env.stockBad = false ∧ b.step = .header ∧
    env.readOk = true ∧ hcode ≠ 0 ∧ other ∧ d.fg STG_BOOT_FAIL1 = 0 := by decide +kernel

/-- `BootStepsInOrder`, clause 10. -/
theorem witness_BootStepsInOrder_j :
    let s : State := St (withTable (ch .check))
    let env : BootEnv := envOk
    let b : Boot := (withTable (ch .check)).pwr.boot.getD (bt .clocks)
    let d := s.dev
    d.pwr.mode = .chuck ∧ d.pwr.boot = some b ∧ b.wipes = 0 ∧ env.steps = 1 ∧ env.stockBad = false ∧ b.step = .check ∧
    env.readOk = true ∧ (d.checkSet [] (d.voicesAt d.age.fstart) d.age.fstart).isNone = true := by decide +kernel

/-- `BootStepsInOrder`, clause 11. -/
theorem witness_BootStepsInOrder_k :
    let s : State := St (rg (withTable (ch .check true)) [(rNOTE_PART_MAP 31, 0x80000000), (rNOTE_PART_ALLOC 31, 0xFF)])
    let env : BootEnv := envOk
    let b : Boot := (rg (withTable (ch .check true)) [(rNOTE_PART_MAP 31, 0x80000000), (rNOTE_PART_ALLOC 31, 0xFF)]).pwr.boot.getD (bt .clocks)
    let d := s.dev
    let other : Prop := b.fellBack = false ∧ (d.chooseSlot (some b.slot)).isSome = true
    d.pwr.mode = .chuck ∧ d.pwr.boot = some b ∧ b.wipes = 0 ∧ env.steps = 1 ∧ env.stockBad = false ∧ b.step = .check ∧
    env.readOk = true ∧ (d.checkSet [] (d.voicesAt d.age.fstart) d.age.fstart).isSome = true ∧ ¬other := by decide +kernel

/-- `BootEndsInRun`, clauses 1, 3. -/
theorem witness_BootEndsInRun_a :
    let s : State := St (withTable (ch .start))
    let env : BootEnv := envOk
    let b : Boot := bt .start
    let d := s.dev
    let due : Prop := d.alive = true ∧ d.stg.fatalSeen = false ∧ d.stg.confirmSec ≠ 0xFFFF ∧ d.on STG_BOOT_CONF = false
    d.pwr.mode = .chuck ∧ d.pwr.boot = some b ∧ b.wipes = 0 ∧ b.step = .start ∧ env.steps = 1 ∧ env.readOk = true ∧ ¬due := by decide +kernel

/-- `BootEndsInRun`, clause 2. -/
theorem witness_BootEndsInRun_b :
    let s : State := St (alv 2 0)
    let d := s.dev
    let slot := d.fg STG_BOOT_SLOT
    let due : Prop := d.alive = true ∧ d.stg.fatalSeen = false ∧ d.stg.confirmSec ≠ 0xFFFF ∧ d.on STG_BOOT_CONF = false
    due ∧ (slot = 1 ∨ slot = 2) := by decide +kernel

end Boot

namespace Modes1

/-! ### Resets -/

def pw (d : Dev) (f : Pwr → Pwr) : Dev := { d with pwr := f d.pwr }
def st0 : Straps := { bootsel0 := true, bootsel1 := false, svc := true, head := false }

/-- `ResetsEnterBlank`, clauses 1, 2, 5. -/
theorem witness_ResetsEnterBlank_a :
    let s : State := St (run [])
    let lost : Bool := false
    let v : Word := 0xC1A50001
    s.dev.pwr.mode ≠ .shelf ∧ fieldOf v 31 16 = 0xC1A5 ∧ bitOf v 0 = true ∧
    (s.dev.pwr.mode ≠ .shelf ∨ s.dev.pwr.pwrEn = true ∨ lost = true) := by decide +kernel

/-- `ResetsEnterBlank`, clauses 3, 4. -/
theorem witness_ResetsEnterBlank_b :
    let s : State := (St (pw (Dev.inMode (Dv []) .shelf) fun p => {p with pwrEn := false}))
    let v : Word := 0xC1A40001
    s.dev.pwr.mode = .shelf ∧ fieldOf v 31 16 ≠ 0xC1A5 := by decide +kernel

/-- `ResetsEnterBlank`, clauses 6, 7. -/
theorem witness_ResetsEnterBlank_c :
    let s : State := (St (pw Dev.reset fun p => {p with resetLow := true}))
    s.dev.pwr.resetLow = true ∧ s.dev.pwr.mode ≠ .shelf ∧ s.dev.pwr.mode = .blank ∧ s.dev.pwr.zeroFill = true ∧
    s.dev.pwr.pend = none := by decide +kernel

end Modes1

namespace Modes2

/-! ### Mode requests -/

def pw (d : Dev) (f : Pwr → Pwr) : Dev := { d with pwr := f d.pwr }
def hs (f : Pwr → Pwr := id) : Dev := pw (Dev.inMode (Dv [(SYS_STRAP_BOOTSEL, 3)]) .blank) f

/-- `ModeRequests`, clauses 1, 2, 3, 6, 12, 14, 16, 17. -/
theorem witness_ModeRequests_a :
    let s : State := St (run [(SYS_MODE_ILL_CNT, 255)])
    let w : ModeWrite := ⟨true, false⟩
    let p := s.dev.pwr
    let joined : Prop := ∃ k, k < 3 ∧ (s.dev.lport k).joined = true
    let hosted : Prop := p.mode = .blank ∧ s.dev.fg SYS_STRAP_BOOTSEL % 2 = 1 ∧ s.dev.on SYS_STRAP_SVC = false
    let ready : Prop := p.sampled = true ∧ p.zeroFill = false
    let runs : Prop := p.mode = .run ∨ p.mode = .rest
    s.dev.hears = true ∧ p.frozen = false ∧ p.shelf = .no ∧ ¬hosted ∧ p.mode ≠ .rest ∧
    (p.mode ≠ .run ∨ (w.depth = true ∧ (s.dev.on SYS_CLKSTAT_XO32_OK = false ∨ joined))) ∧
    (p.mode = .rest ∨ (p.mode = .run ∧ s.dev.restOk = true)) ∧ (runs ∨ (hosted ∧ ready)) ∧
    p.pend = none := by decide +kernel

/-- `ModeRequests`, clauses 4, 7. -/
theorem witness_ModeRequests_b :
    let s : State := St hs
    let p := s.dev.pwr
    let hosted : Prop := p.mode = .blank ∧ s.dev.fg SYS_STRAP_BOOTSEL % 2 = 1 ∧ s.dev.on SYS_STRAP_SVC = false
    let ready : Prop := p.sampled = true ∧ p.zeroFill = false
    let runs : Prop := p.mode = .run ∨ p.mode = .rest
    s.dev.hears = true ∧ p.frozen = false ∧ p.shelf = .no ∧ ¬runs ∧ hosted ∧ ready := by decide +kernel

/-- `ModeRequests`, clause 5. -/
theorem witness_ModeRequests_c :
    let s : State := St (Dev.inMode (Dv []) .service)
    let p := s.dev.pwr
    let hosted : Prop := p.mode = .blank ∧ s.dev.fg SYS_STRAP_BOOTSEL % 2 = 1 ∧ s.dev.on SYS_STRAP_SVC = false
    let runs : Prop := p.mode = .run ∨ p.mode = .rest
    s.dev.hears = true ∧ p.frozen = false ∧ p.shelf = .no ∧ ¬runs ∧ ¬hosted := by decide +kernel

/-- `ModeRequests`, clause 8. -/
theorem witness_ModeRequests_d :
    let s : State := (St (hs fun p => {p with zeroFill := true}))
    let p := s.dev.pwr
    let hosted : Prop := p.mode = .blank ∧ s.dev.fg SYS_STRAP_BOOTSEL % 2 = 1 ∧ s.dev.on SYS_STRAP_SVC = false
    let ready : Prop := p.sampled = true ∧ p.zeroFill = false
    s.dev.hears = true ∧ p.frozen = false ∧ p.shelf = .no ∧ hosted ∧ ¬ready := by decide +kernel

/-- `ModeRequests`, clause 9. -/
theorem witness_ModeRequests_e :
    let s : State := St (Dev.inMode (Dv [(UART_CFG_EN 4, 1)] [(rSYS_WAKE_EN, 0xFFFFFFFF)]) .rest)
    let p := s.dev.pwr
    s.dev.hears = true ∧ p.frozen = false ∧ p.shelf = .no ∧ p.mode = .rest := by decide +kernel

/-- `ModeRequests`, clause 10. -/
theorem witness_ModeRequests_f :
    let s : State := St (run [(SYS_MODE_ILL_CNT, 255), (SYS_CLKSTAT_XO32_OK, 1)])
    let w : ModeWrite := ⟨true, true⟩
    let p := s.dev.pwr
    let joined : Prop := ∃ k, k < 3 ∧ (s.dev.lport k).joined = true
    s.dev.hears = true ∧ p.frozen = false ∧ p.shelf = .no ∧ p.mode = .run ∧ s.dev.restOk = true ∧
    (w.depth = true → s.dev.on SYS_CLKSTAT_XO32_OK = true ∧ ¬joined) := by decide +kernel

/-- `ModeRequests`, clauses 11, 13, 15. -/
theorem witness_ModeRequests_g :
    let s : State := (St {(pw (run []) fun p => {p with pend := some .rest}) with uarts := tput Uart.idle [] 0 {Uart.idle with txq := [1]}})
    let w : ModeWrite := ⟨false, true⟩
    let p := s.dev.pwr
    let joined : Prop := ∃ k, k < 3 ∧ (s.dev.lport k).joined = true
    s.dev.hears = true ∧ p.frozen = false ∧ p.shelf = .no ∧ p.mode = .run ∧ s.dev.restOk = false ∧
    (w.depth = true → s.dev.on SYS_CLKSTAT_XO32_OK = true ∧ ¬joined) ∧ (p.pend = some .rest ∨ p.pend = some .shelf) := by decide +kernel

end Modes2

namespace Modes3

/-! ### Rest, wake and clocks -/

def pw (d : Dev) (f : Pwr → Pwr) : Dev := { d with pwr := f d.pwr }
def rs (d : Dev) (cold : Bool) : Dev := pw (Dev.inMode d .rest) fun p => { p with cold := cold }
def sh (m : Mode) (f : Pwr → Pwr) := pw (Dev.inMode (Dv [(SYS_CLKSTAT_XO32_OK, 1)]) m) f

/-- `RestIsEnteredAndLeft` (RestEntryAtBoundary), clauses 1, 2. -/
theorem witness_RestEntryAtBoundary_a :
    let s : State := (St (pw (run [(SYS_MODE_DEPTH, 1), (SYS_CLKSTAT_XO32_OK, 1), (SYS_PWR_IDLE_MS, 1)]) fun p => {p with pend := some .rest}))
    let p := s.dev.pwr
    s.dev.running = true ∧ s.dev.restOk = true ∧ p.pend = some .rest ∧ s.dev.fg SYS_PWR_IDLE_MS ≠ 0 := by decide +kernel

/-- `RestIsEnteredAndLeft` (RestEntryAtBoundary), clauses 3, 4. -/
theorem witness_RestEntryAtBoundary_b :
    let s : State := (St (pw (run [(SYS_MODE_DEPTH, 1), (SYS_CLKSTAT_XO32_OK, 0), (SYS_PWR_IDLE_MS, 0)]) fun p => {p with pend := some .shelf}))
    let p := s.dev.pwr
    s.dev.running = true ∧ s.dev.restOk = true ∧ s.dev.fg SYS_PWR_IDLE_MS = 0 ∧ p.pend = some .shelf := by decide +kernel

/-- `RestIsEnteredAndLeft` (RestEntryAtBoundary), clause 5. -/
theorem witness_RestEntryAtBoundary_c :
    let s : State := St (run [(SYS_PWR_IDLE_MS, 65535)])
    let p := s.dev.pwr
    s.dev.running = true ∧ s.dev.restOk = true ∧ p.pend = none := by decide +kernel

/-- `RestIsEnteredAndLeft` (WakingFromRest), clauses 1, 2. -/
theorem witness_WakingFromRest_a :
    let s : State := St (rs (Dv [(UART_CFG_EN 3, 1)] [(rSYS_WAKE_EN, 0x108)]) true)
    let k : Nat := 3
    let p := s.dev.pwr
    let on (src : Nat) : Prop := bitOf (s.dev.reg rSYS_WAKE_EN) src = true
    p.mode = .rest ∧ p.frozen = false ∧ p.shelf = .no ∧ on 8 ∧ k < 4 ∧ on k ∧ s.dev.on (UART_CFG_EN k) = true ∧
    s.dev.on (UART_STAT_DEAD k) = false := by decide +kernel

/-- `RestIsEnteredAndLeft` (WakingFromRest), clause 3. -/
theorem witness_WakingFromRest_b :
    let s : State := St (rs (Dv [(UART_CFG_EN 3, 1)] [(rSYS_WAKE_EN, 0x100)]) true)
    let k : Nat := 3
    let p := s.dev.pwr
    let on (src : Nat) : Prop := bitOf (s.dev.reg rSYS_WAKE_EN) src = true
    p.mode = .rest ∧ p.frozen = false ∧ p.shelf = .no ∧ k < 11 ∧ ¬on k := by decide +kernel

/-- `RestIsEnteredAndLeft` (WakingFromRest), clause 4. -/
theorem witness_WakingFromRest_c :
    let s : State := St (rs (Dv [(UART_CFG_EN 3, 1), (UART_STAT_DEAD 0, 1)] [(rSYS_WAKE_EN, 0)]) false)
    let k : Nat := 0
    let p := s.dev.pwr
    p.mode = .rest ∧ p.frozen = false ∧ p.shelf = .no ∧ k < 4 ∧ s.dev.on (UART_STAT_DEAD k) = true := by decide +kernel

/-- `RestIsEnteredAndLeft` (WakingFromRest), clause 5. -/
theorem witness_WakingFromRest_d :
    let s : State := (St ((rs (Dv [(TMR_CFG_CLK 15, 1)] [(rSYS_WAKE_EN, 0x200)]) true).setTmr 15 { Tmr.idle with run := true, cmp := 0xFFFFFFFF }))
    let n : Nat := 15
    let p := s.dev.pwr
    let on (src : Nat) : Prop := bitOf (s.dev.reg rSYS_WAKE_EN) src = true
    p.mode = .rest ∧ p.frozen = false ∧ p.shelf = .no ∧ n < 16 ∧ on 9 ∧ s.dev.fg (TMR_CFG_CLK n) = 1 ∧
    s.dev.on (TMR_STAT_MATCH n) = false ∧ (s.dev.tmr n).run = true ∧ (s.dev.tmr n).cmp.toNat ≤ (s.dev.tmr n).per.toNat := by decide +kernel

/-- `ShelfHandshakeAndClockStatus` (ShelfHandshake), clauses 1, 7. -/
theorem witness_ShelfHandshake_a :
    let s : State := (St (sh .run fun p => {p with shelf := .entering, latch := some 7, shelfXo := true}))
    let p := s.dev.pwr
    p.shelf = .entering ∧ p.shelf ≠ .waking := by decide +kernel

/-- `ShelfHandshakeAndClockStatus` (ShelfHandshake), clauses 2, 3. -/
theorem witness_ShelfHandshake_b :
    let s : State := (St (sh .shelf fun p => {p with shelf := .off, latch := none, wakeMidi := true}))
    let k : Nat := 0
    let p := s.dev.pwr
    let enabled : Prop := (k = 8 ∧ p.wakePin = true) ∨ (k = 7 ∧ p.wakeHost = true) ∨ (k = 0 ∧ p.wakeMidi = true)
    p.shelf ≠ .entering ∧ enabled ∧ p.latch = none ∧ p.shelf = .off := by decide +kernel

/-- `ShelfHandshakeAndClockStatus` (ShelfHandshake), clause 4. -/
theorem witness_ShelfHandshake_c :
    let s : State := (St (sh .rest fun p => {p with shelf := .entering, latch := none}))
    let k : Nat := 7
    let p := s.dev.pwr
    let enabled : Prop := (k = 8 ∧ p.wakePin = true) ∨ (k = 7 ∧ p.wakeHost = true) ∨ (k = 0 ∧ p.wakeMidi = true)
    enabled ∧ p.latch = none ∧ p.shelf = .entering := by decide +kernel

/-- `ShelfHandshakeAndClockStatus` (ShelfHandshake), clause 5. -/
theorem witness_ShelfHandshake_d :
    let s : State := (St (sh .shelf fun p => {p with shelf := .off, latch := none, wakeHost := false}))
    let k : Nat := 7
    let p := s.dev.pwr
    let enabled : Prop := (k = 8 ∧ p.wakePin = true) ∨ (k = 7 ∧ p.wakeHost = true) ∨ (k = 0 ∧ p.wakeMidi = true)
    ¬enabled := by decide +kernel

/-- `ShelfHandshakeAndClockStatus` (ShelfHandshake), clause 6. -/
theorem witness_ShelfHandshake_e :
    let s : State := (St (sh .shelf fun p => {p with shelf := .waking, latch := some 8, wakeHost := false}))
    let p := s.dev.pwr
    p.shelf = .waking := by decide +kernel

/-- `ShelfHandshakeAndClockStatus` (ClockStatusFollowsCrystals), clause 1. -/
theorem witness_ClockStatusFollowsCrystals_a :
    let s : State := (St (sh .shelf fun p => {p with shelfXo := true}))
    let p := s.dev.pwr
    (p.mode ≠ .shelf ∨ p.shelfXo = true) := by decide +kernel

/-- `ShelfHandshakeAndClockStatus` (ClockStatusFollowsCrystals), clause 2. -/
theorem witness_ClockStatusFollowsCrystals_b :
    let s : State := St (rs (Dv []) false)
    let p := s.dev.pwr
    p.mode ≠ .shelf ∧ ¬(p.mode = .rest ∧ p.cold = true) := by decide +kernel

/-- `ShelfHandshakeAndClockStatus` (ClockStatusFollowsCrystals), clause 3. -/
theorem witness_ClockStatusFollowsCrystals_c :
    let s : State := St (rs (Dv []) true)
    let p := s.dev.pwr
    p.mode = .rest ∧ p.cold = true := by decide +kernel

end Modes3

namespace Isa

/-! ### The instruction set -/

def cx (r : Regs) (f : Ctx → Ctx := id) (n j : Nat := 0) (bdg : List (Fld × Nat) := []) : Dev :=
  let d := run ([(SPN_VBUDGET_VOICE n, 900), (SPN_BUDGET_CYCLES n, 1000)] ++ bdg)
  (d.setSpn n { Spn.idle with cur := some j, rom := false }).setCtx (18 * n + j) (f { Ctx.idle with regs := r, active := true })
def f0 : AluF := { s := true, f := true, rd := 3, ra := 1, low := 0x2000 }
def slotA : Slot := .ctrl
def g0 : MemF := { y := false, size := 0, reg := 2, ireg := 1, mode := 0, mreg := 0, wreg := 0, ofs := 0 }
def h0 : MacF := { acc := 1, s := true, cj := false, ra := 1, rb := 2, rd := 4, an := 3, imm := 7 }
def f2 : AluF := ⟨false, false, 0, 0, 0⟩

/-- `BundlesJoinAndTrap` (TrappingBundleHasNoEffect), clauses 1, 2. -/
theorem witness_TrappingBundleHasNoEffect_a :
    let s : State := (St (cx { Regs.zero with sr := 0x80, stack := [1,2,3,4] } fun c => {c with cyc := 5}))
    let n : Nat := 0
    let j : Nat := 0
    let c := s.dev.ctx (18 * n + j)
    let r := c.regs
    n < 16 ∧ j < 18 ∧ s.dev.running = true ∧ s.dev.on (SPN_STATUS_TRAPPED n) = false ∧ (s.dev.spn n).cur = some j ∧
    (s.dev.spn n).bundle = [] ∧ c.rep = none ∧ bitOf r.sr 7 = true ∧ 4 ≤ r.stack.length := by decide +kernel

/-- `BundlesJoinAndTrap` (TrappingBundleHasNoEffect), clauses 3, 5. -/
theorem witness_TrappingBundleHasNoEffect_b :
    let s : State := (St (cx { Regs.zero with pc := 2047, i := [(1, 2)] } fun c => {c with cyc := 5}))
    let n : Nat := 0
    let j : Nat := 0
    let c := s.dev.ctx (18 * n + j)
    let r := c.regs
    n < 16 ∧ j < 18 ∧ s.dev.running = true ∧ s.dev.on (SPN_STATUS_TRAPPED n) = false ∧ (s.dev.spn n).cur = some j ∧
    (s.dev.spn n).bundle = [] ∧ c.rep = none ∧ r.stack = [] ∧ c.delay = none ∧ bitOf r.sr 7 = false ∧ r.pc = 2047 := by decide +kernel

/-- `BundlesJoinAndTrap` (TrappingBundleHasNoEffect), clauses 4, 6. -/
theorem witness_TrappingBundleHasNoEffect_c :
    let s : State := (St (cx { Regs.zero with pc := 7, i := [(1, 2)] } (fun c => {c with cyc := 5, delay := some (2, 4)})))
    let n : Nat := 0
    let j : Nat := 0
    let g : MemF := {g0 with size := 3}
    let c := s.dev.ctx (18 * n + j)
    n < 16 ∧ j < 18 ∧ s.dev.running = true ∧ s.dev.on (SPN_STATUS_TRAPPED n) = false ∧ (s.dev.spn n).cur = some j ∧
    (s.dev.spn n).bundle = [] ∧ c.rep = none ∧ c.delay.isSome = true ∧ g.size = 3 := by decide +kernel

/-- `BundlesJoinAndTrap` (TrappingBundleHasNoEffect), clause 7. -/
theorem witness_TrappingBundleHasNoEffect_d :
    let s : State := (St (cx { Regs.zero with pc := 7, i := [(0, 0x9002)] } id))
    let n : Nat := 0
    let j : Nat := 0
    let g : MemF := {g0 with ireg := 0}
    let c := s.dev.ctx (18 * n + j)
    let r := c.regs
    n < 16 ∧ j < 18 ∧ s.dev.running = true ∧ s.dev.on (SPN_STATUS_TRAPPED n) = false ∧ (s.dev.spn n).cur = some j ∧
    (s.dev.spn n).bundle = [] ∧ c.rep = none ∧ illegalBundle c [.mem 1 g] = false ∧ memAddr r g % (4 * 2 ^ g.size.toNat) ≠ 0 := by decide +kernel

/-- `BundlesJoinAndTrap` (TrappingBundleHasNoEffect), clause 8. -/
theorem witness_TrappingBundleHasNoEffect_e :
    let s : State := (St (cx { Regs.zero with pc := 1 } (fun c => {c with cyc := 7}) 15 17 [(SPN_VBUDGET_VOICE 15, 7), (SPN_CTRL_OVTRAP 15, 1)]))
    let n : Nat := 15
    let j : Nat := 17
    let f : AluF := f0
    let c := s.dev.ctx (18 * n + j)
    let legal (op : Op) : Prop := illegalBundle c [op] = false ∧ s.dev.windowBad c [op] = false
    let past : Prop := c.cyc = s.dev.fg (SPN_VBUDGET_VOICE n) ∧ s.dev.on (SPN_CTRL_OVTRAP n) = true
    n < 16 ∧ j < 18 ∧ s.dev.running = true ∧ s.dev.on (SPN_STATUS_TRAPPED n) = false ∧ (s.dev.spn n).cur = some j ∧
    (s.dev.spn n).bundle = [] ∧ c.rep = none ∧ legal (.alu 0x01 f 0) ∧ past := by decide +kernel

/-- `BundlesJoinAndTrap` (TrappingBundleHasNoEffect), clause 9. -/
theorem witness_TrappingBundleHasNoEffect_f :
    let s : State := (St (cx { Regs.zero with pc := 1 } (fun c => {c with cyc := 6}) 15 17 [(SPN_BUDGET_CYCLES 15, 7), (SPN_CTRL_OVTRAP 15, 1)]))
    let n : Nat := 15
    let j : Nat := 17
    let f : AluF := f0
    let c := s.dev.ctx (18 * n + j)
    let legal (op : Op) : Prop := illegalBundle c [op] = false ∧ s.dev.windowBad c [op] = false
    let past : Prop := c.cyc = s.dev.fg (SPN_VBUDGET_VOICE n) ∧ s.dev.on (SPN_CTRL_OVTRAP n) = true
    n < 16 ∧ j < 18 ∧ s.dev.running = true ∧ s.dev.on (SPN_STATUS_TRAPPED n) = false ∧ (s.dev.spn n).cur = some j ∧
    (s.dev.spn n).bundle = [] ∧ c.rep = none ∧ legal (.alu 0x01 f 0) ∧ ¬past ∧ c.cyc + 1 = s.dev.fg (SPN_BUDGET_CYCLES n) := by decide +kernel

/-- `BundlesJoinAndTrap` (OperationsJoinTheBundle), clause 1. -/
theorem witness_OperationsJoinTheBundle_a :
    let s : State := St (cx Regs.zero)
    let n : Nat := 0
    let j : Nat := 0
    s.dev.running = true ∧ n < 16 ∧ s.dev.on (SPN_STATUS_TRAPPED n) = false ∧ (s.dev.spn n).cur = some j := by decide +kernel

/-- `BundlesJoinAndTrap` (OperationsJoinTheBundle), clause 2. -/
theorem witness_OperationsJoinTheBundle_b :
    let s : State := St (run [])
    let n : Nat := 0
    ((s.dev.spn n).cur = none ∨ s.dev.on (SPN_STATUS_TRAPPED n) = true) := by decide +kernel

/-- A context with D0 whose ring pointer 0 names window 0 of Stock. -/
def rg (l : List (Fld × Nat)) (x : Word) : Dev := cx { Regs.zero with d := [(0, x)] } id 0 0 ([(MEM_WIN_A_EN 0, 1)] ++ l)

/-- The hypothesis of every ALU clause: each operation issues alone in context 0 of spindle 0. -/
theorem witness_AluOperationsWriteResultAndFlags :
    ∀ k ∈ [0x01, 0x02, 0x03, 0x04, 0x05, 0x06, 0x07, 0x08, 0x09, 0x0A, 0x0B, 0x0C, 0x0D, 0x0E, 0x10, 0x11, 0x12, 0x13, 0x14,
      0x15, 0x16], (cx Regs.zero).issuesAlone 0 0 (.alu k f2 0) := by decide +kernel

/-- CMP; MVF for each class; RDSYS for each selector that names a value, and for one that names none. -/
theorem witness_CompareMoveFromAndSystemReads :
    (cx Regs.zero).issuesAlone 0 0 (.alu 0x0F f2 0) ∧
    (∀ k ∈ [0, 1, 2, 3, 4, 5, 6], let f := { f2 with low := BitVec.ofNat 16 (4096 * k) }
      aluRb f = k ∧ (cx Regs.zero).issuesAlone 0 0 (.alu 0x19 f 0)) ∧
    (∀ k ∈ [0, 1, 2, 3, 8, 9, 4], let f := { f2 with low := BitVec.ofNat 16 k }
      f.low.toNat = k ∧ (cx Regs.zero).issuesAlone 0 0 (.alu 0x1A f 0)) := by decide +kernel

/-- MVT for each class; two registers of a class differ. -/
theorem witness_MoveToClassRegisters :
    ∀ k ∈ [0, 1, 2, 3, 4, 5, 6], let f := { f2 with low := BitVec.ofNat 16 (4096 * k) }
      aluRb f = k ∧ f.rd.toNat ≠ 1 ∧ (cx Regs.zero).issuesAlone 0 0 (.alu 0x18 f 0) := by decide +kernel

/-- Each MAC operation issues alone, with no accumulator on its way to RND. -/
theorem witness_AccumulatorOperations :
    ((cx Regs.zero).ctx 0).acc = [] ∧
    ∀ k ∈ [1, 2, 3, 4, 5, 10, 11, 12],
      (cx Regs.zero).issuesAlone 0 0 (.mac k { h0 with acc := 0, s := false, ra := 0, rb := 0, rd := 0, an := 0, imm := 0 }) := by
  decide +kernel

theorem witness_EventPopAndRounding :
    (cx Regs.zero).issuesAlone 0 0 (.alu 0x1B f2 0) ∧
    ∀ k ∈ [8, 9], (cx Regs.zero).issuesAlone 0 0 (.mac k { h0 with acc := 0, s := false, ra := 0, rb := 0, rd := 0, an := 0, imm := 0 }) := by decide +kernel

/-- LD, ST and MOD in each mode; MOD in the circular modes also with a window of length 0. -/
theorem witness_MemoryLoadsStoresAndSteps :
    (∀ k ∈ [1, 2, 3], ∀ m ∈ [0, 1, 2, 3, 4, 5, 6, 7],
      (cx { Regs.zero with i := [(1, 64)], wb := [(0, 64)], wl := [(0, 64)] }).issuesAlone 0 0
        (.mem k { g0 with reg := 0, mode := BitVec.ofNat 3 m })) ∧
    ∀ m ∈ [4, 5], (cx Regs.zero).issuesAlone 0 0 (.mem 3 { g0 with reg := 0, mode := BitVec.ofNat 3 m }) := by decide +kernel

/-- SLD, RLD and RAPP where the fabric owns the bank, where it does not, and with a single-bit and an uncorrectable error. -/
theorem witness_StockLoadsAndRingAppend :
    (∀ bad ∈ [0, 1, 2], (rg [(MEM_BANK_CUR 0, 0)] 8).issuesAlone 0 0 (.alu 0x1C f2 bad) ∧
      (rg [(MEM_BANK_CUR 0, 0)] 5).issuesAlone 0 0 (.alu 0x1D f2 bad) ∧ (rg [(MEM_BANK_CUR 0, 0)] 5).issuesAlone 0 0 (.alu 0x1E f2 bad)) ∧
    ((rg [(MEM_BANK_CUR 0, 0)] 5).fg (MEM_BANK_CUR 0) = 0 ∧ (rg [(MEM_BANK_CUR 0, 0)] 8).fg (MEM_BANK_CUR 0) = 0) ∧
    (∀ k ∈ [0x1C, 0x1D, 0x1E], (rg [(MEM_BANK_CUR 0, 6)] 8).issuesAlone 0 0 (.alu k f2 0)) ∧
    ((rg [(MEM_BANK_CUR 0, 6)] 8).fg (MEM_BANK_CUR 0) = 6 ∧ (rg [(MEM_BANK_CUR 0, 6)] 8).on (MEM_BANK_SHARE 0) = false) := by
  decide +kernel

/-- Branches, calls and loops with D[RA] = 0, and an empty bundle outside a loop. -/
theorem witness_ProgramControl_a :
    let d := cx Regs.zero
    let c := d.ctx 0
    (∀ k ∈ [0x20, 0x21, 0x24, 0x25], d.issuesAlone 0 0 (.alu k f2 0)) ∧
    (∀ k ∈ [0x26, 0x27], d.issuesAlone 0 0 (.alu k { f2 with low := 3 } 0)) ∧ d.issuesAlone 0 0 (.nop slotA) ∧
    (c.regs.rd f2.ra.toNat).toNat = 0 ∧ c.delay = none ∧ bitOf c.regs.sr 7 = false := by decide +kernel

/-- RET with an address on the stack; REPR and LOOPR with D[RA] ≠ 0. -/
theorem witness_ProgramControl_b :
    let d := cx { Regs.zero with d := [(0, 2000)], stack := [7] }
    (∀ k ∈ [0x22, 0x25], d.issuesAlone 0 0 (.alu k f2 0)) ∧ d.issuesAlone 0 0 (.alu 0x27 { f2 with low := 3 } 0) ∧
    (((d.ctx 0).regs.rd f2.ra.toNat).toNat ≠ 0) := by decide +kernel

/-- The two delay bundles. -/
theorem witness_ProgramControl_c :
    ∀ m ∈ [1, 2], let d := cx Regs.zero fun c => { c with delay := some (m, 9) }
      d.issuesAlone 0 0 (.nop slotA) ∧ (d.ctx 0).delay = some (m, 9) ∧ bitOf (d.ctx 0).regs.sr 7 = false := by decide +kernel

/-- The end of a loop's body with passes left, and at its last pass. -/
theorem witness_ProgramControl_d :
    ∀ m ∈ [2, 1], let d := cx { Regs.zero with sr := 0x80, pc := 5, le := 5, ls := 3, lc := BitVec.ofNat 11 m } id 15 17
      let r := (d.ctx 287).regs
      d.issuesAlone 15 17 (.nop slotA) ∧ (d.ctx 287).delay = none ∧ bitOf r.sr 7 = true ∧ r.pc = r.le ∧ r.lc.toNat = m := by
  decide +kernel

/-- A voice context that is not parting, and an output context. -/
theorem witness_EndOfSampleStoresSend :
    ((cx Regs.zero).issuesAlone 0 0 (.alu 0x28 f2 0) ∧ ((cx Regs.zero).ctx 0).roll = none ∧
      ((cx Regs.zero).noteOf 0).cls ≠ clsParting) ∧
    (cx Regs.zero id 15 17).issuesAlone 15 17 (.alu 0x28 f2 0) := by decide +kernel

end Isa

namespace Mix

/-! ### Mix and decimation -/

def dM := run [(MIX_CTRL_DSEN,1)]
def dM2 := { run [(MIX_RATE_OSF,2),(MIX_BUS_CFG_EN 0,1),(MIX_BUS_CFG_STAGES 0,2),(MIX_BUS_CFG_EN 63,1),(MIX_BUS_CFG_STAGES 63,1),(MIX_DEC_CFG_NTAPA 0,15),(MIX_DEC_CFG_NTAPA 1,63)] with mix := {Dev.reset.mix with syncWait := some 0, settled := true}}
def dP (r:Nat) := run [(MIX_PDM_CFG_EN,1),(MIX_PDM_CFG_DIV,9),(MIX_PDM_CFG_RSEL,r),(CVO_PDMMAP_EN 0,1)]

/-- `SyncsAndPdmControlSamples` (SyncsRestartDecimation), clauses 1, 3, 5, 7. -/
theorem witness_SyncsRestartDecimation_a :
    let s : State := St dM
    let rising : Bool := true
    let d := s.dev
    let asks : Prop := d.on MIX_CTRL_DSEN = true ∧ rising = !d.on MIX_CTRL_DSPOL
    let due : Prop := d.running = true ∧ d.mix.syncWait = some 0 ∧ later d.eng.c d.mix.osBase % (d.osf : Int) = 0
    asks ∧ d.mix.syncWait = none ∧ d.hears = true ∧ ¬due ∧ d.mix.settled = false := by decide +kernel

/-- `SyncsAndPdmControlSamples` (SyncsRestartDecimation), clauses 2, 4, 6. -/
theorem witness_SyncsRestartDecimation_b :
    let s : State := St dM2
    let rising : Bool := true
    let d := s.dev
    let asks : Prop := d.on MIX_CTRL_DSEN = true ∧ rising = !d.on MIX_CTRL_DSPOL
    let due : Prop := d.running = true ∧ d.mix.syncWait = some 0 ∧ later d.eng.c d.mix.osBase % (d.osf : Int) = 0
    (¬asks ∨ d.mix.syncWait.isSome = true) ∧ due ∧ d.mix.settled = true := by decide +kernel

/-- `CoefficientBanksAreGuarded`, clauses 1, 3. -/
theorem witness_CoefficientBanksAreGuarded_a :
    let s : State := St dM2
    let k : Nat := 1
    let i : Nat := 31
    let b : Bool := true
    let v : Word := (0x80000F3E : Word)
    let d := s.dev
    let bank : Nat := if b then 1 else 0
    let taps := if b then fieldOf v 13 8 else fieldOf v 5 0
    let other := if b then fieldOf v 5 0 else fieldOf v 13 8
    s.dev.hears = true ∧ k < 2 ∧ i < 32 ∧ d.bankLocked k bank = false ∧ ntapOk taps = true ∧ taps ≠ d.ntap k bank ∧
    ntapOk other = false := by decide +kernel

/-- `CoefficientBanksAreGuarded`, clauses 2, 6. -/
theorem witness_CoefficientBanksAreGuarded_b :
    let s : State := St dM2
    let k : Nat := 0
    let i : Nat := 3
    let b : Bool := false
    let d := s.dev
    let bank : Nat := if b then 1 else 0
    s.dev.hears = true ∧ k < 2 ∧ i < 32 ∧ d.bankLocked k bank = true := by decide +kernel

/-- `CoefficientBanksAreGuarded`, clause 4. -/
theorem witness_CoefficientBanksAreGuarded_c :
    let s : State := St dM2
    let k : Nat := 1
    let i : Nat := 31
    let b : Bool := false
    let v : Word := (0x8000003D : Word)
    let d := s.dev
    let bank : Nat := if b then 1 else 0
    let taps := if b then fieldOf v 13 8 else fieldOf v 5 0
    let other := if b then fieldOf v 5 0 else fieldOf v 13 8
    s.dev.hears = true ∧ k < 2 ∧ i < 32 ∧ ntapOk taps = true ∧ taps ≠ d.ntap k bank ∧ d.bankLocked k bank = true ∧
    ntapOk other = false := by decide +kernel

/-- `CoefficientBanksAreGuarded`, clause 5. -/
theorem witness_CoefficientBanksAreGuarded_d :
    let s : State := St dM2
    let k : Nat := 1
    let i : Nat := 0
    let b : Bool := true
    let v : Word := (0x00000000 : Word)
    let taps := if b then fieldOf v 13 8 else fieldOf v 5 0
    let other := if b then fieldOf v 5 0 else fieldOf v 13 8
    s.dev.hears = true ∧ k < 2 ∧ i < 32 ∧ ntapOk taps = false ∧ ntapOk other = false ∧ bitOf v 31 = false := by decide +kernel

/-- `SyncsAndPdmControlSamples` (PdmControlSamples), clause 1. -/
theorem witness_PdmControlSamples_a :
    let s : State := St (dP 0)
    let k : Nat := 0
    let d := s.dev
    d.pdmOn = true ∧ k < 8 := by decide +kernel

/-- `SyncsAndPdmControlSamples` (PdmControlSamples), clause 2. -/
theorem witness_PdmControlSamples_b :
    let s : State := St (dM)
    let d := s.dev
    d.pdmOn = false := by decide +kernel

end Mix

namespace Port

/-! ### Serial audio ports -/

def pr : Port := { Port.idle with run := true }
def setp (d : Dev) (n : Nat) (p : Port) : Dev := { d with ports := tput Port.idle d.ports n p }
def dA := run [(SAP_CTRL_EN 0,1),(SAP_CTRL_EN 3,1)]
def dB := setp (run [(SAP_CTRL_EN 3,1),(SAP_FRAME_SLOTS 3,4),(SAP_FRAME_BITS 3,128),(SAP_FORMAT_SW 3,3),(SAP_FORMAT_DW 3,2),(SAP_TXMAP_EN 3 31,1),(SAP_TXMAP_SLOT 3 31,3),(SAP_TXMAP_TYPE 3 31,0),(SAP_FRAME_OFFSET 3,0),(SAP_TXMAP_EN 3 2,1),(SAP_TXMAP_SLOT 3 2,0)]) 3 { pr with txq := [(31,[(0,0x12345678),(1,5)])] }
def wSt (w : Word) (d : Dev) : Dev := setp d 3 { Port.idle with startWait := some w }
def dC := setp (run [(SAP_RXMAP_EN 2 31,1),(SAP_RXMAP_VIN 2 31,1),(MEM_BANK_CUR 1,3),(SAP_VIN_BASE 2, 0x300000)]) 2 { pr with rxq := [(31,[(0,0x12345678),(1,5)])] }

/-- `PortsStartAndSendFrames` (PortsArmAndStart), clauses 1, 4, 6, 7. -/
theorem witness_PortsArmAndStart_a :
    let s : State := St dA
    let n : Nat := 0
    let d := s.dev
    let p := d.port n
    n < 4 ∧ d.hears = true ∧ p.startWait = none ∧ (p.run = false ∨ d.on (SAP_CTRL_MASTER n) = true) := by decide +kernel

/-- `PortsStartAndSendFrames` (PortsArmAndStart), clause 2. -/
theorem witness_PortsArmAndStart_b :
    let s : State := St (wSt 0 dA)
    let n : Nat := 3
    let w : Word := (0 : Word)
    let d := s.dev
    let p := d.port n
    let boundary : Prop := d.running = true ∧ later d.outPoint d.mix.osBase % (d.osf : Int) = 0 ∧ later d.eng.c w ≥ 0
    n < 4 ∧ p.startWait = some w ∧ boundary := by decide +kernel

/-- `PortsStartAndSendFrames` (PortsArmAndStart), clause 3. -/
theorem witness_PortsArmAndStart_c :
    let s : State := St (wSt 1 dA)
    let n : Nat := 3
    let w : Word := (1 : Word)
    let d := s.dev
    let p := d.port n
    let boundary : Prop := d.running = true ∧ later d.outPoint d.mix.osBase % (d.osf : Int) = 0 ∧ later d.eng.c w ≥ 0
    n < 4 ∧ p.startWait = some w ∧ ¬boundary := by decide +kernel

/-- `PortsStartAndSendFrames` (PortsArmAndStart), clause 5. -/
theorem witness_PortsArmAndStart_d :
    let s : State := St dB
    let n : Nat := 3
    let d := s.dev
    let p := d.port n
    n < 4 ∧ p.run = true ∧ d.on (SAP_CTRL_MASTER n) = false := by decide +kernel

/-- `PortsStartAndSendFrames` (FramesSendQueuedSamples), clause 1. -/
theorem witness_FramesSendQueuedSamples_a :
    let s : State := St dB
    let n : Nat := 3
    let k : Nat := 3
    let c : Nat := 31
    let bclks : Nat := 128
    let x : Word := (0x12345678 : Word)
    let rest : List (Nat × Word) := [(1,5)]
    let d := s.dev
    let p := d.port n
    let o := p.o0 + p.frames
    let limit := if d.on (SAP_CTRL_MASTER n) then d.fg (SAP_FRAME_BITS n) else bclks
    let m := d.slotBits n k limit
    let runs : Prop := d.running = true ∧ n < 4 ∧ p.run = true ∧ p.first = false ∧ d.stg.atC = []
    runs ∧ k < d.fg (SAP_FRAME_SLOTS n) ∧ d.slotChan n k = some c ∧ m ≠ 0 ∧ d.fg (SAP_TXMAP_TYPE n c) ≠ 3 ∧
    tget [] p.txq c = (o, x) :: rest ∧ (∀ e ∈ rest, o ≤ e.1) := by decide +kernel

/-- `PortsStartAndSendFrames` (FramesSendQueuedSamples), clause 2. -/
theorem witness_FramesSendQueuedSamples_b :
    let s : State := St dB
    let n : Nat := 3
    let k : Nat := 0
    let c : Nat := 2
    let bclks : Nat := 128
    let d := s.dev
    let p := d.port n
    let limit := if d.on (SAP_CTRL_MASTER n) then d.fg (SAP_FRAME_BITS n) else bclks
    let m := d.slotBits n k limit
    let runs : Prop := d.running = true ∧ n < 4 ∧ p.run = true ∧ p.first = false ∧ d.stg.atC = []
    runs ∧ k < d.fg (SAP_FRAME_SLOTS n) ∧ d.slotChan n k = some c ∧ m ≠ 0 ∧ d.fg (SAP_TXMAP_TYPE n c) ≠ 3 ∧
    tget [] p.txq c = [] := by decide +kernel

/-- `PortsStartAndSendFrames` (FramesSendQueuedSamples), clause 3. -/
theorem witness_FramesSendQueuedSamples_c :
    let s : State := St dB
    let n : Nat := 2
    let d := s.dev
    let p := d.port n
    p.run = false := by decide +kernel

/-- `OsBoundaryFillsInputRing`, clause 1. -/
theorem witness_OsBoundaryFillsInputRing_a :
    let s : State := St dC
    let n : Nat := 2
    let c : Nat := 31
    let x : Word := (0x12345678 : Word)
    let rest : List (Nat × Word) := [(1,5)]
    let d := s.dev
    let p := d.port n
    let o := d.idxAt d.outPoint (d.portStep n)
    let v := d.sampleAt o 1 + w32 (d.fg MIX_DOUT_DOUT) + 65
    let off := d.fg (SAP_VIN_BASE n) + 8 * (c * d.vinLen n + v.toNat % d.vinLen n)
    let due : Prop := d.running = true ∧ n < 4 ∧ p.run = true ∧ d.portStep n = 1 ∧ d.osf = 1 ∧ p.lastO ≤ o ∧ p.o0 ≤ o ∧
      (∀ m, m < 4 → m ≠ n → (d.port m).run = false) ∧ d.net.streams = []
    let one : Prop := c < 32 ∧ d.on (SAP_RXMAP_EN n c) = true ∧ (∀ q, q < 32 → d.on (SAP_RXMAP_EN n q) = true → q = c) ∧
      d.on (SAP_RXMAP_VIN n c) = true ∧ p.recRun = false
    due ∧ one ∧ tget [] p.rxq c = (o, x) :: rest ∧ d.bankCur (bankOf off) = n + 1 ∧ off + 8 ≤ stockSize := by decide +kernel

/-- `OsBoundaryFillsInputRing`, clause 2. -/
theorem witness_OsBoundaryFillsInputRing_b :
    let s : State := St (setp dC 2 pr)
    let n : Nat := 2
    let c : Nat := 31
    let d := s.dev
    let p := d.port n
    let o := d.idxAt d.outPoint (d.portStep n)
    let due : Prop := d.running = true ∧ n < 4 ∧ p.run = true ∧ d.portStep n = 1 ∧ d.osf = 1 ∧ p.lastO ≤ o ∧ p.o0 ≤ o ∧
      (∀ m, m < 4 → m ≠ n → (d.port m).run = false) ∧ d.net.streams = []
    let one : Prop := c < 32 ∧ d.on (SAP_RXMAP_EN n c) = true ∧ (∀ q, q < 32 → d.on (SAP_RXMAP_EN n q) = true → q = c) ∧
      d.on (SAP_RXMAP_VIN n c) = true ∧ p.recRun = false
    due ∧ one ∧ tget [] p.rxq c = [] := by decide +kernel

/-- `OsBoundaryFillsInputRing`, clause 3. -/
theorem witness_OsBoundaryFillsInputRing_c :
    let s : State := St Dev.reset
    let d := s.dev
    d.running = false := by decide +kernel

end Port

namespace Net

/-! ### Network time and streams -/

def nD := run [(NET_CTRL_EN,1),(NET_DOM_CFG_EN 0,1),(NET_DOM_CFG_EN 1,1),(CBL_STAT_STATE,1)]
def setn (d : Dev) (n : Net) : Dev := { d with net := n }
def withDom (d : Dev) (k : Nat) (x : Dom) : Dev := { d with net := { d.net with doms := tput Dom.idle d.net.doms k x } }
def ms (r : Int) : SyncMeas := { domTime := 123456789012, adj := -5, resid := r, logSync := -3 }
def nT (k : Nat) (f : List (Fld × Nat)) : Dev := let d := run ([(NET_CTRL_EN,1),(CBL_STAT_STATE,1)] ++ f) ; { withDom d k {Dom.idle with time := 99999999999} with time := {d.time with pendStep := some k, c := 1000000}, voices := [(255, {Voice.free with cls := 1, onStamp := 5})] }
def wt (d : Dev) (c : Nat) : Dev := {d with time := {d.time with c := c}}
def sD := run [(NET_CTRL_EN,1),(NET_STREAM_SPF 3,6),(NET_STREAM_NOSRP 3,0),(NET_STREAM_STAT_READY 3,1),(NET_STREAM_SPF 7,6),(NET_STREAM_FORMAT 7,0)]
def str (d : Dev) (n : Nat) (x : Stream) : Dev := { d with net := { d.net with streams := tput Stream.idle d.net.streams n x } }
def af (t tv: Bool) (sq : Nat) : AvtpFrame := { tagged := t, streamId := 0, format := 0, nsr := 7, channels := 2, seq := sq, tv := tv, timestamp := 5000, samples := [[1],[2]] }
def lD := run [(NET_CTRL_EN,1),(NET_STREAM_EN 7,1),(NET_STREAM_VID 7,5)]

/-- `StreamsAndReservations` (StreamsLaunchAndAccept), clauses 1, 4. -/
theorem witness_StreamsLaunchAndAccept_a :
    let s : State := (St (str (wt sD 100000000) 3 {Stream.idle with started := true, seq := 255}))
    let n : Nat := 3
    let f : AvtpFrame := af false true 3
    let d := s.dev
    let x := d.stream n
    let due : Prop := d.netUp = true ∧ n < 4 ∧ x.started = true ∧ later d.now (d.launchAt n) ≥ -8
    let ready : Prop := d.on (NET_STREAM_NOSRP n) = true ∨ d.on (NET_STREAM_STAT_READY n) = true
    due ∧ ready ∧ d.netUp = true ∧ f.tagged = false := by decide +kernel

/-- `StreamsAndReservations` (StreamsLaunchAndAccept), clause 2. -/
theorem witness_StreamsLaunchAndAccept_b :
    let s : State := (St (str (wt (sD.fp (NET_STREAM_STAT_READY 3) 0) 100000000) 3 {Stream.idle with started := true, seq := 255}))
    let n : Nat := 3
    let d := s.dev
    let x := d.stream n
    let due : Prop := d.netUp = true ∧ n < 4 ∧ x.started = true ∧ later d.now (d.launchAt n) ≥ -8
    let ready : Prop := d.on (NET_STREAM_NOSRP n) = true ∨ d.on (NET_STREAM_STAT_READY n) = true
    due ∧ ¬ready := by decide +kernel

/-- `StreamsAndReservations` (StreamsLaunchAndAccept), clauses 3, 7. -/
theorem witness_StreamsLaunchAndAccept_c :
    let s : State := (St (str sD 7 {Stream.idle with started := true, seq := 255}))
    let n : Nat := 7
    let f : AvtpFrame := {af true true 3 with nsr := sD.nsr, channels := 2}
    let d := s.dev
    let x := d.stream n
    let due : Prop := d.netUp = true ∧ n < 4 ∧ x.started = true ∧ later d.now (d.launchAt n) ≥ -8
    let fits : Prop := f.tagged = true ∧ d.listens n f = true ∧ d.formatFits n f = true
    ¬due ∧ d.netUp = true ∧ fits ∧ f.tv = true ∧ x.lastSeq = none := by decide +kernel

/-- `StreamsAndReservations` (StreamsLaunchAndAccept), clause 5. -/
theorem witness_StreamsLaunchAndAccept_d :
    let s : State := (St (str sD 7 {Stream.idle with started := true, seq := 255}))
    let n : Nat := 7
    let f : AvtpFrame := {af true true 3 with nsr := 99, channels := 2}
    let d := s.dev
    d.netUp = true ∧ f.tagged = true ∧ d.listens n f = true ∧ d.formatFits n f = false := by decide +kernel

/-- `StreamsAndReservations` (StreamsLaunchAndAccept), clause 6. -/
theorem witness_StreamsLaunchAndAccept_e :
    let s : State := (St (str sD 7 {Stream.idle with started := true, lastSeq := some 255}))
    let n : Nat := 7
    let f : AvtpFrame := {af true true 255 with nsr := sD.nsr, channels := 2}
    let d := s.dev
    let x := d.stream n
    let fits : Prop := f.tagged = true ∧ d.listens n f = true ∧ d.formatFits n f = true
    d.netUp = true ∧ fits ∧ x.lastSeq = some f.seq ∧ f.seq < 256 := by decide +kernel

end Net

namespace Link1

/-! ### Link frames, training, replay -/

def lnk (d : Dev) (k : Nat) (x : LPort) : Dev := { d with cbl := { d.cbl with ports := tput LPort.idle d.cbl.ports k x } }
def jn : LPort := { LPort.idle with joined := true, tx := 65535, rx := 5, credit := 7 }
def hd := lnk (lnk (run [(CBL_STAT_STATE,1),(CBL_STAT_DEVID,1),(CBL_P_CTRL_EN 0,1),(CBL_P_CTRL_EN 1,1),(CBL_P_CTRL_EN 2,1),(CBL_P_STAT_LSTATE 1,2),(CBL_P_STAT_LSTATE 2,2)]) 1 jn) 2 { jn with behind := [9] }
def mb := lnk (lnk (lnk (run [(CBL_STAT_STATE,4),(CBL_STAT_DEVID,3),(CBL_STAT_DEPTH,1),(CBL_P_CTRL_EN 0,1),(CBL_P_CTRL_EN 1,1),(CBL_P_CTRL_EN 2,1),(CBL_P_STAT_LSTATE 0,2),(CBL_P_STAT_LSTATE 1,2),(CBL_P_STAT_LSTATE 2,2)]) 0 jn) 1 jn) 2 { jn with behind := [9] }
def lh (p dst src seq : Nat) (ok := true) : LinkHdr := ⟨p, dst, src, seq, ok⟩
def tr (p : Nat) (ts : Nat × Nat) (f : List (Fld × Nat)) : Dev := lnk (run ([(CBL_P_CTRL_EN p,1),(CBL_P_STAT_LSTATE p,1)] ++ f)) p { LPort.idle with ts := ts }
def fr (q : Nat) : LFrame := { ty := 3, dst := 1, src := 2, seq := q, pay := [1,2] }
def mem1 (id : Nat) (st rs : Nat) : Member := { id := id, depth := 1, parent := 1, state := st, reason := rs, path := [true], port := 2, err := 0, epoch := 0, digest := [], admitted := true, shipped := false }
def hc (l : List Member) : Dev := { hd with cbl := { hd.cbl with census := l } }

/-- `LinkFramesAreOrdered`, clause 1. -/
theorem witness_LinkFramesAreOrdered_a :
    let s : State := St hd
    let c : Instr := Instr.pdReq (lh 1 0 3 5 false) 1 2
    let h : LinkHdr := lh 1 0 3 5 false
    let ty : Nat := 0x21
    let d := s.dev
    let p := h.port
    let up : Prop := d.linkUp p = true
    linkFrame c = some (h, ty) ∧ up ∧ h.ok = false := by decide +kernel

/-- `LinkFramesAreOrdered`, clause 2. -/
theorem witness_LinkFramesAreOrdered_b :
    let s : State := St hd
    let c : Instr := Instr.headlost (lh 1 0 3 6)
    let h : LinkHdr := lh 1 0 3 6
    let ty : Nat := 0x2A
    let d := s.dev
    let p := h.port
    let x := d.lport p
    let up : Prop := d.linkUp p = true
    let k := seqLater h.seq x.rx
    linkFrame c = some (h, ty) ∧ up ∧ h.ok = true ∧ k > 0 := by decide +kernel

/-- `LinkFramesAreOrdered`, clause 3. -/
theorem witness_LinkFramesAreOrdered_c :
    let s : State := St hd
    let c : Instr := Instr.vote (lh 2 1 3 4) 1 true 0 0
    let h : LinkHdr := lh 2 1 3 4
    let ty : Nat := 0x09
    let d := s.dev
    let p := h.port
    let x := d.lport p
    let up : Prop := d.linkUp p = true
    let k := seqLater h.seq x.rx
    linkFrame c = some (h, ty) ∧ up ∧ h.ok = true ∧ k < 0 := by decide +kernel

/-- `LinkFramesAreOrdered`, clause 4. -/
theorem witness_LinkFramesAreOrdered_d :
    let s : State := St mb
    let c : Instr := Instr.vote (lh 2 1 9 5) 7 true 0 9
    let h : LinkHdr := lh 2 1 9 5
    let ty : Nat := 0x09
    let q : Nat := 0
    let d := s.dev
    let p := h.port
    let x := d.lport p
    let up : Prop := d.linkUp p = true
    let k := seqLater h.seq x.rx
    linkFrame c = some (h, ty) ∧ up ∧ h.ok = true ∧ k = 0 ∧ d.mine h = false ∧ d.isolated = false ∧ q ≠ p ∧
    (d.lport q).joined = true ∧ ((h.dst = 1 ∧ q = 0) ∨ (h.dst ≠ 1 ∧ d.portTo h.dst = some q)) := by decide +kernel

/-- `LinkFramesAreOrdered`, clause 5. -/
theorem witness_LinkFramesAreOrdered_e :
    let s : State := St Dev.reset
    let c : Instr := Instr.headlost (lh 1 0 3 6)
    let h : LinkHdr := lh 1 0 3 6
    let ty : Nat := 0x2A
    let d := s.dev
    let p := h.port
    let up : Prop := d.linkUp p = true
    linkFrame c = some (h, ty) ∧ ¬up := by decide +kernel

/-- `LinkTrainingAndReplay` (LinkTrainingAndRoles), clauses 1, 3, 13, 14. -/
theorem witness_LinkTrainingAndRoles_a :
    let s : State := (St {run [] with cbl := {Dev.reset.cbl with roleOpen := true}})
    let p : Nat := 0
    let v : Word := (0:Word)
    let d := s.dev
    let ready : Prop := d.alive = true ∧ d.portOpen p = true
    let fresh : Prop := d.cbl.roleOpen = true ∨ d.cbl.orphan = true
    d.cbl.roleOpen = true ∧ d.alive = true ∧ ready ∧ p = 0 ∧ fresh ∧ d.fg (CBL_P_STAT_LSTATE p) ≠ 1 ∧ d.hears = true ∧ p < 3 ∧
    d.on (CBL_P_CTRL_EN p) = true ∧ bitOf v 31 = false := by decide +kernel

/-- `LinkTrainingAndReplay` (LinkTrainingAndRoles), clauses 2, 4, 6, 16. -/
theorem witness_LinkTrainingAndRoles_b :
    let s : State := St (run [(CBL_P_CTRL_EN 2,1),(CBL_STAT_STATE,1)])
    let p : Nat := 2
    let v : Word := (0x80000007:Word)
    let d := s.dev
    let ready : Prop := d.alive = true ∧ d.portOpen p = true
    let fresh : Prop := d.cbl.roleOpen = true ∨ d.cbl.orphan = true
    (d.cbl.roleOpen = false ∨ d.alive = false) ∧ ready ∧
    ((p ≠ 0 ∧ d.beacons = true) ∨ (p = 0 ∧ ¬fresh ∧ d.isMember = true ∧ d.cbl.fade = none)) ∧ p ≠ 0 ∧ d.beacons = true ∧
    d.hears = true ∧ p < 3 ∧ d.on (CBL_P_CTRL_EN p) = bitOf v 31 := by decide +kernel

/-- `LinkTrainingAndReplay` (LinkTrainingAndRoles), clauses 5, 15. -/
theorem witness_LinkTrainingAndRoles_c :
    let s : State := St (run [(CBL_STAT_STATE,1),(CBL_P_CTRL_EN 1,0)])
    let p : Nat := 1
    let v : Word := (0x80001234:Word)
    let d := s.dev
    let x := d.lport p
    let ready : Prop := d.alive = true ∧ d.portOpen p = true
    ¬ready ∧ d.hears = true ∧ p < 3 ∧ d.on (CBL_P_CTRL_EN p) = false ∧ bitOf v 31 = true ∧ x.isol ≠ 11 := by decide +kernel

/-- `LinkTrainingAndReplay` (LinkTrainingAndRoles), clauses 7, 12. -/
theorem witness_LinkTrainingAndRoles_d :
    let s : State := St (tr 1 (7,3) [(CBL_STAT_STATE,1)])
    let p : Nat := 1
    let d := s.dev
    let trains : Prop := d.alive = true ∧ p < 3 ∧ d.fg (CBL_P_STAT_LSTATE p) = 1
    trains ∧ p < 3 ∧ d.fg (CBL_P_STAT_LSTATE p) = 1 := by decide +kernel

/-- `LinkTrainingAndReplay` (LinkTrainingAndRoles), clause 8. -/
theorem witness_LinkTrainingAndRoles_e :
    let s : State := St (tr 0 (8,3) [(CBL_STAT_STATE,2)])
    let p : Nat := 0
    let count : Nat := 4
    let d := s.dev
    let x := d.lport p
    let trains : Prop := d.alive = true ∧ p < 3 ∧ d.fg (CBL_P_STAT_LSTATE p) = 1
    trains ∧ 8 ≤ x.ts.1 ∧ x.ts.2 + count < 8 := by decide +kernel

/-- `LinkTrainingAndReplay` (LinkTrainingAndRoles), clause 9. -/
theorem witness_LinkTrainingAndRoles_f :
    let s : State := St (tr 0 (8,3) [(CBL_STAT_STATE,2)])
    let p : Nat := 0
    let lo : Nat := 2
    let hi : Nat := 5
    let count : Nat := 5
    let d := s.dev
    let x := d.lport p
    let trains : Prop := d.alive = true ∧ p < 3 ∧ d.fg (CBL_P_STAT_LSTATE p) = 1
    let ends : Prop := trains ∧ 8 ≤ x.ts.1 ∧ 8 ≤ x.ts.2 + count
    ends ∧ (hi = 0 ∨ 2 ≤ lo) := by decide +kernel

/-- `LinkTrainingAndReplay` (LinkTrainingAndRoles), clause 10. -/
theorem witness_LinkTrainingAndRoles_g :
    let s : State := St (tr 0 (8,3) [(CBL_STAT_STATE,2)])
    let p : Nat := 0
    let role : Nat := 0x55
    let lo : Nat := 1
    let hi : Nat := 1
    let count : Nat := 5
    let d := s.dev
    let x := d.lport p
    let trains : Prop := d.alive = true ∧ p < 3 ∧ d.fg (CBL_P_STAT_LSTATE p) = 1
    let ends : Prop := trains ∧ 8 ≤ x.ts.1 ∧ 8 ≤ x.ts.2 + count
    ends ∧ 1 ≤ hi ∧ lo ≤ 1 ∧ role = roleOf p := by decide +kernel

/-- `LinkTrainingAndReplay` (LinkTrainingAndRoles), clause 11. -/
theorem witness_LinkTrainingAndRoles_h :
    let s : State := St (tr 0 (8,3) [(CBL_STAT_STATE,2)])
    let p : Nat := 0
    let role : Nat := 0
    let lo : Nat := 1
    let hi : Nat := 5
    let count : Nat := 5
    let d := s.dev
    let x := d.lport p
    let trains : Prop := d.alive = true ∧ p < 3 ∧ d.fg (CBL_P_STAT_LSTATE p) = 1
    let ends : Prop := trains ∧ 8 ≤ x.ts.1 ∧ 8 ≤ x.ts.2 + count
    ends ∧ 1 ≤ hi ∧ lo ≤ 1 ∧ role ≠ roleOf p := by decide +kernel

/-- `LinkTrainingAndReplay` (AcknowledgedFramesLeaveTheReplayBuffer), clauses 1, 2, 5. -/
theorem witness_AcknowledgedFramesLeaveTheReplayBuffer_a :
    let s : State := (St (lnk hd 1 {jn with replay := [fr 65534, fr 65535, fr 0], resends := 3}))
    let p : Nat := 1
    let d := s.dev
    let up : Prop := d.linkUp p = true
    up := by decide +kernel

/-- `LinkTrainingAndReplay` (AcknowledgedFramesLeaveTheReplayBuffer), clause 4. -/
theorem witness_AcknowledgedFramesLeaveTheReplayBuffer_b :
    let s : State := St (hc [mem1 9 4 0])
    let p : Nat := 2
    let d := s.dev
    let x := d.lport p
    x.replay = [] := by decide +kernel

/-- `LinkTrainingAndReplay` (AcknowledgedFramesLeaveTheReplayBuffer), clause 6. -/
theorem witness_AcknowledgedFramesLeaveTheReplayBuffer_c :
    let s : State := St Dev.reset
    let p : Nat := 2
    let d := s.dev
    let up : Prop := d.linkUp p = true
    ¬up := by decide +kernel

/-- `LinkTrainingAndReplay` (AcknowledgedFramesLeaveTheReplayBuffer), clause 3. -/
theorem witness_AcknowledgedFramesLeaveTheReplayBuffer_3 :
    let s : State := (St (lnk hd 1 {jn with replay := [fr 65534, fr 65535, fr 0], resends := 3}))
    let p : Nat := 1
    let d := s.dev
    let x := d.lport p
    let up : Prop := d.linkUp p = true
    up ∧ x.replay ≠ [] := by decide +kernel

/-- `TimeEventsAndSumsAlongTheTree` (TimeAlongTheTree), clauses 1, 2, 5, 6, 8. -/
theorem witness_TimeAlongTheTree_a :
    let s : State := St mb
    let h : LinkHdr := lh 0 0 1 5
    let d := s.dev
    let takes : Prop := d.takes h
    let st := d.fg CBL_STAT_STATE
    takes ∧ d.isMember = true ∧ d.devid ≠ 0 ∧ d.alive = true ∧ h.dst = 0 ∧ h.port = 0 ∧ (d.lport 0).joined = true ∧
    (st ≠ 3 ∨ d.cbl.locked = true) := by decide +kernel

/-- `TimeEventsAndSumsAlongTheTree` (TimeAlongTheTree), clause 3. -/
theorem witness_TimeAlongTheTree_b :
    let s : State := St Dev.reset
    let d := s.dev
    d.alive = false := by decide +kernel

/-- `TimeEventsAndSumsAlongTheTree` (TimeAlongTheTree), clauses 4, 7. -/
theorem witness_TimeAlongTheTree_c :
    let s : State := St (mb.fp CBL_STAT_STATE 3)
    let h : LinkHdr := lh 1 0 1 5
    let d := s.dev
    let takes : Prop := d.takes h
    let st := d.fg CBL_STAT_STATE
    takes ∧ h.dst = 0 ∧ h.port ≠ 0 ∧ st = 3 ∧ d.cbl.locked = false := by decide +kernel

end Link1

namespace Link2

/-! ### The chain -/

def lnk (d : Dev) (k : Nat) (x : LPort) : Dev := { d with cbl := { d.cbl with ports := tput LPort.idle d.cbl.ports k x } }
def jn : LPort := { LPort.idle with joined := true, tx := 65535, rx := 5, credit := 7 }
def hd := lnk (lnk (run [(CBL_STAT_STATE,1),(CBL_STAT_DEVID,1),(CBL_P_CTRL_EN 0,1),(CBL_P_CTRL_EN 1,1),(CBL_P_CTRL_EN 2,1),(CBL_P_STAT_LSTATE 1,2),(CBL_P_STAT_LSTATE 2,2)]) 1 jn) 2 { jn with behind := [9] }
def mb := lnk (lnk (lnk (run [(CBL_STAT_STATE,4),(CBL_STAT_DEVID,3),(CBL_STAT_DEPTH,1),(CBL_P_CTRL_EN 0,1),(CBL_P_CTRL_EN 1,1),(CBL_P_CTRL_EN 2,1),(CBL_P_STAT_LSTATE 0,2),(CBL_P_STAT_LSTATE 1,2),(CBL_P_STAT_LSTATE 2,2)]) 0 jn) 1 jn) 2 { jn with behind := [9] }
def lh (p dst src seq : Nat) (ok := true) : LinkHdr := ⟨p, dst, src, seq, ok⟩
def mem1 (id : Nat) (st rs : Nat) : Member := { id := id, depth := 1, parent := 1, state := st, reason := rs, path := [true], port := 2, err := 0, epoch := 0, digest := [], admitted := true, shipped := false }
def hc (l : List Member) (d := hd) : Dev := { d with cbl := { d.cbl with census := l } }
def dig : List Byte := hd.imgDigest
def hm (dep : Nat) (dg : List Byte) (p : List Bool): HelloMsg := { sysId := 1, lpv := 1, depth := dep, epoch := 0, imgver := 0, digest := dg, path := p }
def am (v : Nat) : AssignMsg := { depth := 1, verdict := v, id := 5, reason := 9, lchain := 1001, anchor := 77, tau := 88, path := [true] }
def sm (st : Nat) : StatusMsg := { state := st, reason := 0, ship := 0, err := 100, digest := dig }
def wt (d : Dev) (c : Nat) : Dev := {d with time := {d.time with c := c}}
def base : LinkHdr := lh 2 1 9 5
def ev (id : Nat) : EvRec := { stamp := 100, kind := 0x10, attr := false, key := 0, part := 0, late := false, chan := 1, src := 2, value := 5, seq := 9, devid := id, index := 64 }
def dn (a : Bool) : DnEntry := { ev := ev 1, tag := 0, target := 0, adm := a, u := 1 }
def mbad : Dev := { mb with staged := [(rNOTE_HORIZON, 7)] }
def hpoll (no : Bool) (v : List Nat) (c0 : List Nat := [9]) : Dev := let d := hc [mem1 9 4 0] (hd.fp STG_STATUS_CSTATE 2); { d with stg := { d.stg with epochT := 3, census0 := c0, votes := v, noVote := no, sample := 1, buffer := some [] } }
def mprep (smp : Word) : Dev := let d := mb.fp STG_STATUS_CSTATE 2; { d.fp STG_STATUS_PENDING 1 with stg := { d.stg with epochT := 3, prepared := true, sample := smp, buffer := some [] } }

/-- `JoiningAndLeavingTheChain` (JoiningTheChain), clause 1. -/
theorem witness_JoiningTheChain_a :
    let s : State := St hd
    let h : LinkHdr := base
    let m : HelloMsg := hm 1 dig [true]
    let id : Nat := 2
    let d := s.dev
    let head : Prop := d.takes h ∧ d.isHead = true
    let known := d.cbl.table.find? fun e => e.1 == m.path
    let used (k : Nat) : Prop := k ∈ d.cbl.table.map (·.2)
    let isId : Prop := (∀ e ∈ known, id = e.2) ∧
      (known = none → 2 ≤ id ∧ id ≤ 254 ∧ ¬used id ∧ ∀ k < id, 2 ≤ k → used k)
    head ∧ m.depth ≠ 0 ∧ isId ∧ m.depth ≤ d.fg CBL_POL0_DMAX ∧ m.digest = d.imgDigest := by decide +kernel

/-- `JoiningAndLeavingTheChain` (JoiningTheChain), clause 2. -/
theorem witness_JoiningTheChain_b :
    let s : State := (St {hd.fp CBL_POL0_SHIP 1 with cbl := {hd.cbl with table := [([true,false],2),([true],3)]}})
    let h : LinkHdr := base
    let m : HelloMsg := hm 1 [] [true]
    let id : Nat := 3
    let d := s.dev
    let head : Prop := d.takes h ∧ d.isHead = true
    let known := d.cbl.table.find? fun e => e.1 == m.path
    let used (k : Nat) : Prop := k ∈ d.cbl.table.map (·.2)
    let isId : Prop := (∀ e ∈ known, id = e.2) ∧
      (known = none → 2 ≤ id ∧ id ≤ 254 ∧ ¬used id ∧ ∀ k < id, 2 ≤ k → used k)
    head ∧ m.depth ≠ 0 ∧ isId ∧ m.depth ≤ d.fg CBL_POL0_DMAX ∧ m.digest ≠ d.imgDigest := by decide +kernel

/-- `JoiningAndLeavingTheChain` (JoiningTheChain), clause 3. -/
theorem witness_JoiningTheChain_c :
    let s : State := St (hc [mem1 2 4 0])
    let h : LinkHdr := base
    let m : HelloMsg := hm 255 dig [true]
    let id : Nat := 2
    let d := s.dev
    let head : Prop := d.takes h ∧ d.isHead = true
    let known := d.cbl.table.find? fun e => e.1 == m.path
    let used (k : Nat) : Prop := k ∈ d.cbl.table.map (·.2)
    let isId : Prop := (∀ e ∈ known, id = e.2) ∧
      (known = none → 2 ≤ id ∧ id ≤ 254 ∧ ¬used id ∧ ∀ k < id, 2 ≤ k → used k)
    head ∧ isId ∧ d.fg CBL_POL0_DMAX < m.depth := by decide +kernel

/-- `JoiningAndLeavingTheChain` (JoiningTheChain), clauses 4, 6, 14. -/
theorem witness_JoiningTheChain_d :
    let s : State := St mb
    let h : LinkHdr := lh 0 0xFD 1 5
    let a : AssignMsg := am 0
    let d := s.dev
    let member : Prop := d.takes h ∧ d.isMember = true
    let mine : Prop := d.devid = 0 ∨ a.depth ≤ d.depth
    member ∧ mine ∧ d.isHead = false := by decide +kernel

/-- `JoiningAndLeavingTheChain` (JoiningTheChain), clauses 5, 10, 11, 13. -/
theorem witness_JoiningTheChain_e :
    let s : State := St (hc [mem1 9 3 0])
    let h : LinkHdr := lh 2 1 9 5
    let st : StatusMsg := sm 3
    let dev : Nat := 9
    let x : Member := mem1 9 3 0
    let d := s.dev
    let head : Prop := d.takes h ∧ d.isHead = true
    let cmd : Prop := d.hears = true ∧ d.isHead = true ∧ d.alive = true ∧ d.member dev = some x
    head ∧ d.member h.src = some x ∧ st.state = 3 ∧ st.digest = d.imgDigest ∧ st.err ≤ 100 ∧
    ¬(x.state = 5 ∧ (x.reason = 2 ∨ x.reason = 3 ∨ x.reason = 5)) ∧ cmd ∧ x.depth = d.depth + 1 ∧
    x.path = d.cbl.path ++ [x.path.getD 0 false] := by decide +kernel

/-- `JoiningAndLeavingTheChain` (JoiningTheChain), clause 7. -/
theorem witness_JoiningTheChain_f :
    let s : State := (St {mb with cbl := {mb.cbl with sAdm := some 0, admEpoch := 9, admGen := 65536}})
    let smp : Word := (0:Word)
    let d := s.dev
    d.running = true ∧ d.cbl.sAdm = some smp ∧ later d.eng.c smp ≥ 0 := by decide +kernel

/-- `JoiningAndLeavingTheChain` (JoiningTheChain), clause 8. -/
theorem witness_JoiningTheChain_g :
    let s : State := (St {mb with cbl := {mb.cbl with sAdm := some 1, admEpoch := 9, admGen := 65536}})
    let smp : Word := (1:Word)
    let d := s.dev
    d.running = true ∧ d.cbl.sAdm = some smp ∧ later d.eng.c smp < 0 := by decide +kernel

/-- `JoiningAndLeavingTheChain` (JoiningTheChain), clause 9. -/
theorem witness_JoiningTheChain_h :
    let s : State := St (hc [mem1 9 5 5])
    let dev : Nat := 9
    let x : Member := mem1 9 5 5
    let d := s.dev
    let cmd : Prop := d.hears = true ∧ d.isHead = true ∧ d.alive = true ∧ d.member dev = some x
    cmd ∧ x.state = 5 ∧ (x.reason = 2 ∨ x.reason = 3 ∨ x.reason = 5) := by decide +kernel

/-- `JoiningAndLeavingTheChain` (JoiningTheChain), clause 12. -/
theorem witness_JoiningTheChain_i :
    let s : State := (St (hc [{mem1 9 4 0 with depth := 2, path := [false,true]}]))
    let dev : Nat := 9
    let x : Member := {mem1 9 4 0 with depth := 2, path := [false,true]}
    let d := s.dev
    let cmd : Prop := d.hears = true ∧ d.isHead = true ∧ d.alive = true ∧ d.member dev = some x
    cmd ∧ x.depth ≠ d.depth + 1 := by decide +kernel

/-- `TimeEventsAndSumsAlongTheTree` (EventsAndSumsAlongTheChain), clauses 1, 4, 6. -/
theorem witness_EventsAndSumsAlongTheChain_a :
    let s : State := St (hc [mem1 9 4 0])
    let h : LinkHdr := lh 2 1 9 5
    let ev : EvRec := ev 9
    let ep : Word := (0:Word)
    let smp : Word := (5:Word)
    let sums : List (Word × Nat) := [(1,1),(2,2),(3,3),(4,4),(5,65535)]
    let vals : List (Nat × BitVec 40) := [(0,5),(63,7)]
    let x : Member := mem1 9 4 0
    let d := s.dev
    let known : Bool := d.cbl.census.any fun m => m.id == ev.devid && m.admitted
    let summing : Prop := d.takes h ∧ d.isHead = true ∧ d.member h.src = some x ∧ x.state = 4
    d.takes h ∧ d.isHead = true ∧ known = true ∧ summing ∧ ep = d.epochAt smp ∧ sums.length = 5 ∧ d.alloc.targeted = [] ∧
    h.port ≠ 0 ∧ later smp d.eng.c ≥ 0 ∧ (vals.map (·.1)).Nodup ∧ (∀ v ∈ vals, v.1 < 64) := by decide +kernel

/-- `TimeEventsAndSumsAlongTheTree` (EventsAndSumsAlongTheChain), clauses 2, 5, 7. -/
theorem witness_EventsAndSumsAlongTheChain_b :
    let s : State := St (hc [mem1 9 4 0])
    let h : LinkHdr := lh 2 1 9 5
    let ev : EvRec := ev 8
    let ep : Word := (1:Word)
    let smp : Word := (0xFFFFFFFF:Word)
    let x : Member := mem1 9 4 0
    let d := s.dev
    let known : Bool := d.cbl.census.any fun m => m.id == ev.devid && m.admitted
    let summing : Prop := d.takes h ∧ d.isHead = true ∧ d.member h.src = some x ∧ x.state = 4
    d.takes h ∧ (d.isHead = false ∨ known = false) ∧ summing ∧ ep ≠ d.epochAt smp ∧ h.port ≠ 0 ∧ later smp d.eng.c < 0 := by decide +kernel

/-- `TimeEventsAndSumsAlongTheTree` (EventsAndSumsAlongTheChain), clause 3. -/
theorem witness_EventsAndSumsAlongTheChain_c :
    let s : State := St mb
    let h : LinkHdr := lh 0 0xFF 1 5
    let d := s.dev
    d.takes h ∧ d.isMember = true ∧ d.cbl.sAdm = none ∧ d.cbl.admitted = false ∧ d.cbl.held = [] := by decide +kernel

/-- `JoiningAndLeavingTheChain` (LeavingTheChain), clauses 1, 4. -/
theorem witness_LeavingTheChain_a :
    let s : State := (St (hc [mem1 9 4 0, {mem1 8 4 0 with path := [false]}]))
    let h : LinkHdr := lh 2 1 9 5
    let j : Nat := 0
    let d := s.dev
    d.takes h ∧ d.isHead = true ∧ (d.cbl.fade = none ∨ (d.cbl.fade = some j ∧ j < 32)) := by decide +kernel

/-- `JoiningAndLeavingTheChain` (LeavingTheChain), clause 2. -/
theorem witness_LeavingTheChain_b :
    let s : State := St mb
    let h : LinkHdr := lh 0 0 9 5
    let d := s.dev
    d.takes h ∧ h.dst = 0 ∧ h.port = 0 ∧ d.isMember = true ∧ d.cbl.fade = none := by decide +kernel

/-- `JoiningAndLeavingTheChain` (LeavingTheChain), clause 3. -/
theorem witness_LeavingTheChain_c :
    let s : State := (St {mb with cbl := {mb.cbl with fade := some 32}, voices := [(7,{Voice.free with cls := 1})]})
    let j : Nat := 32
    let d := s.dev
    d.cbl.fade = some j ∧ 32 ≤ j ∧ d.isMember = true := by decide +kernel

/-- `ChainCommitPhases`, clauses 1, 8, 11. -/
theorem witness_ChainCommitPhases_a :
    let s : State := St mb
    let h : LinkHdr := lh 0 0xFF 1 5
    let d := s.dev
    let g := d.stg
    let res := d.checkSet d.staged (d.fg AGE_PLAN_VOICES) (d.fg AGE_PLAN_STEP)
    let td := d.tau (g.sample - 1) - w32 d.lchain
    let decides : Prop := d.isHead = true ∧ d.running = true ∧ d.fg STG_STATUS_CSTATE = 2 ∧ later d.now td ≥ 0
    d.takes h ∧ d.isMember = true ∧ d.running = true ∧ res = none ∧ ¬decides := by decide +kernel

/-- `ChainCommitPhases`, clauses 3, 4, 7. -/
theorem witness_ChainCommitPhases_b :
    let s : State := St (hpoll false [])
    let h : LinkHdr := lh 2 1 9 5
    let ep : Word := (3:Word)
    let d := s.dev
    let g := d.stg
    let polled : Prop := d.takes h ∧ d.isHead = true ∧ d.fg STG_STATUS_CSTATE = 2
    let td := d.tau (g.sample - 1) - w32 d.lchain
    let decides : Prop := d.isHead = true ∧ d.running = true ∧ d.fg STG_STATUS_CSTATE = 2 ∧ later d.now td ≥ 0
    let agreed : Prop := g.noVote = false ∧ d.censusIds = g.census0 ∧ ∀ i ∈ g.census0, i ∈ g.votes
    polled ∧ g.epochT = ep ∧ g.noVote = false ∧ decides ∧ ¬agreed := by decide +kernel

/-- `ChainCommitPhases`, clauses 5, 6. -/
theorem witness_ChainCommitPhases_c :
    let s : State := St (hpoll false [9])
    let h : LinkHdr := lh 2 1 9 5
    let ep : Word := (4:Word)
    let x : Member := mem1 9 4 0
    let d := s.dev
    let g := d.stg
    let polled : Prop := d.takes h ∧ d.isHead = true ∧ d.fg STG_STATUS_CSTATE = 2
    let td := d.tau (g.sample - 1) - w32 d.lchain
    let decides : Prop := d.isHead = true ∧ d.running = true ∧ d.fg STG_STATUS_CSTATE = 2 ∧ later d.now td ≥ 0
    let agreed : Prop := g.noVote = false ∧ d.censusIds = g.census0 ∧ ∀ i ∈ g.census0, i ∈ g.votes
    polled ∧ g.epochT ≠ ep ∧ d.member h.src = some x ∧ decides ∧ agreed := by decide +kernel

/-- `ChainCommitPhases`, clause 9. -/
theorem witness_ChainCommitPhases_d :
    let s : State := St (mprep 0)
    let h : LinkHdr := lh 0 0xFF 1 5
    let ep : Word := (3:Word)
    let d := s.dev
    let g := d.stg
    let yes : Prop := d.takes h ∧ d.isMember = true ∧ g.prepared = true ∧ g.epochT = ep
    yes ∧ later g.sample d.eng.c ≥ 0 := by decide +kernel

/-- `ChainCommitPhases`, clause 10. -/
theorem witness_ChainCommitPhases_e :
    let s : State := St (mprep 0xFFFFFFFF)
    let h : LinkHdr := lh 0 0xFF 1 5
    let ep : Word := (3:Word)
    let d := s.dev
    let g := d.stg
    let yes : Prop := d.takes h ∧ d.isMember = true ∧ g.prepared = true ∧ g.epochT = ep
    yes ∧ later g.sample d.eng.c < 0 := by decide +kernel

/-- `ChainCommitPhases`, clause 2. -/
theorem witness_ChainCommitPhases_2 :
    let s : State := (St mbad)
    let h : LinkHdr := (lh 0 0xFF 1 5)
    let d := s.dev
    let res := d.checkSet d.staged (d.fg AGE_PLAN_VOICES) (d.fg AGE_PLAN_STEP)
    d.takes h ∧ d.isMember = true ∧ d.running = true ∧ res.isSome = true := by decide +kernel

end Link2

/-! ### The spec's worked examples, published check values, and results worked out by hand -/

/-- The example after R91: 7-bit velocities 0x64 and 0x50 widened to 16 bits (R90). -/
theorem test_velocity_widening : upscale 0x64 7 16 = 0xC924 ∧ upscale 0x50 7 16 = 0xA082 := by decide +kernel

/-- The example after R225: 950 MHz at 96 kHz gives P = 9,895 and R_s = 2,473; b is 448 for 16 contexts, 480 for 15. -/
theorem test_spindle_budget : budgetOf 950000000 96000 16 = (9895, 2473, 448) ∧ (budgetOf 950000000 96000 15).2.2 = 480 := by
  decide +kernel

/-- The example of the auto-tune: with CPS = 0x5355 and REF = 48, T(16,384) = 2,340,410 (R357). -/
theorem test_tune_target : (run [(CVO_ATR_REF 3, 48), (CVO_ATR_CPS 3, 0x5355)]).tuneTarget 3 16384 = 2340410 := by decide +kernel

/-- The PDM example: with DIV = 32, 126 periods are 41,016 ns and 40 periods are 13,021 ns (R310 to R313). -/
theorem test_pdm_delay : (run [(MIX_PDM_CFG_DIV, 32)]).pdmNs (8 * 126) = 41016 ∧
    (run [(MIX_PDM_CFG_DIV, 32)]).pdmNs (8 * 40) = 13021 := by decide +kernel

/-- The link example: at 96 kHz with DMAX = 4 the least L_chain is 53 µs (R382). -/
theorem test_chain_latency : (run [(MIX_RATE_MULT, 1), (CBL_POL0_DMAX, 4)]).lmin = 53 := by decide +kernel

/-- The device after a command. -/
def devOf : Host.Outcome State Fault Refusal → Dev
  | .next t => t.dev
  | _ => Dev.reset

/-- The D register and the status of context 0 after an operation has landed. -/
def after (o : Host.Outcome State Fault Refusal) (k : Nat) : Word × Word :=
  let c := ((devOf o).ctx 0).landTo 1
  (c.regs.rd k, c.regs.sr)

/-- The Stock example: at position 100 an RLD with d = 48,000 reads byte offset 0x0090_0250 of the ring of window 7, here
shown as a violation, since the bank is the journal's (R271, R280). -/
theorem test_ring_read_address :
    let d := Isa.cx { Regs.zero with d := [(0, 48000)], rp := [(0, 0x07000000)] }
      (fun c => { c with p0 := [(0, 100)] }) 0 0
      [(MEM_WIN_A_EN 7, 1), (MEM_WIN_A_BASE 7, 0x900000), (MEM_WIN_B_LEN 7, 48032), (MEM_BANK_CUR 3, 6)]
    (devOf (execRld 0 Isa.f2 0 true (St d))).fg MEM_VIOL_OFFSET = 0x900250 := by decide +kernel

/-- The example after R252: with D0 = 0x8000_0000 the term D0 × D0 is 2^63 (R249, R250). -/
theorem test_mac_term :
    let d := Isa.cx { Regs.zero with d := [(0, 0x80000000)] }
    ((devOf (execRmac1 0 { Isa.h0 with acc := 0, s := false, ra := 0, rb := 0, rd := 0, an := 0, imm := 0 } true (St d))).ctx 0).regs.ra 0 = 2 ^ 63 := by
  decide +kernel

/-- ADD 0x7FFF_FFFF + 1: clamped with S = 1, V and NOV set; wrapped with S = 0, N and V set (R254). -/
theorem test_add :
    let d := Isa.cx { Regs.zero with d := [(1, 0x7FFFFFFF), (2, 1)] }
    after (execAdd 0 ⟨true, true, 3, 1, 0x2000⟩ true (St d)) 3 = (0x7FFFFFFF, 0x48) ∧
    after (execAdd 0 ⟨false, true, 3, 1, 0x2000⟩ true (St d)) 3 = (0x80000000, 0x0A) := by decide +kernel

/-- SUB 5 − 7 borrows: N set, C clear; SUB 7 − 5 leaves C set (R253, R254). -/
theorem test_sub :
    let d := Isa.cx { Regs.zero with d := [(1, 5), (2, 7)] }
    after (execSub 0 ⟨false, true, 3, 1, 0x2000⟩ true (St d)) 3 = (0xFFFFFFFE, 0x02) ∧
    after (execSub 0 ⟨false, true, 3, 2, 0x1000⟩ true (St d)) 3 = (2, 0x04) := by decide +kernel

/-- ABS of 0x8000_0000: 0x7FFF_FFFF with S = 1, 0x8000_0000 with S = 0 (R254). -/
theorem test_abs :
    let d := Isa.cx { Regs.zero with d := [(1, 0x80000000)] }
    (after (execAbs 0 ⟨true, false, 3, 1, 0⟩ true (St d)) 3).1 = 0x7FFFFFFF ∧ (after (execAbs 0 ⟨false, false, 3, 1, 0⟩ true (St d)) 3).1 = 0x80000000 := by
  decide +kernel

/-- FMUL of 0x4000_0000 by itself: 0.5 × 0.5 = 0.25 (R253). -/
theorem test_fmul :
    let d := Isa.cx { Regs.zero with d := [(1, 0x40000000)] }
    (after (execFmul 0 ⟨false, false, 3, 1, 0x1000⟩ true (St d)) 3).1 = 0x20000000 := by decide +kernel

/-- LSRI and ASRI of 0x8000_0000 by 4 (R253). -/
theorem test_shifts :
    let d := Isa.cx { Regs.zero with d := [(1, 0x80000000)] }
    (after (execLsri 0 ⟨false, false, 3, 1, 4⟩ true (St d)) 3).1 = 0x08000000 ∧ (after (execAsri 0 ⟨false, false, 3, 1, 4⟩ true (St d)) 3).1 = 0xF8000000 := by
  decide +kernel

/-- The check value of CRC-32C and of CRC-16 with initial value 0xFFFF over "123456789", and SHA-256 of "abc" (FIPS 180-4). -/
theorem test_checksums :
    crc32c [0x31, 0x32, 0x33, 0x34, 0x35, 0x36, 0x37, 0x38, 0x39] = 0xE3069283 ∧
    crc16 [0x31, 0x32, 0x33, 0x34, 0x35, 0x36, 0x37, 0x38, 0x39] = 0x29B1 ∧
    sha256 [0x61, 0x62, 0x63] = beBytes 32 0xBA7816BF8F01CFEA414140DE5DAE2223B00361A396177A9CB410FF61F20015AD := by decide +kernel

/-- A stamp across the wrap is later (R17). -/
theorem test_later_wraps : later 5 0xFFFFFFFB = 10 ∧ later 0xFFFFFFFB 5 = -10 := by decide +kernel

/-- A write of 1 clears a RAW bit, a write of 0 leaves it (R6, R485). -/
theorem test_raw_clear :
    ((evtRawClear 0 4 ((run []).raise 2)).raw 2 = false) ∧ ((evtRawClear 0 0 ((run []).raise 2)).raw 2 = true) := by decide +kernel

/-- A PING with tag 7 queues a response of 17 bytes that begins with SOF, LEN = 9, the tag and the opcode with bit 7 set (R433). -/
theorem test_ping :
    let q := ((ping (hh 7) (hst .run)).uart 4).txq
    q.length = 17 ∧ q.take 5 = [0xA5, 9, 0, 7, 0x81] := by decide +kernel

end Sys2Proof.Tests
end

section
/-! PROOFS. One field under a register write (R6, R7, R520): what each access code makes of it. -/
namespace Sys2Proof.Scope
open Sys2Proof.Machine Sys2Proof.Laws

/-! ### Bits and fields of a word -/

theorem fieldOf_lt (w : Word) (hi lo : Nat) : fieldOf w hi lo < 2 ^ (hi + 1 - lo) := Nat.mod_lt _ (Nat.two_pow_pos _)

/-- A field takes the field of another word as it is. -/
theorem fieldOf_setField_fieldOf (w v : Word) {hi lo : Nat} (hw : lo ≤ hi) (h32 : hi < 32) :
    fieldOf (setField w hi lo (fieldOf v hi lo)) hi lo = fieldOf v hi lo := by
  rw [fieldOf_setField _ _ _ _ hw h32, Nat.mod_eq_of_lt (fieldOf_lt v hi lo)]

theorem bitOf_setField_outside (w : Word) {hi lo i : Nat} (x : Nat) (hw : lo ≤ hi) (h32 : hi < 32) (h : i < lo ∨ hi < i) :
    bitOf (setField w hi lo x) i = bitOf w i := by
  unfold bitOf
  rw [getLsbD_setField _ _ _ _ _ hw h32, if_neg (by omega)]

theorem bitOf_setField_inside (w v : Word) {hi lo i : Nat} (hw : lo ≤ hi) (h32 : hi < 32) (hl : lo ≤ i) (hh : i ≤ hi) :
    bitOf (setField w hi lo (fieldOf v hi lo)) i = bitOf v i := by
  unfold bitOf
  rw [getLsbD_setField _ _ _ _ _ hw h32, if_pos ⟨hl, hh⟩, testBit_fieldOf, show lo + (i - lo) = i by omega]
  simp only [decide_eq_true (show i - lo < hi + 1 - lo by omega), Bool.true_and]

theorem bitOf_zero (i : Nat) : bitOf 0 i = false := BitVec.getLsbD_zero

theorem bitOf_and_not (w m : Word) {i : Nat} (h : i < 32) : bitOf (w &&& ~~~m) i = (bitOf w i && !bitOf m i) := by
  simp [bitOf, h]

theorem bitOf_or (w m : Word) (i : Nat) : bitOf (w ||| m) i = (bitOf w i || bitOf m i) := BitVec.getLsbD_or

/-! ### A write to one field, code by code -/

section
variable (a : Nat) (lkOpen : Bool) (v w : Word) {f : FieldDesc}

theorem fieldWrite_rw (h : f.acc = .rw) : fieldWrite a lkOpen v w f =
    if fieldAllows a f.lo (fieldOf v f.hi f.lo) then setField w f.hi f.lo (fieldOf v f.hi f.lo) else w := by
  simp only [fieldWrite, h]

theorem fieldWrite_lk (h : f.acc = .lk) : fieldWrite a lkOpen v w f =
    if lkOpen && fieldAllows a f.lo (fieldOf v f.hi f.lo) then setField w f.hi f.lo (fieldOf v f.hi f.lo) else w := by
  simp only [fieldWrite, h]

theorem fieldWrite_w1c (h : f.acc = .w1c) :
    fieldWrite a lkOpen v w f = w &&& ~~~(setField 0 f.hi f.lo (fieldOf v f.hi f.lo)) := by
  simp only [fieldWrite, h]

theorem fieldWrite_w1s (h : f.acc = .w1s) :
    fieldWrite a lkOpen v w f = w ||| setField 0 f.hi f.lo (fieldOf v f.hi f.lo) := by
  simp only [fieldWrite, h]

theorem fieldWrite_cnt (h : f.acc = .cnt) :
    fieldWrite a lkOpen v w f = if fieldOf v f.hi f.lo = 0 then w else setField w f.hi f.lo 0 := by
  simp only [fieldWrite, h]

theorem fieldWrite_unwritten (h : f.acc = .ro ∨ f.acc = .wo ∨ f.acc = .st) : fieldWrite a lkOpen v w f = w := by
  rcases h with h | h | h <;> simp only [fieldWrite, h]

/-- No code reaches a bit outside its field. -/
theorem bitOf_fieldWrite_outside (hw : f.lo ≤ f.hi) (h32 : f.hi < 32) {i : Nat} (hi : i < 32) (ho : i < f.lo ∨ f.hi < i) :
    bitOf (fieldWrite a lkOpen v w f) i = bitOf w i := by
  have hset (u : Word) (x : Nat) : bitOf (setField u f.hi f.lo x) i = bitOf u i := bitOf_setField_outside u x hw h32 ho
  cases hacc : f.acc with
  | rw => rw [fieldWrite_rw _ _ _ _ hacc]; split <;> simp only [hset]
  | lk => rw [fieldWrite_lk _ _ _ _ hacc]; split <;> simp only [hset]
  | w1c => rw [fieldWrite_w1c _ _ _ _ hacc, bitOf_and_not _ _ hi, hset, bitOf_zero, Bool.not_false, Bool.and_true]
  | w1s => rw [fieldWrite_w1s _ _ _ _ hacc, bitOf_or, hset, bitOf_zero, Bool.or_false]
  | cnt => rw [fieldWrite_cnt _ _ _ _ hacc]; split <;> simp only [hset]
  | ro => rw [fieldWrite_unwritten _ _ _ _ (.inl hacc)]
  | wo => rw [fieldWrite_unwritten _ _ _ _ (.inr (.inl hacc))]
  | st => rw [fieldWrite_unwritten _ _ _ _ (.inr (.inr hacc))]

end

/-- Settles O6: code by code, from the bits that setting a field moves. -/
theorem accessCodesOfAWrite : Obligations.AccessCodesOfAWrite := by
  intro a lkOpen v w f hw h32 x r
  have hx : fieldOf (setField w f.hi f.lo x) f.hi f.lo = x := fieldOf_setField_fieldOf w v hw h32
  refine ⟨fun i hi ho => bitOf_fieldWrite_outside a lkOpen v w hw h32 hi ho, fun h => ?rw, fun h => ?lk, fun h i hl hh => ?w1c,
    fun h i hl hh => ?w1s, fun h => ?cnt, fieldWrite_unwritten a lkOpen v w⟩
  case rw => rw [show r = _ from fieldWrite_rw a lkOpen v w h, apply_ite (fieldOf · f.hi f.lo), hx]
  case lk => rw [show r = _ from fieldWrite_lk a lkOpen v w h, apply_ite (fieldOf · f.hi f.lo), hx]
  case w1c =>
    rw [show r = _ from fieldWrite_w1c a lkOpen v w h, bitOf_and_not _ _ (by omega), bitOf_setField_inside _ _ hw h32 hl hh]
  case w1s => rw [show r = _ from fieldWrite_w1s a lkOpen v w h, bitOf_or, bitOf_setField_inside _ _ hw h32 hl hh]
  case cnt =>
    rw [show r = _ from fieldWrite_cnt a lkOpen v w h, apply_ite (fieldOf · f.hi f.lo), fieldOf_setField _ _ _ _ hw h32, Nat.zero_mod]

end Sys2Proof.Scope
end

section
/-! PROOFS. REGISTER_WRITE (R3, R7, R11 to R15, R271): a write by the access codes, its staged part, and words of memory. -/
namespace Sys2Proof.Scope
open Sys2Proof.Machine Sys2Proof.Laws

/-! ### A write to the staged part of a register (R70, R73) -/

theorem uncheck_fields (d : Dev) : ∃ l g, d.uncheck = { d with live := l, stg := g } := by
  unfold Dev.uncheck
  split <;> exact ⟨_, _, rfl⟩

theorem reg_uncheck (d : Dev) {b : Nat} (h : b ≠ rSTG_STATUS) : d.uncheck.reg b = d.reg b := by
  unfold Dev.uncheck
  split
  · rfl
  · exact reg_fp_other _ _ _ h

theorem rb_uncheck (d : Dev) (x : Nat) : d.uncheck.rb x = d.rb x := by
  unfold Dev.uncheck
  split
  · rfl
  · exact rb_fp _ _ _ _ (by decide)

/-- The staging copy of a register depends on what is staged and on the register itself. -/
theorem stagingReg_congr {d e : Dev} {a : Nat} (hs : e.staged = d.staged) (hr : e.reg a = d.reg a) :
    e.stagingReg a = d.stagingReg a := by
  simp only [Dev.stagingReg, hs, hr]

theorem stagingReg_uncheck (d : Dev) {a : Nat} (h : a ≠ rSTG_STATUS) : d.uncheck.stagingReg a = d.stagingReg a := by
  refine stagingReg_congr ?_ (reg_uncheck d h)
  obtain ⟨l, g, e⟩ := uncheck_fields d
  rw [e]

section
variable (d : Dev) {a : Nat} (v : Word)

theorem writeStaged_unstaged (h : isStaged a = false) : d.writeStaged a v = d := by
  simp [Dev.writeStaged, h]

theorem writeStaged_fields : ∃ l m g, d.writeStaged a v = { d with live := l, staged := m, stg := g } := by
  unfold Dev.writeStaged
  split
  · exact ⟨_, _, _, rfl⟩
  · split
    · obtain ⟨l, g, e⟩ := uncheck_fields (d.setReg a (stagedWord a v (d.reg a)))
      exact ⟨_, _, _, e⟩
    · exact (uncheck_fields _).imp fun l ⟨g, e⟩ => ⟨_, g, e⟩

theorem reg_writeStaged_other {b : Nat} (hb : b ≠ a) (hs : b ≠ rSTG_STATUS) : (d.writeStaged a v).reg b = d.reg b := by
  unfold Dev.writeStaged
  split
  · rfl
  · split
    · rw [reg_uncheck _ hs, reg_setReg_other _ _ hb]
    · exact reg_uncheck _ hs

theorem rb_writeStaged (ha : a < 0x50000 ∨ 0x90000 ≤ a) (x : Nat) : (d.writeStaged a v).rb x = d.rb x := by
  unfold Dev.writeStaged
  split
  · rfl
  · split
    · rw [rb_uncheck, rb_setReg _ _ _ ha]
    · exact rb_uncheck _ _

theorem and_or_and_not (m x y : Word) : m &&& ((x &&& m) ||| (y &&& ~~~m)) = m &&& x := by
  ext i hi
  simp only [BitVec.getElem_and, BitVec.getElem_or, BitVec.getElem_not]
  cases m[i] <;> simp

section
variable (hst : isStaged a = true) (hv : d.voiceAbsent a = false) (hm : d.pwr.mode ≠ .chuck)
include hst hv hm

/-- Outside CHUCK a staged write goes to the staging copy, and the last check is void. -/
theorem writeStaged_to_copy : ∃ g, d.writeStaged a v =
    ({ d with staged := tins d.staged a (stagedWord a v (d.stagingReg a)), stg := g } : Dev).uncheck := by
  rw [Dev.writeStaged, if_neg (by simp [hst, hv]), if_neg hm]
  exact ⟨_, rfl⟩

theorem reg_writeStaged_self (hs : a ≠ rSTG_STATUS) : (d.writeStaged a v).reg a = d.reg a := by
  obtain ⟨g, e⟩ := writeStaged_to_copy d v hst hv hm
  rw [e, reg_uncheck _ hs]
  rfl

theorem staging_writeStaged (hs : a ≠ rSTG_STATUS) :
    accMask a .st &&& (d.writeStaged a v).stagingReg a = accMask a .st &&& stagedWord a v (d.stagingReg a) := by
  obtain ⟨g, e⟩ := writeStaged_to_copy d v hst hv hm
  rw [e, stagingReg_uncheck _ hs, Dev.stagingReg]
  simp only [tfind_tins_self]
  exact and_or_and_not _ _ _

end

end

/-! ### A write by the access codes (R6, R7) -/

section
variable (d : Dev) {a : Nat} (v : Word)

/-- Fields that are all staged take no live write. -/
theorem fieldWrites_staged (lkOpen : Bool) (w : Word) {l : List FieldDesc} (h : ∀ f ∈ l, f.acc = .st) :
    l.foldl (fieldWrite a lkOpen v) w = w := by
  induction l with
  | nil => rfl
  | cons f l ih =>
    have hf : fieldWrite a lkOpen v w f = w := fieldWrite_unwritten a lkOpen v w (.inr (.inr (h f List.mem_cons_self)))
    rw [List.foldl_cons, hf, ih fun g hg => h g (List.mem_cons_of_mem _ hg)]

theorem reg_writeLive_self : (d.writeLive a v).reg a = (regFields a).foldl (fieldWrite a d.lkOpen v) (d.reg a) :=
  reg_setReg_self _ _ _

theorem voiceAbsent_outside (h : a < 0x50000 ∨ 0x90000 ≤ a) : d.voiceAbsent a = false := by
  unfold Dev.voiceAbsent
  rcases h with h | h
  · rw [decide_eq_false (by omega : ¬ 0x50000 ≤ a)]; rfl
  · rw [decide_eq_false (by omega : ¬ a < 0x90000)]; simp

variable (h : a < 0x50000 ∨ 0x90000 ≤ a)
include h

theorem writeReg_outside : d.writeReg a v = (d.writeLive a v).writeStaged a v := by
  rw [Dev.writeReg, voiceAbsent_outside d h]; rfl

theorem writeReg_fields : ∃ l m g, d.writeReg a v = { d with live := l, staged := m, stg := g } := by
  obtain ⟨l, m, g, e⟩ := writeStaged_fields (d.writeLive a v) (a := a) v
  exact ⟨l, m, g, by rw [writeReg_outside d v h, e]; rfl⟩

theorem rb_writeReg (x : Nat) : (d.writeReg a v).rb x = d.rb x := by
  rw [writeReg_outside d v h, rb_writeStaged _ _ h, Dev.writeLive, rb_setReg _ _ _ h]

theorem reg_writeReg_other {b : Nat} (hb : b ≠ a) (hs : b ≠ rSTG_STATUS) : (d.writeReg a v).reg b = d.reg b := by
  rw [writeReg_outside d v h, reg_writeStaged_other _ _ hb hs, Dev.writeLive, reg_setReg_other _ _ hb]

/-- A register without ST fields takes the write field by field. -/
theorem reg_writeReg_unstaged (hst : isStaged a = false) :
    (d.writeReg a v).reg a = (regFields a).foldl (fieldWrite a d.lkOpen v) (d.reg a) := by
  rw [writeReg_outside d v h, writeStaged_unstaged _ _ hst, reg_writeLive_self]

/-- Outside CHUCK a register of ST fields alone keeps its live word, and its staging copy takes the write. -/
theorem writeReg_staged (hst : isStaged a = true) (hm : d.pwr.mode ≠ .chuck) (hs : a ≠ rSTG_STATUS)
    (hall : ∀ f ∈ regFields a, f.acc = .st) :
    (d.writeReg a v).reg a = d.reg a ∧
    accMask a .st &&& (d.writeReg a v).stagingReg a = accMask a .st &&& stagedWord a v (d.stagingReg a) := by
  have hlive : (d.writeLive a v).reg a = d.reg a := by rw [reg_writeLive_self, fieldWrites_staged v _ _ hall]
  rw [writeReg_outside d v h]
  have hv : (d.writeLive a v).voiceAbsent a = false := voiceAbsent_outside _ h
  refine ⟨?_, ?_⟩
  · rw [reg_writeStaged_self _ _ hst hv hm hs, hlive]
  · rw [staging_writeStaged _ _ hst hv hm hs, stagingReg_congr (d := d) (e := d.writeLive a v) rfl hlive]

end

/-! ### Where a write goes (R11 to R15, R271) -/

theorem exec_registerWrite (s : State) (addr v : Word) (h : s.dev.hears = true) :
    exec (.registerWrite addr v) s = done s (s.dev.busWrite (addr.toNat / 4 * 4) v) := by
  show done s (s.dev.heard (registerWrite addr v)) = _
  rw [heard_of _ _ h]
  rfl

theorem ruled_register (d : Dev) {a : Nat} (h : a < 0x150000) : d.ruled a = (regAt a).isNone := by
  rw [Dev.ruled, if_pos h]

theorem ruled_stock (d : Dev) {a : Nat} (h : stockBase ≤ a) (h' : a < 0x4000000) : d.ruled a = false := by
  have hb : 0x1000000 ≤ a := h
  rw [Dev.ruled, if_neg (by omega), if_pos ⟨h, h'⟩]

/-- The spindle windows: the mailbox is always open, the other memories as the mode says, and nothing lies above them. -/
theorem ruled_spindle (d : Dev) {a : Nat} (h : 0x4000000 ≤ a) (h' : a < 0x4400000) : d.ruled a =
    if 0x28000 ≤ spnOfs a then true else if 0xF000 ≤ spnOfs a ∧ spnOfs a < 0x10000 then false else !d.memOpen := by
  rw [Dev.ruled, if_neg (by omega), if_neg (by omega), if_pos ⟨h, h'⟩]

theorem memOpen_iff (d : Dev) : d.memOpen = true ↔ d.pwr.mode = .chuck ∨ d.pwr.mode = .service := by
  simp [Dev.memOpen]

theorem busWrite_ruled (d : Dev) {a : Nat} (v : Word) (h : d.ruled a = true) : d.busWrite a v = d := by
  rw [Dev.busWrite, if_pos h]

theorem busWrite_register (d : Dev) {a : Nat} (v : Word) (h : a < 0x150000) (hr : (regAt a).isSome = true) :
    d.busWrite a v = d.writeAct a v := by
  have hn : ¬ d.ruled a = true := by rw [ruled_register d h, Option.isNone_eq_false_iff.mpr hr]; decide
  rw [Dev.busWrite, if_neg hn, if_pos h]

theorem busWrite_spindle (d : Dev) {a : Nat} (v : Word) (h : 0x4000000 ≤ a) (h' : a < 0x4400000) (hr : d.ruled a = false)
    (hz : d.pwr.zeroFill = false) : d.busWrite a v = d.spnWrite a v := by
  have hhw : a < hwBase := by unfold hwBase; omega
  rw [Dev.busWrite, if_neg (by simp [hr]), if_neg (by omega), if_neg (by simp [hz]), if_neg (by omega), if_pos hhw]

/-- Every register of intake but NOTE_STAT takes a write by its access codes alone. -/
theorem writeAct_intake (d : Dev) {a : Nat} (v : Word) (hb : a / 0x10000 = 3) (hn : a ≠ rNOTE_STAT) :
    d.writeAct a v = d.writeReg a v := by
  have hne (r : Nat) (hr : r / 0x10000 ≠ 3) : a ≠ r := fun e => hr (e ▸ hb)
  simp only [Dev.writeAct, hn, hb, if_false, hne rSYS_MODE (by decide), hne rSYS_RESET (by decide), hne rSTG_CTRL (by decide),
    hne rALLOC_STAT (by decide), hne rMIX_CTRL (by decide), hne rSAP_START (by decide), hne rCVO_AT_CTRL (by decide),
    hne rTMR_CTRL (by decide), hne rCBL_MCMD (by decide), hne rAGE_CTRL (by decide), hne rTIME_CTRL (by decide)]

/-! ### Words of memory (R12, R13, R16) -/

theorem getD_leBytes {n i : Nat} (v : Nat) (h : i < n) : (leBytes n v).getD i 0 = BitVec.ofNat 8 (v / 256 ^ i) := by
  induction n generalizing i v with
  | zero => omega
  | succ n ih =>
    cases i with
    | zero => simp [leBytes]
    | succ i =>
      rw [leBytes, List.getD_cons_succ, ih _ (by omega), Nat.div_div_eq_div_mul, Nat.pow_succ, Nat.mul_comm 256]

/-- The bytes of a stored word, lowest first. -/
theorem rb_ww32_byte (d : Dev) (a : Nat) (w : Word) {i : Nat} (h : i < 4) :
    (d.ww32 a w).rb (a + i) = BitVec.ofNat 8 (w.toNat / 256 ^ i) := by
  rw [rb_ww32, if_pos (by omega), Nat.add_sub_cancel_left, getD_leBytes _ h]

theorem rb_ww32_apart (d : Dev) (a : Nat) (w : Word) {b : Nat} (h : b < a ∨ a + 4 ≤ b) : (d.ww32 a w).rb b = d.rb b := by
  rw [rb_ww32, if_neg (by omega)]

/-- A spindle's memory takes the word, and the ROM copy gives way to it. -/
theorem spnWrite_eq (d : Dev) (a : Nat) (v : Word) :
    ∃ r, d.spnWrite a v = ({ d with pwr := { d.pwr with rom := r } } : Dev).ww32 a v := ⟨_, rfl⟩

/-- A write to a word without an error in it corrects nothing. -/
theorem rmwWrite_clean (d : Dev) (off : Nat) (bs : List Byte) : d.rmwWrite off 0 bs = d.wbs (stockBase + off) bs := by
  simp [Dev.rmwWrite, Dev.ecc]

/-- Stock takes the word whole where its bank is the host's. -/
theorem busWrite_stock (d : Dev) {a : Nat} (v : Word) (h : stockBase ≤ a) (h' : a < 0x4000000) (hz : d.pwr.zeroFill = false)
    (ho : d.bankCur (bankOf (a - stockBase)) = 6) : d.busWrite a v = d.ww32 a v := by
  have hb : 0x1000000 ≤ a := h
  rw [Dev.busWrite, if_neg (by simp [ruled_stock d h h']), if_neg (by omega), if_neg (by simp [hz]), if_pos h']
  simp only [if_pos ho, rmwWrite_clean, Nat.add_sub_cancel' h, Dev.ww32]

/-- Settles O7: each target from the lemma on its kind of address. -/
theorem registerWriteReachesItsTarget : Obligations.RegisterWriteReachesItsTarget := by
  intro s addr v d a open_ space mailbox byteOf hears
  have hexec : exec (.registerWrite addr v) s = .next { s with dev := d.busWrite a v } := exec_registerWrite s addr v hears
  have hruled (h : d.ruled a = true) : exec (.registerWrite addr v) s = .next s := by rw [hexec, busWrite_ruled d v h]
  have hspace (h : space) (hn : ¬ mailbox) : d.ruled a = if 0x28000 ≤ spnOfs a then true else !d.memOpen := by
    rw [ruled_spindle d h.1 h.2, if_neg fun hm => hn ⟨h, hm⟩]
  refine ⟨fun hblock hstat hreg => ?intake, fun hlt hnone => ?nothing, fun hwhere hz => ?spindle, fun hs hno hnm => ?closed,
    fun hlo hhi hz howner => ?stock⟩
  case intake =>
    have hout : a < 0x50000 ∨ 0x90000 ≤ a := by omega
    have hstg : a ≠ rSTG_STATUS := fun e => by rw [e] at hblock; exact absurd hblock (by decide)
    rw [busWrite_register d v (by omega) hreg, writeAct_intake d v hblock hstat] at hexec
    refine ⟨_, hexec, reg_writeReg_unstaged d v hout, fun hst hm hall => writeReg_staged d v hout hst hm hstg hall,
      fun b hb _ => ?_, rb_writeReg d v hout, ?_⟩
    · rw [List.mem_cons, List.mem_singleton, not_or] at hb
      exact reg_writeReg_other d v hout hb.1 hb.2
    · obtain ⟨l, m, g, e⟩ := writeReg_fields d v hout
      rw [e]
  case nothing => exact hruled (by rw [ruled_register d hlt, hnone])
  case spindle =>
    have hs : space := hwhere.elim (·.1) (·.1)
    have hopen : d.ruled a = false := by
      rw [ruled_spindle d hs.1 hs.2]
      rcases hwhere with ⟨-, hofs, hmode⟩ | ⟨-, hbox⟩
      · rw [if_neg (by omega), (memOpen_iff d).mpr hmode]; simp
      · rw [if_neg (by omega), if_pos hbox]
    obtain ⟨r, hr⟩ := spnWrite_eq d a v
    rw [busWrite_spindle d v hs.1 hs.2 hopen hz, hr] at hexec
    refine ⟨_, hexec, fun i hi => rb_ww32_byte _ _ _ hi, fun b hb => rb_ww32_apart _ _ _ hb, ?_⟩
    obtain ⟨l, m, e⟩ := wbs_fields (leBytes 4 v.toNat) { d with pwr := { d.pwr with rom := r } } a
    rw [Dev.ww32, e]
  case closed =>
    have hmem : d.memOpen = false := Bool.eq_false_iff.mpr fun h => hno ((memOpen_iff d).mp h)
    exact hruled (by rw [hspace hs hnm, hmem]; simp)
  case stock =>
    rw [busWrite_stock d v hlo hhi hz howner] at hexec
    exact ⟨_, hexec, fun i hi => rb_ww32_byte _ _ _ hi, fun b hb => rb_ww32_apart _ _ _ hb⟩

end Sys2Proof.Scope
end

section
/-! PROOFS. The ways into BLANK and the straps (R10, R21 to R25, R47). -/
namespace Sys2Proof.Scope
open Sys2Proof.Machine Sys2Proof.Laws

/-! ### One bit of a word -/

/-- A one-bit field set to 1 sets its bit and no other. -/
theorem bitOf_setField_one (w : Word) {k b : Nat} (hk : k < 32) :
    bitOf (setField w k k 1) b = (bitOf w b || decide (b = k)) := by
  unfold bitOf
  rw [getLsbD_setField _ _ _ _ _ (Nat.le_refl k) hk]
  by_cases h : b = k
  · subst h; simp
  · rw [if_neg (by omega), decide_eq_false h, Bool.or_false]

/-! ### A device in BLANK (R10, R20, R25) -/

/-- The registers that a reset does not put at their reset values: the always-on ones, the straps, the clock status. -/
abbrev resetSurvivors : List Nat := [rSYS_RSTCAUSE, rSYS_AON_SEC, rSYS_STRAP, rSYS_CLKSTAT]

/-- Device `e` has come to BLANK from `d`: flash and fuses of `d`, registers but the survivors at their reset values, outputs
inert, engines and services as at reset. -/
structure InBlank (d e : Dev) : Prop where
  mode : e.pwr.mode = .blank
  frozen : e.pwr.frozen = false
  boot : e.pwr.boot = none
  inert : e.pins.inert = true
  flash : e.flash = d.flash
  fuses : e.fuses = d.fuses
  regs : ∀ a, a ∉ resetSurvivors → e.reg a = resetWord a
  rest : e = { State.reset.dev with
    live := e.live, mem := e.mem, flash := e.flash, free := e.free, pwr := e.pwr, time := e.time, fuses := e.fuses,
    pins := e.pins }

section
variable {d e : Dev}

theorem InBlank.setReg (h : InBlank d e) {a : Nat} (w : Word) (ha : a ∈ resetSurvivors) : InBlank d (e.setReg a w) :=
  { h with
    regs := fun b hb => by rw [reg_setReg_other _ _ (ne_of_mem_of_not_mem ha hb).symm, h.regs b hb]
    rest := by rw [h.rest]; rfl }

theorem InBlank.fp (h : InBlank d e) (f : Fld) (v : Nat) (hf : f.addr ∈ resetSurvivors) : InBlank d (e.fp f v) := h.setReg _ hf

/-- The power state and the clocks may move while the mode stays BLANK. -/
theorem InBlank.withPwr (h : InBlank d e) (p : Pwr) (t : Time) (hm : p.mode = .blank) (hf : p.frozen = false)
    (hb : p.boot = none) : InBlank d { e with pwr := p, time := t } :=
  { h with
    mode := hm
    frozen := hf
    boot := hb
    rest := by rw [h.rest] }

end

/-! ### What every reset does (R10, R25, R289) -/

section
variable (d : Dev) (por : Bool)

/-- Cause, always-on seconds and straps come through a reset. -/
theorem reg_blank_survivor {a : Nat} (h : a ∈ [rSYS_RSTCAUSE, rSYS_AON_SEC, rSYS_STRAP]) : (d.blank por).reg a = d.reg a := by
  simp only [List.mem_cons, List.not_mem_nil, or_false] at h
  rcases h with rfl | rfl | rfl <;> simp [Dev.blank, reg_setReg, rSYS_RSTCAUSE, rSYS_AON_SEC, rSYS_STRAP, rSYS_CLKSTAT]

theorem inBlank_blank : InBlank d (d.blank por) := by
  unfold Dev.blank
  refine (((InBlank.setReg ?_ _ (by decide)).setReg _ (by decide)).setReg _ (by decide)).setReg _ (by decide)
  exact { mode := rfl, frozen := rfl, boot := rfl, inert := rfl, flash := rfl, fuses := rfl, regs := fun _ _ => rfl, rest := rfl }

end

/-! ### Causes of a reset (R47) -/

/-- The bits of `l` set in SYS_RSTCAUSE. -/
def setCauses (l : List Nat) (d : Dev) : Dev := each l (fun k d => d.fp ⟨rSYS_RSTCAUSE, k, k⟩ 1) d

theorem setCauses_fields (l : List Nat) (d : Dev) : ∃ r, setCauses l d = { d with live := r } := by
  induction l generalizing d with
  | nil => exact ⟨_, rfl⟩
  | cons k l ih =>
    obtain ⟨r, e⟩ := ih (d.fp ⟨rSYS_RSTCAUSE, k, k⟩ 1)
    exact ⟨r, e⟩

theorem reg_setCauses_other (l : List Nat) (d : Dev) {a : Nat} (h : a ≠ rSYS_RSTCAUSE) : (setCauses l d).reg a = d.reg a :=
  each_keeps d (·.reg a) l _ fun _ _ e => reg_fp_other e _ _ h

theorem bitOf_setCauses (l : List Nat) (d : Dev) (hl : ∀ k ∈ l, k < 32) (b : Nat) :
    bitOf ((setCauses l d).reg rSYS_RSTCAUSE) b = (bitOf (d.reg rSYS_RSTCAUSE) b || decide (b ∈ l)) := by
  induction l generalizing d with
  | nil => simp [setCauses]
  | cons k l ih =>
    have hk : k < 32 := hl k List.mem_cons_self
    rw [setCauses, each_cons, ← setCauses, ih _ fun j hj => hl j (List.mem_cons_of_mem _ hj), Dev.fp, reg_setReg_self,
      bitOf_setField_one _ hk, Bool.or_assoc, ← Bool.decide_or]
    simp only [List.mem_cons]

theorem InBlank.setCauses {d e : Dev} (h : InBlank d e) (l : List Nat) : InBlank d (setCauses l e) := by
  induction l generalizing e with
  | nil => exact h
  | cons k l ih => exact ih (h.fp ⟨rSYS_RSTCAUSE, k, k⟩ 1 List.mem_cons_self)

/-- A reset that keeps the cause register's bits gains those of `l`. -/
theorem bitOf_rstcause_blank (l : List Nat) (d : Dev) (por : Bool) (hl : ∀ k ∈ l, k < 32) (b : Nat) :
    bitOf ((setCauses l (d.blank por)).reg rSYS_RSTCAUSE) b = (bitOf (d.reg rSYS_RSTCAUSE) b || decide (b ∈ l)) := by
  rw [bitOf_setCauses l _ hl, reg_blank_survivor d por (by decide)]

/-- A pin or software reset keeps memories, always-on seconds and straps. -/
theorem warmReset_keeps (l : List Nat) (d : Dev) :
    (setCauses l (d.blank false)).mem = d.mem ∧ (setCauses l (d.blank false)).reg rSYS_AON_SEC = d.reg rSYS_AON_SEC ∧
    (setCauses l (d.blank false)).reg rSYS_STRAP = d.reg rSYS_STRAP := by
  refine ⟨?_, ?_, ?_⟩
  · obtain ⟨r, e⟩ := setCauses_fields l (d.blank false)
    rw [e]
    rfl
  · rw [reg_setCauses_other _ _ (by decide), reg_blank_survivor d false (by decide)]
  · rw [reg_setCauses_other _ _ (by decide), reg_blank_survivor d false (by decide)]

theorem pinReset_of_on (d : Dev) (h : d.pwr.mode ≠ .shelf) : pinReset d =
    { setCauses [2] (d.blank false) with pwr := { (d.blank false).pwr with resetLow := true, sampled := false } } := by
  unfold pinReset
  rw [if_neg h]
  rfl

theorem softwareReset_of_key (d : Dev) {v : Word} (h : d.pwr.mode ≠ .shelf) (hk : fieldOf v 31 16 = 0xC1A5)
    (hg : bitOf v 0 = true) : softwareReset v d = setCauses [3] (d.blank false) := by
  unfold softwareReset
  rw [if_neg (by simp [h, hk, hg])]
  rfl

/-! ### The straps (R23) -/

section
variable (d : Dev) (st : Straps)

/-- The straps of `st` have been sampled into SYS_STRAP. -/
structure Strapped (e : Dev) : Prop where
  sampled : e.pwr.sampled = true
  svc : e.on SYS_STRAP_SVC = st.svc
  head : e.on SYS_STRAP_HEAD = st.head
  bootsel : e.fg SYS_STRAP_BOOTSEL = 2 * st.bootsel1.toNat + st.bootsel0.toNat

/-- The three fields of SYS_STRAP written by a sampling. -/
def strapFields : Dev :=
  ((d.fp SYS_STRAP_SVC st.svc.toNat).fp SYS_STRAP_HEAD st.head.toNat).fp SYS_STRAP_BOOTSEL
    (2 * st.bootsel1.toNat + st.bootsel0.toNat)

theorem sample_eq : d.sample st = { strapFields d st with pwr := { d.pwr with sampled := true } } := by
  unfold Dev.sample strapFields
  simp only [Bool.toNat, Bool.cond_eq_ite]

theorem reg_sample_other {a : Nat} (h : a ≠ rSYS_STRAP) : (d.sample st).reg a = d.reg a := by
  rw [sample_eq]
  show (strapFields d st).reg a = _
  unfold strapFields
  rw [reg_fp_other _ _ _ h, reg_fp_other _ _ _ h, reg_fp_other _ _ _ h]

theorem strapped_sample : Strapped st (d.sample st) := by
  rw [sample_eq]
  refine { sampled := rfl, svc := ?_, head := ?_, bootsel := ?_ }
  · show (strapFields d st).on SYS_STRAP_SVC = _
    unfold strapFields
    rw [on_fp_other _ _ _ _ (by decide) (by decide), on_fp_other _ _ _ _ (by decide) (by decide), on_fp_self _ _ _ (by decide)]
    cases st.svc <;> rfl
  · show (strapFields d st).on SYS_STRAP_HEAD = _
    unfold strapFields
    rw [on_fp_other _ _ _ _ (by decide) (by decide), on_fp_self _ _ _ (by decide)]
    cases st.head <;> rfl
  · show (strapFields d st).fg SYS_STRAP_BOOTSEL = _
    unfold strapFields
    rw [fg_fp_self _ _ _ (by decide)]
    cases st.bootsel1 <;> cases st.bootsel0 <;> rfl

theorem InBlank.sample {d e : Dev} (h : InBlank d e) : InBlank d (e.sample st) := by
  rw [sample_eq]
  refine InBlank.withPwr (e := strapFields e st) ?_ _ e.time h.mode h.frozen h.boot
  exact ((h.fp _ _ (by decide)).fp _ _ (by decide)).fp _ _ (by decide)

end

/-! ### Power-on (R21, R22, R47) -/

/-- What a power-on with VAON present adds to SYS_RSTCAUSE. -/
def powerOnCauses (d : Dev) : List Nat :=
  if d.pwr.mode = .shelf then
    if d.pwr.latch = some 8 then [1, 8] else if d.pwr.latch = some 7 then [1, 10] else if d.pwr.latch = some 0 then [1, 9] else [1]
  else [4]

/-- The device after a power-on, before its straps. -/
def poweredOn (lost : Bool) (d : Dev) : Dev :=
  let b := d.blank true
  if lost then
    { (b.setReg rSYS_RSTCAUSE 1).setReg rSYS_AON_SEC 0 |>.fp SYS_CLKSTAT_XO32_OK 0 with
      time := { b.time with xo := 0, aonXo := 0 }, pwr := { b.pwr with shelfXo := false } }
  else
    { setCauses (powerOnCauses d) b with pwr := { b.pwr with shelfXo := d.pwr.mode == .shelf && b.pwr.shelfXo } }

/-- The straps of a power-on: sampled unless RESET_N is low. -/
def strapsAtPowerOn (low : Bool) (st : Straps) (e : Dev) : Dev :=
  if low then { e with pwr := { e.pwr with sampled := false } } else e.sample st

theorem powerOnCauses_lt (d : Dev) : ∀ k ∈ powerOnCauses d, k < 32 := by
  unfold powerOnCauses
  repeat' split
  all_goals decide

theorem powerOn_eq (lost : Bool) (st : Straps) (d : Dev) (h : d.pwr.mode ≠ .shelf ∨ d.pwr.pwrEn = true ∨ lost = true) :
    powerOn lost st d = strapsAtPowerOn d.pwr.resetLow st (poweredOn lost d) := by
  have hgo : ¬ (d.pwr.mode == .shelf && !lost && !d.pwr.pwrEn) = true := by
    simp only [Bool.and_eq_true, Bool.not_eq_true', beq_iff_eq, not_and]
    rintro ⟨hm, hl⟩ hp
    simp [hm, hl, hp] at h
  unfold powerOn
  dsimp only
  rw [if_neg hgo]
  refine congrArg (strapsAtPowerOn d.pwr.resetLow st) ?_
  cases lost with
  | true => rfl
  | false =>
    unfold poweredOn powerOnCauses
    by_cases hm : d.pwr.mode = .shelf
    · simp only [hm, Bool.false_eq_true, if_false, beq_self_eq_true, if_true]
      split
      case h_1 h8 => rw [if_pos h8]; rfl
      case h_2 h7 => rw [if_neg (by simp [h7]), if_pos h7]; rfl
      case h_3 h0 => rw [if_neg (by simp [h0]), if_neg (by simp [h0]), if_pos h0]; rfl
      case h_4 h8 h7 h0 => rw [if_neg h8, if_neg h7, if_neg h0]; rfl
    · rw [if_neg hm, if_neg (by decide), if_neg (by simpa using hm), if_neg (by decide), beq_eq_false_iff_ne.mpr hm]
      rfl

section
variable (lost : Bool) (d : Dev)

theorem inBlank_poweredOn : InBlank d (poweredOn lost d) := by
  have hb := inBlank_blank d true
  cases lost with
  | true =>
    exact (((hb.setReg 1 (a := rSYS_RSTCAUSE) (by decide)).setReg 0 (a := rSYS_AON_SEC) (by decide)).fp SYS_CLKSTAT_XO32_OK 0
      (by decide)).withPwr _ _ rfl rfl rfl
  | false => exact (hb.setCauses (powerOnCauses d)).withPwr _ (setCauses (powerOnCauses d) (d.blank true)).time rfl rfl rfl

theorem poweredOn_zeroFill : (poweredOn lost d).mem = [] ∧ (poweredOn lost d).pwr.zeroFill = true ∧
    (poweredOn lost d).pwr.por = true := by
  cases lost with
  | true => exact ⟨rfl, rfl, rfl⟩
  | false =>
    refine ⟨?_, rfl, rfl⟩
    obtain ⟨r, e⟩ := setCauses_fields (powerOnCauses d) (d.blank true)
    show (setCauses (powerOnCauses d) (d.blank true)).mem = []
    rw [e]
    rfl

theorem poweredOn_lost : (poweredOn true d).reg rSYS_RSTCAUSE = 1 ∧ (poweredOn true d).reg rSYS_AON_SEC = 0 := by
  show (((((d.blank true).setReg rSYS_RSTCAUSE 1).setReg rSYS_AON_SEC 0).fp SYS_CLKSTAT_XO32_OK 0).reg rSYS_RSTCAUSE = 1) ∧
    (((((d.blank true).setReg rSYS_RSTCAUSE 1).setReg rSYS_AON_SEC 0).fp SYS_CLKSTAT_XO32_OK 0).reg rSYS_AON_SEC = 0)
  rw [reg_fp_other _ _ _ (by decide), reg_fp_other _ _ _ (by decide), reg_setReg_other _ _ (by decide), reg_setReg_self,
    reg_setReg_self]
  exact ⟨rfl, rfl⟩

theorem poweredOn_kept : (poweredOn false d).reg rSYS_AON_SEC = d.reg rSYS_AON_SEC ∧
    ∀ b, bitOf ((poweredOn false d).reg rSYS_RSTCAUSE) b =
      (bitOf (d.reg rSYS_RSTCAUSE) b || decide (b ∈ powerOnCauses d)) := by
  have hreg (a : Nat) : (poweredOn false d).reg a = (setCauses (powerOnCauses d) (d.blank true)).reg a := rfl
  refine ⟨?_, fun b => ?_⟩
  · rw [hreg, reg_setCauses_other _ _ (by decide), reg_blank_survivor d true (by decide)]
  · rw [hreg, bitOf_rstcause_blank _ _ _ (powerOnCauses_lt d)]

end

section
variable (low : Bool) (st : Straps) (e : Dev)

theorem strapsAtPowerOn_fields : ∃ l b, strapsAtPowerOn low st e = { e with live := l, pwr := { e.pwr with sampled := b } } := by
  cases low <;> exact ⟨_, _, rfl⟩

theorem reg_strapsAtPowerOn {a : Nat} (h : a ≠ rSYS_STRAP) : (strapsAtPowerOn low st e).reg a = e.reg a := by
  cases low with
  | true => rfl
  | false => exact reg_sample_other e st h

theorem InBlank.strapsAtPowerOn {d e : Dev} (h : InBlank d e) : InBlank d (strapsAtPowerOn low st e) := by
  cases low with
  | true => exact h.withPwr { e.pwr with sampled := false } e.time h.mode h.frozen h.boot
  | false => exact h.sample st

end

section
variable {lost : Bool} {d : Dev} (st : Straps) (h : d.pwr.mode ≠ .shelf ∨ d.pwr.pwrEn = true ∨ lost = true)
include h

theorem inBlank_powerOn : InBlank d (powerOn lost st d) := by
  rw [powerOn_eq lost st d h]
  exact (inBlank_poweredOn lost d).strapsAtPowerOn _ st

theorem powerOn_zeroFill : (powerOn lost st d).mem = [] ∧ (powerOn lost st d).pwr.zeroFill = true ∧
    (powerOn lost st d).pwr.por = true := by
  obtain ⟨l, b, e⟩ := strapsAtPowerOn_fields d.pwr.resetLow st (poweredOn lost d)
  rw [powerOn_eq lost st d h, e]
  exact poweredOn_zeroFill lost d

theorem reg_powerOn {a : Nat} (ha : a ≠ rSYS_STRAP) : (powerOn lost st d).reg a = (poweredOn lost d).reg a := by
  rw [powerOn_eq lost st d h, reg_strapsAtPowerOn _ _ _ ha]

theorem strapped_powerOn (hr : d.pwr.resetLow = false) : Strapped st (powerOn lost st d) := by
  rw [powerOn_eq lost st d h, hr]
  exact strapped_sample _ st

end

theorem powerOnCauses_core {d : Dev} (h : d.pwr.mode ≠ .shelf) : powerOnCauses d = [4] := if_neg h

theorem powerOnCauses_shelf {d : Dev} (h : d.pwr.mode = .shelf) :
    (d.pwr.latch = some 8 → powerOnCauses d = [1, 8]) ∧ (d.pwr.latch = some 0 → powerOnCauses d = [1, 9]) ∧
    (d.pwr.latch = some 7 → powerOnCauses d = [1, 10]) := by
  rw [powerOnCauses, if_pos h]
  refine ⟨fun hl => ?_, fun hl => ?_, fun hl => ?_⟩ <;> simp [hl]

/-! ### RESET_N rising and the end of the zero-fill (R23, R289) -/

theorem resetNRisingEdge_of_low (st : Straps) (d : Dev) (hl : d.pwr.resetLow = true) (hm : d.pwr.mode ≠ .shelf) :
    resetNRisingEdge st d = Dev.sample { d with pwr := { d.pwr with resetLow := false } } st := by
  unfold resetNRisingEdge
  rw [if_neg (by simp [hl, hm])]

theorem zeroFillComplete_of_blank (d : Dev) (hm : d.pwr.mode = .blank) (hz : d.pwr.zeroFill = true) (hp : d.pwr.pend = none) :
    zeroFillComplete d = ({ d with pwr := { d.pwr with zeroFill := false } } : Dev).fp MEM_STAT_FILLED 1 := by
  unfold zeroFillComplete
  rw [if_neg (by simp [hm, hz])]
  dsimp only
  split
  · rfl
  · simp only [fp_pwr, hp]

/-! ### The commands -/

section
variable (s : State) (lost : Bool) (st : Straps) (v : Word)

theorem exec_powerOn : exec (.powerOn lost st) s = .next { s with dev := powerOn lost st s.dev } := rfl
theorem exec_pinReset : exec .pinReset s = .next { s with dev := pinReset s.dev } := rfl
theorem exec_softwareReset : exec (.softwareReset v) s = .next { s with dev := softwareReset v s.dev } := rfl
theorem exec_resetNRisingEdge : exec (.resetNRisingEdge st) s = .next { s with dev := resetNRisingEdge st s.dev } := rfl
theorem exec_zeroFillComplete : exec .zeroFillComplete s = .next { s with dev := zeroFillComplete s.dev } := rfl

end

/-- Settles O10: each reset from the lemmas on its parts; SYS_RSTCAUSE by the list of causes that the reset sets. -/
theorem resetsEnterBlank : Obligations.ResetsEnterBlank := by
  intro s lost st v blank cause strapped held
  have hblank {e : Dev} (h : InBlank s.dev e) : blank { s with dev := e } :=
    ⟨rfl, h.mode, h.frozen, h.boot, h.inert, h.flash, h.fuses, h.regs, h.rest⟩
  have hstrapped {e : Dev} (h : Strapped st e) : strapped { s with dev := e } := ⟨h.sampled, h.svc, h.head, h.bootsel⟩
  refine ⟨fun hm => ⟨?pin, fun hkey hgo => ?software⟩, fun hm => ?inShelf, fun hkey => ?wrongKey, fun hon => ?power,
    fun hl hm => ?rising, fun hm hz hp => ?filled⟩
  case pin =>
    rw [exec_pinReset, pinReset_of_on s.dev hm]
    refine ⟨_, rfl, hblank ?_, warmReset_keeps [2] s.dev, fun b _ => bitOf_rstcause_blank [2] s.dev false (by decide) b, rfl⟩
    exact ((inBlank_blank s.dev false).setCauses [2]).withPwr _ (setCauses [2] (s.dev.blank false)).time rfl rfl rfl
  case software =>
    rw [exec_softwareReset, softwareReset_of_key s.dev hm hkey hgo]
    exact ⟨_, rfl, hblank ((inBlank_blank s.dev false).setCauses [3]), warmReset_keeps [3] s.dev,
      fun b _ => bitOf_rstcause_blank [3] s.dev false (by decide) b⟩
  case inShelf => rw [exec_pinReset, pinReset, if_pos hm]
  case wrongKey => rw [exec_softwareReset, softwareReset, if_pos (.inr (.inl hkey))]
  case power =>
    obtain ⟨hmem, hfill, hpor⟩ := powerOn_zeroFill st hon
    have haon := reg_powerOn st hon (a := rSYS_AON_SEC) (by decide)
    have hreg := reg_powerOn st hon (a := rSYS_RSTCAUSE) (by decide)
    have hcause {l : List Nat} (hlost : lost = false) (hl : powerOnCauses s.dev = l) :
        cause { s with dev := powerOn lost st s.dev } l := fun b _ => by
      rw [hreg, hlost, (poweredOn_kept s.dev).2, hl]
    refine ⟨_, exec_powerOn s lost st, hblank (inBlank_powerOn st hon), hmem, hfill, hpor, fun hlost => ?_, fun hlost => ?_,
      fun hlost hm => hcause hlost (powerOnCauses_core hm), fun hlost hm hw => hcause hlost ((powerOnCauses_shelf hm).1 hw),
      fun hlost hm hw => hcause hlost ((powerOnCauses_shelf hm).2.1 hw),
      fun hlost hm hw => hcause hlost ((powerOnCauses_shelf hm).2.2 hw), fun hr => hstrapped (strapped_powerOn st hon hr)⟩
    · rw [hreg, haon, hlost]
      exact poweredOn_lost s.dev
    · rw [haon, hlost]
      exact (poweredOn_kept s.dev).1
  case rising =>
    rw [exec_resetNRisingEdge, resetNRisingEdge_of_low st s.dev hl hm]
    exact ⟨_, rfl, hstrapped (strapped_sample _ st), rfl, fun a ha _ => reg_sample_other _ st (List.ne_of_not_mem_cons ha), rfl⟩
  case filled =>
    rw [exec_zeroFillComplete, zeroFillComplete_of_blank s.dev hm hz hp]
    refine ⟨_, rfl, ?_, fun a ha _ => reg_fp_other _ _ _ (List.ne_of_not_mem_cons ha), rfl⟩
    rw [on_fp_self _ _ _ (by decide)]
    rfl

end Sys2Proof.Scope
end

section
/-! PROOFS. The state after reset (R10, R25, R171). -/
namespace Sys2Proof.Scope
open Sys2Proof.Machine

/-- Byte 3 of voice 0's slice is the top byte of VOICE_COM0 (R171), whose reset value is 0x8000_0000 (R216). -/
theorem rb_reset_voiceCom0 : State.reset.dev.rb 0x4000003 = 0x80 := by decide +kernel

/-- Refutes O2: not every byte of memory reads 0 after reset. A slice byte that a VOICE register maps lives in that register, and
VOICE_COM0 of voice 0 stands at its reset value 0x8000_0000, so that byte 0x400_0003 reads 0x80. -/
theorem not_resetState : ¬ Obligations.ResetState := by
  rintro ⟨-, -, -, -, -, -, hzero, -⟩
  have h : (0x80 : Byte) = 0 := rb_reset_voiceCom0 ▸ hzero 0x4000003
  exact absurd h (by decide)

end Sys2Proof.Scope
end

section
/-! PROOFS. What the operations behind the modes leave alone: parts of the device by `Keep`, registers block by block (R3, R19, R20). -/
namespace Sys2Proof.Modes
open Sys2Proof.Machine Sys2Proof.Laws

/-! ### A field reads its register -/

theorem fg_of_reg {d e : Dev} {f : Fld} (h : e.reg f.addr = d.reg f.addr) : e.fg f = d.fg f := by rw [Dev.fg, h, Dev.fg]
theorem on_of_reg {d e : Dev} {f : Fld} (h : e.reg f.addr = d.reg f.addr) : e.on f = d.on f := by rw [Dev.on, fg_of_reg h, Dev.on]

/-! ### Parts of the device -/

section
variable {M : Nat} {d e : Dev} (h : Keep Eq M d e)
include h

/-- The part of bit i is as it was where the mask leaves it out. -/
theorem part_of_keep {α : Type} (f : Dev → α) (i : Nat) (hf : f (splice M d e) = bif M.testBit i then f e else f d)
    (hM : M.testBit i = false) : f e = f d := by
  have he := congrArg f h.frame
  rwa [hf, hM] at he

theorem live_of_keep (hM : M.testBit 0 = false) : e.live = d.live := part_of_keep h Dev.live 0 rfl hM
theorem mem_of_keep (hM : M.testBit 2 = false) : e.mem = d.mem := part_of_keep h Dev.mem 2 rfl hM
theorem pwr_of_keep (hM : M.testBit 6 = false) : e.pwr = d.pwr := part_of_keep h Dev.pwr 6 rfl hM
theorem flash_of_keep (hM : M.testBit 3 = false) : e.flash = d.flash := part_of_keep h Dev.flash 3 rfl hM
theorem time_of_keep (hM : M.testBit 7 = false) : e.time = d.time := part_of_keep h Dev.time 7 rfl hM
theorem eng_of_keep (hM : M.testBit 11 = false) : e.eng = d.eng := part_of_keep h Dev.eng 11 rfl hM
theorem uarts_of_keep (hM : M.testBit 23 = false) : e.uarts = d.uarts := part_of_keep h Dev.uarts 23 rfl hM
theorem host_of_keep (hM : M.testBit 24 = false) : e.host = d.host := part_of_keep h Dev.host 24 rfl hM
theorem pins_of_keep (hM : M.testBit 28 = false) : e.pins = d.pins := part_of_keep h Dev.pins 28 rfl hM

theorem reg_of_keep (hM : M.testBit 0 = false) (a : Nat) : e.reg a = d.reg a := by
  rw [Dev.reg, live_of_keep h hM, Dev.reg]

/-- What no entry to a mode touches: flash, fuses, voices, contexts, the allocator, the ageing service and the journal. -/
theorem services_of_keep (hM : Nat.land M 0x600B008 = 0) : e.flash = d.flash ∧ e.fuses = d.fuses ∧ e.voices = d.voices ∧
    e.ctxs = d.ctxs ∧ e.alloc = d.alloc ∧ e.age = d.age ∧ e.nvj = d.nvj := by
  have bit (i : Nat) (hi : Nat.testBit 0x600B008 i = true) : M.testBit i = false := by
    have hz : (M &&& 0x600B008).testBit i = false := by rw [show M &&& 0x600B008 = 0 from hM, Nat.zero_testBit]
    rwa [Nat.testBit_and, hi, Bool.and_true] at hz
  exact ⟨part_of_keep h Dev.flash 3 rfl (bit 3 rfl), h.fuses.symm, part_of_keep h Dev.voices 12 rfl (bit 12 rfl),
    part_of_keep h Dev.ctxs 13 rfl (bit 13 rfl), part_of_keep h Dev.alloc 15 rfl (bit 15 rfl),
    part_of_keep h Dev.age 26 rfl (bit 26 rfl), part_of_keep h Dev.nvj 25 rfl (bit 25 rfl)⟩

end

/-! ### Clocks and the mode -/

section
variable (d : Dev)

theorem reg_setClocks (x hf sp ap lp : Bool) {a : Nat} (h : a ≠ rSYS_CLKSTAT) : (d.setClocks x hf sp ap lp).reg a = d.reg a := by
  unfold Dev.setClocks
  rw [reg_fp_other _ _ _ h, reg_fp_other _ _ _ h, reg_fp_other _ _ _ h, reg_fp_other _ _ _ h, reg_fp_other _ _ _ h,
    reg_fp_other _ _ _ h]

/-- Entering a mode changes SYS_CLKSTAT, the mode and its predecessor, and what the outputs do; nothing else. -/
theorem enter_fields (m : Mode) : ∃ l, d.enter m = { d with
    live := l, pwr := { d.pwr with prev := d.pwr.mode, mode := m }, pins := { d.pins with inert := !(m == .run || m == .rest) } } := by
  cases m <;> (try exact ⟨_, rfl⟩)
  unfold Dev.enter
  dsimp only
  split <;> exact ⟨_, rfl⟩

theorem enter_pwr (m : Mode) : (d.enter m).pwr = { d.pwr with prev := d.pwr.mode, mode := m } := by
  obtain ⟨l, e⟩ := enter_fields d m
  rw [e]

theorem reg_enter (m : Mode) {a : Nat} (h : a ≠ rSYS_CLKSTAT) : (d.enter m).reg a = d.reg a := by
  unfold Dev.enter
  cases m <;> dsimp only
  case rest => split <;> exact reg_setClocks _ _ _ _ _ _ h
  all_goals exact reg_setClocks _ _ _ _ _ _ h

/-- The hand-over of chain time ends REST-COLD and touches no register but SYS_CLKSTAT (R38, R399). -/
theorem handover_fields (ns : Nat) : ∃ l o x p, d.handover ns =
    { d with live := l, time := { d.time with off := o, xo := x, cold := none }, pwr := { d.pwr with cold := p } } := by
  unfold Dev.handover
  split
  · next h => exact ⟨d.live, d.time.off, d.time.xo, d.pwr.cold, by rw [← h]⟩
  · exact ⟨_, _, _, _, rfl⟩

theorem reg_handover (ns : Nat) {a : Nat} (h : a ≠ rSYS_CLKSTAT) : (d.handover ns).reg a = d.reg a := by
  unfold Dev.handover
  split
  · rfl
  · exact reg_fp_other _ _ _ h

/-! ### Engines, block by block (R19, R20) -/

theorem reg_portIdle {p : Nat} (hp : p < 3) {a : Nat} (h : a / 0x10000 ≠ 0xE) : (d.portIdle p).reg a = d.reg a := by
  have hne : a ≠ rCBL_P_STAT p := by unfold rCBL_P_STAT; omega
  unfold Dev.portIdle
  rw [reg_fp_other _ _ _ hne, reg_fp_other _ _ _ hne, reg_fp_other _ _ _ hne]
  rfl

theorem reg_portsIdle {a : Nat} (h : a / 0x10000 ≠ 0xE) : (each (List.range 3) (fun p d => d.portIdle p) d).reg a = d.reg a :=
  each_keeps d (·.reg a) _ _ fun _ hp y => reg_portIdle y (List.mem_range.mp hp) h

theorem reg_stopPorts {a : Nat} (h : a / 0x10000 ≠ 0xB) : d.stopPorts.reg a = d.reg a :=
  each_keeps d (·.reg a) _ _ fun n hn y => by
    have := List.mem_range.mp hn
    exact reg_fp_other _ _ _ (by show a ≠ 0xB1010 + n * 0x1000; omega)

theorem reg_stopStreams {a : Nat} (h : a / 0x10000 ≠ 0xF) : d.stopStreams.reg a = d.reg a :=
  each_keeps _ (·.reg a) _ _ fun n hn y => by
    have := List.mem_range.mp hn
    exact reg_fp_other _ _ _ (by show a ≠ 0xF0118 + n * 0x80; omega)

theorem reg_stopTimers {a : Nat} (h : a / 0x10000 ≠ 0xD) : d.stopTimers.reg a = d.reg a :=
  each_keeps d (·.reg a) _ _ fun n hn y => by
    have := List.mem_range.mp hn
    exact reg_fp_other _ _ _ (by show a ≠ 0xD0120 + n * 0x40; omega)

theorem reg_stopEngines {a : Nat} (h : a / 0x10000 ≠ 0xB ∧ a / 0x10000 ≠ 0xD ∧ a / 0x10000 ≠ 0xE ∧ a / 0x10000 ≠ 0xF) :
    d.stopEngines.reg a = d.reg a := by
  unfold Dev.stopEngines
  dsimp only
  rw [reg_portsIdle _ h.2.2.1, reg_stopTimers _ h.2.1, reg_stopStreams _ h.2.2.2, reg_stopPorts _ h.1]
  rfl

theorem reg_fillHeartwood {a : Nat} (h : a ≠ rMEM_HW) (hv : a < 0x50000 ∨ 0x90000 ≤ a) : d.fillHeartwood.reg a = d.reg a := by
  unfold Dev.fillHeartwood
  rw [reg_fp_other _ _ _ h, reg_wbs _ _ _ _ hv]

theorem reg_cvInit {n : Nat} (hn : n < 16) {a : Nat} (h : a / 0x10000 ≠ 0xC) : (d.cvInit n).reg a = d.reg a := by
  have hne : a ≠ rCVO_CH_VAL n := by unfold rCVO_CH_VAL; omega
  unfold Dev.cvInit
  dsimp only
  rw [reg_fp_other _ _ _ hne]
  exact reg_fp_other _ _ _ hne

theorem reg_cvRun {a : Nat} (h : a / 0x10000 ≠ 0xC) : d.cvRun.reg a = d.reg a :=
  each_keeps _ (·.reg a) _ _ fun _ hn y => reg_cvInit y (List.mem_range.mp (List.mem_of_mem_filter hn)) h

end

end Sys2Proof.Modes
end

section
/-! PROOFS. Entering the modes (R20, R28 to R32, R38, R43, R272, R403, R521): RUN from REST, SERVICE, REST, CHUCK. -/
namespace Sys2Proof.Modes
open Sys2Proof.Machine Sys2Proof.Laws

/-! ### Return to RUN (R32, R38, R403) -/

section
variable (d : Dev) (ns : Nat)

/-- No request waits, REST-COLD is over, the engine works. -/
def goOn (d : Dev) : Dev := { d with pwr := { d.pwr with cold := false, pend := none }, eng := { d.eng with on := true } }

theorem goOn_pwr : (goOn d).pwr = { d.pwr with cold := false, pend := none } := rfl
theorem goOn_time : (goOn d).time = d.time := rfl
theorem goOn_on : (goOn d).eng.on = true := rfl
theorem reg_goOn (a : Nat) : (goOn d).reg a = d.reg a := rfl

/-- The device that goes on in RUN, its anchor and its outputs still to come. -/
def inRun (d : Dev) (ns : Nat) : Dev := goOn ((d.handover ns).enter .run)

/-- The new anchor after REST-COLD (R403). -/
def reAnchor (cold : Bool) (d : Dev) : Dev :=
  if cold then (d.setAnchor.restampHist (d.setAnchor.now - 1000000000) true).armPorts d.setAnchor.eng.c else d

theorem resumeRun_eq : d.resumeRun ns = (reAnchor d.pwr.cold (inRun d ns)).cvRun.showPins := rfl

@[simp] theorem reg_showPins (a : Nat) : d.showPins.reg a = d.reg a := rfl
@[simp] theorem pwr_showPins : d.showPins.pwr = d.pwr := rfl
@[simp] theorem time_showPins : d.showPins.time = d.time := rfl
@[simp] theorem eng_showPins : d.showPins.eng = d.eng := rfl

theorem keep_reAnchor (cold : Bool) : Keep Eq 0x30A00 d (reAnchor cold d) := by
  unfold reAnchor
  split
  · exact Keep.Dev_armPorts _ _ (Keep.Dev_restampHist _ _ _ (Keep.Dev_setAnchor _ (Keep.refl d rfl) rfl) rfl) rfl
  · exact Keep.refl d rfl

theorem keep_cvRun_showPins : Keep Eq 0x10040001 d d.cvRun.showPins :=
  Keep.Dev_showPins _ (Keep.Dev_cvRun _ (Keep.refl d rfl) rfl) rfl

theorem on_reAnchor (cold : Bool) : (reAnchor cold d).eng.on = d.eng.on := by
  unfold reAnchor
  split
  · have h : Keep Eq 0x20200 d.setAnchor ((d.setAnchor.restampHist (d.setAnchor.now - 1000000000) true).armPorts d.setAnchor.eng.c) :=
      Keep.Dev_armPorts _ _ (Keep.Dev_restampHist _ _ _ (Keep.refl _ rfl) rfl) rfl
    rw [eng_of_keep h rfl]
    rfl
  · rfl

theorem inRun_pwr : (inRun d ns).pwr = { d.pwr with mode := .run, prev := d.pwr.mode, cold := false, pend := none } := by
  obtain ⟨l, o, x, p, e⟩ := handover_fields d ns
  rw [inRun, goOn_pwr, enter_pwr, e]

theorem reg_inRun {a : Nat} (h : a ≠ rSYS_CLKSTAT) : (inRun d ns).reg a = d.reg a := by
  rw [inRun, reg_goOn, reg_enter _ _ h, reg_handover _ _ h]

theorem resumeRun_pwr : (d.resumeRun ns).pwr = { d.pwr with mode := .run, prev := d.pwr.mode, cold := false, pend := none } := by
  rw [resumeRun_eq, pwr_of_keep (keep_cvRun_showPins _) rfl, pwr_of_keep (keep_reAnchor _ _) rfl, inRun_pwr]

theorem resumeRun_on : (d.resumeRun ns).eng.on = true := by
  rw [resumeRun_eq, eng_of_keep (keep_cvRun_showPins _) rfl, on_reAnchor, inRun, goOn_on]

/-- Of the time base a return to RUN moves what REST-COLD kept on XO32, and ends it (R38, R399). -/
theorem resumeRun_time : ∃ o x, (d.resumeRun ns).time = { d.time with off := o, xo := x, cold := none } := by
  obtain ⟨l, o, x, p, e⟩ := handover_fields d ns
  obtain ⟨l', e'⟩ := enter_fields (d.handover ns) .run
  refine ⟨o, x, ?_⟩
  rw [resumeRun_eq, time_of_keep (keep_cvRun_showPins _) rfl, time_of_keep (keep_reAnchor _ _) rfl, inRun, goOn_time, e', e]

/-- A return to RUN writes SYS_CLKSTAT and the CV outputs' values, no other register. -/
theorem reg_resumeRun {a : Nat} (h : a ≠ rSYS_CLKSTAT) (hc : a / 0x10000 ≠ 0xC) : (d.resumeRun ns).reg a = d.reg a := by
  rw [resumeRun_eq, reg_showPins, reg_cvRun _ hc, reg_of_keep (keep_reAnchor _ _) rfl, reg_inRun _ _ h]

end

/-! ### Entry to SERVICE (R20, R272, R521) -/

section
variable (d : Dev)

/-- The power state of SERVICE: no boot, no request, no fault under way. -/
def toService (d : Dev) : Dev :=
  ({ d with
    pwr := { d.pwr with frozen := false, fatalStep := 0, boot := none, pend := none, cold := false }
    evt := { d.evt with erase := none } } : Dev).enter .service

/-- The device in SERVICE before its host port, Heartwood and banks are set up. -/
def inService (d : Dev) : Dev := toService (d.handover 0).stopEngines

theorem enterService_eq : d.enterService = (inService d).serviceActions := rfl

theorem stopEngines_pwr : d.stopEngines.pwr = d.pwr :=
  pwr_of_keep (Keep.Dev_stopEngines d (Keep.refl (R := Eq) (M := 0x720801) d rfl) rfl) rfl

/-- Ports, streams, timers and links at rest. -/
def haltBlocks (d : Dev) : Dev := each (List.range 3) (fun p d => d.portIdle p) d.stopPorts.stopStreams.stopTimers

theorem keep_haltBlocks : Keep Eq 0x720001 d (haltBlocks d) :=
  Keep.each (fun _ _ hy => Keep.Dev_portIdle _ _ hy rfl)
    (Keep.Dev_stopTimers _ (Keep.Dev_stopStreams _ (Keep.Dev_stopPorts _ (Keep.refl d rfl) rfl) rfl) rfl)

theorem stopEngines_eq : d.stopEngines = haltBlocks { d with eng := { d.eng with on := false } } := rfl

theorem stopEngines_on : d.stopEngines.eng.on = false := by
  rw [stopEngines_eq, eng_of_keep (keep_haltBlocks _) rfl]

theorem toService_fields : (toService d).eng = d.eng ∧ (toService d).pins.inert = true ∧ (toService d).pwr.mode = .service ∧
    (toService d).pwr.prev = d.pwr.mode ∧ (toService d).pwr.pend = none ∧ (toService d).pwr.boot = none := by
  obtain ⟨l, e⟩ := enter_fields { d with
    pwr := { d.pwr with frozen := false, fatalStep := 0, boot := none, pend := none, cold := false }
    evt := { d.evt with erase := none } } .service
  rw [toService, e]
  exact ⟨rfl, rfl, rfl, rfl, rfl, rfl⟩

theorem reg_toService {a : Nat} (h : a ≠ rSYS_CLKSTAT) : (toService d).reg a = d.reg a := reg_enter _ _ h

theorem inService_fields : (inService d).eng.on = false ∧ (inService d).pins.inert = true ∧ (inService d).pwr.mode = .service ∧
    (inService d).pwr.prev = d.pwr.mode ∧ (inService d).pwr.pend = none ∧ (inService d).pwr.boot = none := by
  have hm : (d.handover 0).stopEngines.pwr.mode = d.pwr.mode := by
    obtain ⟨l, o, x, p, e⟩ := handover_fields d 0
    rw [stopEngines_pwr, e]
  obtain ⟨heng, hinert, hmode, hprev, hrest⟩ := toService_fields (d.handover 0).stopEngines
  exact ⟨(congrArg Eng.on heng).trans (stopEngines_on _), hinert, hmode, hprev.trans hm, hrest⟩

/-- SERVICE entry before its actions writes SYS_CLKSTAT and what shows that ports, timers, links and streams have stopped. -/
theorem reg_inService {a : Nat} (hk : a ≠ rSYS_CLKSTAT)
    (h : a / 0x10000 ≠ 0xB ∧ a / 0x10000 ≠ 0xD ∧ a / 0x10000 ≠ 0xE ∧ a / 0x10000 ≠ 0xF) : (inService d).reg a = d.reg a := by
  rw [inService, reg_toService _ hk, reg_stopEngines _ h, reg_handover _ _ hk]

/-! The actions of SERVICE entry (R521): the host port forgets, Heartwood is filled, the banks pass to the firmware. -/

/-- The banks but those of owner 7 pass to the firmware (R272). -/
def giveBanks (d : Dev) : Dev := each (List.range 16) (fun k d => if d.bankCur k = 7 then d else d.giveBank k 6) d

/-- The host port cleared, and Heartwood filled unless it is being wiped. -/
def hostAndHeartwood (d : Dev) : Dev := if d.hostClear.on MEM_HW_WIPING then d.hostClear else d.hostClear.fillHeartwood

theorem serviceActions_eq : d.serviceActions = giveBanks (hostAndHeartwood d) := rfl

theorem keep_giveBanks : Keep Eq 0x1 d (giveBanks d) :=
  Keep.each (fun _ _ hy => Keep.ite hy (Keep.Dev_giveBank _ _ _ hy rfl)) (Keep.refl d rfl)

theorem keep_serviceActions : Keep Eq 0x1800005 d d.serviceActions := Keep.Dev_serviceActions d (Keep.refl d rfl) rfl

theorem hostAndHeartwood_host : (hostAndHeartwood d).host = { part := [], frame := none, cache := [], wait := none } := by
  unfold hostAndHeartwood
  split
  · rfl
  · exact host_of_keep (Keep.Dev_fillHeartwood d.hostClear (Keep.refl (R := Eq) (M := 0x5) _ rfl) rfl) rfl

theorem reg_hostAndHeartwood {a : Nat} (h : a ≠ rMEM_HW) (hv : a < 0x50000 ∨ 0x90000 ≤ a) : (hostAndHeartwood d).reg a = d.reg a := by
  unfold hostAndHeartwood
  split
  · rfl
  · exact reg_fillHeartwood _ h hv

theorem reg_giveBank_other (k o : Nat) {a : Nat} (h : a ≠ rMEM_BANK k) : (d.giveBank k o).reg a = d.reg a := by
  unfold Dev.giveBank
  rw [reg_fp_other _ _ _ h, reg_fp_other _ _ _ h]

theorem bankCur_ok (k : Nat) : Fld.ok (MEM_BANK_CUR k) := ⟨by show 8 ≤ 10; decide, by show 10 < 32; decide⟩
theorem bankOwner_ok (k : Nat) : Fld.ok (MEM_BANK_OWNER k) := ⟨by show 0 ≤ 2; decide, by show 2 < 32; decide⟩
theorem bankOwner_apart_cur (k : Nat) : Fld.apart (MEM_BANK_OWNER k) (MEM_BANK_CUR k) := .inr (.inl (by show 2 < 8; decide))

theorem bankCur_fp (k o : Nat) (ho : o < 8) : (d.fp (MEM_BANK_CUR k) o).bankCur k = o := by
  rw [Dev.bankCur, fg_fp_self _ _ _ (bankCur_ok k)]
  exact Nat.mod_eq_of_lt ho

theorem bankCur_giveBank (k o : Nat) (ho : o < 8) : (d.giveBank k o).bankCur k = o := by
  rw [Dev.giveBank, Dev.bankCur, fg_fp_other _ _ _ _ (bankOwner_ok k) (bankOwner_apart_cur k)]
  exact bankCur_fp d k o ho

theorem bankCur_of_reg {d e : Dev} {k : Nat} (h : e.reg (rMEM_BANK k) = d.reg (rMEM_BANK k)) : e.bankCur k = d.bankCur k :=
  fg_of_reg (f := MEM_BANK_CUR k) h

theorem rMEM_BANK_ne {j k : Nat} (h : j ≠ k) : rMEM_BANK j ≠ rMEM_BANK k := by unfold rMEM_BANK; omega

/-- A pass over the banks that at bank j touches bank j's register alone leaves bank k as its own turn makes it. -/
theorem bankCur_each {f : Nat → Dev → Dev} {k v : Nat} (hother : ∀ j e, j ≠ k → (f j e).bankCur k = e.bankCur k)
    (hself : ∀ e, e.bankCur k = d.bankCur k → (f k e).bankCur k = v) {l : List Nat} (hl : l.Nodup) (hk : k ∈ l) :
    (each l f d).bankCur k = v := by
  induction l generalizing d with
  | nil => cases hk
  | cons j l ih =>
    obtain ⟨hj, hl⟩ := List.nodup_cons.mp hl
    rw [each_cons]
    rcases List.mem_cons.mp hk with rfl | hk
    · rw [each_keeps _ (·.bankCur k) l f fun i hi y => hother i y (ne_of_mem_of_not_mem hi hj)]
      exact hself d rfl
    · have hjk : j ≠ k := fun e => hj (e ▸ hk)
      exact ih (f j d) (fun e he => hself e (he.trans (hother j d hjk))) hl hk

theorem bankCur_giveBanks {k : Nat} (hk : k < 16) : (giveBanks d).bankCur k = if d.bankCur k = 7 then 7 else 6 := by
  refine bankCur_each d (fun j e hj => ?_) (fun e he => ?_) List.nodup_range (List.mem_range.mpr hk)
  · split
    · rfl
    · exact bankCur_of_reg (reg_giveBank_other e j 6 (rMEM_BANK_ne hj).symm)
  · rw [← he]
    split
    · assumption
    · exact bankCur_giveBank e k 6 (by decide)

/-- Entry to SERVICE passes every bank to the firmware but those of owner 7 (R272). -/
theorem bankCur_enterService {k : Nat} (hk : k < 16) : d.enterService.bankCur k = if d.bankCur k = 7 then 7 else 6 := by
  have hr : (hostAndHeartwood (inService d)).bankCur k = d.bankCur k := by
    refine bankCur_of_reg ?_
    have hb : rMEM_BANK k / 0x10000 = 0x13 := by unfold rMEM_BANK; omega
    rw [reg_hostAndHeartwood _ (by unfold rMEM_BANK rMEM_HW; omega) (by unfold rMEM_BANK; omega),
      reg_inService _ (by unfold rMEM_BANK rSYS_CLKSTAT; omega) (by omega)]
  rw [enterService_eq, serviceActions_eq, bankCur_giveBanks _ hk, hr]

/-- Entry to SERVICE leaves the registers of the blocks SYS and STG, but SYS_CLKSTAT, as they were. -/
theorem reg_enterService {a : Nat} (ha : a < 0x20000) (hk : a ≠ rSYS_CLKSTAT) : d.enterService.reg a = d.reg a := by
  rw [enterService_eq, serviceActions_eq]
  have hb : (giveBanks (hostAndHeartwood (inService d))).reg a = (hostAndHeartwood (inService d)).reg a :=
    each_keeps _ (·.reg a) _ _ fun j _ y => by
      split
      · rfl
      · exact reg_giveBank_other y j 6 (by unfold rMEM_BANK; omega)
  rw [hb, reg_hostAndHeartwood _ (by unfold rMEM_HW; omega) (by omega), reg_inService _ hk (by omega)]

theorem enterService_host : d.enterService.host = { part := [], frame := none, cache := [], wait := none } := by
  rw [enterService_eq, serviceActions_eq, host_of_keep (keep_giveBanks _) rfl, hostAndHeartwood_host]

theorem enterService_fields : d.enterService.eng.on = false ∧ d.enterService.pins.inert = true ∧ d.enterService.pwr.mode = .service ∧
    d.enterService.pwr.prev = d.pwr.mode ∧ d.enterService.pwr.pend = none ∧ d.enterService.pwr.boot = none := by
  have h := keep_serviceActions (inService d)
  rw [enterService_eq, eng_of_keep h rfl, pins_of_keep h rfl, pwr_of_keep h rfl]
  exact inService_fields d

theorem keep_enterService : Keep Eq 0x11F209C5 d d.enterService := Keep.Dev_enterService d (Keep.refl d rfl) rfl

end
/-! ### Entry to REST (R28 to R30, R32, R38) -/

section
variable (d : Dev)

/-- The engine stops, no request waits, the depth is decided. -/
def toRest (cold : Bool) (d : Dev) : Dev := { d with pwr := { d.pwr with cold := cold, pend := none }, eng := { d.eng with on := false } }

/-- In REST-COLD chain time goes on from the last XO32 edge, and links, ports and streams stop (R38). -/
def haltCold (cold : Bool) (edge : Nat) (d : Dev) : Dev :=
  if cold then each (List.range 3) (fun p d => d.portIdle p)
    ({ d with time := { d.time with cold := some (edge, 0), xo := 0 } } : Dev).stopPorts.stopStreams
  else d

/-- The last edge of XO32 in chain time. -/
def lastEdge (d : Dev) : Nat := (d.now - w32 (d.time.xo / 32768)).toNat

theorem enterRest_eq : d.enterRest =
    (((haltCold d.coldNow (lastEdge d) (toRest d.coldNow d)).enter .rest).showPins).fp SYS_GATE_OPEN 0 := rfl

theorem keep_haltCold (cold : Bool) (edge : Nat) : Keep Eq 0x620081 d (haltCold cold edge d) := by
  unfold haltCold
  split
  · have h : Keep Eq 0x620081 d { d with time := { d.time with cold := some (edge, 0), xo := 0 } } := ⟨rfl, id, rfl⟩
    exact Keep.each (fun _ _ hy => Keep.Dev_portIdle _ _ hy rfl) (Keep.Dev_stopStreams _ (Keep.Dev_stopPorts _ h rfl) rfl)
  · exact Keep.refl d rfl

theorem haltCold_time (cold : Bool) (edge : Nat) :
    (haltCold cold edge d).time.cold.isSome = (cold || d.time.cold.isSome) := by
  cases cold with
  | false => rfl
  | true =>
    have h (y : Dev) : Keep Eq 0x620001 y (each (List.range 3) (fun p d => d.portIdle p) y.stopPorts.stopStreams) :=
      Keep.each (fun _ _ hy => Keep.Dev_portIdle _ _ hy rfl) (Keep.Dev_stopStreams _ (Keep.Dev_stopPorts _ (Keep.refl y rfl) rfl) rfl)
    rw [haltCold, if_pos rfl, time_of_keep (h _) rfl]
    rfl

theorem reg_haltCold (cold : Bool) (edge : Nat) {a : Nat} (h : a / 0x10000 ≠ 0xB ∧ a / 0x10000 ≠ 0xE ∧ a / 0x10000 ≠ 0xF) :
    (haltCold cold edge d).reg a = d.reg a := by
  unfold haltCold
  split
  · rw [reg_portsIdle _ h.2.1, reg_stopStreams _ h.2.2, reg_stopPorts _ h.1]
    rfl
  · rfl

theorem enterRest_pwr : d.enterRest.pwr = { d.pwr with mode := .rest, prev := d.pwr.mode, cold := d.coldNow, pend := none } := by
  rw [enterRest_eq, fp_pwr, pwr_showPins, enter_pwr, pwr_of_keep (keep_haltCold _ _ _) rfl]
  rfl

theorem enterRest_on : d.enterRest.eng.on = false := by
  obtain ⟨l, e⟩ := enter_fields (haltCold d.coldNow (lastEdge d) (toRest d.coldNow d)) .rest
  rw [enterRest_eq, fp_eng, eng_showPins, e, eng_of_keep (keep_haltCold _ _ _) rfl]
  rfl

theorem enterRest_time : d.enterRest.time.cold.isSome = (d.coldNow || d.time.cold.isSome) := by
  obtain ⟨l, e⟩ := enter_fields (haltCold d.coldNow (lastEdge d) (toRest d.coldNow d)) .rest
  rw [enterRest_eq, fp_time, time_showPins, e, haltCold_time]
  rfl

theorem enterRest_gate : d.enterRest.fg SYS_GATE_OPEN = 0 := by
  rw [enterRest_eq, fg_fp_self _ _ _ (by decide)]
  rfl

theorem reg_enterRest {a : Nat} (hg : a ≠ rSYS_GATE) (hk : a ≠ rSYS_CLKSTAT)
    (h : a / 0x10000 ≠ 0xB ∧ a / 0x10000 ≠ 0xE ∧ a / 0x10000 ≠ 0xF) : d.enterRest.reg a = d.reg a := by
  rw [enterRest_eq, reg_fp_other _ _ _ hg, reg_showPins, reg_enter _ _ hk, reg_haltCold _ _ _ h]
  rfl

theorem keep_enterRest : Keep Eq 0x106208C1 d d.enterRest := Keep.Dev_enterRest d (Keep.refl d rfl) rfl

end

/-! ### Entry to CHUCK (R26, R272, R285) -/

section
variable (d : Dev)

/-- The first step of a boot (R66). -/
def firstBoot (por : Bool) : Boot := { step := .clocks, por := por, slot := 0, fellBack := false, wipes := 0 }

/-- The boot stands at its first step, and Heartwood is filled unless it is being wiped. -/
def bootReady (por : Bool) (d : Dev) : Dev :=
  let e : Dev := { d with pwr := { d.pwr with pend := none, boot := some (firstBoot por) } }
  if e.on MEM_HW_WIPING then e else e.fillHeartwood

/-- Every bank passes to the boot loader (R272). -/
def loaderBanks (d : Dev) : Dev := each (List.range 16) (fun k d => d.fp (MEM_BANK_CUR k) 5) d

theorem enterChuck_eq : d.enterChuck = loaderBanks (bootReady d.pwr.por (d.enter .chuck)) := rfl

theorem keep_loaderBanks : Keep Eq 0x1 d (loaderBanks d) :=
  Keep.each (fun _ _ hy => Keep.Dev_fp _ _ _ hy rfl) (Keep.refl d rfl)

theorem bootReady_fields (por : Bool) : (bootReady por d).pwr = { d.pwr with pend := none, boot := some (firstBoot por) } ∧
    (bootReady por d).pins = d.pins := by
  have h (y : Dev) : Keep Eq 0x5 y y.fillHeartwood := Keep.Dev_fillHeartwood y (Keep.refl y rfl) rfl
  unfold bootReady
  dsimp only
  split
  · exact ⟨rfl, rfl⟩
  · rw [pwr_of_keep (h _) rfl, pins_of_keep (h _) rfl]
    exact ⟨rfl, rfl⟩

theorem enterChuck_pwr : d.enterChuck.pwr =
    { d.pwr with mode := .chuck, prev := d.pwr.mode, pend := none, boot := some (firstBoot d.pwr.por) } := by
  rw [enterChuck_eq, pwr_of_keep (keep_loaderBanks _) rfl, (bootReady_fields _ _).1, enter_pwr]

theorem enterChuck_inert : d.enterChuck.pins.inert = true := by
  obtain ⟨l, e⟩ := enter_fields d .chuck
  rw [enterChuck_eq, pins_of_keep (keep_loaderBanks _) rfl, (bootReady_fields _ _).2, e]
  rfl

theorem bankCur_loaderBanks {k : Nat} (hk : k < 16) : (loaderBanks d).bankCur k = 5 := by
  have hother (j : Nat) (e : Dev) (hj : j ≠ k) : (e.fp (MEM_BANK_CUR j) 5).bankCur k = e.bankCur k :=
    bankCur_of_reg (reg_fp_other e _ _ (rMEM_BANK_ne hj).symm)
  exact bankCur_each d hother (fun e _ => bankCur_fp e k 5 (by decide)) List.nodup_range (List.mem_range.mpr hk)

theorem bankCur_enterChuck {k : Nat} (hk : k < 16) : d.enterChuck.bankCur k = 5 := by
  rw [enterChuck_eq, bankCur_loaderBanks _ hk]

theorem keep_enterChuck : Keep Eq 0x10000045 d d.enterChuck := Keep.Dev_enterChuck d (Keep.refl d rfl) rfl

end

end Sys2Proof.Modes
end

section
/-! PROOFS. A step of the queue (R33, R34, R397, log entry 30). -/
namespace Sys2Proof.Modes
open Sys2Proof.Machine Sys2Proof.Laws

/-- Every command answers with a device beside the queue it was given: none is refused, none faults. -/
theorem exec_next (c : Instr) (s : State) : ∃ d, exec c s = .next { s with dev := d } := by
  cases c <;> exact ⟨_, rfl⟩

/-! ### The counter c through the rest of an idle cycle -/

section
variable (d : Dev)

/-- The counter of LCLK cycles and the phase between two and three of them. -/
def lclkCount (d : Dev) : Nat × Bool := (d.time.c, d.time.half)

theorem lclkCount_of_time {d e : Dev} (h : e.time = d.time) : lclkCount e = lclkCount d := by rw [lclkCount, h, lclkCount]

theorem lclkCount_withTime (t : Time) : lclkCount { d with time := t } = (t.c, t.half) := rfl

theorem time_tmrTicks (k : Nat) : (d.tmrTicks k).time = d.time :=
  time_of_keep (Keep.Dev_tmrTicks d k (Keep.refl (R := Eq) (M := 0x10100541) d rfl) rfl) rfl

theorem time_shipStep : d.shipStep.time = d.time :=
  time_of_keep (Keep.Dev_shipStep d (Keep.refl (R := Eq) (M := 0x200000) d rfl) rfl) rfl

theorem time_jsecond : d.jsecond.time = d.time :=
  time_of_keep (Keep.Dev_jsecond d (Keep.refl (R := Eq) (M := 0x12000541) d rfl) rfl) rfl

theorem time_raise (k : Nat) : (d.raise k).time = d.time := by
  obtain ⟨l, e, p, s, q, h⟩ := raise_fields d k
  rw [h]

/-- Of the time base a return to RUN moves only what REST-COLD kept on XO32 (R38, R399). -/
theorem lclkCount_resumeRun (ns : Nat) : lclkCount (d.resumeRun ns) = lclkCount d := by
  obtain ⟨o, x, h⟩ := resumeRun_time d ns
  rw [lclkCount, h, lclkCount]

theorem lclkCount_wake (k ns : Nat) : lclkCount (d.wake k ns) = lclkCount d := by
  unfold Dev.wake
  split
  · rw [lclkCount_resumeRun]
    exact lclkCount_of_time (time_raise _ _)
  · rfl

theorem lclkCount_xoTimers : lclkCount d.xoTimers = lclkCount d := by
  have ht : lclkCount (d.tmrTicks 1) = lclkCount d := lclkCount_of_time (time_tmrTicks d 1)
  unfold Dev.xoTimers
  dsimp only
  split
  · rfl
  · split
    · rw [lclkCount_wake, ht]
    · exact ht

theorem lclkCount_xoEdge : lclkCount d.xoEdge = lclkCount d := by
  unfold Dev.xoEdge
  dsimp only
  rw [lclkCount_xoTimers]
  split <;> rfl

theorem lclkCount_xoPhase : lclkCount d.xoPhase = lclkCount d := by
  unfold Dev.xoPhase
  dsimp only
  split
  · rfl
  · split
    · rw [lclkCount_withTime, lclkCount]
    · rw [lclkCount_xoEdge, lclkCount_withTime, lclkCount]

theorem lclkCount_pass (u : Nat) : lclkCount (d.pass u) = lclkCount d := by
  unfold Dev.pass
  dsimp only
  split
  · rw [lclkCount_withTime, lclkCount]
  · split
    · rw [lclkCount_of_time (time_jsecond _), lclkCount_withTime, lclkCount]
    · rw [lclkCount_withTime, lclkCount]

/-- With LCLK running, one PCLK period adds 2 and 3 cycles to c in turn (R34, R397). -/
theorem lclkCount_pclkTick (h : d.lclk = true) : lclkCount d.pclkTick =
    ((d.time.c + if d.time.half = true then 3 else 2) % 2 ^ 64, !d.time.half) := by
  have hc : d.time.c + 2 + b2n d.time.half = d.time.c + if d.time.half = true then 3 else 2 := by
    cases d.time.half <;> rfl
  unfold Dev.pclkTick
  dsimp only
  rw [lclkCount_pass, lclkCount_xoPhase, lclkCount_of_time (time_shipStep _), if_pos h, ← hc]
  split
  · rfl
  · exact lclkCount_of_time (time_tmrTicks _ 0)

end

/-! ### The idle step -/

section
variable (d : Dev)

theorem idle_shelf (hm : d.pwr.mode = .shelf) (hx : d.on SYS_CLKSTAT_XO32_OK = false) : d.idle = d := by
  rw [Dev.idle, if_pos hm, if_neg (by simp [hx])]

theorem idle_run (hm : d.pwr.mode = .run) : d.idle = d.pclkTick := by
  rw [Dev.idle, if_neg (by simp [hm]), if_pos (by simp [Dev.pclk, hm])]

theorem idle_count (hm : d.pwr.mode = .run) (hl : d.lclk = true) :
    d.idle.time.c = (d.time.c + if d.time.half = true then 3 else 2) % 2 ^ 64 ∧ d.idle.time.half = !d.time.half := by
  have h := lclkCount_pclkTick d hl
  rw [lclkCount, Prod.mk.injEq] at h
  rw [idle_run d hm]
  exact h

theorem idle_keep : Keep Eq 0x12370FC1 d d.idle := Keep.Dev_idle d (Keep.refl d rfl) rfl

end

/-- Settles O1: every command answers with a device beside its queue; an idle step keeps all but the parts of its mask, and the counter c
moves in `pclkTick` alone. -/
theorem stepRunsFrontCommand : Obligations.StepRunsFrontCommand := by
  refine ⟨fun s c rest hp => ?front, fun s hp => ?idle⟩
  case front =>
    have hstep : step s = exec c { s with pending := rest } := by rw [step, hp]
    obtain ⟨d, hd⟩ := exec_next c { s with pending := rest }
    exact ⟨hstep, _, hstep.trans hd, rfl⟩
  case idle =>
    have hstep : step s = .next { s with dev := s.dev.idle } := (by rw [step, hp] : step s = done s s.dev.idle)
    have hk := idle_keep s.dev
    refine ⟨_, hstep, hp, hk.part Dev.flash rfl, hk.fuses.symm, hk.part Dev.voices rfl, hk.part Dev.ctxs rfl, hk.part Dev.mem rfl,
      fun hm hx => ?_, fun hm hl => ?_⟩
    · rw [idle_shelf s.dev hm hx]
    · exact idle_count s.dev hm hl

end Sys2Proof.Modes
end

section
/-! PROOFS. SHELF and the clocks that come and go (R22, R33, R39, R43, R44, R508, R522). -/
namespace Sys2Proof.Modes
open Sys2Proof.Machine Sys2Proof.Laws Sys2Proof.Scope

/-! ### The fall of PWR_EN (R43, R44) -/

section
variable (d : Dev)

/-- The power state that the fall of PWR_EN leaves: only the always-on domain keeps its own. -/
def shelfPwr (p q : Pwr) : Pwr :=
  { q with mode := .shelf, prev := p.mode, por := true, zeroFill := false, sampled := false, shelfXo := p.shelfXo, pwrEn := false,
           wakePin := p.wakePin, wakeHost := p.wakeHost, wakeMidi := p.wakeMidi, latch := p.latch,
           shelf := if p.latch.isSome then .waking else .off }

/-- The device without its rails, XO32 as SHELF_XO32 says. -/
def railsOff (d : Dev) : Dev :=
  (({ d.blank true with pwr := shelfPwr d.pwr (d.blank true).pwr } : Dev).setClocks false false false false false).fp
    SYS_CLKSTAT_XO32_OK (if d.pwr.shelfXo && d.on SYS_CLKSTAT_XO32_OK then 1 else 0)

theorem pwrEnLow_of_entering (h : d.pwr.shelf = .entering) : pwrEnLow d = railsOff d := by
  rw [pwrEnLow, if_neg (by simp [h])]
  rfl

theorem pwrEnLow_of_not_entering (h : d.pwr.shelf ≠ .entering) : pwrEnLow d = d := by rw [pwrEnLow, if_pos h]

theorem railsOff_fields : ∃ l, railsOff d = { d.blank true with live := l, pwr := shelfPwr d.pwr (d.blank true).pwr } := ⟨_, rfl⟩

theorem reg_railsOff {a : Nat} (h : a ∈ [rSYS_RSTCAUSE, rSYS_AON_SEC]) : (railsOff d).reg a = d.reg a := by
  have hk : a ≠ rSYS_CLKSTAT := ne_of_mem_of_not_mem h (by decide)
  have hb : a ∈ [rSYS_RSTCAUSE, rSYS_AON_SEC, rSYS_STRAP] := List.mem_append_left [rSYS_STRAP] h
  rw [railsOff, reg_fp_other _ _ _ hk, reg_setClocks _ _ _ _ _ _ hk]
  exact reg_blank_survivor d true hb

theorem railsOff_xo32 : (railsOff d).on SYS_CLKSTAT_XO32_OK = (d.pwr.shelfXo && d.on SYS_CLKSTAT_XO32_OK) := by
  rw [railsOff, on_fp_self _ _ _ (by decide)]
  cases d.pwr.shelfXo && d.on SYS_CLKSTAT_XO32_OK <;> rfl

/-- No clock of `setClocks` runs that it is told not to: here HFRC. -/
theorem on_setClocks_hfrc (x hf sp ap lp : Bool) : (d.setClocks x hf sp ap lp).on SYS_CLKSTAT_HFRC_ON = hf := by
  unfold Dev.setClocks
  dsimp only
  rw [on_fp_other _ _ _ _ (by decide) (by decide), on_fp_other _ _ _ _ (by decide) (by decide),
    on_fp_other _ _ _ _ (by decide) (by decide), on_fp_other _ _ _ _ (by decide) (by decide), on_fp_self _ _ _ (by decide)]
  cases hf <;> rfl

theorem railsOff_hfrc : (railsOff d).on SYS_CLKSTAT_HFRC_ON = false := by
  rw [railsOff, on_fp_other _ _ _ _ (by decide) (by decide), on_setClocks_hfrc]

end

/-! ### Wake edges in SHELF (R39, R43, R44) -/

section
variable (d : Dev) (k : Nat)

/-- Input k has a wake enable of 1 in the always-on domain. -/
abbrev ShelfEnabled (p : Pwr) (k : Nat) : Prop :=
  (k = 8 ∧ p.wakePin = true) ∨ (k = 7 ∧ p.wakeHost = true) ∨ (k = 0 ∧ p.wakeMidi = true)

theorem shelfEnabled_iff (p : Pwr) :
    ((k == 8 && p.wakePin) || (k == 7 && p.wakeHost) || (k == 0 && p.wakeMidi)) = true ↔ ShelfEnabled p k := by
  simp [or_assoc]

theorem shelfWake_of_enabled (h : ShelfEnabled d.pwr k) (hl : d.pwr.latch = none) (hs : d.pwr.shelf = .entering ∨ d.pwr.shelf = .off) :
    shelfWake k d =
      { d with pwr := { d.pwr with latch := some k, shelf := if d.pwr.shelf = .off then .waking else d.pwr.shelf } } := by
  unfold shelfWake
  dsimp only
  rw [(shelfEnabled_iff k d.pwr).mpr h, if_neg]
  rcases hs with hs | hs <;> simp [hl, hs]

theorem shelfWake_of_disabled (h : ¬ ShelfEnabled d.pwr k) : shelfWake k d = d := by
  unfold shelfWake
  dsimp only
  rw [Bool.eq_false_iff.mpr (mt (shelfEnabled_iff k d.pwr).mp h), if_pos (by simp)]

end

/-! ### Crystals (R508, R522) -/

theorem xo32Qualified_of_powered (d : Dev) (h : d.pwr.mode ≠ .shelf ∨ d.pwr.shelfXo = true) :
    xo32Qualified d = d.fp SYS_CLKSTAT_XO32_OK 1 := by
  rw [xo32Qualified, if_neg]
  rintro ⟨hm, hx⟩
  rcases h with h | h
  · exact h hm
  · rw [h] at hx
    cases hx

theorem xrefLeavesRange_of_ungated (b : Bool) (d : Dev) (hs : d.pwr.mode ≠ .shelf) (hc : ¬(d.pwr.mode = .rest ∧ d.pwr.cold = true)) :
    xrefLeavesRange b d = d.fp SYS_CLKSTAT_XREF_OK (if b then 1 else 0) := by
  rw [xrefLeavesRange, if_neg (not_or.mpr ⟨hs, hc⟩)]

theorem xrefLeavesRange_of_gated (b : Bool) (d : Dev) (hm : d.pwr.mode = .rest) (hc : d.pwr.cold = true) : xrefLeavesRange b d = d := by
  rw [xrefLeavesRange, if_pos (.inr ⟨hm, hc⟩)]

/-- Settles O13: the fall of PWR_EN from what `railsOff` keeps, the wake edges by their enables, the crystals as a write of one bit. -/
theorem shelfHandshakeAndClockStatus : Obligations.ShelfHandshakeAndClockStatus := by
  refine ⟨?shelf, ?clocks⟩
  case shelf =>
    intro s k p enabled
    refine ⟨fun h => ?fall, fun h => ?noFall, fun he hl hs => ?latched, fun he hl hs => ?latchedEarly, fun he => ?ignored,
      fun h => ?rise, fun h => ?noRise⟩
    case fall =>
      have hexec : exec .pwrEnLow s = .next { s with dev := railsOff s.dev } := by
        show done s (pwrEnLow s.dev) = _
        rw [pwrEnLow_of_entering s.dev h, done_eq]
      obtain ⟨l, e⟩ := railsOff_fields s.dev
      refine ⟨_, hexec, ?_, ?_, ?_, ?_, ?_, ?_, ?_, ?_, reg_railsOff s.dev (by decide), reg_railsOff s.dev (by decide),
        railsOff_xo32 s.dev, railsOff_hfrc s.dev, ?_, ?_, ?_, ?_, rfl⟩
      all_goals rw [e]; rfl
    case noFall =>
      show done s (pwrEnLow s.dev) = _
      rw [pwrEnLow_of_not_entering s.dev h, done_eq]
    case latched =>
      show done s (shelfWake k s.dev) = _
      rw [shelfWake_of_enabled s.dev k he hl (.inr hs), if_pos hs, done_eq]
    case latchedEarly =>
      show done s (shelfWake k s.dev) = _
      rw [shelfWake_of_enabled s.dev k he hl (.inl hs), if_neg (by rw [show s.dev.pwr.shelf = .entering from hs]; decide), done_eq]
    case ignored =>
      show done s (shelfWake k s.dev) = _
      rw [shelfWake_of_disabled s.dev k he, done_eq]
    case rise =>
      show done s (pwrEnHigh s.dev) = _
      rw [pwrEnHigh, if_pos h, done_eq]
    case noRise =>
      show done s (pwrEnHigh s.dev) = _
      rw [pwrEnHigh, if_neg h, done_eq]
  case clocks =>
    intro s b p only
    have honly (f : Fld) (v : Nat) (hf : f.addr = rSYS_CLKSTAT) (hok : Fld.ok f) : only { s with dev := s.dev.fp f v } f :=
      ⟨fun a ha _ => reg_fp_other s.dev f v (by rw [hf]; exact List.ne_of_not_mem_cons ha), rfl,
        fun g _ hg => fg_fp_other s.dev f g v hok (.inr hg.symm)⟩
    refine ⟨fun h => ?qualified, fun hs hc => ?moved, fun hm hc => ?gated⟩
    case qualified =>
      refine ⟨{ s with dev := s.dev.fp SYS_CLKSTAT_XO32_OK 1 }, ?_, ?_, honly _ _ rfl (by decide)⟩
      · show done s (xo32Qualified s.dev) = _
        rw [xo32Qualified_of_powered s.dev h, done_eq]
      · rw [on_fp_self _ _ _ (by decide)]
        rfl
    case moved =>
      refine ⟨{ s with dev := s.dev.fp SYS_CLKSTAT_XREF_OK (if b then 1 else 0) }, ?_, ?_, honly _ _ rfl (by decide)⟩
      · show done s (xrefLeavesRange b s.dev) = _
        rw [xrefLeavesRange_of_ungated b s.dev hs hc, done_eq]
      · rw [on_fp_self _ _ _ (by decide)]
        cases b <;> rfl
    case gated =>
      show done s (xrefLeavesRange b s.dev) = _
      rw [xrefLeavesRange_of_gated b s.dev hm hc, done_eq]

end Sys2Proof.Modes
end

section
/-! PROOFS. Requests by SYS_MODE (R26 to R30, R43, R46, R57, R272, R521). -/
namespace Sys2Proof.Modes
open Sys2Proof.Machine Sys2Proof.Laws

/-! ### What a write of SYS_MODE does before its request (R46) -/

section
variable (d : Dev) (w : ModeWrite)

theorem modeWrite_fields : ∃ l, d.modeWrite w = { d with live := l } := by
  unfold Dev.modeWrite
  dsimp only
  split <;> exact ⟨_, rfl⟩

theorem pwr_modeWrite : (d.modeWrite w).pwr = d.pwr := by
  obtain ⟨l, e⟩ := modeWrite_fields d w
  rw [e]

theorem reg_modeWrite {a : Nat} (h : a ≠ rSYS_MODE) : (d.modeWrite w).reg a = d.reg a := by
  unfold Dev.modeWrite
  dsimp only
  split
  · rw [reg_fp_other _ _ _ h, reg_fp_other _ _ _ h]
  · exact reg_fp_other _ _ _ h

theorem fg_modeWrite {f : Fld} (h : f.addr ≠ rSYS_MODE) : (d.modeWrite w).fg f = d.fg f :=
  fg_of_reg (reg_modeWrite d w h)

theorem on_modeWrite {f : Fld} (h : f.addr ≠ rSYS_MODE) : (d.modeWrite w).on f = d.on f :=
  on_of_reg (reg_modeWrite d w h)

theorem depth_modeWrite : (d.modeWrite w).on SYS_MODE_DEPTH = w.depth := by
  have hset : (d.fp SYS_MODE_DEPTH (if w.depth then 1 else 0)).on SYS_MODE_DEPTH = w.depth := by
    rw [on_fp_self _ _ _ (by decide)]
    cases w.depth <;> rfl
  unfold Dev.modeWrite
  dsimp only
  split
  · rw [on_fp_other _ _ _ _ (by decide) (by decide), hset]
  · exact hset

theorem illCnt_modeWrite : (d.modeWrite w).fg SYS_MODE_ILL_CNT = if w.illClr then 0 else d.fg SYS_MODE_ILL_CNT := by
  unfold Dev.modeWrite
  dsimp only
  split
  · rw [fg_fp_self _ _ _ (by decide)]
    rfl
  · rw [fg_fp_other _ _ _ _ (by decide) (by decide)]

/-- The REST conditions read two registers only: whether a commit is pending, and the output point (R28). -/
theorem restOk_congr {d e : Dev} (he : ∃ l, e = { d with live := l }) (hs : e.reg rSTG_STATUS = d.reg rSTG_STATUS)
    (hm : e.reg rMIX_DOUT = d.reg rMIX_DOUT) : e.restOk = d.restOk := by
  have ho : e.outPoint = d.outPoint := by
    obtain ⟨l, rfl⟩ := he
    unfold Dev.outPoint Dev.fg
    rw [show MIX_DOUT_DOUT.addr = rMIX_DOUT from rfl, hm]
  have hc : e.commitPending = d.commitPending := by
    obtain ⟨l, rfl⟩ := he
    unfold Dev.commitPending Dev.on Dev.fg
    rw [show STG_STATUS_PENDING.addr = rSTG_STATUS from rfl, hs]
  unfold Dev.restOk
  rw [ho, hc]
  obtain ⟨l, rfl⟩ := he
  rfl

theorem restOk_modeWrite : (d.modeWrite w).restOk = d.restOk :=
  restOk_congr (modeWrite_fields d w) (reg_modeWrite d w (by decide)) (reg_modeWrite d w (by decide))

theorem hosted_modeWrite : (d.modeWrite w).hosted = d.hosted := by
  rw [Dev.hosted, pwr_modeWrite, fg_modeWrite d w (by decide), on_modeWrite d w (by decide), Dev.hosted]

theorem blankReady_modeWrite : (d.modeWrite w).blankReady = d.blankReady := by
  rw [Dev.blankReady, pwr_modeWrite, Dev.blankReady]

theorem joined_modeWrite : (d.modeWrite w).joined = d.joined := by
  obtain ⟨l, e⟩ := modeWrite_fields d w
  rw [e]
  rfl

/-- Device `e` differs from `d` in SYS_MODE, with DEPTH and ILL_CNT as given, and in the power state `q`; in nothing else. -/
structure OnlyMode (d : Dev) (depth : Bool) (q : Pwr) (n : Nat) (e : Dev) : Prop where
  pwr : e.pwr = q
  ill : e.fg SYS_MODE_ILL_CNT = n
  depth : e.on SYS_MODE_DEPTH = depth
  regs : ∀ a, a ≠ rSYS_MODE → e.reg a = d.reg a
  rest : e = { d with live := e.live, pwr := q }

theorem onlyMode_modeWrite :
    OnlyMode d w.depth d.pwr (if w.illClr then 0 else d.fg SYS_MODE_ILL_CNT) (d.modeWrite w) :=
  { pwr := pwr_modeWrite d w
    ill := illCnt_modeWrite d w
    depth := depth_modeWrite d w
    regs := fun _ h => reg_modeWrite d w h
    rest := by
      obtain ⟨l, e⟩ := modeWrite_fields d w
      rw [e] }

section
variable {d e : Dev} {b : Bool} {p : Pwr} {n : Nat} (h : OnlyMode d b p n e)
include h

theorem OnlyMode.withPwr (q : Pwr) : OnlyMode d b q n { e with pwr := q } :=
  { h with
    pwr := rfl
    rest := by rw [h.rest] }

/-- An illegal request is counted, up to 255 (R46, R520). -/
theorem OnlyMode.count : OnlyMode d b p (min (n + 1) 255) (e.count SYS_MODE_ILL_CNT) :=
  { pwr := h.pwr
    ill := by
      rw [fg_count_self _ _ _ (by decide), h.ill]
      rfl
    depth := by rw [Dev.on, fg_count_other _ _ _ _ (by decide) (by decide), ← h.depth, Dev.on]
    regs := fun a ha => (reg_count_other e _ _ ha).trans (h.regs a ha)
    rest := by rw [h.rest]; rfl }

end

end

/-! ### Which requests have an edge (R26, R27) -/

/-- A hosted start: BLANK, strap BOOTSEL odd, strap SVC off (R24). -/
theorem hosted_iff (d : Dev) :
    d.hosted = true ↔ d.pwr.mode = .blank ∧ d.fg SYS_STRAP_BOOTSEL % 2 = 1 ∧ d.on SYS_STRAP_SVC = false := by
  simp [Dev.hosted, and_assoc]

theorem joined_iff (d : Dev) : d.joined = true ↔ ∃ k, k < 3 ∧ (d.lport k).joined = true := by
  simp [Dev.joined]

theorem blankReady_iff {d : Dev} (hb : d.pwr.mode = .blank) (hr : d.pwr.resetLow = false) :
    d.blankReady = true ↔ d.pwr.sampled = true ∧ d.pwr.zeroFill = false := by
  simp [Dev.blankReady, hb, hr]

section
variable {d : Dev} (w : ModeWrite) (hf : d.pwr.frozen = false) (hs : d.pwr.shelf = .no)
include hf hs

/-- With no transition under way a request is legal by its mode alone. -/
theorem quiet_modeWrite : ¬ ((d.modeWrite w).pwr.frozen || (d.modeWrite w).pwr.shelf != .no) = true := by
  rw [pwr_modeWrite, hf, hs]
  decide

theorem legal_chuck : (d.modeWrite w).legal 1 = d.hosted := by
  rw [Dev.legal, if_neg (quiet_modeWrite w hf hs)]
  exact hosted_modeWrite d w

theorem legal_run : (d.modeWrite w).legal 2 = (d.pwr.mode == .rest) := by
  rw [Dev.legal, if_neg (quiet_modeWrite w hf hs), pwr_modeWrite]

theorem legal_rest : (d.modeWrite w).legal 3 =
    (d.pwr.mode == .run && !(w.depth && (!d.on SYS_CLKSTAT_XO32_OK || d.joined))) := by
  rw [Dev.legal, if_neg (quiet_modeWrite w hf hs), pwr_modeWrite, depth_modeWrite, on_modeWrite d w (by decide), joined_modeWrite]

theorem legal_shelf : (d.modeWrite w).legal 4 = (d.pwr.mode == .run || d.pwr.mode == .rest) := by
  rw [Dev.legal, if_neg (quiet_modeWrite w hf hs), pwr_modeWrite]

theorem legal_service : (d.modeWrite w).legal 5 = (d.hosted || d.pwr.mode == .run || d.pwr.mode == .rest) := by
  rw [Dev.legal, if_neg (quiet_modeWrite w hf hs), pwr_modeWrite, hosted_modeWrite]

theorem legal_six : (d.modeWrite w).legal 6 = false := by
  simp only [Dev.legal, if_neg (quiet_modeWrite w hf hs)]

end

/-! ### The request itself -/

section
variable {d : Dev} (w : ModeWrite) (hh : d.hears = true)
include hh

theorem request_illegal {req : Nat} (h0 : req ≠ 0) (h7 : req ≠ 7) (hl : (d.modeWrite w).legal req = false) :
    d.request w req = (d.modeWrite w).count SYS_MODE_ILL_CNT := by
  rw [Dev.request, if_neg (by simp [hh])]
  dsimp only
  rw [if_neg h0, if_neg h7, if_neg (by simp [hl])]

theorem request_legal {req : Nat} (h0 : req ≠ 0) (h7 : req ≠ 7) (hl : (d.modeWrite w).legal req = true) :
    d.request w req = (d.modeWrite w).act req := by
  rw [Dev.request, if_neg (by simp [hh])]
  dsimp only
  rw [if_neg h0, if_neg h7, if_pos hl]

theorem request_none : d.request w 0 = d.modeWrite w := by
  rw [Dev.request, if_neg (by simp [hh])]
  rfl

theorem request_cancel (hp : d.pwr.pend = some .rest ∨ d.pwr.pend = some .shelf) :
    d.request w 7 = { d.modeWrite w with pwr := { d.pwr with pend := none } } := by
  rw [Dev.request, if_neg (by simp [hh])]
  dsimp only
  rw [if_neg (by decide), if_pos rfl, pwr_modeWrite]
  rcases hp with hp | hp <;> rw [hp]

theorem request_cancel_none (hp : d.pwr.pend = none) : d.request w 7 = d.modeWrite w := by
  rw [Dev.request, if_neg (by simp [hh])]
  dsimp only
  rw [if_neg (by decide), if_pos rfl, pwr_modeWrite, hp]

end

/-! ### Entry to SHELF (R39, R43, R44) -/

section
variable (d : Dev)

theorem shelfEntry_pwr : d.shelfEntry.pwr =
    { d.pwr with
      shelf := .entering, pend := none, latch := none, wakePin := d.on SYS_WAKE_EN_PIN,
      wakeHost := d.on SYS_WAKE_EN_HOST && d.on (UART_CFG_EN 4),
      wakeMidi := bitOf (d.reg rSYS_WAKE_EN) 0 && d.on (UART_CFG_EN 0), shelfXo := d.on SYS_PWR_SHELF_XO32 } := rfl

theorem shelfEntry_on : d.shelfEntry.eng.on = false := rfl
theorem reg_shelfEntry (a : Nat) : d.shelfEntry.reg a = d.reg a := rfl

end

/-! ### What a legal request does (R26, R29) -/

section
variable (d : Dev) (w : ModeWrite)

theorem hold_modeWrite (m : Mode) : (d.modeWrite w).hold m = { d.modeWrite w with pwr := { d.pwr with pend := some m } } := by
  rw [Dev.hold, pwr_modeWrite]

theorem act_chuck : (d.modeWrite w).act 1 = if d.blankReady then (d.modeWrite w).enterChuck else (d.modeWrite w).hold .chuck := by
  rw [Dev.act, blankReady_modeWrite]

theorem act_rest : (d.modeWrite w).act 3 = if d.restOk then (d.modeWrite w).enterRest else (d.modeWrite w).hold .rest := by
  rw [Dev.act, restOk_modeWrite]

theorem act_shelf : (d.modeWrite w).act 4 =
    if d.pwr.mode == .rest || d.restOk then (d.modeWrite w).shelfEntry else (d.modeWrite w).hold .shelf := by
  rw [Dev.act, restOk_modeWrite, pwr_modeWrite]

theorem act_service : (d.modeWrite w).act 5 =
    if d.pwr.mode == .blank && !d.blankReady then (d.modeWrite w).hold .service else (d.modeWrite w).enterService := by
  rw [Dev.act, blankReady_modeWrite, pwr_modeWrite]

theorem act_shelf_of (h : d.pwr.mode = .rest ∨ d.restOk = true) : (d.modeWrite w).act 4 = (d.modeWrite w).shelfEntry := by
  rw [act_shelf, if_pos]
  rcases h with h | h <;> simp [h]

theorem act_service_of (h : d.pwr.mode = .blank → d.blankReady = true) :
    (d.modeWrite w).act 5 = (d.modeWrite w).enterService := by
  rw [act_service, if_neg]
  simpa using h

theorem act_run : (d.modeWrite w).act 2 = (d.modeWrite w).resumeRun 0 := by rw [Dev.act]

/-- Entry to SHELF copies the wake enables as they stand (R39, R43). -/
theorem shelfEntry_modeWrite_pwr : (d.modeWrite w).shelfEntry.pwr =
    { d.pwr with
      shelf := .entering, pend := none, latch := none, wakePin := d.on SYS_WAKE_EN_PIN,
      wakeHost := d.on SYS_WAKE_EN_HOST && d.on (UART_CFG_EN 4),
      wakeMidi := bitOf (d.reg rSYS_WAKE_EN) 0 && d.on (UART_CFG_EN 0), shelfXo := d.on SYS_PWR_SHELF_XO32 } := by
  rw [shelfEntry_pwr, pwr_modeWrite, on_modeWrite d w (by decide), on_modeWrite d w (by decide), on_modeWrite d w (by decide),
    on_modeWrite d w (by decide), on_modeWrite d w (by decide), reg_modeWrite d w (by decide)]

theorem coldNow_modeWrite : (d.modeWrite w).coldNow = (w.depth && d.on SYS_CLKSTAT_XO32_OK && !d.joined) := by
  rw [Dev.coldNow, depth_modeWrite, on_modeWrite d w (by decide), joined_modeWrite]

theorem bankCur_modeWrite (k : Nat) : (d.modeWrite w).bankCur k = d.bankCur k :=
  bankCur_of_reg (reg_modeWrite d w (by unfold rMEM_BANK rSYS_MODE; omega))

end

/-- Settles O11: a request without an edge is counted; one with an edge acts or waits, each by the lemmas on the mode it enters. -/
theorem modeRequests : Obligations.ModeRequests := by
  intro s w p ill base joined hosted ready kept only counted waits enters shelving runs hhears hfrozen hshelf
  have honly {e : Dev} {q : Pwr} {n : Nat} (h : OnlyMode s.dev w.depth q n e) : only { s with dev := e } q n :=
    ⟨h.pwr, h.ill, h.depth, fun a ha _ => h.regs a (List.ne_of_not_mem_cons ha), congrArg (State.mk s.pending) h.rest⟩
  have hexec {o : Instr} {v : ModeWrite} {req : Nat} {e : Dev} (ho : exec o s = .next { s with dev := s.dev.request v req })
      (he : s.dev.request v req = e) : exec o s = .next { s with dev := e } := he ▸ ho
  have hwrite := onlyMode_modeWrite s.dev w
  have hcounted {o : Instr} {req : Nat} (ho : exec o s = .next { s with dev := s.dev.request w req }) (h0 : req ≠ 0)
      (h7 : req ≠ 7) (hl : (s.dev.modeWrite w).legal req = false) : counted o :=
    ⟨_, hexec ho (request_illegal w hhears h0 h7 hl), honly hwrite.count⟩
  have hwaits {o : Instr} {req : Nat} {m : Mode} (ho : exec o s = .next { s with dev := s.dev.request w req }) (h0 : req ≠ 0)
      (h7 : req ≠ 7) (hl : (s.dev.modeWrite w).legal req = true)
      (ha : (s.dev.modeWrite w).act req = (s.dev.modeWrite w).hold m) : waits o m :=
    ⟨_, hexec ho ((request_legal w hhears h0 h7 hl).trans (ha.trans (hold_modeWrite s.dev w m))), honly (hwrite.withPwr _)⟩
  have henters {o : Instr} {req : Nat} {m : Mode} {more : State → Prop} {M : Nat} {e : Dev}
      (ho : exec o s = .next { s with dev := s.dev.request w req }) (h0 : req ≠ 0) (h7 : req ≠ 7)
      (hl : (s.dev.modeWrite w).legal req = true) (ha : (s.dev.modeWrite w).act req = e) (hm : e.pwr.mode = m)
      (hp : e.pwr.prev = (s.dev.modeWrite w).pwr.mode) (hn : e.pwr.pend = none) (hk : Keep Eq M s.dev e)
      (hM : Nat.land M 0x600B008 = 0) (hmore : more { s with dev := e }) : enters o m more :=
    ⟨_, hexec ho ((request_legal w hhears h0 h7 hl).trans ha), hm, hp.trans (congrArg Pwr.mode (pwr_modeWrite s.dev w)), hn,
      ⟨rfl, services_of_keep hk hM⟩, hmore⟩
  have hhosted : s.dev.hosted = true ↔ hosted := hosted_iff s.dev
  have hjoined : s.dev.joined = true ↔ joined := joined_iff s.dev
  have hready (hh : hosted) : s.dev.blankReady = true ↔ ready :=
    blankReady_iff hh.1 (by simpa using (Bool.and_eq_true_iff.mp hhears).2)
  have hdeep (hd : w.depth = true → s.dev.on SYS_CLKSTAT_XO32_OK = true ∧ ¬joined) :
      (w.depth && s.dev.on SYS_CLKSTAT_XO32_OK && !s.dev.joined) = w.depth := by
    cases hw : w.depth with
    | false => rfl
    | true => rw [(hd hw).1, Bool.eq_false_iff.mpr (mt hjoined.mp (hd hw).2)]; rfl
  have hrest (hm : p.mode = .run) (hd : w.depth = true → s.dev.on SYS_CLKSTAT_XO32_OK = true ∧ ¬joined) :
      (s.dev.modeWrite w).legal 3 = true := by
    rw [legal_rest w hfrozen hshelf, show s.dev.pwr.mode = .run from hm]
    cases hw : w.depth with
    | false => rfl
    | true => rw [(hd hw).1, Bool.eq_false_iff.mpr (mt hjoined.mp (hd hw).2)]; rfl
  have hawake (h : runs) : (s.dev.modeWrite w).legal 4 = true := by
    rw [legal_shelf w hfrozen hshelf]
    rcases h with h | h <;> rw [show s.dev.pwr.mode = _ from h] <;> rfl
  refine ⟨fun h => ?noChuck, fun h => ?noRun, fun h => ?noRest, fun h => ?noShelf, fun hr hh => ?noService, ?six,
    fun hh hr => ?chuck, fun hh hr => ?chuckWaits, fun hm => ?run, fun hm hok hd => ?rest, fun hm hok hd => ?restWaits,
    fun h => ?shelf, fun hm hok => ?shelfWaits, fun h => ?service, fun hp => ?cancel, fun hp => ?cancelNone, ?clear⟩
  case noChuck =>
    refine hcounted rfl (by decide) (by decide) ?_
    rw [legal_chuck w hfrozen hshelf]
    exact Bool.eq_false_iff.mpr (mt hhosted.mp h)
  case noRun =>
    refine hcounted rfl (by decide) (by decide) ?_
    rw [legal_run w hfrozen hshelf]
    exact beq_eq_false_iff_ne.mpr h
  case noRest =>
    refine hcounted rfl (by decide) (by decide) ?_
    rw [legal_rest w hfrozen hshelf]
    rcases h with h | ⟨hd, hx | hj⟩
    · rw [beq_eq_false_iff_ne.mpr h, Bool.false_and]
    · rw [hd, hx]; simp
    · rw [hd, hjoined.mpr hj]; simp
  case noShelf =>
    refine hcounted rfl (by decide) (by decide) ?_
    obtain ⟨hrun, hrest⟩ := not_or.mp h
    rw [legal_shelf w hfrozen hshelf, beq_eq_false_iff_ne.mpr hrun, beq_eq_false_iff_ne.mpr hrest]
    rfl
  case noService =>
    refine hcounted rfl (by decide) (by decide) ?_
    obtain ⟨hrun, hrest⟩ := not_or.mp hr
    rw [legal_service w hfrozen hshelf, Bool.eq_false_iff.mpr (mt hhosted.mp hh), beq_eq_false_iff_ne.mpr hrun,
      beq_eq_false_iff_ne.mpr hrest]
    rfl
  case six => exact hcounted rfl (by decide) (by decide) (legal_six w hfrozen hshelf)
  case chuck =>
    have hpwr := enterChuck_pwr (s.dev.modeWrite w)
    refine henters rfl (by decide) (by decide) ((legal_chuck w hfrozen hshelf).trans (hhosted.mpr hh))
      ((act_chuck s.dev w).trans (if_pos ((hready hh).mpr hr))) (congrArg Pwr.mode hpwr) (congrArg Pwr.prev hpwr)
      (congrArg Pwr.pend hpwr) (Keep.Dev_enterChuck (M := 0x10000045) _ (Keep.Dev_modeWrite _ w (Keep.refl _ rfl) rfl) rfl) rfl
      ⟨?_, enterChuck_inert _, fun k hk => bankCur_enterChuck _ hk⟩
    rw [pwr_modeWrite] at hpwr
    exact congrArg Pwr.boot hpwr
  case chuckWaits =>
    exact hwaits rfl (by decide) (by decide) ((legal_chuck w hfrozen hshelf).trans (hhosted.mpr hh))
      ((act_chuck s.dev w).trans (if_neg (mt (hready hh).mp hr)))
  case run =>
    have hpwr := resumeRun_pwr (s.dev.modeWrite w) 0
    exact henters rfl (by decide) (by decide) ((legal_run w hfrozen hshelf).trans (beq_iff_eq.mpr hm)) (act_run s.dev w)
      (congrArg Pwr.mode hpwr) (congrArg Pwr.prev hpwr) (congrArg Pwr.pend hpwr)
      (Keep.Dev_resumeRun (M := 0x10070AC1) _ 0 (Keep.Dev_modeWrite _ w (Keep.refl _ rfl) rfl) rfl) rfl
      ⟨resumeRun_on _ 0, congrArg Pwr.cold hpwr⟩
  case rest =>
    have hpwr := enterRest_pwr (s.dev.modeWrite w)
    refine henters rfl (by decide) (by decide) (hrest hm hd) ((act_rest s.dev w).trans (if_pos hok)) (congrArg Pwr.mode hpwr)
      (congrArg Pwr.prev hpwr) (congrArg Pwr.pend hpwr)
      (Keep.Dev_enterRest (M := 0x106208C1) _ (Keep.Dev_modeWrite _ w (Keep.refl _ rfl) rfl) rfl) rfl
      ⟨enterRest_on _, ?_, enterRest_gate _⟩
    rw [coldNow_modeWrite, hdeep hd] at hpwr
    exact congrArg Pwr.cold hpwr
  case restWaits =>
    exact hwaits rfl (by decide) (by decide) (hrest hm hd) ((act_rest s.dev w).trans (if_neg (by simp [hok])))
  case shelf =>
    have hruns : runs := h.elim .inr fun h => .inl h.1
    have hpwr := shelfEntry_modeWrite_pwr s.dev w
    have hreq : s.dev.request w 4 = (s.dev.modeWrite w).shelfEntry :=
      (request_legal w hhears (by decide) (by decide) (hawake hruns)).trans (act_shelf_of s.dev w (h.imp_right And.right))
    have hk : Keep Eq 0x841 s.dev (s.dev.modeWrite w).shelfEntry :=
      Keep.Dev_shelfEntry _ (Keep.Dev_modeWrite _ w (Keep.refl _ rfl) rfl) rfl
    exact ⟨_, hexec rfl hreq, (congrArg Pwr.mode hpwr :), congrArg Pwr.shelf hpwr,
      congrArg Pwr.latch hpwr, congrArg Pwr.wakePin hpwr, congrArg Pwr.wakeHost hpwr, congrArg Pwr.wakeMidi hpwr,
      congrArg Pwr.shelfXo hpwr, shelfEntry_on _, ⟨rfl, services_of_keep hk rfl⟩,
      fun a ha _ => (reg_shelfEntry _ a).trans (reg_modeWrite s.dev w (List.ne_of_not_mem_cons ha))⟩
  case shelfWaits =>
    refine hwaits rfl (by decide) (by decide) (hawake (.inl hm)) ((act_shelf s.dev w).trans (if_neg ?_))
    rw [hok, show s.dev.pwr.mode = .run from hm]
    decide
  case service =>
    have hl : (s.dev.modeWrite w).legal 5 = true := by
      rw [legal_service w hfrozen hshelf]
      rcases h with (h | h) | h
      · simp [show s.dev.pwr.mode = .run from h]
      · simp [show s.dev.pwr.mode = .rest from h]
      · simp [hhosted.mpr h.1]
    have ha : s.dev.pwr.mode = .blank → s.dev.blankReady = true := fun hb => by
      rcases h with (h | h) | h
      · exact absurd (hb.symm.trans h) (by decide)
      · exact absurd (hb.symm.trans h) (by decide)
      · exact (hready h.1).mpr h.2
    obtain ⟨hon, hinert, hmode, hprev, hpend, -⟩ := enterService_fields (s.dev.modeWrite w)
    have hhost := enterService_host (s.dev.modeWrite w)
    refine henters rfl (by decide) (by decide) hl (act_service_of s.dev w ha) hmode hprev hpend
      (Keep.Dev_enterService (M := 0x11F209C5) _ (Keep.Dev_modeWrite _ w (Keep.refl _ rfl) rfl) rfl) rfl
      ⟨hon, hinert, congrArg HostP.frame hhost, congrArg HostP.part hhost, fun k hk => ?_⟩
    have hb := bankCur_enterService (s.dev.modeWrite w) hk
    rwa [bankCur_modeWrite] at hb
  case cancel =>
    exact ⟨_, hexec rfl (request_cancel w hhears hp), honly (hwrite.withPwr _)⟩
  case cancelNone =>
    exact ⟨_, hexec rfl (request_cancel_none w hhears hp), honly hwrite⟩
  case clear =>
    exact ⟨_, hexec rfl (request_none { depth := w.depth, illClr := true } hhears),
      honly (onlyMode_modeWrite s.dev { depth := w.depth, illClr := true })⟩

end Sys2Proof.Modes
end

section
/-! PROOFS. Timers (R347 to R350): a tick changes its own timer, timer and event registers, and nothing else. -/
namespace Sys2Proof.Modes
open Sys2Proof.Machine Sys2Proof.Laws

/-! ### Raising a source that is not fatal (R482) -/

section
variable (d : Dev) {k : Nat} (h : fatalSource k = false)
include h

theorem raise_plain_fields : ∃ l e, d.raise k = { d with live := l, evt := e } := by
  obtain ⟨l, hl⟩ := markRaise_fields { d with evt := { d.evt with fw := d.evt.fw ++ [(k, w32 d.extSec)] } } k
  rw [raise_plain d k h, hl]
  exact ⟨_, _, rfl⟩

end

/-! ### The work of one timer -/

/-- From `d` to `e` timer n has worked: itself, registers of the timers and of the event unit, and the event unit's state. -/
structure Worked (n : Nat) (d e : Dev) : Prop where
  rest : e = { d with live := e.live, evt := e.evt, tmrs := e.tmrs }
  others : ∀ m, m ≠ n → e.tmr m = d.tmr m
  regs : ∀ a, a / 0x10000 ≠ 0xD → isEvtReg a = false → e.reg a = d.reg a

namespace Worked

variable {n : Nat} {d e f : Dev}

theorem refl (n : Nat) (d : Dev) : Worked n d d := ⟨rfl, fun _ _ => rfl, fun _ _ _ => rfl⟩

theorem trans (h : Worked n d e) (g : Worked n e f) : Worked n d f :=
  ⟨by rw [g.rest, h.rest], fun m hm => (g.others m hm).trans (h.others m hm),
    fun a ha he => (g.regs a ha he).trans (h.regs a ha he)⟩

theorem setTmr (h : Worked n d e) (x : Tmr) : Worked n d (e.setTmr n x) :=
  h.trans ⟨rfl, fun m hm => by rw [tmr_setTmr, if_neg hm], fun _ _ _ => rfl⟩

theorem setReg (h : Worked n d e) {a : Nat} (w : Word) (ha : a / 0x10000 = 0xD) : Worked n d (e.setReg a w) :=
  h.trans ⟨rfl, fun _ _ => rfl, fun _ hb _ => reg_setReg_other e w fun hab => hb (hab ▸ ha)⟩

theorem fp (h : Worked n d e) (f : Fld) (v : Nat) (hf : f.addr / 0x10000 = 0xD) : Worked n d (e.fp f v) := h.setReg _ hf

theorem raise (h : Worked n d e) {k : Nat} (hk : k < 64) (hf : fatalSource k = false) : Worked n d (e.raise k) := by
  refine h.trans ⟨?_, ?_, fun a _ ha => reg_raise_other e a hk hf ha⟩
  · obtain ⟨l, x, hr⟩ := raise_plain_fields e hf
    rw [hr]
  · obtain ⟨l, x, hr⟩ := raise_plain_fields e hf
    rw [hr]
    exact fun _ _ => rfl

theorem setEvt (h : Worked n d e) (x : Evt) : Worked n d { e with evt := x } := h.trans ⟨rfl, fun _ _ => rfl, fun _ _ _ => rfl⟩

theorem ite {c : Prop} [Decidable c] (h : Worked n d e) (g : Worked n d f) : Worked n d (if c then e else f) := by
  split <;> assumption

end Worked

/-- The source of timer group g, 49 or 50, follows the flags of its timers (R355). -/
def timerGroup (g : Nat) (d : Dev) : Dev :=
  let asks := (List.range 8).any fun i => d.tmrAsks (8 * g + i)
  let held := d.evt.level.contains (49 + g)
  if asks && !held then ({ d with evt := { d.evt with level := (49 + g) :: d.evt.level } } : Dev).raise (49 + g)
  else if !asks && held then { d with evt := { d.evt with level := d.evt.level.filter (· != 49 + g) } }
  else d

theorem tmrGroups_eq (d : Dev) : d.tmrGroups = timerGroup 1 (timerGroup 0 d) := rfl

theorem fatalSource_timerGroup {g : Nat} (h : g < 2) : fatalSource (49 + g) = false := by interval_cases g <;> decide

theorem reg_tmrGroups (d : Dev) {a : Nat} (ha : isEvtReg a = false) : d.tmrGroups.reg a = d.reg a := by
  have step {g : Nat} (hg : g < 2) (y : Dev) : (timerGroup g y).reg a = y.reg a := by
    unfold timerGroup
    dsimp only
    split
    · exact reg_raise_other _ a (by omega) (fatalSource_timerGroup hg) ha
    · split <;> rfl
  rw [tmrGroups_eq, step (by decide), step (by decide)]

theorem on_tmrGroups (d : Dev) {f : Fld} (ha : isEvtReg f.addr = false) : d.tmrGroups.on f = d.on f :=
  on_of_reg (reg_tmrGroups d ha)

namespace Worked

/-! The parts of a tick keep to the timer's own. -/

variable {n : Nat} {d e : Dev} (h : Worked n d e)
include h

theorem timerGroup {g : Nat} (hg : g < 2) : Worked n d (timerGroup g e) :=
  ((h.setEvt _).raise (by omega) (fatalSource_timerGroup hg)).ite ((h.setEvt _).ite h)

theorem tmrGroups : Worked n d e.tmrGroups := by
  rw [tmrGroups_eq]
  exact (h.timerGroup (by decide)).timerGroup (by decide)

theorem tmrPwm : Worked n d (e.tmrPwm n) := (h.setTmr _).ite h

variable (hn : n < 16)
include hn

theorem stat (b : Nat) (v : Nat) : Worked n d (e.fp ⟨rTMR_STAT n, b, b⟩ v) :=
  h.fp _ _ (by show (0xD0120 + n * 0x40) / 0x10000 = 0xD; omega)

theorem setCnt (v : Word) : Worked n d (e.setCnt n v) :=
  ((h.setTmr _).setReg v (by show (0xD0114 + n * 0x40) / 0x10000 = 0xD; omega)).tmrPwm

theorem tmrHalt : Worked n d (e.tmrHalt n) := (h.setTmr _).stat hn 5 0

theorem tmrMatch : Worked n d (e.tmrMatch n) := (h.stat hn 0 1).tmrGroups

theorem tmrWrap : Worked n d (e.tmrWrap n) := by
  have hc := ((h.setTmr { e.tmr n with
    per := if (e.tmr n).perNew then e.reg (rTMR_PER n) else (e.tmr n).per, perNew := false,
    cmp := if (e.tmr n).cmpNew then e.reg (rTMR_CMP n) else (e.tmr n).cmp, cmpNew := false }).stat hn 1 1).setCnt hn 0
  have hh (c : Prop) [Decidable c] := (hc.tmrHalt hn).ite (c := c) hc
  exact ((hh _).tmrMatch hn).ite (hh _).tmrGroups

theorem tmrTick : Worked n d (e.tmrTick n) := by
  have hp := h.ite (c := (e.tmr n).pulse = 0) (h.setTmr { e.tmr n with
    pulse := (e.tmr n).pulse - 1, pin := decide ((e.tmr n).pulse ≠ 1) })
  have hc := hp.setCnt hn ((e.tmr n).cnt + 1)
  exact hp.ite ((hp.setTmr _).tmrPwm.ite ((hp.tmrWrap hn).ite ((hc.tmrMatch hn).ite hc)))

end Worked

/-! ### A tick of a clock (R347) -/

/-- A tick of clock k works on the timers of that clock alone: the others, every register but those of timers and events, and
the rest of the device stay as they are. -/
theorem tmrTicks_fields (d : Dev) (k : Nat) :
    (∀ n, d.fg (TMR_CFG_CLK n) ≠ k → (d.tmrTicks k).tmr n = d.tmr n) ∧
    d.tmrTicks k = { d with live := (d.tmrTicks k).live, evt := (d.tmrTicks k).evt, tmrs := (d.tmrTicks k).tmrs } := by
  have hall (l : List Nat) (hl : ∀ m ∈ l, m < 16) (y : Dev) :
      (∀ n, n ∉ l → (each l (fun n d => d.tmrTick n) y).tmr n = y.tmr n) ∧
      ∃ r e t, each l (fun n d => d.tmrTick n) y = { y with live := r, evt := e, tmrs := t } := by
    induction l generalizing y with
    | nil => exact ⟨fun _ _ => rfl, _, _, _, rfl⟩
    | cons m l ih =>
      have hm := (Worked.refl m y).tmrTick (hl m List.mem_cons_self)
      obtain ⟨ho, r, e, t, hr⟩ := ih (fun j hj => hl j (List.mem_cons_of_mem _ hj)) (y.tmrTick m)
      refine ⟨fun n hn => ?_, r, e, t, ?_⟩
      · rw [List.mem_cons, not_or] at hn
        exact (ho n hn.2).trans (hm.others n hn.1)
      · rw [each_cons, hr, hm.rest]
  have hmem {m : Nat} (hm : m ∈ (List.range 16).filter fun n => d.fg (TMR_CFG_CLK n) == k && d.tmrClock n &&
      ((d.tmr n).run || (d.tmr n).pulse != 0)) : m < 16 ∧ d.fg (TMR_CFG_CLK m) = k := by
    obtain ⟨hr, hc⟩ := List.mem_filter.mp hm
    exact ⟨List.mem_range.mp hr, by simpa using (Bool.and_eq_true_iff.mp (Bool.and_eq_true_iff.mp hc).1).1⟩
  obtain ⟨ho, r, e, t, hr⟩ := hall _ (fun m hm => (hmem hm).1) d
  refine ⟨fun n hn => ho n fun h => hn (hmem h).2, ?_⟩
  unfold Dev.tmrTicks
  rw [hr]

/-! ### A match (R349) -/

theorem tmrClock_xo32 {d : Dev} {n : Nat} (hm : d.pwr.mode = .rest) (hf : d.pwr.frozen = false) (hc : d.fg (TMR_CFG_CLK n) = 1) :
    d.tmrClock n = true := by
  rw [Dev.tmrClock, hf, hc, hm]
  rfl

section
variable {d : Dev} {n : Nat} (hn : n < 16) (hr : (d.tmr n).run = true) (hc : d.tmrClock n = true)
  (hle : (d.tmr n).cmp.toNat ≤ (d.tmr n).per.toNat)
include hn hr hc hle

/-- The tick at which a running timer reaches CMP: CNT stands there and MATCH is set. -/
theorem matchAt_of_running : matchAt n d = ((d.setTmr n { d.tmr n with held := false }).setCnt n (d.tmr n).cmp).tmrMatch n :=
  if_pos ⟨hn, hr, hc, hle⟩

theorem worked_matchAt : Worked n d (matchAt n d) := by
  rw [matchAt_of_running hn hr hc hle]
  exact (((Worked.refl n d).setTmr _).setCnt hn _).tmrMatch hn

theorem match_matchAt : (matchAt n d).on (TMR_STAT_MATCH n) = true := by
  have hok : Fld.ok (TMR_STAT_MATCH n) := ⟨Nat.le_refl 0, by show 0 < 32; decide⟩
  have hev : isEvtReg (rTMR_STAT n) = false := evtReg_false (by unfold rTMR_STAT; omega)
  rw [matchAt_of_running hn hr hc hle, Dev.tmrMatch, on_tmrGroups _ hev, on_fp_self _ _ _ hok]
  rfl

end

end Sys2Proof.Modes
end

section
/-! PROOFS. REST is entered and left (R28 to R30, R38, R39, R347). -/
namespace Sys2Proof.Modes
open Sys2Proof.Machine Sys2Proof.Laws Sys2Proof.Scope

/-! ### Entry at a VS boundary (R28 to R30) -/

theorem running_iff (d : Dev) : d.running = true ↔ d.pwr.mode = .run ∧ d.pwr.frozen = false ∧ d.eng.on = true := by
  simp [Dev.running, and_assoc]

section
variable {d : Dev} (hr : d.running = true) (ho : d.restOk = true)
include hr ho

theorem pendingRequestEntry_rest (hp : d.pwr.pend = some .rest) : pendingRequestEntry d = d.enterRest := by
  rw [pendingRequestEntry, if_neg (by simp [hr, ho]), hp]

theorem pendingRequestEntry_shelf (hp : d.pwr.pend = some .shelf) : pendingRequestEntry d = d.shelfEntry := by
  rw [pendingRequestEntry, if_neg (by simp [hr, ho]), hp]

theorem pendingRequestEntry_none (hp : d.pwr.pend = none) : pendingRequestEntry d = d := by
  rw [pendingRequestEntry, if_neg (by simp [hr, ho]), hp]

theorem idleEntry_of_idle (hi : d.fg SYS_PWR_IDLE_MS ≠ 0) : idleEntry d = d.enterRest := by
  rw [idleEntry, if_pos (by simp [hr, ho, hi])]

end

theorem idleEntry_off {d : Dev} (hi : d.fg SYS_PWR_IDLE_MS = 0) : idleEntry d = d := by
  rw [idleEntry, if_neg (by simp [hi])]

/-! ### Wake edges (R38, R39) -/

theorem bitOf_set (w : Word) {k : Nat} (hk : k < 32) : bitOf (w ||| w32 (2 ^ k)) k = true := by
  have h : bitOf (w32 (2 ^ k)) k = true := by
    rw [bitOf, w32, BitVec.getLsbD_ofNat, Nat.testBit_two_pow_self, decide_eq_true hk, Bool.true_and]
  rw [bitOf_or, h, Bool.or_true]

/-- A source that is neither fatal nor counted is in EVT_RAW once it is raised (R482). -/
theorem raw_raise (d : Dev) {k : Nat} (hf : fatalSource k = false) (hc : countIdx k = none) : (d.raise k).raw k = true := by
  have hmark (e : Dev) : e.markRaise k = e.setRaw k := by rw [Dev.markRaise, hc]
  rw [raise_plain d k hf, hmark, Dev.setRaw, Dev.setBit, Dev.raw, reg_setReg_self]
  exact bitOf_set _ (Nat.mod_lt k (by decide))

section
variable (d : Dev) (k ns : Nat)

/-- The latch of the source and source 62. -/
def noteWake (d : Dev) (k : Nat) : Dev := (d.setBit rSYS_WAKE_SRC k).raise 62

theorem noteWake_fields : ∃ l e, noteWake d k = { d with live := l, evt := e } := by
  obtain ⟨l, e, h⟩ := raise_plain_fields (d.setBit rSYS_WAKE_SRC k) (k := 62) (by decide)
  exact ⟨l, e, h⟩

theorem reg_noteWake {a : Nat} (h : a ≠ rSYS_WAKE_SRC) (he : isEvtReg a = false) : (noteWake d k).reg a = d.reg a := by
  rw [noteWake, reg_raise_other _ a (by decide) (by decide) he, Dev.setBit, reg_setReg_other _ _ h]

theorem wakeSrc_noteWake (hk : k < 32) : bitOf ((noteWake d k).reg rSYS_WAKE_SRC) k = true := by
  rw [noteWake, reg_raise_other _ _ (by decide) (by decide) (by decide), Dev.setBit, reg_setReg_self]
  exact bitOf_set _ hk

/-- The device has come from REST to RUN by the wake edge of source k (R38, R39). -/
structure Woken (d : Dev) (k : Nat) (e : Dev) : Prop where
  mode : e.pwr.mode = .run
  prev : e.pwr.prev = .rest
  cold : e.pwr.cold = false
  on : e.eng.on = true
  time : e.time.cold = none
  src : bitOf (e.reg rSYS_WAKE_SRC) k = true
  raw : e.raw 62 = true
  regs : ∀ a, a ∉ [rSYS_WAKE_SRC, rSYS_CLKSTAT] → a / 0x10000 ≠ 0xC → isEvtReg a = false → e.reg a = d.reg a

theorem woken_of_rest (hm : d.pwr.mode = .rest) (hk : k < 32) : Woken d k ((noteWake d k).resumeRun ns) := by
  obtain ⟨l, e, hn⟩ := noteWake_fields d k
  have hpwr := resumeRun_pwr (noteWake d k) ns
  obtain ⟨o, x, htime⟩ := resumeRun_time (noteWake d k) ns
  have hraw := raw_raise (d.setBit rSYS_WAKE_SRC k) (k := 62) (by decide) (by decide)
  refine { mode := congrArg Pwr.mode hpwr, prev := ?_, cold := congrArg Pwr.cold hpwr, on := resumeRun_on _ ns,
           time := congrArg Time.cold htime, src := ?_, raw := ?_, regs := fun a ha hc he => ?_ }
  · rw [hpwr, hn]
    exact hm
  · rw [reg_resumeRun _ _ (by decide) (by decide)]
    exact wakeSrc_noteWake d k hk
  · rw [Dev.raw, reg_resumeRun _ _ (by decide) (by decide)]
    exact hraw
  · rw [List.mem_cons, List.mem_singleton, not_or] at ha
    rw [reg_resumeRun _ _ ha.2 hc, reg_noteWake d k ha.1 he]

theorem keep_noteWake_resumeRun : Keep Eq 0x10070FC1 d ((noteWake d k).resumeRun ns) :=
  Keep.Dev_resumeRun _ _ (Keep.Dev_raise _ _ (Keep.Dev_setBit _ _ _ (Keep.refl d rfl) rfl) rfl) rfl

theorem wake_of_enabled (hm : d.pwr.mode = .rest) (hf : d.pwr.frozen = false) (hs : d.pwr.shelf = .no) (hw : d.wakeOn k = true) :
    d.wake k ns = (noteWake d k).resumeRun ns := by
  rw [Dev.wake, if_pos (by simp [hm, hf, hs, hw]), noteWake]

theorem wake_of_disabled (hw : d.wakeOn k = false) : d.wake k ns = d := by
  rw [Dev.wake, if_neg (by simp [hw])]

end

/-! ### Which sources are enabled (R39, R427) -/

section
variable (d : Dev)

theorem wakeOn_pin : d.wakeOn 8 = bitOf (d.reg rSYS_WAKE_EN) 8 := by simp [Dev.wakeOn]
theorem wakeOn_timer : d.wakeOn 9 = bitOf (d.reg rSYS_WAKE_EN) 9 := by simp [Dev.wakeOn]

theorem wakeOn_uart {k : Nat} (hk : k < 4) :
    d.wakeOn k = (bitOf (d.reg rSYS_WAKE_EN) k && (d.on (UART_CFG_EN k) && !d.on (UART_STAT_DEAD k))) := by
  interval_cases k <;> simp [Dev.wakeOn]

theorem wakeOn_masked {k : Nat} (h : ¬ bitOf (d.reg rSYS_WAKE_EN) k = true) : d.wakeOn k = false := by
  simp [Dev.wakeOn, h]

end

/-! ### The match of a timer on XO32 (R39, R347, R349) -/

theorem matchTimer_of_new {d : Dev} {n : Nat} (hb : d.on (TMR_STAT_MATCH n) = false) (ha : (matchAt n d).on (TMR_STAT_MATCH n) = true)
    (hc : d.fg (TMR_CFG_CLK n) = 1) : matchTimer n d = (matchAt n d).wake 9 0 := by
  unfold matchTimer
  dsimp only
  rw [if_pos (by simp [ha, hb, hc])]

/-- Settles O12: entries from the lemmas on `enterRest` and `shelfEntry`, wakes from what every wake edge does (`Woken`), the match of
a timer from what its tick leaves alone. -/
theorem restIsEnteredAndLeft : Obligations.RestIsEnteredAndLeft := by
  refine ⟨?entry, ?wakes⟩
  case entry =>
    intro s p cold rests hrun hok
    obtain ⟨hmode, -, -⟩ := (running_iff s.dev).mp hrun
    have hrests {o : Instr} (ho : exec o s = .next { s with dev := s.dev.enterRest }) : rests o := by
      have hpwr := enterRest_pwr s.dev
      have hk := keep_enterRest s.dev
      obtain ⟨hflash, hfuses, hvoices, hctxs, -⟩ := services_of_keep hk rfl
      exact ⟨_, ho, congrArg Pwr.mode hpwr, (congrArg Pwr.prev hpwr).trans hmode, congrArg Pwr.pend hpwr, congrArg Pwr.cold hpwr,
        enterRest_on s.dev, enterRest_gate s.dev, enterRest_time s.dev, reg_enterRest s.dev (by decide) (by decide) (by decide),
        rfl, hflash, mem_of_keep hk rfl, hvoices, hctxs, hfuses⟩
    refine ⟨fun hp => hrests ?pending, fun hi => hrests ?idle, fun hi => ?idleOff, fun hp => ?shelf, fun hp => ?nothing⟩
    case pending =>
      show done s (pendingRequestEntry s.dev) = _
      rw [pendingRequestEntry_rest hrun hok hp, done_eq]
    case idle =>
      show done s (idleEntry s.dev) = _
      rw [idleEntry_of_idle hrun hok hi, done_eq]
    case idleOff =>
      show done s (idleEntry s.dev) = _
      rw [idleEntry_off hi, done_eq]
    case shelf =>
      refine ⟨{ s with dev := s.dev.shelfEntry }, ?_, rfl, rfl, rfl, rfl⟩
      show done s (pendingRequestEntry s.dev) = _
      rw [pendingRequestEntry_shelf hrun hok hp, done_eq]
    case nothing =>
      show done s (pendingRequestEntry s.dev) = _
      rw [pendingRequestEntry_none hrun hok hp, done_eq]
  case wakes =>
    intro s k n ns p wakes on hmode hfrozen hshelf
    have hexec (src : Nat) : exec (.restWake src ns) s = .next { s with dev := s.dev.wake src ns } := rfl
    have hwakes {src : Nat} (h32 : src < 32) (hw : s.dev.wakeOn src = true) :
        ∃ t, exec (.restWake src ns) s = .next t ∧ wakes t src := by
      have hto := hexec src
      rw [wake_of_enabled s.dev src ns hmode hfrozen hshelf hw] at hto
      have h := woken_of_rest s.dev src ns hmode h32
      have hk := keep_noteWake_resumeRun s.dev src ns
      obtain ⟨hflash, hfuses, hvoices, hctxs, -⟩ := services_of_keep hk rfl
      exact ⟨_, hto, h.mode, h.prev, h.cold, h.on, h.time, h.src, h.raw, rfl, hflash, mem_of_keep hk rfl, hfuses, hvoices, hctxs,
        uarts_of_keep hk rfl⟩
    have hignored {src : Nat} (hw : s.dev.wakeOn src = false) : exec (.restWake src ns) s = .next s := by
      rw [hexec, wake_of_disabled s.dev src ns hw]
    refine ⟨fun he => hwakes (by decide) ((wakeOn_pin s.dev).trans he), fun hk he hen hdead => hwakes (by omega) ?uart,
      fun _ he => hignored (wakeOn_masked s.dev he), fun hk hdead => hignored ?dead, fun hn he hclk hnew hr hle => ?timer⟩
    case uart => rw [wakeOn_uart s.dev hk, he, hen, hdead]; rfl
    case dead => rw [wakeOn_uart s.dev hk, hdead]; simp
    case timer =>
      have hc := tmrClock_xo32 hmode hfrozen hclk
      have hwork := worked_matchAt hn hr hc hle
      have hmatch := match_matchAt hn hr hc hle
      have hpwr : (matchAt n s.dev).pwr = s.dev.pwr := by rw [hwork.rest]
      have hw : (matchAt n s.dev).wakeOn 9 = true := by
        rw [wakeOn_timer, hwork.regs _ (by decide) (by decide)]
        exact he
      have hwake := wake_of_enabled (matchAt n s.dev) 9 0 (by rw [hpwr]; exact hmode) (by rw [hpwr]; exact hfrozen)
        (by rw [hpwr]; exact hshelf) hw
      have h := woken_of_rest (matchAt n s.dev) 9 0 (by rw [hpwr]; exact hmode) (by decide)
      refine ⟨{ s with dev := (noteWake (matchAt n s.dev) 9).resumeRun 0 }, ?_, h.mode, h.prev, h.on, h.src, h.raw, ?_⟩
      · show done s (matchTimer n s.dev) = _
        rw [matchTimer_of_new hnew hmatch hclk, hwake, done_eq]
      · have hat : rTMR_STAT n = 0xD0120 + n * 0x40 := rfl
        have hapart : rTMR_STAT n ∉ [rSYS_WAKE_SRC, rSYS_CLKSTAT] := by
          simp only [List.mem_cons, List.not_mem_nil, or_false, not_or, hat, rSYS_WAKE_SRC, rSYS_CLKSTAT]
          omega
        exact (on_of_reg (h.regs (rTMR_STAT n) hapart (by omega) (evtReg_false (by omega)))).trans hmatch

end Sys2Proof.Modes
end

section
/-! PROOFS. The parts of a boot (R49, R58 to R67): what the probe, a failure code, a check's result, the header and the
undoing of an attempt leave alone. -/
namespace Sys2Proof.Modes
open Sys2Proof.Machine Sys2Proof.Laws

/-! ### The flash probe (R49) -/

section
variable (d : Dev) (f : FlashId)

theorem probe_fields : ∃ l, (d.probe f).2 = { d with live := l } := by
  unfold Dev.probe
  split <;> exact ⟨_, rfl⟩

theorem reg_probe {a : Nat} (h : a / 0x10000 ≠ 0x11) : (d.probe f).2.reg a = d.reg a := by
  have hflash : a ≠ rNVJ_FLASH := by unfold rNVJ_FLASH; omega
  have hid : a ≠ rNVJ_FID := by unfold rNVJ_FID; omega
  unfold Dev.probe
  split
  · rfl
  · rw [reg_fp_other _ _ _ hid, reg_fp_other _ _ _ hflash, reg_fp_other _ _ _ hflash, reg_fp_other _ _ _ hflash]

theorem code_probe : (d.probe f).1 = if FlashIdUsable f then 0 else 1 := by
  unfold Dev.probe
  cases FlashIdUsable f <;> rfl

theorem sectors_probe (h : FlashIdUsable f = true) : (d.probe f).2.fg NVJ_FLASH_SECTORS = f.sectors := by
  have hmax : f.sectors < 65536 := by
    rw [FlashIdUsable, Bool.and_eq_true, decide_eq_true_eq] at h
    omega
  unfold Dev.probe
  rw [h, if_neg (by decide), fg_fp_other _ _ _ _ (by decide) (by decide), fg_fp_self _ _ _ (by decide)]
  exact Nat.mod_eq_of_lt hmax

end

/-! ### Failure codes (R64, R67) -/

section
variable (d : Dev) (c : Nat)

theorem bootCode_fields : ∃ l, d.bootCode c = { d with live := l } := by
  unfold Dev.bootCode
  split <;> exact ⟨_, rfl⟩

theorem reg_bootCode {a : Nat} (h : a ≠ rSTG_BOOT) : (d.bootCode c).reg a = d.reg a := by
  unfold Dev.bootCode
  split <;> exact reg_fp_other _ _ _ h

variable {d c} (hc : c < 256)
include hc

theorem fail1_bootCode (h : d.fg STG_BOOT_FAIL1 = 0) : (d.bootCode c).fg STG_BOOT_FAIL1 = c := by
  rw [Dev.bootCode, if_pos h, fg_fp_self _ _ _ (by decide)]
  exact Nat.mod_eq_of_lt hc

theorem fail2_bootCode (h : d.fg STG_BOOT_FAIL1 ≠ 0) : (d.bootCode c).fg STG_BOOT_FAIL2 = c := by
  rw [Dev.bootCode, if_neg h, fg_fp_self _ _ _ (by decide)]
  exact Nat.mod_eq_of_lt hc

/-- A code other than 1 does not make FAIL1 say that the flash is unusable. -/
theorem fail1_bootCode_one (h1 : c ≠ 1) : (d.bootCode c).fg STG_BOOT_FAIL1 = 1 ↔ d.fg STG_BOOT_FAIL1 = 1 := by
  by_cases h : d.fg STG_BOOT_FAIL1 = 0
  · rw [fail1_bootCode hc h, h]
    exact iff_of_false h1 (by decide)
  · rw [Dev.bootCode, if_neg h, fg_fp_other _ _ _ _ (by decide) (by decide)]

end

theorem tableCode_lt (t : List Byte) (sectors : Nat) : tableCode t sectors < 256 := by
  unfold tableCode
  dsimp only
  split_ifs <;> decide

/-- The header check answers 0 or a code from 5 to 8 (R58, R67). -/
theorem headerCode_range (d : Dev) (h : List Byte) (limit : Nat) :
    d.headerCode h limit = 0 ∨ 5 ≤ d.headerCode h limit ∧ d.headerCode h limit ≤ 8 := by
  unfold Dev.headerCode
  dsimp only
  split_ifs <;> decide

/-! ### The result of a check (R72) -/

section
variable (d : Dev) (r : Option (Nat × Nat)) (v : Bool)

theorem showCheck_fields : ∃ l, d.showCheck r v = { d with live := l } := ⟨_, rfl⟩

theorem reg_showCheck {a : Nat} (h : a ≠ rSTG_STATUS) (hf : a ≠ rSTG_FAIL_ADDR) : (d.showCheck r v).reg a = d.reg a := by
  unfold Dev.showCheck
  dsimp only
  rw [reg_fp_other _ _ _ h, reg_setReg_other _ _ hf, reg_fp_other _ _ _ h]

theorem result_showCheck (h : r.isNone = true) : (d.showCheck r true).fg STG_STATUS_RESULT = 1 := by
  obtain rfl := Option.isNone_iff_eq_none.mp h
  exact fg_fp_self _ _ _ (by decide)

theorem keepRule_fields (b : BootStep) : ∃ l, d.keepRule b = { d with live := l } := by
  unfold Dev.keepRule
  split
  · exact showCheck_fields _ _ _
  · exact ⟨_, rfl⟩

theorem reg_keepRule (b : BootStep) {a : Nat} (h : a ≠ rSTG_STATUS) (hf : a ≠ rSTG_FAIL_ADDR) : (d.keepRule b).reg a = d.reg a := by
  unfold Dev.keepRule
  split
  · exact reg_showCheck _ _ _ h hf
  · rfl

end

/-! ### The choice of the other slot (R62) -/

/-- The choice of a slot reads the flash and, of the registers, only what says whether the flash is usable. -/
theorem chooseSlot_congr {d e : Dev} (he : ∃ l, e = { d with live := l }) (hc : e.flashCode = d.flashCode) (t : Option Nat) :
    e.chooseSlot t = d.chooseSlot t := by
  have hr (k : Nat) : e.region k = d.region k := by
    rw [Dev.region, Dev.region, hc]
    obtain ⟨l, rfl⟩ := he
    rfl
  have hctl (k : Nat) : e.ctlAt k = d.ctlAt k := by rw [Dev.ctlAt, hr, Dev.ctlAt]
  have hb (a n : Nat) : e.fbs a n = d.fbs a n := by
    obtain ⟨l, rfl⟩ := he
    rfl
  have htries (k : Nat) : e.tries k = d.tries k := by rw [Dev.tries, hr, hb, Dev.tries]
  have hattempts (k : Nat) : e.attempts k = d.attempts k := by rw [Dev.attempts, hctl, hb, Dev.attempts]
  have hel (k : Nat) : e.eligible k = d.eligible k := by
    rw [Dev.eligible, Dev.loaded, Dev.revoked, Dev.confirmed, hctl, hb, hb, hb, htries, hattempts]
    rfl
  have hgen (k : Nat) : e.gen k = d.gen k := by rw [Dev.gen, hctl, hb, Dev.gen]
  simp only [Dev.chooseSlot, hel, hgen]

theorem chooseSlot_failed (d : Dev) (b : BootStep) {c : Nat} (hc : c < 256) (h1 : c ≠ 1) (t : Option Nat) :
    ((d.keepRule b).bootCode c).chooseSlot t = d.chooseSlot t := by
  obtain ⟨l, hl⟩ := keepRule_fields d b
  obtain ⟨l', hl'⟩ := bootCode_fields (d.keepRule b) c
  have hreg {a : Nat} (h : a / 0x10000 ≠ 1) : ((d.keepRule b).bootCode c).reg a = d.reg a := by
    rw [reg_bootCode _ _ (by unfold rSTG_BOOT; omega), reg_keepRule _ _ (by unfold rSTG_STATUS; omega) (by unfold rSTG_FAIL_ADDR; omega)]
  have hmode : ((d.keepRule b).bootCode c).fg NVJ_FLASH_MODE = d.fg NVJ_FLASH_MODE := fg_of_reg (hreg (by decide))
  have hsec : ((d.keepRule b).bootCode c).fg NVJ_FLASH_SECTORS = d.fg NVJ_FLASH_SECTORS := fg_of_reg (hreg (by decide))
  have hfail : ((d.keepRule b).bootCode c).fg STG_BOOT_FAIL1 = 1 ↔ d.fg STG_BOOT_FAIL1 = 1 := by
    rw [fail1_bootCode_one hc h1, fg_of_reg (reg_keepRule d b (by decide) (by decide))]
  have htable : ((d.keepRule b).bootCode c).tableBytes = d.tableBytes := by rw [hl', hl]; rfl
  refine chooseSlot_congr ⟨l', by rw [hl', hl]⟩ ?_ t
  simp only [Dev.flashCode, Dev.flashSectors, hmode, hsec, hfail, htable]

/-! ### The accepted header (R60, R285) -/

/-- What Heartwood keeps of a header: key, key number and minimum version, digest. -/
def storeHeader (d : Dev) (h : List Byte) : Dev :=
  ((d.wbs (hwBase + 0xC0) (part h 0x620 64)).wbs (hwBase + 0x100) (part h 0x1A 2)).wbs (hwBase + 0x120) (imageDigest h)

/-- The image digest in its registers. -/
def showDigest (h : List Byte) (d : Dev) : Dev :=
  each (List.range 8) (fun i d => d.setReg (rSTG_IMGDIG i) (w32 (le (imageDigest h) (4 * i) 4))) d

/-- The CONFIRM_S of a header. -/
def storeConfirm (h : List Byte) (d : Dev) : Dev := { d with stg := { d.stg with confirmSec := le h 0x1E 2 } }

section
variable (d : Dev) (h : List Byte)

theorem keepHeader_eq : d.keepHeader h =
    storeConfirm h (showDigest h ((storeHeader d h).setReg rSTG_IMGVER (w32 (le h 0xC 4)))) := rfl

theorem reg_storeConfirm (a : Nat) : (storeConfirm h d).reg a = d.reg a := rfl
theorem rb_storeConfirm (a : Nat) : (storeConfirm h d).rb a = d.rb a := rfl

theorem rSTG_IMGDIG_bounds {i : Nat} (hi : i ∈ List.range 8) : rSTG_IMGVER < rSTG_IMGDIG i ∧ rSTG_IMGDIG i < 0x50000 := by
  have := List.mem_range.mp hi
  unfold rSTG_IMGDIG rSTG_IMGVER
  omega

theorem reg_showDigest_imgver : (showDigest h d).reg rSTG_IMGVER = d.reg rSTG_IMGVER :=
  each_keeps d (·.reg rSTG_IMGVER) _ _ fun _ hi y => reg_setReg_other y _ (rSTG_IMGDIG_bounds hi).1.ne

theorem rb_showDigest (a : Nat) : (showDigest h d).rb a = d.rb a :=
  each_keeps d (·.rb a) _ _ fun _ hi y => rb_setReg y _ a (.inl (rSTG_IMGDIG_bounds hi).2)

theorem imgver_keepHeader : (d.keepHeader h).reg rSTG_IMGVER = w32 (le h 0xC 4) := by
  rw [keepHeader_eq, reg_storeConfirm, reg_showDigest_imgver, reg_setReg_self]

theorem rb_keepHeader (a : Nat) : (d.keepHeader h).rb a = (storeHeader d h).rb a := by
  rw [keepHeader_eq, rb_storeConfirm, rb_showDigest, rb_setReg _ _ a (.inl (by decide))]

/-- The public key of an accepted header stands in Heartwood from 0xC0. -/
theorem key_keepHeader (hl : h.length = 0x800) : (d.keepHeader h).rbs (hwBase + 0xC0) 64 = part h 0x620 64 := by
  have hlen : (part h 0x620 64).length = 64 := by rw [part, List.length_take, List.length_drop, hl]; rfl
  refine List.ext_getElem (by simp [Dev.rbs, hlen]) fun i hi hi' => ?_
  rw [hlen] at hi'
  have hbelow {o n : Nat} (ho : 0x100 ≤ o) : ¬ (hwBase + o ≤ hwBase + 0xC0 + i ∧ hwBase + 0xC0 + i < n) := by omega
  simp only [Dev.rbs, List.getElem_map, List.getElem_range]
  rw [rb_keepHeader, storeHeader, rb_wbs, if_neg (hbelow (by decide)), rb_wbs, if_neg (hbelow (by decide)), rb_wbs,
    if_pos (by omega), Nat.add_sub_cancel_left, List.getD_eq_getElem _ _ (by omega)]

theorem keep_keepHeader : Keep Eq 0x405 d (d.keepHeader h) := Keep.Dev_keepHeader d h (Keep.refl d rfl) rfl

end

theorem slotHead_length (d : Dev) (slot : Nat) : (d.slotHead slot).length = 0x800 := by
  rw [Dev.slotHead, Dev.fbs, List.length_map, List.length_range]

/-! ### The undoing of an attempt (R64) -/

section
variable (d : Dev)

/-- STG_BOOT belongs to the hardware: no write, no commit and no section sets it, so an attempt is not undone there. -/
theorem reg_undoRegs_boot : d.undoRegs.reg rSTG_BOOT = d.reg rSTG_BOOT :=
  each_keeps d (·.reg rSTG_BOOT) _ _ fun a _ y => by
    by_cases ha : a = rSTG_BOOT
    · subst ha
      have hm : accMask rSTG_BOOT .rw ||| accMask rSTG_BOOT .st ||| accMask rSTG_BOOT .lk = 0#32 := by decide
      rw [hm, if_neg (by decide), reg_setReg_self, BitVec.and_zero, BitVec.or_zero, BitVec.not_zero, BitVec.and_allOnes]
    · split <;> exact reg_setReg_other _ _ (Ne.symm ha)

/-- The services of a device whose attempt is undone. -/
def emptied (d : Dev) : Dev :=
  { d with staged := [], note := Dev.reset.note, nvj := Dev.reset.nvj, age := Dev.reset.age, spns := [], cv := Dev.reset.cv, tmrs := [] }

theorem undoAttempt_eq : d.undoAttempt = (emptied d.undoRegs).clearMemory.wbs (hwBase + 0xC0) (List.replicate 0x80 0) := rfl

theorem reg_clearMemory {a : Nat} (h : a ≠ rMEM_STAT) : d.clearMemory.reg a = d.reg a := reg_fp_other _ _ _ h

theorem boot_undoAttempt : d.undoAttempt.reg rSTG_BOOT = d.reg rSTG_BOOT := by
  rw [undoAttempt_eq, reg_wbs _ _ _ _ (by decide), reg_clearMemory _ (by decide)]
  exact reg_undoRegs_boot d

theorem staged_undoAttempt : d.undoAttempt.staged = [] := by
  obtain ⟨l, m, h⟩ := wbs_fields (List.replicate 0x80 0) (emptied d.undoRegs).clearMemory (hwBase + 0xC0)
  rw [undoAttempt_eq, h]
  rfl

theorem keep_undoAttempt : Keep Eq 0x6144247 d d.undoAttempt := Keep.Dev_undoAttempt d (Keep.refl d rfl) rfl

end

end Sys2Proof.Modes
end

section
/-! PROOFS. BLANK is left, and a boot goes step by step (R24, R26, R58 to R67, R272, R521). -/
namespace Sys2Proof.Modes
open Sys2Proof.Machine Sys2Proof.Laws

/-! ### BLANK_ADVANCE outside CHUCK (R24, R26) -/

theorem exec_blankAdvance (s : State) (env : BootEnv) : exec (.blankAdvance env) s = .next { s with dev := blankAdvance env s.dev } := rfl

theorem exec_blankAdvance_eq {s : State} {env : BootEnv} {e : Dev} (h : blankAdvance env s.dev = e) :
    exec (.blankAdvance env) s = .next { s with dev := e } := by
  rw [exec_blankAdvance, h]

/-- The end of BLANK burns nothing (R438). -/
theorem fuses_blankAdvance (env : BootEnv) (d : Dev) : (blankAdvance env d).fuses = d.fuses :=
  (Keep.blankAdvance env d (Keep.refl (R := Eq) (M := 0x17F74FCF) d rfl) rfl).fuses.symm

section
variable {env : BootEnv} {d : Dev}

theorem blankAdvance_chuck (h : d.pwr.mode = .chuck) : blankAdvance env d = Dev.bootRun env env.steps d := by
  rw [blankAdvance, if_pos h]

theorem blankAdvance_unready (hm : d.pwr.mode ≠ .chuck) (h : d.blankReady = false) : blankAdvance env d = d := by
  rw [blankAdvance, if_neg hm, h]
  rfl

variable (hm : d.pwr.mode = .blank) (h : d.blankReady = true)
include hm h

/-- In a BLANK that is ready the straps decide. -/
theorem blankAdvance_ready : blankAdvance env d =
    if d.on SYS_STRAP_SVC then (d.probe env.flash).2.enterService
    else if d.hosted then d else Dev.bootRun env env.steps d.enterChuck := by
  rw [blankAdvance, if_neg (by rw [hm]; decide), h]
  rfl

theorem blankAdvance_service (hs : d.on SYS_STRAP_SVC = true) : blankAdvance env d = (d.probe env.flash).2.enterService := by
  rw [blankAdvance_ready hm h, if_pos hs]

theorem blankAdvance_hosted (hs : ¬ d.on SYS_STRAP_SVC = true) (hh : d.hosted = true) : blankAdvance env d = d := by
  rw [blankAdvance_ready hm h, if_neg hs, if_pos hh]

theorem blankAdvance_autonomous (hs : ¬ d.on SYS_STRAP_SVC = true) (hh : ¬ d.hosted = true) :
    blankAdvance env d = Dev.bootRun env env.steps d.enterChuck := by
  rw [blankAdvance_ready hm h, if_neg hs, if_neg hh]

end

/-! ### One step of a boot (R66) -/

/-- The boot goes on with step `c`. -/
def bootAt (c : Boot) (d : Dev) : Dev := { d with pwr := { d.pwr with boot := some c } }

section
variable (c : Boot) (d : Dev)

theorem reg_bootAt (a : Nat) : (bootAt c d).reg a = d.reg a := rfl
theorem flash_bootAt : (bootAt c d).flash = d.flash := rfl
theorem rbs_bootAt (a n : Nat) : (bootAt c d).rbs a n = d.rbs a n := rfl

end

/-- What the outcome of a step does with the boot: the failure, the next step, or RUN. -/
def bootOutcome (d : Dev) (b : Boot) : Except Nat (Option BootStep × Dev) → Dev
  | .error c => d.bootFail b c
  | .ok (some s, e) => bootAt { b with step := s } e
  | .ok (none, e) => e.enterRun

section
variable {env : BootEnv} {d : Dev} {b : Boot} (hm : d.pwr.mode = .chuck) (hb : d.pwr.boot = some b) (hsteps : env.steps = 1)

include hm hb hsteps in
theorem blankAdvance_one : blankAdvance env d = d.bootOne env := by
  rw [blankAdvance_chuck hm, hsteps, Dev.bootRun, hb, Option.isNone_some, if_neg (by decide), Dev.bootRun]

variable (hw : b.wipes = 0) (hbad : env.stockBad = false) (hslot : b.step ≠ .slot)

include hb hw hbad hslot in
/-- Without a wipe and with a good memory the outcome of the step decides. -/
theorem bootOne_eq : d.bootOne env = bootOutcome d b (d.bootStep b env) := by
  have hno : (b.wipes = 1 && !d.on MEM_HW_WIPING) = false := by rw [hw]; rfl
  unfold Dev.bootOne
  rw [hb]
  dsimp only
  rw [if_neg (by omega), if_neg hslot]
  rw [hno, if_neg Bool.false_ne_true, hbad, if_neg (by split <;> simp)]
  rfl

include hm hb hsteps hw hbad hslot

theorem blankAdvance_next {n : BootStep} {e : Dev} (h : d.bootStep b env = .ok (some n, e)) :
    blankAdvance env d = bootAt { b with step := n } e := by
  rw [blankAdvance_one hm hb hsteps, bootOne_eq hb hw hbad hslot, h, bootOutcome]

theorem blankAdvance_error {c : Nat} (h : d.bootStep b env = .error c) : blankAdvance env d = d.bootFail b c := by
  rw [blankAdvance_one hm hb hsteps, bootOne_eq hb hw hbad hslot, h, bootOutcome]

end

/-! ### The outcome of each step (R49, R51, R58, R68) -/

section
variable {env : BootEnv} {d : Dev} {b : Boot}

theorem bootStep_clocks (h : b.step = .clocks) : d.bootStep b env =
    if env.clocksOk then .ok (some .probe, d.setClocks true true true false true) else .error 0x0E := by
  rw [Dev.bootStep, h]
  simp

theorem bootStep_probe (h : b.step = .probe) : d.bootStep b env =
    if (d.probe env.flash).1 = 0 then .ok (some .ptable, (d.probe env.flash).2) else .error (d.probe env.flash).1 := by
  rw [Dev.bootStep, h]
  simp

variable (hr : env.readOk = true)
include hr

theorem bootStep_ptable (h : b.step = .ptable) : d.bootStep b env =
    if tableCode d.tableBytes d.flashSectors = 0 then .ok (some .slot, d) else .error (tableCode d.tableBytes d.flashSectors) := by
  rw [Dev.bootStep, h, hr]
  simp

/-- The code of the header check of a slot. -/
def slotHeaderCode (d : Dev) (slot : Nat) : Nat :=
  d.headerCode (d.slotHead slot) ((d.region slot).elim 0 fun r => (r.2 - 1) * 0x10000)

omit hr in
theorem slotHeaderCode_range {slot : Nat} (h : slotHeaderCode d slot ≠ 0) : 5 ≤ slotHeaderCode d slot ∧ slotHeaderCode d slot ≤ 8 :=
  (headerCode_range _ _ _).resolve_left h

theorem bootStep_header (h : b.step = .header) : d.bootStep b env =
    if slotHeaderCode d b.slot ≠ 0 then .error (slotHeaderCode d b.slot)
    else if sectionCode (d.slotHead b.slot) ≠ 0 then .error 0x09 else .ok (some .clear, d.keepHeader (d.slotHead b.slot)) := by
  rw [Dev.bootStep, h, hr, if_neg (by decide), slotHeaderCode]

/-- What the check of the loaded registers finds. -/
def bootFinds (d : Dev) : Option (Nat × Nat) := d.checkSet [] (d.voicesAt d.age.fstart) d.age.fstart

theorem bootStep_check (h : b.step = .check) : d.bootStep b env =
    if (bootFinds d).isSome then .error 0x0C else .ok (some .journal, d.showCheck (bootFinds d) true) := by
  rw [Dev.bootStep, h, hr, if_neg (by decide), bootFinds]

end

/-! ### A step that fails (R64) -/

section
variable (d : Dev) (b : Boot) (c : Nat)

/-- The device that has noted the failure: the check's result, and the code. -/
def failed (d : Dev) (b : Boot) (c : Nat) : Dev := (d.keepRule b.step).bootCode c

/-- The other slot takes the boot where the step is one of those that fall back, for the first time, and it is eligible. -/
def Falls (d : Dev) (b : Boot) : Prop := BootStepFalls b.step = true ∧ b.fellBack = false ∧ (d.chooseSlot (some b.slot)).isSome = true

/-- The device with another power state. -/
def withPwr (p : Pwr) (d : Dev) : Dev := { d with pwr := p }

theorem pwr_withPwr (p : Pwr) : (withPwr p d).pwr = p := rfl
theorem reg_withPwr (p : Pwr) (a : Nat) : (withPwr p d).reg a = d.reg a := rfl
theorem flash_withPwr (p : Pwr) : (withPwr p d).flash = d.flash := rfl
theorem staged_withPwr (p : Pwr) : (withPwr p d).staged = d.staged := rfl

/-- The second attempt begins at the slot choice (R64). -/
def turned (b : Boot) (d : Dev) : Dev :=
  withPwr { d.pwr with boot := some { b with step := .slot, fellBack := true, wipes := 0 } } d.undoAttempt

theorem failed_fields : ∃ l, failed d b c = { d with live := l } := by
  obtain ⟨l, hl⟩ := keepRule_fields d b.step
  obtain ⟨l', hl'⟩ := bootCode_fields (d.keepRule b.step) c
  exact ⟨l', by rw [failed, hl', hl]⟩

theorem fail1_keepRule : (d.keepRule b.step).fg STG_BOOT_FAIL1 = d.fg STG_BOOT_FAIL1 :=
  fg_of_reg (reg_keepRule d b.step (by decide) (by decide))

theorem bootFail_eq : d.bootFail b c =
    if BootStepFalls b.step && !b.fellBack && ((failed d b c).chooseSlot (some b.slot)).isSome then
      turned b (failed d b c)
    else (failed d b c).enterService := rfl

variable {c} (hc : c < 256)
include hc

/-- The code stands in FAIL1, in FAIL2 where FAIL1 held one (R64). -/
theorem code_failed : if d.fg STG_BOOT_FAIL1 = 0 then (failed d b c).fg STG_BOOT_FAIL1 = c else (failed d b c).fg STG_BOOT_FAIL2 = c := by
  split
  · next h => exact fail1_bootCode hc ((fail1_keepRule d b).trans h)
  · next h => exact fail2_bootCode hc (fun h0 => h ((fail1_keepRule d b).symm.trans h0))

variable {d b}

theorem falls_iff (h1 : BootStepFalls b.step = true → c ≠ 1) : (BootStepFalls b.step && !b.fellBack &&
    ((failed d b c).chooseSlot (some b.slot)).isSome) = true ↔ Falls d b := by
  cases hs : BootStepFalls b.step with
  | false => simp [Falls, hs]
  | true =>
    rw [failed, chooseSlot_failed d b.step hc (h1 hs)]
    simp [Falls, hs]

theorem bootFail_service (h1 : BootStepFalls b.step = true → c ≠ 1) (h : ¬ Falls d b) :
    d.bootFail b c = (failed d b c).enterService := by
  rw [bootFail_eq, if_neg fun hx => h ((falls_iff hc h1).mp hx)]

theorem bootFail_falls (h1 : c ≠ 1) (h : Falls d b) : d.bootFail b c = turned b (failed d b c) := by
  rw [bootFail_eq, if_pos ((falls_iff hc fun _ => h1).mpr h)]

end

/-- SERVICE after a failed step: no boot goes on, and its code can be read (R64, R67). -/
theorem service_failed {d : Dev} {b : Boot} {c : Nat} (hc : c < 256) :
    (failed d b c).enterService.pwr.mode = .service ∧ (failed d b c).enterService.pwr.boot = none ∧
    if d.fg STG_BOOT_FAIL1 = 0 then (failed d b c).enterService.fg STG_BOOT_FAIL1 = c
    else (failed d b c).enterService.fg STG_BOOT_FAIL2 = c := by
  obtain ⟨-, -, hmode, -, -, hboot⟩ := enterService_fields (failed d b c)
  have hkeep {f : Fld} (hf : f.addr = rSTG_BOOT) : (failed d b c).enterService.fg f = (failed d b c).fg f :=
    fg_of_reg (reg_enterService _ (by rw [hf]; decide) (by rw [hf]; decide))
  refine ⟨hmode, hboot, ?_⟩
  rw [hkeep rfl, hkeep rfl]
  exact code_failed d b hc

/-- The device that turns to the other slot: the code stays in FAIL1, staging is empty, the flash is as it was (R64). -/
theorem turned_failed {d : Dev} {b : Boot} {c : Nat} (hc : c < 256) (h0 : d.fg STG_BOOT_FAIL1 = 0) :
    (turned b (failed d b c)).pwr = { d.pwr with boot := some { b with step := .slot, fellBack := true, wipes := 0 } } ∧
    (turned b (failed d b c)).fg STG_BOOT_FAIL1 = c ∧ (turned b (failed d b c)).staged = [] ∧
    (turned b (failed d b c)).flash = d.flash := by
  have hf : (failed d b c).fg STG_BOOT_FAIL1 = c := by
    have := code_failed d b hc
    rwa [if_pos h0] at this
  obtain ⟨l, e⟩ := failed_fields d b c
  have hflash : (failed d b c).flash = d.flash := by rw [e]
  have hpwr : (failed d b c).pwr = d.pwr := by rw [e]
  refine ⟨?_, ?_, ?_, ?_⟩
  · rw [turned, pwr_withPwr, hpwr]
  · rw [turned, fg_of_reg (f := STG_BOOT_FAIL1) ((reg_withPwr _ _ _).trans (boot_undoAttempt _)), hf]
  · rw [turned, staged_withPwr, staged_undoAttempt]
  · rw [turned, flash_withPwr, flash_of_keep (keep_undoAttempt _) rfl, hflash]

/-! ### The device of a boot step -/

theorem lpllLock_setClocks (d : Dev) (x hf sp ap : Bool) : (d.setClocks x hf sp ap true).on SYS_CLKSTAT_LPLL_LOCK = true := by
  unfold Dev.setClocks
  exact on_fp_self _ _ _ (by decide)

theorem pwr_setClocks (d : Dev) (x hf sp ap lp : Bool) : (d.setClocks x hf sp ap lp).pwr = d.pwr := rfl

theorem bankCur_probe (d : Dev) (f : FlashId) (k : Nat) : (d.probe f).2.bankCur k = d.bankCur k :=
  bankCur_of_reg (reg_probe d f (by unfold rMEM_BANK; omega))

/-! ### What a step leads to: the next step, the other slot, or SERVICE -/

/-- BLANK_ADVANCE leads to boot step `n` in CHUCK, and to a state that `more` is true of. -/
def Goes (s : State) (env : BootEnv) (n : BootStep) (more : State → Prop) : Prop := ∃ t, exec (.blankAdvance env) s = .next t ∧
  (∃ c, t.dev.pwr.boot = some c ∧ c.step = n) ∧ t.dev.pwr.mode = .chuck ∧ t.dev.fuses = s.dev.fuses ∧
  t.pending = s.pending ∧ more t

/-- BLANK_ADVANCE leads to SERVICE with failure code `c`. -/
def Fails (s : State) (env : BootEnv) (c : Nat) : Prop := ∃ t, exec (.blankAdvance env) s = .next t ∧
  t.dev.pwr.mode = .service ∧ t.dev.pwr.boot = none ∧
  (if s.dev.fg STG_BOOT_FAIL1 = 0 then t.dev.fg STG_BOOT_FAIL1 = c else t.dev.fg STG_BOOT_FAIL2 = c) ∧
  t.dev.fuses = s.dev.fuses ∧ t.pending = s.pending

section
variable {s : State} {env : BootEnv} {b : Boot} (hm : s.dev.pwr.mode = .chuck) (hb : s.dev.pwr.boot = some b)
  (hsteps : env.steps = 1) (hw : b.wipes = 0) (hbad : env.stockBad = false)

theorem goes_of_eq {n : BootStep} {e : Dev} {more : State → Prop} {c : Boot} (h : blankAdvance env s.dev = e)
    (hc : e.pwr.boot = some c) (hn : c.step = n) (he : e.pwr.mode = .chuck) (hmore : more { s with dev := e }) : Goes s env n more :=
  ⟨_, exec_blankAdvance_eq h, ⟨c, hc, hn⟩, he, (congrArg Dev.fuses h).symm.trans (fuses_blankAdvance env s.dev), rfl, hmore⟩

include hm hb hsteps hw hbad

theorem goes_next {n : BootStep} {e : Dev} {more : State → Prop} (hslot : b.step ≠ .slot)
    (h : s.dev.bootStep b env = .ok (some n, e)) (he : e.pwr.mode = .chuck)
    (hmore : more { s with dev := bootAt { b with step := n } e }) : Goes s env n more :=
  goes_of_eq (blankAdvance_next hm hb hsteps hw hbad hslot h) rfl rfl he hmore

/-- A failed step leads to SERVICE unless the other slot takes the boot (R64). -/
theorem fails_of_error {c : Nat} (hslot : b.step ≠ .slot) (h : s.dev.bootStep b env = .error c) (hc : c < 256)
    (h1 : BootStepFalls b.step = true → c ≠ 1) (ho : ¬ Falls s.dev b) : Fails s env c := by
  have hx := (blankAdvance_error hm hb hsteps hw hbad hslot h).trans (bootFail_service hc h1 ho)
  obtain ⟨hmode, hboot, hcode⟩ := service_failed (d := s.dev) (b := b) hc
  exact ⟨_, exec_blankAdvance_eq hx, hmode, hboot, hcode,
    (congrArg Dev.fuses hx).symm.trans (fuses_blankAdvance env s.dev), rfl⟩

/-- A step before the header check never turns to the other slot. -/
theorem fails_early {c : Nat} (hslot : b.step ≠ .slot) (h : s.dev.bootStep b env = .error c) (hc : c < 256)
    (he : BootStepFalls b.step = false) : Fails s env c :=
  fails_of_error hm hb hsteps hw hbad hslot h hc (fun ht => absurd ht (by rw [he]; decide))
    fun hf => absurd hf.1 (by rw [he]; decide)

theorem clocks_goes (h : b.step = .clocks) (hok : env.clocksOk = true) :
    Goes s env .probe fun t => t.dev.on SYS_CLKSTAT_LPLL_LOCK = true := by
  have hmode : (s.dev.setClocks true true true false true).pwr.mode = .chuck := by
    rw [pwr_setClocks]
    exact hm
  exact goes_next hm hb hsteps hw hbad (by rw [h]; decide) ((bootStep_clocks h).trans (if_pos hok)) hmode
    ((on_of_reg (reg_bootAt _ _ _)).trans (lpllLock_setClocks s.dev true true true false))

theorem clocks_fails (h : b.step = .clocks) (hno : env.clocksOk = false) : Fails s env 0x0E :=
  fails_early hm hb hsteps hw hbad (by rw [h]; decide) ((bootStep_clocks h).trans (if_neg (by simp [hno]))) (by decide)
    (by rw [h]; rfl)

theorem probe_goes (h : b.step = .probe) (hok : FlashIdUsable env.flash = true) :
    Goes s env .ptable fun t => t.dev.fg NVJ_FLASH_SECTORS = env.flash.sectors := by
  refine goes_next hm hb hsteps hw hbad (by rw [h]; decide) ((bootStep_probe h).trans (if_pos (by rw [code_probe, hok]; rfl))) ?_
    (sectors_probe s.dev env.flash hok)
  obtain ⟨l, hl⟩ := probe_fields s.dev env.flash
  rw [hl]
  exact hm

theorem probe_fails (h : b.step = .probe) (hno : FlashIdUsable env.flash = false) : Fails s env 0x01 := by
  have hcode : (s.dev.probe env.flash).1 = 1 := by rw [code_probe, hno]; rfl
  have hstep := bootStep_probe (env := env) (d := s.dev) h
  rw [hcode, if_neg (by decide)] at hstep
  exact fails_early hm hb hsteps hw hbad (by rw [h]; decide) hstep (by decide) (by rw [h]; rfl)

variable (hr : env.readOk = true)
include hr

theorem ptable_goes (h : b.step = .ptable) (hok : tableCode s.dev.tableBytes s.dev.flashSectors = 0) :
    Goes s env .slot fun t => t.dev.flash = s.dev.flash :=
  goes_next hm hb hsteps hw hbad (by rw [h]; decide) ((bootStep_ptable hr h).trans (if_pos hok)) hm rfl

theorem ptable_fails (h : b.step = .ptable) (hno : tableCode s.dev.tableBytes s.dev.flashSectors ≠ 0) :
    Fails s env (tableCode s.dev.tableBytes s.dev.flashSectors) :=
  fails_early hm hb hsteps hw hbad (by rw [h]; decide) ((bootStep_ptable hr h).trans (if_neg hno)) (tableCode_lt _ _)
    (by rw [h]; rfl)

theorem header_goes (h : b.step = .header) (hok : slotHeaderCode s.dev b.slot = 0) (hsect : sectionCode (s.dev.slotHead b.slot) = 0) :
    Goes s env .clear fun t => t.dev.rbs (hwBase + 0xC0) 64 = part (s.dev.slotHead b.slot) 0x620 64 ∧
      t.dev.reg rSTG_IMGVER = w32 (le (s.dev.slotHead b.slot) 0xC 4) ∧ t.dev.flash = s.dev.flash := by
  have hstep := (bootStep_header (d := s.dev) hr h).trans ((if_neg (not_not.mpr hok)).trans (if_neg (not_not.mpr hsect)))
  have hk := keep_keepHeader s.dev (s.dev.slotHead b.slot)
  exact goes_next hm hb hsteps hw hbad (by rw [h]; decide) hstep ((congrArg Pwr.mode (pwr_of_keep hk rfl)).trans hm)
    ⟨(rbs_bootAt _ _ _ _).trans (key_keepHeader s.dev _ (slotHead_length s.dev b.slot)),
      (reg_bootAt _ _ _).trans (imgver_keepHeader s.dev _), (flash_bootAt _ _).trans (flash_of_keep hk rfl)⟩

theorem header_fails (h : b.step = .header) (hno : slotHeaderCode s.dev b.slot ≠ 0) (ho : ¬ Falls s.dev b) :
    Fails s env (slotHeaderCode s.dev b.slot) := by
  have hrange := slotHeaderCode_range hno
  exact fails_of_error hm hb hsteps hw hbad (by rw [h]; decide) ((bootStep_header hr h).trans (if_pos hno)) (by omega)
    (fun _ => by omega) ho

/-- The first failure turns to the other slot (R64). -/
theorem header_falls (h : b.step = .header) (hno : slotHeaderCode s.dev b.slot ≠ 0) (ho : Falls s.dev b)
    (h0 : s.dev.fg STG_BOOT_FAIL1 = 0) : Goes s env .slot fun t =>
      t.dev.fg STG_BOOT_FAIL1 = slotHeaderCode s.dev b.slot ∧ t.dev.staged = [] ∧ t.dev.flash = s.dev.flash := by
  have hrange := slotHeaderCode_range hno
  have hc : slotHeaderCode s.dev b.slot < 256 := by omega
  have hx := (blankAdvance_error hm hb hsteps hw hbad (by rw [h]; decide) ((bootStep_header hr h).trans (if_pos hno))).trans
    (bootFail_falls hc (by omega) ho)
  obtain ⟨hpwr, hrest⟩ := turned_failed (d := s.dev) (b := b) hc h0
  exact goes_of_eq hx (congrArg Pwr.boot hpwr) rfl ((congrArg Pwr.mode hpwr).trans hm) hrest

theorem check_goes (h : b.step = .check) (hok : (bootFinds s.dev).isNone = true) :
    Goes s env .journal fun t => t.dev.fg STG_STATUS_RESULT = 1 ∧ t.dev.flash = s.dev.flash := by
  have hnone : ¬ (bootFinds s.dev).isSome = true := by rw [Option.isNone_iff_eq_none.mp hok]; decide
  exact goes_next hm hb hsteps hw hbad (by rw [h]; decide) ((bootStep_check hr h).trans (if_neg hnone)) hm
    ⟨result_showCheck s.dev _ hok, rfl⟩

theorem check_fails (h : b.step = .check) (hno : (bootFinds s.dev).isSome = true) (ho : ¬ Falls s.dev b) : Fails s env 0x0C :=
  fails_of_error hm hb hsteps hw hbad (by rw [h]; decide) ((bootStep_check hr h).trans (if_pos hno)) (by decide)
    (fun _ => by decide) ho

end

/-! ### The obligation -/

section
variable (s : State) (env : BootEnv)

theorem blank_goes (hm : s.dev.pwr.mode = .blank) (hr : s.dev.blankReady = true) (hs : ¬ s.dev.on SYS_STRAP_SVC = true)
    (hh : ¬ s.dev.hosted = true) (h0 : env.steps = 0) : ∃ t, exec (.blankAdvance env) s = .next t ∧
      t.dev.pwr.mode = .chuck ∧ t.dev.pwr.prev = .blank ∧ (∀ k, k < 16 → t.dev.bankCur k = 5) ∧
      t.dev.pwr.boot = some { step := .clocks, por := s.dev.pwr.por, slot := 0, fellBack := false, wipes := 0 } ∧
      t.dev.pins.inert = true ∧ t.pending = s.pending ∧ t.dev.flash = s.dev.flash ∧ t.dev.fuses = s.dev.fuses := by
  have hx : blankAdvance env s.dev = s.dev.enterChuck := by rw [blankAdvance_autonomous hm hr hs hh, h0, Dev.bootRun]
  have hpwr := enterChuck_pwr s.dev
  obtain ⟨hflash, hfuses, -⟩ := services_of_keep (keep_enterChuck s.dev) rfl
  exact ⟨_, exec_blankAdvance_eq hx, congrArg Pwr.mode hpwr, (congrArg Pwr.prev hpwr).trans hm,
    fun k hk => bankCur_enterChuck _ hk, congrArg Pwr.boot hpwr, enterChuck_inert _, rfl, hflash, hfuses⟩

theorem blank_service (hm : s.dev.pwr.mode = .blank) (hr : s.dev.blankReady = true) (hs : s.dev.on SYS_STRAP_SVC = true) :
    ∃ t, exec (.blankAdvance env) s = .next t ∧ t.dev.pwr.mode = .service ∧ t.dev.pwr.prev = .blank ∧
      t.dev.pwr.boot = none ∧ t.dev.pins.inert = true ∧
      (∀ k, k < 16 → t.dev.bankCur k = if s.dev.bankCur k = 7 then 7 else 6) ∧
      t.dev.host = { part := [], frame := none, cache := [], wait := none } ∧ t.pending = s.pending ∧ t.dev.flash = s.dev.flash := by
  obtain ⟨-, hinert, hmode, hprev, -, hboot⟩ := enterService_fields (s.dev.probe env.flash).2
  obtain ⟨l, hl⟩ := probe_fields s.dev env.flash
  have hflash : (s.dev.probe env.flash).2.flash = s.dev.flash := by rw [hl]
  have hblank : (s.dev.probe env.flash).2.pwr.mode = .blank := by
    rw [hl]
    exact hm
  refine ⟨_, exec_blankAdvance_eq (blankAdvance_service hm hr hs), hmode, hprev.trans hblank, hboot, hinert,
    fun k hk => ?_, enterService_host _, rfl, (flash_of_keep (keep_enterService _) rfl).trans hflash⟩
  have := bankCur_enterService (s.dev.probe env.flash).2 hk
  rwa [bankCur_probe] at this

end

/-- Settles O14: the branches of BLANK_ADVANCE by the straps, and of one boot step by its outcome. -/
theorem bootStepsInOrder : Obligations.BootStepsInOrder := by
  refine ⟨?_, ?_⟩
  · intro s env p ready svc hosted
    have hready (h : ready) : s.dev.blankReady = true := (blankReady_iff h.1 h.2.2.2).mpr ⟨h.2.1, h.2.2.1⟩
    have hhosted (h : ready) (hs : ¬svc) : s.dev.hosted = true ↔ hosted := by
      rw [hosted_iff]
      exact ⟨fun x => x.2.1, fun x => ⟨h.1, x, Bool.eq_false_of_not_eq_true hs⟩⟩
    refine ⟨fun h hs hh h0 => ?_, fun h hs => ?_, fun h hs hh => ?_, fun hm h => ?_⟩
    · exact blank_goes s env h.1 (hready h) hs (fun x => hh ((hhosted h hs).mp x)) h0
    · exact blank_service s env h.1 (hready h) hs
    · exact exec_blankAdvance_eq (blankAdvance_hosted h.1 (hready h) hs ((hhosted h hs).mpr hh))
    · refine exec_blankAdvance_eq (blankAdvance_unready hm ?_)
      by_contra hx
      simp only [Dev.blankReady, Bool.not_eq_false, Bool.and_eq_true, beq_iff_eq, Bool.not_eq_true'] at hx
      obtain ⟨⟨⟨hblank, hsampled⟩, hfill⟩, hreset⟩ := hx
      exact h ⟨hblank, hsampled, hfill, hreset⟩
  · intro s env b d goes code fails head hcode other hm hb hw hsteps hbad
    exact ⟨clocks_goes hm hb hsteps hw hbad, clocks_fails hm hb hsteps hw hbad,
      probe_goes hm hb hsteps hw hbad, probe_fails hm hb hsteps hw hbad,
      fun h hr => ptable_goes hm hb hsteps hw hbad hr h, fun h hr => ptable_fails hm hb hsteps hw hbad hr h,
      fun h hr => header_goes hm hb hsteps hw hbad hr h,
      fun h hr hno ho => header_fails hm hb hsteps hw hbad hr h hno fun hf => ho hf.2,
      fun h hr hno ho => header_falls hm hb hsteps hw hbad hr h hno ⟨by rw [h]; rfl, ho⟩,
      fun h hr => check_goes hm hb hsteps hw hbad hr h,
      fun h hr hno ho => check_fails hm hb hsteps hw hbad hr h hno fun hf => ho hf.2⟩

end Sys2Proof.Modes
end

section
/-! PROOFS. The commit point at a VS boundary (R32, R120, R228, R403, R404): nothing but the boundary itself moves it. -/
namespace Sys2Proof.Modes
open Sys2Proof.Machine Sys2Proof.Laws

/-! ### The grid: what keeps the commit point -/

/-- The commit point, and its count since the anchor. -/
def grid (d : Dev) : Word × Int := (d.eng.c, d.eng.crel)

theorem eng_of_grid {d : Dev} {c : Word} {r : Int} (h : grid d = (c, r)) : d.eng.c = c ∧ d.eng.crel = r := Prod.mk.inj h

/-- From `d` to `e` every part may have changed but the engine's. -/
abbrev OffGrid (d e : Dev) : Prop := Keep Eq 0x1FFFF7FF d e

theorem offGrid_refl (d : Dev) : OffGrid d d := Keep.refl d rfl

/-- An operation outside the engine keeps the grid. -/
theorem grid_of_keep {d e : Dev} (h : OffGrid d e) : grid e = grid d := by rw [grid, eng_of_keep h rfl, grid]

theorem grid_each {α : Type} {l : List α} {f : α → Dev → Dev} (h : ∀ x y, grid (f x y) = grid y) (d : Dev) :
    grid (each l f d) = grid d := each_keeps d grid l f fun x _ y => h x y

theorem grid_ite {c : Prop} [Decidable c] {d e f : Dev} (he : c → grid e = grid d) (hf : grid f = grid d) :
    grid (if c then e else f) = grid d := by
  split
  · next h => exact he h
  · exact hf

section
variable (d : Dev)

/-! Orders of rollback, and the events that ask for them (R127, R129). -/

theorem grid_order (i : Nat) (s : Word) (seq : Nat) : grid (d.order i s seq) = grid d := rfl

theorem grid_addLog (i : Nat) (e : LogEnt) : grid (d.addLog i e) = grid d := by
  unfold Dev.addLog
  dsimp only
  have h (f : Bool) (x : Ctx) : grid ((if f then d.lateEvent e.ev.seq else d).setCtx i x) = grid d :=
    grid_of_keep (Keep.Dev_setCtx _ _ _ (Keep.ite (Keep.Dev_lateEvent _ _ (offGrid_refl d) rfl) (offGrid_refl d)) rfl)
  exact grid_ite (fun _ => (grid_order _ _ _ _).trans (h _ _)) (h _ _)

theorem grid_releaseKey (e : PipeEnt) (vs : List Nat) : grid (d.releaseKey e vs) = grid d :=
  grid_each (fun _ y => grid_addLog y _ _) d

theorem grid_commitNote (e : PipeEnt) (t u : Nat) (vs : List Nat) (starts reuse : Bool) :
    grid (d.commitNote e t u vs starts reuse) = grid d := grid_of_keep (Keep.Dev_commitNote _ _ _ _ _ _ _ (offGrid_refl d) rfl)

theorem grid_refuseNote (e : PipeEnt) (u : Nat) : grid (d.refuseNote e u) = grid d :=
  grid_of_keep (Keep.Dev_refuseNote _ _ _ (offGrid_refl d) rfl)

theorem grid_count (f : Fld) (n : Nat) : grid (d.count f n) = grid d := rfl

theorem grid_allocLocal (e : PipeEnt) (tag : Option Nat) (u : Nat) (forced : Bool) :
    grid (d.allocLocal e tag u forced) = grid d := by
  have give (y : Dev) (vs : List Nat) (starts reuse : Bool) :
      grid ((match tag with | some t => (t, y) | none => y.takeTag).2.commitNote e
        (match tag with | some t => (t, y) | none => y.takeTag).1 vs.length vs starts reuse) = grid y := by
    rw [grid_commitNote]
    cases tag <;> rfl
  unfold Dev.allocLocal
  dsimp only
  refine grid_ite (fun _ => give d _ _ _) (grid_ite (fun _ => give d _ _ _) ?_)
  split
  · exact grid_refuseNote _ _ _
  · next vs relaxed _ =>
    have h : grid (if relaxed then d.count ALLOC_CNT_FORCED else d) = grid d := grid_ite (fun _ => grid_count _ _ _) rfl
    exact (give _ _ _ _).trans (grid_ite (fun _ => (grid_releaseKey _ _ _).trans h) h)

/-- What a record from the chain leaves in the history. -/
def dnHist (d : Dev) (r : EvRec) : Dev :=
  let d := if r.kind = 0x14 then d.addHist 2 r.part 0 r.stamp r.value.toNat else d
  if r.kind = 0x15 then d.addHist 3 r.index r.key r.stamp r.value.toNat else d

theorem grid_dnHist (r : EvRec) : grid (dnHist d r) = grid d := by
  have h : OffGrid d (if r.kind = 0x14 then d.addHist 2 r.part 0 r.stamp r.value.toNat else d) :=
    Keep.ite (Keep.Dev_addHist _ _ _ _ _ _ (offGrid_refl d) rfl) (offGrid_refl d)
  exact grid_of_keep (Keep.ite (Keep.Dev_addHist _ _ _ _ _ _ h rfl) h)

theorem grid_putEntry (r : EvRec) (e : PipeEnt) : grid (d.putEntry r e) = grid d :=
  grid_of_keep (Keep.Dev_putEntry _ _ _ (offGrid_refl d) rfl)

theorem grid_lastTag (t : Nat) : grid { d with alloc := { d.alloc with lastTag := t } } = grid d := rfl

theorem grid_enterDn (x : DnEntry) : grid (d.enterDn x) = grid d := by
  unfold Dev.enterDn
  extract_lets src r d1 d2 pitch e d3
  have h2 : grid d2 = grid d := grid_dnHist d r
  have h3 : grid d3 = grid d := (grid_putEntry d2 r e).trans h2
  clear_value d3
  refine grid_ite (fun _ => h2) (grid_ite (fun _ => ?_) h3)
  split
  · rw [grid_lastTag, grid_allocLocal, h3]
  · exact h3

theorem grid_drainHeld (l : List DnEntry) : grid (Dev.drainHeld l d) = grid d := by
  induction l generalizing d with
  | nil => rfl
  | cons x l ih =>
    unfold Dev.drainHeld
    refine grid_ite (fun _ => ?_) rfl
    rw [ih, grid_enterDn]
    rfl

/-! A lost link and its chain commit (R85, R383). -/

theorem grid_commitRolls (set : List (Nat × Word)) (s : Word) : grid (d.commitRolls set s) = grid d :=
  grid_each (fun _ y => grid_ite (fun _ => grid_order y _ _ _) rfl) d

theorem grid_dropBuffer : grid d.dropBuffer = grid d := by
  have clear (y : Dev) (l : List Msg) (g : Stg) :
      grid (({ y.setWaiting 0 l with stg := g }.fp STG_STATUS_PENDING 0).fp STG_STATUS_CSTATE 4) = grid y := rfl
  unfold Dev.dropBuffer
  split
  · rfl
  · next set _ => exact (clear _ _ _).trans (grid_commitRolls d set _)

theorem grid_abortChain : grid d.abortChain = grid d := by
  unfold Dev.abortChain
  dsimp only
  rw [grid_of_keep (Keep.Dev_raise _ _ (Keep.Dev_broadcast _ _ _ (offGrid_refl _) rfl) rfl), grid_dropBuffer]

theorem grid_abortLost : grid d.abortLost = grid d := grid_ite (fun _ => grid_abortChain d) rfl

theorem grid_loseSubtree (lost : List Bool) (t : Word) : grid (d.loseSubtree lost t) = grid d := by
  unfold Dev.loseSubtree
  dsimp only
  refine grid_ite (fun _ => grid_of_keep (Keep.Dev_raise _ _ (offGrid_refl d) rfl)) ?_
  rw [grid_abortLost]
  refine (grid_of_keep (Keep.Dev_raise _ _ (Keep.Dev_rescue _ _ _ (Keep.Dev_nextGen _ (Keep.Dev_showCensus _ (offGrid_refl _) rfl) rfl) rfl)
    rfl)).trans rfl

theorem grid_losePort (p : Nat) : grid (d.losePort p) = grid d := by
  unfold Dev.losePort
  dsimp only
  refine grid_ite (fun _ => rfl) ?_
  have hoff (x : LPort) : OffGrid d (((((d.setLport p x).fp (CBL_P_STAT_LSTATE p) 4).raise (18 + p)).fp
      (CBL_P_STAT_LPV p) 0).fp (CBL_P_STAT_PEER p) 0) :=
    Keep.Dev_fp _ _ _ (Keep.Dev_fp _ _ _ (Keep.Dev_raise _ _ (Keep.Dev_fp _ _ _ (Keep.Dev_setLport _ _ _ (offGrid_refl d) rfl) rfl) rfl)
      rfl) rfl
  refine grid_ite (fun _ => grid_of_keep (Keep.Dev_headLost _ (hoff _) rfl)) ?_
  refine grid_ite (fun _ => ?_) (grid_of_keep (Keep.Dev_sendUp _ _ _ (hoff _) rfl))
  rw [grid_loseSubtree, grid_of_keep (hoff _)]

theorem grid_portSums (p : Nat) (s : Word) : grid (d.portSums p s).2 = grid d := by
  have hset (x : LPort) : OffGrid d (d.setLport p x) := Keep.Dev_setLport _ _ _ (offGrid_refl d) rfl
  unfold Dev.portSums
  dsimp only
  split
  · exact grid_of_keep (hset _)
  · split
    · rfl
    · split
      · exact grid_of_keep (hset _)
      · have hlate (x : LPort) : grid (((d.setLport p x).count (CBL_P_CNT1_SUMLATE p)).raise (18 + p)) = grid d :=
          grid_of_keep (Keep.Dev_raise _ _ (Keep.Dev_count _ _ _ (hset x) rfl) rfl)
        exact grid_ite (fun _ => (grid_losePort _ _).trans (hlate _)) (hlate _)

theorem grid_downSums (s : Word) : grid (d.downSums s).2 = grid d := by
  unfold Dev.downSums
  exact (grid_portSums _ 2 s).trans (grid_portSums d 1 s)

theorem grid_commitBuses (s : Word) (down : Tbl (BitVec 40)) (fade : Option Nat) : grid (d.commitBuses s down fade) = grid d := by
  have drop (y : Dev) : grid (y.dropBus s) = grid y := rfl
  have hbus : OffGrid d (each ((List.range 64).filter fun b => !(d.isMember && d.on (MIX_BUS_CFG_UP b)))
      (fun b d => d.commitBus s down fade b) d.takeBanks) :=
    Keep.each (fun _ _ hy => Keep.Dev_commitBus _ _ _ _ _ hy rfl) (Keep.Dev_takeBanks _ (offGrid_refl d) rfl)
  exact (drop _).trans (grid_of_keep hbus)

/-! ### The boundary -/

theorem grid_commitSample (s : Word) : grid (d.commitSample s) = grid d := by
  have loud (y : Dev) (b : Bool) : grid (if b then { y with eng := { y.eng with loud := some s } } else y) = grid y :=
    grid_ite (fun _ => rfl) rfl
  have sums (y : Dev) (t : Tbl (BitVec 40)) : grid (y.sendSums s t) = grid y := grid_of_keep (Keep.Dev_sendSums _ _ _ (offGrid_refl y) rfl)
  have fade (y : Dev) (c : Cbl) : grid { y with cbl := c } = grid y := rfl
  have out (y : Dev) : grid (((y.feedBuses s).talkBuses s).pruneOuts.commitCv s) = grid y :=
    grid_of_keep (Keep.Dev_commitCv _ _ (Keep.Dev_pruneOuts _ (Keep.Dev_talkBuses _ _ (Keep.Dev_feedBuses _ _ (offGrid_refl y) rfl)
      rfl) rfl) rfl)
  unfold Dev.commitSample
  dsimp only
  rw [out, fade, grid_commitBuses, sums, loud, grid_downSums]

theorem grid_forget : grid d.forget = grid d := by
  have drop (y : Dev) (g : Stg) (b : Tbl (BitVec 40)) (m : Mix) :
      grid { y with stg := g, eng := { y.eng with bus := b }, mix := m } = grid y := rfl
  unfold Dev.forget
  dsimp only
  rw [drop]
  exact grid_of_keep (Keep.Dev_restampHist _ _ _ (offGrid_refl d) rfl)

theorem grid_advanceC : grid d.advanceC = ((grid d).1 + 1, (grid d).2 + 1) := rfl

/-- The work of the blocks on a sample that has passed C. -/
def settle (d : Dev) : Dev :=
  let d := { d with mix := { d.mix with syncWait := d.mix.syncWait.map fun _ => 0 } }
  (d.retire d.eng.c).takePins.settleStreams

/-- The work of spindles, scores and timers at a boundary. -/
def endVs (d : Dev) : Dev :=
  let d := each (List.range 16) (fun n d => d.spindleBoundary n) d
  let d := each d.presentVoices (fun v d => d.updateScore v) d
  d.publish.tmrTicks 2

theorem boundaryRun_eq : d.boundaryRun =
    let e := settle (d.commitSample d.eng.c).advanceC
    (endVs (Dev.drainHeld e.cbl.held e)).forget.apllResidual := rfl

theorem grid_settle : grid (settle d) = grid d := by
  have mix (y : Dev) (m : Mix) : grid { y with mix := m } = grid y := rfl
  unfold settle
  dsimp only
  rw [grid_of_keep (Keep.Dev_settleStreams _ (Keep.Dev_takePins _ (Keep.Dev_retire _ _ (offGrid_refl _) rfl) rfl) rfl), mix]

theorem grid_endVs : grid (endVs d) = grid d := by
  have spindles (y : Dev) : grid (each (List.range 16) (fun n d => d.spindleBoundary n) y) = grid y :=
    grid_of_keep (Keep.each (fun _ _ h => Keep.Dev_spindleBoundary _ _ h rfl) (offGrid_refl y))
  have scores (y : Dev) (l : List Nat) : grid (each l (fun v d => d.updateScore v) y) = grid y :=
    grid_of_keep (Keep.each (fun _ _ h => Keep.Dev_updateScore _ _ h rfl) (offGrid_refl y))
  unfold endVs
  dsimp only
  rw [grid_of_keep (Keep.Dev_tmrTicks _ _ (Keep.Dev_publish _ (offGrid_refl _) rfl) rfl), scores, spindles]

/-- In RUN the boundary moves C on by one sample (R120, R228). -/
theorem grid_boundaryRun : grid d.boundaryRun = (d.eng.c + 1, d.eng.crel + 1) := by
  rw [boundaryRun_eq]
  dsimp only
  rw [grid_of_keep (Keep.Dev_apllResidual _ (offGrid_refl _) rfl), grid_forget, grid_endVs, grid_drainHeld, grid_settle, grid_advanceC,
    grid_commitSample]
  rfl

/-! ### The residual of the APLL (R404) -/

theorem apllResidual_eq : d.apllResidual =
    d.fresh.2.fp TIME_APLL_RESID ((((d.fresh.1.toNat % 9 : Nat) : Int) - 4) % 65536).toNat := rfl

/-- A value from −4 to 4 reads back from 16 bits as it was written. -/
theorem signed_small {i : Int} (hl : -4 ≤ i) (hh : i ≤ 4) : signed 16 ((i % 65536).toNat % 2 ^ 16) = i := by
  unfold signed
  interval_cases i <;> decide

theorem resid_apllResidual : -4 ≤ d.apllResidual.fs TIME_APLL_RESID ∧ d.apllResidual.fs TIME_APLL_RESID ≤ 4 := by
  have hl : -4 ≤ ((d.fresh.1.toNat % 9 : Nat) : Int) - 4 := by omega
  have hh : ((d.fresh.1.toNat % 9 : Nat) : Int) - 4 ≤ 4 := by omega
  have hs : d.apllResidual.fs TIME_APLL_RESID = ((d.fresh.1.toNat % 9 : Nat) : Int) - 4 := by
    rw [Dev.fs, apllResidual_eq, fg_fp_self _ _ _ (by decide)]
    exact signed_small hl hh
  rw [hs]
  exact ⟨hl, hh⟩

/-! ### REST-WARM (R32, R347, R403) -/

/-- The boundary of REST-WARM before the history is stamped anew: the grid, and the timers on it. -/
def warmTick (d : Dev) : Dev := d.advanceC.tmrTicks 2

theorem restampHist_fields (t : Word) (all : Bool) : ∃ n, d.restampHist t all = { d with note := n } :=
  ⟨_, (Keep.Dev_restampHist d t all (Keep.refl (R := Eq) (M := 0x200) d rfl) rfl).frame⟩

theorem warmTick_fields : ∃ l e t, warmTick d =
    { d with live := l, evt := e, eng := { d.eng with c := d.eng.c + 1, crel := d.eng.crel + 1 }, tmrs := t } :=
  ⟨_, _, _, (tmrTicks_fields d.advanceC 2).2⟩

theorem tmr_warmTick {n : Nat} (h : d.fg (TMR_CFG_CLK n) ≠ 2) : (warmTick d).tmr n = d.tmr n :=
  (tmrTicks_fields d.advanceC 2).1 n h

/-- What the boundary of REST-WARM touches: the grid, the timers on it, and what they show. -/
theorem warm_fields (t : Word) : ∃ l v n x, (warmTick d).restampHist t false = { d with
    live := l, evt := v, note := n, eng := { d.eng with c := d.eng.c + 1, crel := d.eng.crel + 1 }, tmrs := x } ∧
    ∀ k, d.fg (TMR_CFG_CLK k) ≠ 2 → Dev.tmr { d with tmrs := x } k = d.tmr k := by
  obtain ⟨n, hn⟩ := restampHist_fields (warmTick d) t false
  obtain ⟨l, v, x, hx⟩ := warmTick_fields d
  refine ⟨l, v, n, x, by rw [hn, hx], fun k hk => ?_⟩
  have hk := tmr_warmTick d hk
  rwa [hx] at hk

end

/-! ### The obligation -/

section
variable (d : Dev)

theorem vsBoundary_run (h : d.running = true) : vsBoundary d = d.boundaryRun := by rw [vsBoundary, if_pos h]

theorem resid_boundaryRun : -4 ≤ d.boundaryRun.fs TIME_APLL_RESID ∧ d.boundaryRun.fs TIME_APLL_RESID ≤ 4 := by
  rw [boundaryRun_eq]
  exact resid_apllResidual _

theorem not_running_of_rest (h : d.pwr.mode = .rest) : d.running = false := by
  rw [Dev.running, h]
  rfl

theorem vsBoundary_warm (hm : d.pwr.mode = .rest) (hc : d.pwr.cold = false) (hf : d.pwr.frozen = false) :
    vsBoundary d = (warmTick d).restampHist ((warmTick d).tau (warmTick d).eng.c - 1000000000) false := by
  rw [vsBoundary, not_running_of_rest d hm, if_neg (by decide), hm, hc, hf, if_pos (by decide), warmTick]

theorem vsBoundary_idle (hr : d.running = false) (hw : ¬(d.pwr.mode = .rest ∧ d.pwr.cold = false ∧ d.pwr.frozen = false)) :
    vsBoundary d = d := by
  rw [vsBoundary, hr, if_neg (by decide), if_neg (by simpa [and_assoc] using hw)]

theorem exec_vsBoundary_eq {s : State} {e : Dev} (h : vsBoundary s.dev = e) : exec .vsBoundary s = .next { s with dev := e } := by
  rw [← h]
  rfl

end

/-- Settles O25: in RUN the engine's work keeps the grid and the boundary adds one sample; in REST-WARM the grid and its timers. -/
theorem vsBoundaryAdvancesC : Obligations.VsBoundaryAdvancesC := by
  intro s d warm
  refine ⟨fun hr => ?_, fun hw => ?_, fun hr hw => exec_vsBoundary_eq (vsBoundary_idle d hr hw)⟩
  · have hk : Keep Eq 0x127FEF51 d d.boundaryRun := Keep.Dev_boundaryRun d (Keep.refl d rfl) rfl
    obtain ⟨hc, hrel⟩ := eng_of_grid (grid_boundaryRun d)
    exact ⟨_, exec_vsBoundary_eq (vsBoundary_run d hr), hc, hrel, resid_boundaryRun d, rfl,
      mem_of_keep hk rfl, flash_of_keep hk rfl, hk.fuses.symm, part_of_keep hk Dev.voices 12 rfl rfl,
      part_of_keep hk Dev.staged 1 rfl rfl, time_of_keep hk rfl, uarts_of_keep hk rfl, host_of_keep hk rfl,
      part_of_keep hk Dev.age 26 rfl rfl⟩
  · obtain ⟨hm, hc, hf⟩ := hw
    obtain ⟨l, v, n, x, hx, ht⟩ := warm_fields d ((warmTick d).tau (warmTick d).eng.c - 1000000000)
    exact ⟨_, exec_vsBoundary_eq ((vsBoundary_warm d hm hc hf).trans hx), rfl, ht, rfl⟩

end Sys2Proof.Modes
end

section
/-! PROOFS. The pipeline and the logs (R112, R124, R126, R130, R131): what marking an entry, putting it into a log and taking
it out make of an entry of the pipeline and of the logs, and what they leave. -/
namespace Sys2Proof.RunAhead
open Sys2Proof.Machine Sys2Proof.Laws Sys2Proof.Modes

/-! ### Repetitions that keep to a relation -/

/-- A reflexive and transitive relation that holds of every pass of a repetition holds of the repetition. -/
theorem each_rel {α : Type} {r : Dev → Dev → Prop} (hr : ∀ d, r d d) (ht : ∀ {d e f}, r d e → r e f → r d f) {l : List α}
    {f : α → Dev → Dev} (h : ∀ x ∈ l, ∀ y, r y (f x y)) (d : Dev) : r d (each l f d) := by
  induction l generalizing d with
  | nil => exact hr d
  | cons x l ih =>
    exact ht (h x List.mem_cons_self d) (ih (fun y hy => h y (List.mem_cons_of_mem _ hy)) _)

/-! ### An entry of the pipeline -/

section
variable {d e : Dev} {seq : Nat} {x : PipeEnt}

theorem entry_of_note (h : e.note = d.note) : e.entry seq = d.entry seq := by rw [Dev.entry, h, Dev.entry]

/-- The entry of a sequence number bears it, and is no commit's (R78). -/
theorem seq_kind_of_entry (h : d.entry seq = some x) : x.ev.seq = seq ∧ x.ev.kind ≠ 0x20 := by
  simpa using List.find?_some h

/-- Changing an entry that keeps its sequence number and kind changes the entry of that number only. -/
theorem entry_mendEntry (q : Nat) {g : PipeEnt → PipeEnt} (hg : ∀ y, (g y).ev.seq = y.ev.seq ∧ (g y).ev.kind = y.ev.kind) :
    (d.mendEntry q g).entry seq = if seq = q then (d.entry seq).map g else d.entry seq := by
  unfold Dev.mendEntry
  split
  · next y hy =>
    obtain ⟨hs, hk⟩ := seq_kind_of_entry hy
    have hp : ((fun e : PipeEnt => e.ev.seq == seq && e.ev.kind != 0x20) ∘
        fun e => if e.ev.seq = q ∧ e.ev.kind ≠ 0x20 then g y else e) = fun e => e.ev.seq == seq && e.ev.kind != 0x20 := by
      funext e
      by_cases h : e.ev.seq = q ∧ e.ev.kind ≠ 0x20
      · rw [Function.comp_apply, if_pos h, (hg y).1, (hg y).2, hs, h.1, bne_iff_ne.mpr hk, bne_iff_ne.mpr h.2]
      · simp [h]
    rw [Dev.setEntry, Dev.entry, List.find?_map, hp]
    change (d.entry seq).map _ = _
    by_cases hq : seq = q
    · subst hq
      simp [hy, hs, hk]
    · rw [if_neg hq]
      cases hx : d.entry seq with
      | none => rfl
      | some x =>
        have := (seq_kind_of_entry hx).1
        simp [this, hq]
  · next hy =>
    split
    · next hq => rw [hq, hy]; rfl
    · rfl

/-- From `d` to `e` the entry of a sequence number stays as it was applied, with its voices. -/
def EntryStays (seq : Nat) (d e : Dev) : Prop :=
  ∀ x, d.entry seq = some x → ∃ y, e.entry seq = some y ∧ y.applied = x.applied ∧ y.voices = x.voices

theorem EntryStays.refl (d : Dev) : EntryStays seq d d := fun x h => ⟨x, h, rfl, rfl⟩

theorem EntryStays.trans {f : Dev} (h : EntryStays seq d e) (h' : EntryStays seq e f) : EntryStays seq d f := fun x hx => by
  obtain ⟨y, hy, ha, hv⟩ := h x hx
  obtain ⟨z, hz, ha', hv'⟩ := h' y hy
  exact ⟨z, hz, ha'.trans ha, hv'.trans hv⟩

theorem EntryStays.of_note (h : e.note = d.note) : EntryStays seq d e := fun x hx => ⟨x, (entry_of_note h).trans hx, rfl, rfl⟩

/-- A change of another entry, or one that keeps application and voices. -/
theorem EntryStays.mendEntry (q : Nat) {g : PipeEnt → PipeEnt} (hg : ∀ y, (g y).ev.seq = y.ev.seq ∧ (g y).ev.kind = y.ev.kind)
    (h : seq = q → ∀ y, (g y).applied = y.applied ∧ (g y).voices = y.voices) : EntryStays seq d (d.mendEntry q g) := by
  intro x hx
  rw [entry_mendEntry q hg, hx]
  split
  · next hq => exact ⟨g x, rfl, h hq x⟩
  · exact ⟨x, rfl, rfl, rfl⟩

end

section
variable (d : Dev)

theorem note_raise (k : Nat) : (d.raise k).note = d.note :=
  part_of_keep (Keep.Dev_raise (M := 0x10000541) k d (Keep.refl (R := Eq) d rfl) rfl) Dev.note 9 rfl rfl

theorem ctx_of_ctxs {d e : Dev} (h : e.ctxs = d.ctxs) (i : Nat) : e.ctx i = d.ctx i := by rw [Dev.ctx, h, Dev.ctx]

theorem ctx_mendEntry (q : Nat) (g : PipeEnt → PipeEnt) (i : Nat) : (d.mendEntry q g).ctx i = d.ctx i :=
  ctx_of_ctxs (part_of_keep (Keep.Dev_mendEntry (M := 0x200) d q g (Keep.refl (R := Eq) d rfl) rfl) Dev.ctxs 13 rfl rfl) i

theorem ctx_lateEvent (q i : Nat) : (d.lateEvent q).ctx i = d.ctx i :=
  ctx_of_ctxs (part_of_keep (Keep.Dev_lateEvent (M := 0x10000741) d q (Keep.refl (R := Eq) d rfl) rfl) Dev.ctxs 13 rfl rfl) i

theorem entryStays_lateEvent (seq q : Nat) : EntryStays seq d (d.lateEvent q) :=
  .trans (.mendEntry q (g := fun e => { e with ev := { e.ev with late := true } }) (fun _ => ⟨rfl, rfl⟩) fun _ _ => ⟨rfl, rfl⟩)
    (.of_note (note_raise _ 27))

end

/-! ### Logs -/

section
variable (d : Dev)

theorem mem_insLog {e l : LogEnt} {ls : List LogEnt} : l ∈ d.insLog e ls ↔ l = e ∨ l ∈ ls := by
  induction ls with
  | nil => simp [Dev.insLog]
  | cons f fs ih =>
    unfold Dev.insLog
    split
    · exact List.mem_cons
    · rw [List.mem_cons, ih, List.mem_cons]
      exact or_left_comm

/-- The log of context i is full (R131). -/
def logFull (d : Dev) (i : Nat) : Bool := decide (64 ≤ (d.ctx i).log.length)

/-- The entry as it goes into the log of context i: into a full one late, at the sample at which the oldest entry's checkpoint
goes, or right behind its own (R131). -/
def asLogged (d : Dev) (i : Nat) (e : LogEnt) : LogEnt :=
  let s' := match (d.ctx i).log.head? with
    | some o => floor16 o.sample + 16
    | none => e.sample
  if logFull d i then
    { e with sample := if later s' e.sample > 0 then s' else e.sample + 1, ev := { e.ev with late := true } }
  else e

/-- A full log flags the event late in the pipeline. -/
def flagged (d : Dev) (i : Nat) (e : LogEnt) : Dev := if logFull d i then d.lateEvent e.ev.seq else d

/-- The entry stands in the log; no rollback has been ordered yet. -/
def inLog (d : Dev) (i : Nat) (e : LogEnt) : Dev :=
  (flagged d i e).setCtx i { d.ctx i with log := (flagged d i e).insLog (asLogged d i e) (d.ctx i).log }

theorem addLog_eq (i : Nat) (e : LogEnt) : d.addLog i e =
    if (inLog d i e).hasRendered i e.ev.part (asLogged d i e).sample then (inLog d i e).order i (asLogged d i e).sample e.ev.seq
    else inLog d i e := rfl

/-- A rollback order changes neither contexts nor pipeline. -/
theorem ordered_fields (b : Bool) (i : Nat) (s : Word) (seq : Nat) : (if b then d.order i s seq else d).ctxs = d.ctxs ∧
    (if b then d.order i s seq else d).note = d.note := by
  cases b <;> exact ⟨rfl, rfl⟩

theorem asLogged_fields (i : Nat) (e : LogEnt) :
    (asLogged d i e).ev.seq = e.ev.seq ∧ (asLogged d i e).ev.kind = e.ev.kind ∧ (asLogged d i e).tag = e.tag := by
  unfold asLogged
  dsimp only
  split <;> exact ⟨rfl, rfl, rfl⟩

theorem ctx_flagged (i : Nat) (e : LogEnt) (j : Nat) : (flagged d i e).ctx j = d.ctx j := by
  unfold flagged
  split
  · exact ctx_lateEvent d _ j
  · rfl

/-- The log of the context gains the entry; other contexts stay. -/
theorem ctx_addLog (i : Nat) (e : LogEnt) (j : Nat) : (d.addLog i e).ctx j =
    if j = i then { d.ctx i with log := (flagged d i e).insLog (asLogged d i e) (d.ctx i).log } else d.ctx j := by
  rw [addLog_eq, ctx_of_ctxs (ordered_fields _ _ _ _ _).1, inLog, ctx_setCtx, ctx_flagged]

theorem entryStays_addLog (seq i : Nat) (e : LogEnt) : EntryStays seq d (d.addLog i e) := by
  have h : EntryStays seq d (flagged d i e) := by
    unfold flagged
    split
    · exact entryStays_lateEvent d seq _
    · exact .refl d
  exact h.trans (.of_note (ordered_fields (inLog d i e) _ _ _ _).2)

theorem ctx_dropLog (i : Nat) (r : EvRec) (s : Word) (j : Nat) : (d.dropLog i r s).ctx j =
    if j = i then { d.ctx i with log := (d.ctx i).log.filter fun l => l.ev.seq != r.seq } else d.ctx j :=
  (ctx_of_ctxs (ordered_fields _ _ _ _ _).1 j).trans (ctx_setCtx d i j _)

theorem entryStays_dropLog (seq i : Nat) (r : EvRec) (s : Word) : EntryStays seq d (d.dropLog i r s) :=
  .of_note (ordered_fields _ _ _ _ _).2

end

/-- From `d` to `e` the logs keep every entry of an event. -/
def LogStays (seq : Nat) (d e : Dev) : Prop := ∀ i, ∀ l ∈ (d.ctx i).log, l.ev.seq = seq → l ∈ (e.ctx i).log

section
variable {d e : Dev} {seq : Nat}

theorem LogStays.refl (d : Dev) : LogStays seq d d := fun _ _ h _ => h

theorem LogStays.trans {f : Dev} (h : LogStays seq d e) (h' : LogStays seq e f) : LogStays seq d f :=
  fun i l hl hs => h' i l (h i l hl hs) hs

theorem LogStays.of_ctx (h : ∀ i, e.ctx i = d.ctx i) : LogStays seq d e := fun i l hl _ => by rwa [h i]

theorem logStays_addLog (d : Dev) (i : Nat) (e : LogEnt) : LogStays seq d (d.addLog i e) := by
  intro j l hl _
  rw [ctx_addLog]
  split
  · next hj => exact (mem_insLog _).mpr (.inr (hj ▸ hl))
  · exact hl

/-- Taking another event out of a log. -/
theorem logStays_dropLog (d : Dev) (i : Nat) {r : EvRec} (s : Word) (h : r.seq ≠ seq) : LogStays seq d (d.dropLog i r s) := by
  intro j l hl hs
  rw [ctx_dropLog]
  split
  · next hj => exact List.mem_filter.mpr ⟨hj ▸ hl, by simpa [hs] using h.symm⟩
  · exact hl

end

/-- The event of sequence `seq` stays as it was applied: its entry, and the logs. -/
def EventStays (seq : Nat) (d e : Dev) : Prop := EntryStays seq d e ∧ LogStays seq d e

section
variable {d e : Dev} {seq : Nat}

theorem EventStays.refl (d : Dev) : EventStays seq d d := ⟨.refl d, .refl d⟩

theorem EventStays.trans {f : Dev} (h : EventStays seq d e) (h' : EventStays seq e f) : EventStays seq d f :=
  ⟨h.1.trans h'.1, h.2.trans h'.2⟩

end

/-! ### An event goes to its voices (R124) -/

/-- The voices of a list each get the entry in their logs, counted from `k`. -/
def logVoices (e : PipeEnt) : List Nat → Nat → Dev → Dev
  | [], _, d => d
  | v :: vs, k, d => logVoices e vs (k + 1) (d.addLog (ctxOf v) (d.logEntry e v k))

section
variable (d : Dev) (e : PipeEnt)

theorem applyTo_eq (vs : List Nat) : d.applyTo e vs = logVoices e vs 0 d := by
  have h (k : Nat) (d : Dev) : (vs.foldl (fun (dk : Dev × Nat) v =>
      (dk.1.addLog (ctxOf v) (dk.1.logEntry e v dk.2), dk.2 + 1)) (d, k)).1 = logVoices e vs k d := by
    induction vs generalizing k d with
    | nil => rfl
    | cons v vs ih => exact ih (k + 1) _
  exact h 0 d

theorem logEntry_ev (v k : Nat) : (d.logEntry e v k).ev = e.ev := by
  unfold Dev.logEntry
  dsimp only
  split
  · rfl
  · split
    · rfl
    · split <;> rfl
  · rfl
  · rfl

/-- The log entry of a note-on bears its tag. -/
theorem logEntry_tag (v k : Nat) (h : e.ev.kind = 1) : (d.logEntry e v k).tag = e.tag := by
  simp only [Dev.logEntry, h]

theorem eventStays_logVoices (seq : Nat) (vs : List Nat) (k : Nat) : EventStays seq d (logVoices e vs k d) := by
  induction vs generalizing k d with
  | nil => exact .refl d
  | cons v vs ih => exact .trans ⟨entryStays_addLog d seq _ _, logStays_addLog d _ _⟩ (ih _ _)

theorem eventStays_applyTo (seq : Nat) (vs : List Nat) : EventStays seq d (d.applyTo e vs) :=
  applyTo_eq d e vs ▸ eventStays_logVoices d e seq vs 0

/-- The log of context i holds the note-on of entry `e`, with its tag. -/
def NoteOnLogged (e : PipeEnt) (i : Nat) (d : Dev) : Prop := ∃ l ∈ (d.ctx i).log, l.ev.seq = e.ev.seq ∧ l.ev.kind = 1 ∧ l.tag = e.tag

theorem NoteOnLogged.stays {d y : Dev} {e : PipeEnt} {i : Nat} (h : NoteOnLogged e i d) (hy : LogStays e.ev.seq d y) :
    NoteOnLogged e i y := by
  obtain ⟨l, hl, hs, hk⟩ := h
  exact ⟨l, hy i l hl hs, hs, hk⟩

theorem noteOnLogged_addLog (v k : Nat) (h : e.ev.kind = 1) : NoteOnLogged e (ctxOf v) (d.addLog (ctxOf v) (d.logEntry e v k)) := by
  obtain ⟨hs, hk, ht⟩ := asLogged_fields d (ctxOf v) (d.logEntry e v k)
  rw [logEntry_ev] at hs hk
  rw [logEntry_tag d e v k h] at ht
  refine ⟨_, ?_, hs, hk.trans h, ht⟩
  rw [ctx_addLog, if_pos rfl]
  exact (mem_insLog _).mpr (.inl rfl)

theorem noteOnLogged_logVoices {vs : List Nat} (k : Nat) {v : Nat} (h : e.ev.kind = 1) (hv : v ∈ vs) :
    NoteOnLogged e (ctxOf v) (logVoices e vs k d) := by
  induction vs generalizing k d with
  | nil => exact absurd hv List.not_mem_nil
  | cons w vs ih =>
    rcases List.mem_cons.mp hv with hw | hw
    · subst hw
      exact (noteOnLogged_addLog d e v k h).stays (eventStays_logVoices _ e _ vs (k + 1)).2
    · exact ih _ _ hw

theorem noteOnLogged_applyTo {vs : List Nat} {v : Nat} (h : e.ev.kind = 1) (hv : v ∈ vs) : NoteOnLogged e (ctxOf v) (d.applyTo e vs) :=
  applyTo_eq d e vs ▸ noteOnLogged_logVoices d e 0 h hv

end

/-! ### Matches made again, patches taken again (R102, R125, R126) -/

section
variable (d : Dev)

/-- Entries in the order of R88. -/
def inOrder (d : Dev) (l : List PipeEnt) : List PipeEnt :=
  l.foldl (fun (l : List PipeEnt) e => let (a, b) := l.span fun f => d.evBefore f.sample f.ev e.sample e.ev; a ++ e :: b) []

theorem mem_of_mem_inOrder {l : List PipeEnt} {f : PipeEnt} (h : f ∈ inOrder d l) : f ∈ l := by
  suffices ∀ acc, f ∈ l.foldl (fun (l : List PipeEnt) e =>
      let (a, b) := l.span fun f => d.evBefore f.sample f.ev e.sample e.ev; a ++ e :: b) acc → f ∈ acc ∨ f ∈ l from
    (this [] h).resolve_left List.not_mem_nil
  clear h
  induction l with
  | nil => exact fun _ => .inl
  | cons e l ih =>
    intro acc h
    rcases ih _ h with h | h
    · simp only [List.span_eq_takeWhile_dropWhile, List.mem_append, List.mem_cons] at h
      rcases h with h | h | h
      · exact .inl ((List.takeWhile_sublist _).mem h)
      · exact .inr (h ▸ List.mem_cons_self)
      · exact .inl ((List.dropWhile_sublist _).mem h)
    · exact .inr (List.mem_cons_of_mem _ h)

/-- The other applied note-offs of the identity of an event (s, r) that stand after it. -/
def offsAfter (d : Dev) (s : Word) (r : EvRec) : List PipeEnt :=
  d.note.pipe.filter fun f => f.applied && f.ev.kind == 2 && f.ev.part == r.part && f.ev.chan == r.chan &&
    f.ev.key == r.key && f.ev.seq != r.seq && d.evBefore s r f.sample f.ev

/-- A note-off out of the logs of its voices. -/
def withdraw (f : PipeEnt) (d : Dev) : Dev := each f.voices (fun v d => d.dropLog (ctxOf v) f.ev f.sample) d

/-- A note-off to the voices that it matches now. -/
def matchNow (f : PipeEnt) (d : Dev) : Dev :=
  (d.applyTo f (d.matchOff f.sample f.ev f.tag)).mendEntry f.ev.seq fun x => { x with voices := d.matchOff f.sample f.ev f.tag }

theorem rematch_eq (s : Word) (r : EvRec) : d.rematch s r = each (inOrder d (offsAfter d s r))
    (fun f d => if d.matchOff f.sample f.ev f.tag = f.voices then d else matchNow f (withdraw f d)) d := rfl

theorem seq_of_mem_offsAfter {s : Word} {r : EvRec} {f : PipeEnt} (h : f ∈ offsAfter d s r) : f.ev.seq ≠ r.seq := by
  have h := (List.mem_filter.mp h).2
  simp only [Bool.and_eq_true, bne_iff_ne] at h
  exact h.1.2

theorem entryStays_withdraw (seq : Nat) (f : PipeEnt) : EntryStays seq d (withdraw f d) :=
  each_rel .refl .trans (fun _ _ y => entryStays_dropLog y _ _ _ _) d

theorem logStays_withdraw {seq : Nat} {f : PipeEnt} (h : f.ev.seq ≠ seq) : LogStays seq d (withdraw f d) :=
  each_rel .refl .trans (fun _ _ y => logStays_dropLog y _ _ h) d

theorem eventStays_matchNow {seq : Nat} {f : PipeEnt} (h : f.ev.seq ≠ seq) : EventStays seq d (matchNow f d) :=
  (eventStays_applyTo d f seq _).trans
    ⟨.mendEntry _ (fun _ => ⟨rfl, rfl⟩) fun e => absurd e.symm h, .of_ctx (ctx_mendEntry _ _ _)⟩

/-- Matching other note-offs again leaves an event as it was applied. -/
theorem eventStays_rematch (s : Word) (r : EvRec) : EventStays r.seq d (d.rematch s r) := by
  rw [rematch_eq]
  refine each_rel .refl .trans (fun f hf y => ?_) d
  have hne : f.ev.seq ≠ r.seq := seq_of_mem_offsAfter d (mem_of_mem_inOrder d hf)
  split
  · exact .refl y
  · exact .trans ⟨entryStays_withdraw y _ f, logStays_withdraw y hne⟩ (eventStays_matchNow _ hne)

theorem reloadStarts_eq (s : Word) (r : EvRec) (ok : PipeEnt → Bool) : d.reloadStarts s r ok =
    each (d.note.pipe.filter fun f => f.applied && f.ev.kind == 1 && f.starts && ok f && d.evBefore s r f.sample f.ev)
      (fun f d => (withdraw f d).applyTo f f.voices) d := rfl

/-- Starts that take their patch anew leave every entry as it was applied. -/
theorem entryStays_reloadStarts (seq : Nat) (s : Word) (r : EvRec) (ok : PipeEnt → Bool) : EntryStays seq d (d.reloadStarts s r ok) := by
  rw [reloadStarts_eq]
  exact each_rel .refl .trans (fun f _ y => (entryStays_withdraw y seq f).trans (eventStays_applyTo _ f _ _).1) d

end

end Sys2Proof.RunAhead
end

section
/-! PROOFS. EVENT_APPLY (R124): an entry that its part's frontier has reached is applied once, to its voices. -/
namespace Sys2Proof.RunAhead
open Sys2Proof.Machine Sys2Proof.Laws Sys2Proof.Modes

section
variable (d : Dev) (e : PipeEnt)

/-- The entry as applied to the voices `vs`: a note's entry keeps them. -/
def appliedTo (e : PipeEnt) (vs : List Nat) (x : PipeEnt) : PipeEnt :=
  { x with applied := true, voices := if e.ev.kind = 1 ∨ e.ev.kind = 2 then vs else e.voices }

/-- The entry has gone to its voices and is marked so. -/
def marked (d : Dev) (e : PipeEnt) : Dev := (d.applyTo e (d.affected e)).mendEntry e.ev.seq (appliedTo e (d.affected e))

/-- What an applied entry changes of other events: matches of note-offs, patches of starts (R102, R125, R126). -/
def echo (e : PipeEnt) (d : Dev) : Dev :=
  match e.ev.kind with
  | 0x01 | 0x02 => d.rematch e.sample e.ev
  | 0x13 => d.reloadStarts e.sample e.ev fun f => f.ev.part == e.ev.part
  | 0x21 => if e.ev.index = 1 then d.reloadStarts e.sample e.ev fun f =>
      d.patchSlot (d.chanAt f.ev.part 0 131 f.sample f.ev) (d.chanAt f.ev.part 0 130 f.sample f.ev) == e.ev.value.toNat % 1024
    else d
  | _ => d

theorem applyEntry_eq : d.applyEntry e = echo e (marked d e) := rfl

theorem entryStays_echo : EntryStays e.ev.seq d (echo e d) := by
  unfold echo
  split
  · exact (eventStays_rematch d _ _).1
  · exact (eventStays_rematch d _ _).1
  · exact entryStays_reloadStarts d _ _ _ _
  · split
    · exact entryStays_reloadStarts d _ _ _ _
    · exact .refl d
  · exact .refl d

theorem logStays_echo (h : e.ev.kind = 1) : LogStays e.ev.seq d (echo e d) := by
  have : echo e d = d.rematch e.sample e.ev := by simp only [echo, h]
  exact this ▸ (eventStays_rematch d _ _).2

theorem affected_noteOn (h : e.ev.kind = 1) : d.affected e = e.voices := by simp only [Dev.affected, h]

theorem affected_noteOff (h : e.ev.kind = 2) : d.affected e = d.matchOff e.sample e.ev e.tag := by simp only [Dev.affected, h]

/-- An applied entry is marked so, and a note's keeps its voices. -/
theorem entry_applyEntry {seq : Nat} (h : d.entry seq = some e) : ∃ x, (d.applyEntry e).entry seq = some x ∧ x.applied = true ∧
    (e.ev.kind = 1 ∨ e.ev.kind = 2 → x.voices = d.affected e) := by
  obtain ⟨hs, -⟩ := seq_kind_of_entry h
  subst hs
  obtain ⟨y, hy, -⟩ := (eventStays_applyTo d e e.ev.seq (d.affected e)).1 e h
  have hm : (marked d e).entry e.ev.seq = some (appliedTo e (d.affected e) y) := by
    rw [marked, entry_mendEntry _ (g := appliedTo e (d.affected e)) fun _ => ⟨rfl, rfl⟩, if_pos rfl, hy]
    rfl
  obtain ⟨x, hx, ha, hv⟩ := entryStays_echo (marked d e) e _ hm
  exact ⟨x, hx, ha, fun hk => hv.trans (if_pos hk)⟩

/-- Every voice of an applied note-on has it in its log. -/
theorem noteOnLogged_applyEntry (h : e.ev.kind = 1) {v : Nat} (hv : v ∈ e.voices) : NoteOnLogged e (ctxOf v) (d.applyEntry e) := by
  have ht : NoteOnLogged e (ctxOf v) (d.applyTo e (d.affected e)) := noteOnLogged_applyTo d e h ((affected_noteOn d e h).symm ▸ hv)
  exact (ht.stays (.of_ctx (ctx_mendEntry _ _ _))).stays (logStays_echo (marked d e) e h)

variable {d e} {seq : Nat}

theorem eventApply_due (h : d.entry seq = some e) (hr : d.running = true) (ha : e.applied = false) (hq : e.queued = false)
    (hf : e.refused = false) (hl : later e.sample (d.frontier e.ev.part) ≤ 0) : eventApply seq d = d.applyEntry e := by
  have hk := (seq_kind_of_entry h).2
  simp [eventApply, h, hr, ha, hq, hf, hl, hk]

theorem eventApply_waits (h : d.entry seq = some e)
    (hw : e.applied = true ∨ e.queued = true ∨ e.refused = true ∨ later e.sample (d.frontier e.ev.part) > 0) : eventApply seq d = d := by
  unfold eventApply
  rw [h]
  refine if_neg fun hc => ?_
  simp only [Bool.and_eq_true, Bool.not_eq_true', decide_eq_true_eq] at hc
  obtain ⟨⟨⟨⟨⟨-, ha⟩, hq⟩, hf⟩, hl⟩, -⟩ := hc
  rcases hw with hw | hw | hw | hw
  · exact absurd (hw.symm.trans ha) (by decide)
  · exact absurd (hw.symm.trans hq) (by decide)
  · exact absurd (hw.symm.trans hf) (by decide)
  · omega

end

theorem exec_eventApply (seq : Nat) (s : State) : exec (.eventApply seq) s = .next { s with dev := eventApply seq s.dev } := rfl

/-- Settles O20: the entry stays marked and the note-on stays in its voices' logs through the matches made again. -/
theorem eventsApplyAtTheFrontier : Obligations.EventsApplyAtTheFrontier := by
  intro s seq e d he
  refine ⟨fun hr ha hq hf hl => ?_, fun hw => by rw [exec_eventApply, eventApply_waits he hw]⟩
  have hk : Keep Eq 0x10002F41 d (d.applyEntry e) := Keep.Dev_applyEntry d e (Keep.refl d rfl) rfl
  obtain ⟨x, hx, hm, hv⟩ := entry_applyEntry d e he
  have ht : exec (.eventApply seq) s = .next { s with dev := d.applyEntry e } := by
    rw [exec_eventApply, eventApply_due he hr ha hq hf hl]
  refine ⟨_, x, ht, hx, hm, fun h1 => ⟨?_, fun v hv _ => ?_⟩, fun h2 => ?_, rfl,
    mem_of_keep hk rfl, part_of_keep hk Dev.voices 12 rfl rfl, part_of_keep hk Dev.alloc 15 rfl rfl, part_of_keep hk Dev.spns 14 rfl rfl⟩
  · exact (hv (.inl h1)).trans (affected_noteOn d e h1)
  · exact noteOnLogged_applyEntry d e h1 hv
  · exact (hv (.inr h2)).trans (affected_noteOff d e h2)

end Sys2Proof.RunAhead
end

section
/-! PROOFS. The load counters of a spindle, and what a checkpoint brings back (R129, R132, R239): each operation by what it
writes and what it leaves. -/
namespace Sys2Proof.RunAhead
open Sys2Proof.Machine Sys2Proof.Laws Sys2Proof.Modes Sys2Proof.Scope

/-! ### Half words of a register -/

section
variable (a : Nat)

theorem lowHalf_ok : Fld.ok ⟨a, 15, 0⟩ := by show 0 ≤ 15 ∧ 15 < 32; decide
theorem highHalf_ok : Fld.ok ⟨a, 31, 16⟩ := by show 16 ≤ 31 ∧ 31 < 32; decide
theorem low_apart_high : Fld.apart ⟨a, 15, 0⟩ ⟨a, 31, 16⟩ := .inr (.inl (by show 15 < 16; decide))
theorem high_apart_low : Fld.apart ⟨a, 31, 16⟩ ⟨a, 15, 0⟩ := .inr (.inr (by show 15 < 16; decide))

variable (d : Dev) {v : Nat}

theorem fg_low_lt : d.fg ⟨a, 15, 0⟩ < 2 ^ 16 := fieldOf_lt (d.reg a) 15 0
theorem fg_high_lt : d.fg ⟨a, 31, 16⟩ < 2 ^ 16 := fieldOf_lt (d.reg a) 31 16

theorem fg_fp_low (h : v < 2 ^ 16) : (d.fp ⟨a, 15, 0⟩ v).fg ⟨a, 15, 0⟩ = v :=
  (fg_fp_self d _ v (lowHalf_ok a)).trans (Nat.mod_eq_of_lt h)

theorem fg_fp_high (h : v < 2 ^ 16) : (d.fp ⟨a, 31, 16⟩ v).fg ⟨a, 31, 16⟩ = v :=
  (fg_fp_self d _ v (highHalf_ok a)).trans (Nat.mod_eq_of_lt h)

end

/-! ### The load counters (R239) -/

section
variable (d : Dev) (n : Nat)

/-- Cycles of the VS, as LAST shows them. -/
def lastLoad (d : Dev) (n : Nat) : Nat := min 0xFFFF (d.spn n).cycles

theorem lastLoad_lt : lastLoad d n < 2 ^ 16 := by unfold lastLoad; omega

theorem spnBoundary_eq : d.spnBoundary n =
    ((d.fp (SPN_LOAD_LAST n) (lastLoad d n)).fp (SPN_LOAD_PEAK n) (max (d.fg (SPN_LOAD_PEAK n)) (lastLoad d n))).setSpn n
      { d.spn n with cycles := 0, used := [], rollUsed := 0 } := rfl

theorem reg_setSpn (x : Spn) (a : Nat) : (d.setSpn n x).reg a = d.reg a := rfl
theorem fg_setSpn (x : Spn) (f : Fld) : (d.setSpn n x).fg f = d.fg f := rfl

theorem last_spnBoundary : (d.spnBoundary n).fg (SPN_LOAD_LAST n) = lastLoad d n := by
  rw [spnBoundary_eq, fg_setSpn, fg_fp_other _ (SPN_LOAD_PEAK n) (SPN_LOAD_LAST n) _ (highHalf_ok _) (high_apart_low _)]
  exact fg_fp_low _ d (lastLoad_lt d n)

theorem peak_spnBoundary : (d.spnBoundary n).fg (SPN_LOAD_PEAK n) = max (d.fg (SPN_LOAD_PEAK n)) (lastLoad d n) := by
  rw [spnBoundary_eq, fg_setSpn]
  exact fg_fp_high _ _ (max_lt (fg_high_lt _ d) (lastLoad_lt d n))

theorem spn_spnBoundary : (d.spnBoundary n).spn n = { d.spn n with cycles := 0, used := [], rollUsed := 0 } := by
  rw [spnBoundary_eq, spn_setSpn, if_pos rfl]

theorem reg_spnBoundary {a : Nat} (h : a ≠ rSPN_LOAD n) : (d.spnBoundary n).reg a = d.reg a := by
  rw [spnBoundary_eq, reg_setSpn, reg_fp_other _ (SPN_LOAD_PEAK n) _ h, reg_fp_other d (SPN_LOAD_LAST n) _ h]

theorem exec_peakClear {s : State} {n : Nat} (v : Word) (hn : n < 16) (h : s.dev.hears = true) : exec (.peakClear n v) s =
    .next { s with dev := s.dev.fp (SPN_LOAD_PEAK n) (s.dev.fg (SPN_LOAD_LAST n)) } := by
  change done s (s.dev.heard (peakClear n v)) = _
  rw [heard_of _ _ h, peakClear, if_pos hn, done_eq]

end

/-! ### What a checkpoint brings back (R132) -/

theorem tfind_filter {α : Type} {t : Tbl α} {p : Nat × α → Bool} {j : Nat} (h : ∀ v, p (j, v) = true) :
    tfind (t.filter p) j = tfind t j := by
  induction t with
  | nil => rfl
  | cons q t ih =>
    obtain ⟨i, v⟩ := q
    rw [List.filter_cons]
    by_cases hi : i = j
    · subst hi
      rw [if_pos (h v)]
      simp [tfind]
    · split <;> simp [tfind, hi, ih]

/-- Replacing a range leaves the keys outside it. -/
theorem tfind_paste_outside {α : Type} [DecidableEq α] (dft : Nat → α) (t : Tbl α) {base n : Nat} (c : Tbl α) {j : Nat}
    (h : j < base ∨ base + n ≤ j) : tfind (paste dft t base n c) j = tfind t j := by
  have hold : tfind (t.filter fun p => !(decide (base ≤ p.1) && decide (p.1 < base + n))) j = tfind t j :=
    tfind_filter fun v => by simp; omega
  have hnew : ∀ (l u : Tbl α), (∀ p ∈ l, p.1 < n) →
      tfind (l.foldl (fun t p => tput (dft (base + p.1)) t (base + p.1) p.2) u) j = tfind u j := by
    intro l
    induction l with
    | nil => exact fun _ _ => rfl
    | cons p l ih =>
      intro u hl
      have hp : p.1 < n := hl p List.mem_cons_self
      exact (ih _ fun q hq => hl q (List.mem_cons_of_mem _ hq)).trans (tfind_tput_other _ _ _ (by omega))
  exact (hnew _ _ fun p hp => by simpa using (List.mem_filter.mp hp).2).trans hold

section
variable (d : Dev) (i : Nat) (k : Ckpt)

theorem ctx_restore : (d.restore i k).ctx i = { d.ctx i with
    regs := k.regs, flight := [], acc := [], cyc := 0, rep := none, delay := none,
    next := k.sample, freed := none, ckpts := (d.ctx i).ckpts.filter fun q => decide (later q.sample k.sample ≤ 0) } := by
  unfold Dev.restore
  refine (ctx_setCtx _ i i _).trans ((if_pos rfl).trans ?_)
  split <;> rfl

theorem noteOf_restore : (d.restore i k).noteOf i = k.voice :=
  (voice_setVoice _ (noteKey i) (noteKey i) k.voice).trans (if_pos rfl)

theorem keep_restore : Keep Eq 0x3005 d (d.restore i k) := Keep.Dev_restore d i k (Keep.refl d rfl) rfl

/-- Of the registers a checkpoint brings back those of the voice's window only (R215). -/
theorem reg_restore {a : Nat} (hv : voiceOf i < 256) (h : 0x90000 ≤ a) : (d.restore i k).reg a = d.reg a := by
  by_cases hi : i % 18 < 16
  · have : (d.restore i k).reg a = (tfind (paste resetWord d.live (0x50000 + voiceOf i * 0x400) 0x3C0 k.blk) a).getD (resetWord a) := by
      unfold Dev.restore
      dsimp only
      rw [if_pos hi]
      rfl
    rw [this, tfind_paste_outside _ _ _ (by omega)]
    rfl
  · unfold Dev.restore
    dsimp only
    rw [if_neg hi]
    rfl

end

end Sys2Proof.RunAhead
end

section
/-! PROOFS. Rollback orders (R129, R132, R133, R144, R232): an order is dropped, merged, or takes its context back to a checkpoint. -/
namespace Sys2Proof.RunAhead
open Sys2Proof.Machine Sys2Proof.Laws Sys2Proof.Modes Sys2Proof.Scope

/-! ### Steals taken back (R129) -/

/-- From `d` to `e` stay context i, the grid and the orders on their way, the cycles of spindle n and its registers of orders. -/
structure Aside (n i : Nat) (d e : Dev) : Prop where
  ctx : e.ctx i = d.ctx i
  c : e.eng.c = d.eng.c
  transit : e.eng.transit = d.eng.transit
  cycles : (e.spn n).cycles = (d.spn n).cycles
  reg : ∀ a ∈ [rSPN_ORDERS n, rSPN_RBCNT n], e.reg a = d.reg a

section
variable {n i : Nat} {d e : Dev}

theorem Aside.refl (d : Dev) : Aside n i d d := ⟨rfl, rfl, rfl, rfl, fun _ _ => rfl⟩

theorem Aside.trans {f : Dev} (h : Aside n i d e) (h' : Aside n i e f) : Aside n i d f :=
  ⟨h'.ctx.trans h.ctx, h'.c.trans h.c, h'.transit.trans h.transit, h'.cycles.trans h.cycles,
    fun a ha => (h'.reg a ha).trans (h.reg a ha)⟩

theorem aside_setCtx {p : Nat} (x : Ctx) (h : i ≠ p) : Aside n i d (d.setCtx p x) :=
  ⟨(ctx_setCtx d p i x).trans (if_neg h), rfl, rfl, rfl, fun _ _ => rfl⟩

theorem aside_setNote (p : Nat) (v : Voice) : Aside n i d (d.setNote p v) := ⟨rfl, rfl, rfl, rfl, fun _ _ => rfl⟩

theorem aside_addSend (s : Word) (x : Send) (sign : Bool) : Aside n i d (d.addSend s x sign) := by
  unfold Dev.addSend
  refine each_rel (r := Aside n i) .refl .trans (fun k _ y => ?_) d
  dsimp only
  split
  · exact ⟨rfl, rfl, rfl, rfl, fun _ _ => rfl⟩
  · exact .refl y

theorem aside_dropSend {p : Nat} (s : Word) (h : i ≠ p) : Aside n i d (d.dropSend p s) := by
  unfold Dev.dropSend
  split
  · exact .refl d
  · dsimp only
    refine .trans ?_ (aside_setCtx _ h)
    split
    · exact aside_addSend _ _ _
    · exact .refl d

theorem aside_dropSendsFrom {p : Nat} (s : Word) (h : i ≠ p) : Aside n i d (d.dropSendsFrom p s) :=
  each_rel (r := Aside n i) .refl .trans (fun _ _ _ => aside_dropSend _ h) d

/-- The registers that show a parting context are not those of orders. -/
theorem aside_setPartK (m : Nat) {k : Nat} (hk : k < 2) (p : Part) : Aside n i d (d.setPartK m k p) := by
  refine ⟨rfl, rfl, rfl, ?_, fun a ha => ?_⟩
  · refine (congrArg Spn.cycles (spn_setSpn d m n _)).trans ?_
    split
    · next h => subst h; split <;> rfl
    · rfl
  · have hne : a ≠ rSPN_PART m k ∧ a ≠ rSPN_STATUS m ∧ a ≠ rALLOC_PARTING := by
      simp only [List.mem_cons, List.not_mem_nil, or_false, rSPN_ORDERS, rSPN_RBCNT] at ha
      simp only [rSPN_PART, rSPN_STATUS, rALLOC_PARTING]
      omega
    obtain ⟨hp, hs, hl⟩ := hne
    unfold Dev.setPartK
    dsimp only
    rw [reg_setReg_other _ _ hl, reg_fp_other _ (SPN_STATUS_PARTING m) _ hs, reg_fp_other _ (SPN_PART_REMAIN m k) _ hp,
      reg_fp_other _ (SPN_PART_VOICE m k) _ hp, reg_fp_other _ (SPN_PART_BUSY m k) _ hp, reg_setSpn]

theorem aside_freePart {m k : Nat} (hk : k < 2) (s : Word) (hi : i % 18 < 16) : Aside n i d (d.freePart m k (some s)) := by
  have h : i ≠ 18 * m + 16 + k := by omega
  unfold Dev.freePart
  exact (((aside_dropSendsFrom s h).trans (aside_setPartK m hk _)).trans (aside_setCtx _ h)).trans (aside_setNote _ _)

theorem aside_undoSteals (v : Nat) (ck : Word) (hi : i % 18 < 16) : Aside n i d (d.undoSteals v ck) := by
  unfold Dev.undoSteals
  refine each_rel (r := Aside n i) .refl .trans (fun k hk y => ?_) d
  dsimp only
  split
  · exact aside_freePart (List.mem_range.mp hk) _ hi
  · exact .refl y

end

/-! ### The forecast reads no count of orders (R144) -/

section
variable {d : Dev} {l : Tbl Word} {g : Eng} {n : Nat}

/-- The forecast reads contexts, voices, C and the budgets: with these it stays. -/
theorem forecast_congr (j : Nat) (s front : Word) (pausing : Bool) (hc : g.c = d.eng.c)
    (hb : Dev.fg { d with live := l, eng := g } (SPN_VBUDGET_VOICE n) = d.fg (SPN_VBUDGET_VOICE n))
    (hr : Dev.fg { d with live := l, eng := g } (SPN_BUDGET_RESERVE n) = d.fg (SPN_BUDGET_RESERVE n))
    (ho : Dev.fg { d with live := l, eng := g } ALLOC_STAT_NUM = d.fg ALLOC_STAT_NUM) :
    Dev.forecast { d with live := l, eng := g } n j s front pausing = d.forecast n j s front pausing := by
  have hoff : Dev.offered { d with live := l, eng := g } n = d.offered n := by rw [Dev.offered, ho, Dev.offered]
  have hback : Dev.backlog { d with live := l, eng := g } n j = d.backlog n j := by
    unfold Dev.backlog
    rw [hb]
    rfl
  have hwork (s x : Word) : Dev.rollWork { d with live := l, eng := g } n s x = d.rollWork n s x := by
    unfold Dev.rollWork
    rw [hb]
  have hsup : Dev.rollSupply { d with live := l, eng := g } n j pausing = d.rollSupply n j pausing := by
    unfold Dev.rollSupply
    rw [hb, hr, hoff, hc]
    rfl
  unfold Dev.forecast
  rw [hback, hsup, hc]
  simp only [hwork]

end

/-! ### An order arrives -/

/-- The order is no longer on its way. -/
def arrived (o : Nat × Nat × Word × Nat) (d : Dev) : Dev := { d with eng := { d.eng with transit := d.eng.transit.erase o } }

/-- The order has arrived at spindle n and is counted. -/
def counted (o : Nat × Nat × Word × Nat) (n : Nat) (d : Dev) : Dev := (arrived o d).count (SPN_RBCNT_ORDERS n)

/-- Context i takes an order up: pending, and its spindle at work. -/
def takenUp (i : Nat) (d : Dev) : Dev :=
  (d.fp (SPN_ORDERS_PEND (i / 18)) (d.fg (SPN_ORDERS_PEND (i / 18)) ||| 2 ^ (i % 18))).fp (SPN_STATUS_RUN (i / 18)) 1

/-- Context i is back at its checkpoint, its steals since undone, for 65 cycles of its spindle. -/
def atCkpt (i : Nat) (k : Ckpt) (d : Dev) : Dev := ((d.undoSteals (voiceOf i) k.sample).restore i k).spend (i / 18) 65 true

/-- Context i is to render again from sample s on, up to its frontier. -/
def rolling (i : Nat) (r : Roll) (d : Dev) : Dev := d.setCtx i { d.ctx i with roll := some r }

/-- An order that its context renders again anyway is counted as merged too (R133). -/
def countedMerged (o : Nat × Nat × Word × Nat) (n i : Nat) (d : Dev) : Dev :=
  if (d.ctx i).roll.isSome then (counted o n d).count (SPN_RBCNT_MERGED n) else counted o n d

/-- The furthest sample that a context has rendered. -/
def frontOf (x : Ctx) : Word :=
  match x.roll with
  | some r => r.front
  | none => x.next - 1

/-- An order whose rendering again is not forecast in time: the parts pause, and the event shifts if that is not enough (R143). -/
def overload (n c : Nat) (sample : Word) (seq : Nat) (front : Word) (d : Dev) : Dev :=
  let i := 18 * n + c
  let d := d.pauseParts n c
  if d.forecast n c sample front true then d.startRoll i sample
  else
    let most := (later (front + 1) sample).toNat
    let k := ((List.range (most + 1)).find? fun k =>
      decide (0 < k) && (k == most || d.forecast n c (sample + w32 k) front true)).getD most
    let d := d.shiftEvent n i seq k
    if k = most then d else d.startRoll i (sample + w32 k)

/-- What an order comes to where its spindle takes it. -/
def taken (n c : Nat) (sample : Word) (o : Nat × Nat × Word × Nat) (d : Dev) : Dev :=
  let i := 18 * n + c
  let x := d.ctx i
  let e := countedMerged o n i d
  if x.roll.isSome ∧ later sample x.next ≥ 0 then e
  else if e.forecast n c sample (frontOf x) false then e.startRoll i sample
  else overload n c sample o.2.2.2 (frontOf x) e

section
variable {d : Dev} {n c : Nat} {sample : Word} {o : Nat × Nat × Word × Nat}

theorem rollbackOrder_absent (h : ∀ o ∈ d.eng.transit, ¬(o.1 = n ∧ o.2.1 = c)) : rollbackOrder n c sample d = d := by
  have hnone : d.eng.transit.find? (fun o => o.1 == n && o.2.1 == c && o.2.2.1 == sample) = none :=
    List.find?_eq_none.mpr fun o ho hp => by
      simp only [Bool.and_eq_true, beq_iff_eq] at hp
      exact h o ho hp.1
  rw [rollbackOrder, hnone]

theorem rollbackOrder_eq (hf : d.eng.transit.find? (fun o => o.1 == n && o.2.1 == c && o.2.2.1 == sample) = some o)
    (hr : d.running = true) : rollbackOrder n c sample d =
      if d.on (SPN_STATUS_TRAPPED n) || decide (16 ≤ n) || decide (16 ≤ c) then arrived o d else taken n c sample o d := by
  rw [rollbackOrder, hf]
  dsimp only
  rw [hr, if_neg (by decide)]
  rfl

theorem fg_counted {f : Fld} (h : f.addr ≠ rSPN_RBCNT n) : (counted o n d).fg f = d.fg f :=
  fg_of_reg (reg_count_other (arrived o d) (SPN_RBCNT_ORDERS n) 1 h)

theorem taken_merged {r : Roll} (hx : (d.ctx (18 * n + c)).roll = some r) (hs : later sample (d.ctx (18 * n + c)).next ≥ 0) :
    taken n c sample o d = (counted o n d).count (SPN_RBCNT_MERGED n) := by
  have hroll : (d.ctx (18 * n + c)).roll.isSome = true := Option.isSome_of_eq_some hx
  unfold taken countedMerged
  dsimp only
  rw [if_pos ⟨hroll, hs⟩, if_pos hroll]

theorem forecast_counted (s front : Word) (pausing : Bool) : (counted o n d).forecast n c s front pausing = d.forecast n c s front pausing :=
  forecast_congr c s front pausing rfl (fg_counted (by simp only [SPN_VBUDGET_VOICE, rSPN_VBUDGET, rSPN_RBCNT]; omega))
    (fg_counted (by simp only [SPN_BUDGET_RESERVE, rSPN_BUDGET, rSPN_RBCNT]; omega))
    (fg_counted (by simp only [ALLOC_STAT_NUM, rALLOC_STAT, rSPN_RBCNT]; omega))

theorem taken_starts (hx : (d.ctx (18 * n + c)).roll = none)
    (hfc : d.forecast n c sample ((d.ctx (18 * n + c)).next - 1) false = true) :
    taken n c sample o d = (counted o n d).startRoll (18 * n + c) sample := by
  have hroll : ¬ (d.ctx (18 * n + c)).roll.isSome = true := by rw [hx]; decide
  have hfront : frontOf (d.ctx (18 * n + c)) = (d.ctx (18 * n + c)).next - 1 := by rw [frontOf, hx]
  unfold taken countedMerged
  dsimp only
  rw [if_neg fun h => hroll h.1, if_neg hroll, hfront, forecast_counted, if_pos hfc]

end

/-! ### Back at the checkpoint (R132) -/

section
variable {d : Dev} {i : Nat}

/-- Where no context runs and none is suspended, none gives way. -/
theorem giveWay_idle {n : Nat} (j : Nat) (hc : (d.spn n).cur = none) (hs : (d.spn n).susp = none) : d.giveWay n j = d := by
  simp [Dev.giveWay, hc, hs]

/-- The rollback of a voice that sounds, on a spindle at rest: taken up, back at its checkpoint, and under way. -/
theorem startRoll_eq {s : Word} {k : Ckpt} (hv : (d.noteOf i).cls ≠ clsFree) (hr : (d.ctx i).roll = none) (hk : d.ckptFor i s = some k)
    (hc : (d.spn (i / 18)).cur = none) (hs : (d.spn (i / 18)).susp = none) :
    d.startRoll i s = rolling i { stale := s, front := (d.ctx i).next - 1 } (atCkpt i k (takenUp i d)) := by
  unfold Dev.startRoll
  dsimp only
  rw [giveWay_idle _ hc hs, hr]
  split
  · next hnone => exact absurd (hk.symm.trans hnone) (Option.some_ne_none k)
  · next k' hsome =>
    obtain rfl : k = k' := Option.some.inj (hk.symm.trans hsome)
    refine (if_neg fun h => hv ?_).trans rfl
    simp only [Bool.and_eq_true, beq_iff_eq] at h
    exact h.1.1

theorem ctx_rolling (r : Roll) : (rolling i r d).ctx i = { d.ctx i with roll := some r } :=
  (ctx_setCtx d i i _).trans (if_pos rfl)

variable (k : Ckpt)

theorem noteOf_atCkpt : (atCkpt i k d).noteOf i = k.voice := noteOf_restore _ i k

variable (hi : i % 18 < 16)
include hi

theorem ctx_atCkpt : (atCkpt i k d).ctx i = { d.ctx i with
    regs := k.regs, flight := [], acc := [], cyc := 0, rep := none, delay := none,
    next := k.sample, freed := none, ckpts := (d.ctx i).ckpts.filter fun q => decide (later q.sample k.sample ≤ 0) } := by
  have h : (d.undoSteals (voiceOf i) k.sample).ctx i = d.ctx i := (aside_undoSteals (n := 0) _ _ hi).ctx
  rw [← h]
  exact ctx_restore _ i k

theorem eng_atCkpt : (atCkpt i k d).eng.c = d.eng.c ∧ (atCkpt i k d).eng.transit = d.eng.transit := by
  have h : ((d.undoSteals (voiceOf i) k.sample).restore i k).eng = (d.undoSteals (voiceOf i) k.sample).eng :=
    eng_of_keep (keep_restore _ i k) rfl
  have ha : Aside 0 i d (d.undoSteals (voiceOf i) k.sample) := aside_undoSteals _ _ hi
  rw [atCkpt, Dev.spend, setSpn_eng, h]
  exact ⟨ha.c, ha.transit⟩

theorem cycles_atCkpt : ((atCkpt i k d).spn (i / 18)).cycles = (d.spn (i / 18)).cycles + 65 := by
  have h : ((d.undoSteals (voiceOf i) k.sample).restore i k).spns = (d.undoSteals (voiceOf i) k.sample).spns :=
    part_of_keep (keep_restore _ i k) Dev.spns 14 rfl rfl
  have hs (m : Nat) : ((d.undoSteals (voiceOf i) k.sample).restore i k).spn m = (d.undoSteals (voiceOf i) k.sample).spn m := by
    rw [Dev.spn, h, Dev.spn]
  rw [atCkpt, Dev.spend, spn_setSpn, if_pos rfl]
  dsimp only
  rw [hs, (aside_undoSteals _ _ hi).cycles]

theorem reg_atCkpt (hn : i / 18 < 16) {a : Nat} (ha : a ∈ [rSPN_ORDERS (i / 18), rSPN_RBCNT (i / 18)]) :
    (atCkpt i k d).reg a = d.reg a := by
  have hv : voiceOf i < 256 := by unfold voiceOf; omega
  have hlow : 0x90000 ≤ a := by
    simp only [List.mem_cons, List.not_mem_nil, or_false, rSPN_ORDERS, rSPN_RBCNT] at ha
    omega
  rw [atCkpt, Dev.spend, reg_setSpn, reg_restore _ _ _ hv hlow, (aside_undoSteals _ _ hi).reg a ha]

end

section
variable {d : Dev} {n c : Nat} (hc : c < 16)
include hc

theorem rbcnt_takenUp : (takenUp (18 * n + c) d).reg (rSPN_RBCNT n) = d.reg (rSPN_RBCNT n) := by
  have hn : (18 * n + c) / 18 = n := by omega
  have hne : rSPN_RBCNT n ≠ rSPN_ORDERS n ∧ rSPN_RBCNT n ≠ rSPN_STATUS n := by
    simp only [rSPN_RBCNT, rSPN_ORDERS, rSPN_STATUS]
    omega
  rw [takenUp, hn, reg_fp_other _ (SPN_STATUS_RUN n) _ hne.2, reg_fp_other _ (SPN_ORDERS_PEND n) _ hne.1]

theorem pend_takenUp : (takenUp (18 * n + c) d).fg (SPN_ORDERS_PEND n) = (d.fg (SPN_ORDERS_PEND n) ||| 2 ^ c) := by
  have hn : (18 * n + c) / 18 = n := by omega
  have hj : (18 * n + c) % 18 = c := by omega
  have hlt : (d.fg (SPN_ORDERS_PEND n) ||| 2 ^ c) < 2 ^ 16 :=
    Nat.or_lt_two_pow (fg_low_lt _ d) (Nat.pow_lt_pow_right (by decide) hc)
  have hne : (SPN_ORDERS_PEND n).addr ≠ (SPN_STATUS_RUN n).addr := by
    simp only [SPN_ORDERS_PEND, SPN_STATUS_RUN, rSPN_ORDERS, rSPN_STATUS]
    omega
  rw [takenUp, hn, hj, fg_of_reg (reg_fp_other _ _ _ hne)]
  exact fg_fp_low _ d hlt

end

end Sys2Proof.RunAhead
end

section
/-! PROOFS. ROLLBACK_ORDER and the load counters as the machine's own commands (R129, R132, R133, R232, R239). -/
namespace Sys2Proof.RunAhead
open Sys2Proof.Machine Sys2Proof.Laws Sys2Proof.Modes

theorem exec_rollbackOrder (n c : Nat) (sample : Word) (s : State) :
    exec (.rollbackOrder n c sample) s = .next { s with dev := rollbackOrder n c sample s.dev } := rfl

/-! ### An order that is taken up, merged or dropped -/

section
variable {d : Dev} {n c : Nat} {sample : Word} {o : Nat × Nat × Word × Nat}

theorem orders_counted : (counted o n d).fg (SPN_RBCNT_ORDERS n) = min (d.fg (SPN_RBCNT_ORDERS n) + 1) 0xFFFF :=
  fg_count_self (arrived o d) (SPN_RBCNT_ORDERS n) 1 (lowHalf_ok _)

theorem orders_merged : ((counted o n d).count (SPN_RBCNT_MERGED n)).fg (SPN_RBCNT_ORDERS n) = min (d.fg (SPN_RBCNT_ORDERS n) + 1) 0xFFFF :=
  (fg_count_other _ (SPN_RBCNT_MERGED n) (SPN_RBCNT_ORDERS n) 1 (highHalf_ok _) (high_apart_low _)).trans orders_counted

theorem merged_merged : ((counted o n d).count (SPN_RBCNT_MERGED n)).fg (SPN_RBCNT_MERGED n) = min (d.fg (SPN_RBCNT_MERGED n) + 1) 0xFFFF := by
  have h : (counted o n d).fg (SPN_RBCNT_MERGED n) = d.fg (SPN_RBCNT_MERGED n) :=
    fg_count_other (arrived o d) (SPN_RBCNT_ORDERS n) (SPN_RBCNT_MERGED n) 1 (lowHalf_ok _) (low_apart_high _)
  rw [fg_count_self _ (SPN_RBCNT_MERGED n) 1 (highHalf_ok _), h]
  rfl

theorem reg_merged {a : Nat} (h : a ≠ rSPN_RBCNT n) : ((counted o n d).count (SPN_RBCNT_MERGED n)).reg a = d.reg a :=
  (reg_count_other _ (SPN_RBCNT_MERGED n) 1 h).trans (reg_count_other (arrived o d) (SPN_RBCNT_ORDERS n) 1 h)

theorem merged_fields : ∃ l, (counted o n d).count (SPN_RBCNT_MERGED n) = { arrived o d with live := l } := ⟨_, rfl⟩

/-- A spindle of the device that is not trapped takes the order. -/
theorem rollbackOrder_taken (hf : d.eng.transit.find? (fun o => o.1 == n && o.2.1 == c && o.2.2.1 == sample) = some o)
    (hr : d.running = true) (hn : n < 16) (hc : c < 16) (ht : d.on (SPN_STATUS_TRAPPED n) = false) :
    rollbackOrder n c sample d = taken n c sample o d := by
  rw [rollbackOrder_eq hf hr, if_neg]
  simp only [ht, Bool.false_or, Bool.or_eq_true, decide_eq_true_eq]
  omega

theorem rollbackOrder_dropped (hf : d.eng.transit.find? (fun o => o.1 == n && o.2.1 == c && o.2.2.1 == sample) = some o)
    (hr : d.running = true) (ht : d.on (SPN_STATUS_TRAPPED n) = true) : rollbackOrder n c sample d = arrived o d := by
  rw [rollbackOrder_eq hf hr, ht, Bool.true_or, Bool.true_or, if_pos rfl]

end

/-! ### A rollback that begins (R132) -/

/-- What the start of a rollback of context c of spindle n at `sample`, from checkpoint k, makes of device `d`. -/
structure Restored (n c : Nat) (sample : Word) (k : Ckpt) (o : Nat × Nat × Word × Nat) (d e : Dev) : Prop where
  next : (e.ctx (18 * n + c)).next = k.sample
  regs : (e.ctx (18 * n + c)).regs = k.regs
  roll : (e.ctx (18 * n + c)).roll = some { stale := sample, front := (d.ctx (18 * n + c)).next - 1 }
  note : e.noteOf (18 * n + c) = k.voice
  ckpts : ∀ q ∈ (e.ctx (18 * n + c)).ckpts, later q.sample k.sample ≤ 0
  transit : e.eng.transit = d.eng.transit.erase o
  commit : e.eng.c = d.eng.c
  orders : e.fg (SPN_RBCNT_ORDERS n) = min (d.fg (SPN_RBCNT_ORDERS n) + 1) 0xFFFF
  pend : e.fg (SPN_ORDERS_PEND n) = (d.fg (SPN_ORDERS_PEND n) ||| 2 ^ c)
  cycles : (e.spn n).cycles = (d.spn n).cycles + 65

section
variable {d : Dev} {n c : Nat} {sample : Word} {o : Nat × Nat × Word × Nat} {k : Ckpt}

theorem restored_rolling (hn : n < 16) (hc : c < 16) : Restored n c sample k o d
    (rolling (18 * n + c) { stale := sample, front := (d.ctx (18 * n + c)).next - 1 }
      (atCkpt (18 * n + c) k (takenUp (18 * n + c) (counted o n d)))) := by
  have hdiv : (18 * n + c) / 18 = n := by omega
  have hmod : (18 * n + c) % 18 < 16 := by omega
  have hreg {a : Nat} (ha : a ∈ [rSPN_ORDERS n, rSPN_RBCNT n]) (e : Dev) : (atCkpt (18 * n + c) k e).reg a = e.reg a :=
    reg_atCkpt k hmod (by omega) (by rwa [hdiv])
  obtain ⟨hC, hT⟩ := eng_atCkpt (d := takenUp (18 * n + c) (counted o n d)) k hmod
  constructor
  case next => rw [ctx_rolling, ctx_atCkpt k hmod]
  case regs => rw [ctx_rolling, ctx_atCkpt k hmod]
  case roll => rw [ctx_rolling]
  case note => exact noteOf_atCkpt k
  case ckpts =>
    rw [ctx_rolling, ctx_atCkpt k hmod]
    exact fun q hq => of_decide_eq_true (List.mem_filter.mp hq).2
  case transit => exact hT
  case commit => exact hC
  case orders => exact (fg_of_reg ((hreg (a := rSPN_RBCNT n) (by simp) _).trans (rbcnt_takenUp hc))).trans orders_counted
  case pend =>
    have h : (counted o n d).fg (SPN_ORDERS_PEND n) = d.fg (SPN_ORDERS_PEND n) :=
      fg_counted (by simp only [SPN_ORDERS_PEND, rSPN_ORDERS, rSPN_RBCNT]; omega)
    rw [← h, ← pend_takenUp hc]
    exact fg_of_reg (hreg (a := rSPN_ORDERS n) (by simp) _)
  case cycles =>
    have h := cycles_atCkpt (d := takenUp (18 * n + c) (counted o n d)) k hmod
    rw [hdiv] at h
    exact h

/-- An order for a voice that sounds, forecast in time on a spindle at rest, begins its rollback. -/
theorem restored_rollbackOrder (hf : d.eng.transit.find? (fun o => o.1 == n && o.2.1 == c && o.2.2.1 == sample) = some o)
    (hr : d.running = true) (hn : n < 16) (hc : c < 16) (ht : d.on (SPN_STATUS_TRAPPED n) = false)
    (hv : (d.noteOf (18 * n + c)).cls ≠ clsFree) (hx : (d.ctx (18 * n + c)).roll = none) (hk : d.ckptFor (18 * n + c) sample = some k)
    (hcur : (d.spn n).cur = none) (hsusp : (d.spn n).susp = none)
    (hfc : d.forecast n c sample ((d.ctx (18 * n + c)).next - 1) false = true) :
    Restored n c sample k o d (rollbackOrder n c sample d) := by
  have hdiv : (18 * n + c) / 18 = n := by omega
  have hs : (counted o n d).startRoll (18 * n + c) sample = rolling (18 * n + c) { stale := sample, front := (d.ctx (18 * n + c)).next - 1 }
      (atCkpt (18 * n + c) k (takenUp (18 * n + c) (counted o n d))) :=
    startRoll_eq (d := counted o n d) hv hx hk (hdiv.symm ▸ hcur) (hdiv.symm ▸ hsusp)
  rw [rollbackOrder_taken hf hr hn hc ht, taken_starts hx hfc, hs]
  exact restored_rolling hn hc

end

/-- Settles O24: an order taken up brings its checkpoint back, and no steal undone reaches the orders' registers; the counters
of a spindle are half words of one register. -/
theorem rollbackAndSpindleLoad : Obligations.RollbackAndSpindleLoad := by
  constructor
  · intro s n c sample seq k d i x found ok gone rest
    refine ⟨fun hf ⟨hr, hn, hc, ht⟩ hv hx hk hcur hsusp hfc => ?_, fun hf ⟨hr, hn, hc, ht⟩ r hx hs => ?_,
      fun hf hr ht => ?_, fun hno => ?_⟩
    · have h : Restored n c sample k (n, c, sample, seq) d (rollbackOrder n c sample d) :=
        restored_rollbackOrder hf hr hn hc ht hv hx hk hcur hsusp hfc
      have hkeep : Keep Eq 0x10007F45 d (rollbackOrder n c sample d) := Keep.rollbackOrder n c sample d (Keep.refl d rfl) rfl
      exact ⟨_, exec_rollbackOrder n c sample s, h.next, h.regs, h.roll, h.note, h.ckpts, h.transit, h.commit, h.orders, h.pend, h.cycles,
        rfl, flash_of_keep hkeep rfl, hkeep.fuses.symm⟩
    · have h : rollbackOrder n c sample d = (counted (n, c, sample, seq) n d).count (SPN_RBCNT_MERGED n) :=
        (rollbackOrder_taken hf hr hn hc ht).trans (taken_merged hx hs)
      have hexec : exec (.rollbackOrder n c sample) s =
          .next { s with dev := (counted (n, c, sample, seq) n d).count (SPN_RBCNT_MERGED n) } := by rw [exec_rollbackOrder, h]
      exact ⟨_, hexec, orders_merged, merged_merged, fun a ha _ => reg_merged fun e => ha (by simp [e]), rfl⟩
    · rw [exec_rollbackOrder, rollbackOrder_dropped hf hr ht]
      rfl
    · rw [exec_rollbackOrder, rollbackOrder_absent hno]
  · intro s n v hn d e last
    refine ⟨⟨last_spnBoundary d n, peak_spnBoundary d n, ?_, ?_, ?_, fun a ha => reg_spnBoundary d n ha⟩, fun hh => ?_⟩
    · exact congrArg Spn.cycles (spn_spnBoundary d n)
    · exact congrArg Spn.used (spn_spnBoundary d n)
    · exact congrArg Spn.rollUsed (spn_spnBoundary d n)
    · refine ⟨_, exec_peakClear v hn hh, fg_fp_high _ d (fg_low_lt _ d), ?_, fun a ha _ => ?_, rfl⟩
      · exact fg_fp_other d (SPN_LOAD_PEAK n) (SPN_LOAD_LAST n) _ (highHalf_ok _) (high_apart_low _)
      · exact reg_fp_other d (SPN_LOAD_PEAK n) _ fun h => ha (by simp [h, SPN_LOAD_PEAK])

end Sys2Proof.RunAhead
end

section
/-! PROOFS. A pass of the allocation tree (R153): the fold over the present voices is the library's maximum of a list. -/
namespace Sys2Proof.Allocation
open Sys2Proof.Machine

section
variable (d : Dev) (ok : Nat → Bool)

/-- The score that a pass compares. -/
def leafScore (d : Dev) (v : Nat) : Nat := (d.reg (rALLOC_SCORE v)).toNat

/-- The leaves that a pass gives a value other than 0. -/
def leaves (d : Dev) (ok : Nat → Bool) : List Nat := d.presentVoices.filter fun v => ok v && d.reg (rALLOC_SCORE v) != 0

theorem treePass_eq_argmax : d.treePass ok = (leaves d ok).argmax (leafScore d) := by
  unfold Dev.treePass List.argmax leaves
  congr 1
  funext best v
  cases best with
  | none => rfl
  | some b => rfl

theorem mem_presentVoices {v : Nat} : v ∈ d.presentVoices ↔ d.present v = true := by
  rw [Dev.presentVoices, List.mem_filter, List.mem_range, and_iff_right_iff_imp]
  intro h
  exact of_decide_eq_true (Bool.and_eq_true_iff.mp h).1

theorem mem_leaves {v : Nat} : v ∈ leaves d ok ↔ d.present v = true ∧ ok v = true ∧ leafScore d v ≠ 0 := by
  rw [leaves, List.mem_filter, mem_presentVoices, Bool.and_eq_true, bne_iff_ne, leafScore, Ne, Ne, BitVec.toNat_eq]
  rfl

theorem leaves_sorted : (leaves d ok).SortedLT :=
  ((List.pairwise_lt_range.filter _).filter _).sortedLT

/-- In a list that rises, what stands earlier is no greater. -/
theorem le_of_idxOf_le {l : List Nat} (hl : l.SortedLT) {a b : Nat} (ha : a ∈ l) (hb : b ∈ l)
    (h : l.idxOf a ≤ l.idxOf b) : a ≤ b := by
  have := hl.getElem_le_getElem_iff (hi := List.idxOf_lt_length_iff.mpr ha) (hj := List.idxOf_lt_length_iff.mpr hb) |>.mpr h
  rwa [List.getElem_idxOf, List.getElem_idxOf] at this

end

/-- Settles O21: the pass is a maximum, and of equal scores the list of present voices has the lower number first. -/
theorem treeTakesHighestScore : Obligations.TreeTakesHighestScore := by
  intro d ok score may
  have hmay (v : Nat) : may v ↔ v ∈ leaves d ok := (mem_leaves d ok).symm
  simp only [hmay, treePass_eq_argmax]
  constructor
  · intro v hv
    obtain ⟨hmem, hmax, hfirst⟩ := List.mem_argmax_iff.mp hv
    refine ⟨hmem, fun w hw => ?_⟩
    rcases (hmax w hw).lt_or_eq with hlt | heq
    · exact .inl hlt
    · exact .inr ⟨heq, le_of_idxOf_le (leaves_sorted d ok) hmem hw (hfirst w hw heq.ge)⟩
  · intro hnone v
    rw [List.argmax_eq_none.mp hnone]
    exact List.not_mem_nil

end Sys2Proof.Allocation
end

section
/-! PROOFS. What the allocator's operations write and what they leave (R152 to R156, R161, R168): the queue's counters, the
search for leaves, the record of a decision, the marks of pending voices, a note's entry. -/
namespace Sys2Proof.Allocation
open Sys2Proof.Machine Sys2Proof.Laws Sys2Proof.Modes Sys2Proof.Scope Sys2Proof.RunAhead

/-! ### The queue's counters (R154, R168) -/

theorem qocc_ok : Fld.ok ALLOC_STAT_QOCC := by decide
theorem qhwm_ok : Fld.ok ALLOC_STAT_QHWM := by decide
theorem qhwm_apart_qocc : Fld.apart ALLOC_STAT_QHWM ALLOC_STAT_QOCC := by decide

/-- The device whose queue holds `rest` and shows it. -/
def requeued (rest : List Nat) (d : Dev) : Dev := { d with alloc := { d.alloc with queue := rest } }.showQueue

section
variable (d : Dev) (rest : List Nat)

theorem reg_requeued {a : Nat} (h : a ≠ rALLOC_STAT) : (requeued rest d).reg a = d.reg a :=
  (reg_fp_other _ ALLOC_STAT_QHWM _ h).trans (reg_fp_other _ ALLOC_STAT_QOCC _ h)

theorem qocc_requeued : (requeued rest d).fg ALLOC_STAT_QOCC = rest.length % 32 :=
  (fg_fp_other _ _ _ _ qhwm_ok qhwm_apart_qocc).trans (fg_fp_self _ _ _ qocc_ok)

/-- The counters of the queue share their register with NUM, which they leave. -/
theorem num_requeued : (requeued rest d).fg ALLOC_STAT_NUM = d.fg ALLOC_STAT_NUM :=
  (fg_fp_other _ ALLOC_STAT_QHWM _ _ qhwm_ok (by decide)).trans (fg_fp_other _ ALLOC_STAT_QOCC _ _ qocc_ok (by decide))

theorem fgAlloc_requeued {f : Fld} (h : f.addr ≠ rALLOC_STAT) : (requeued rest d).fgAlloc f = d.fgAlloc f := by
  have hf : (requeued rest d).fg f = d.fg f := fg_of_reg (reg_requeued d rest h)
  rw [Dev.fgAlloc, Dev.fgAlloc, hf]
  rfl

/-! ### The search for leaves (R152, R153) -/

theorem offered_requeued (n : Nat) : (requeued rest d).offered n = d.offered n := by
  rw [Dev.offered, num_requeued, Dev.offered]

theorem present_requeued : (requeued rest d).present = d.present := by
  funext v
  rw [Dev.present, offered_requeued, Dev.present]

theorem presentVoices_requeued : (requeued rest d).presentVoices = d.presentVoices := by
  rw [Dev.presentVoices, present_requeued, Dev.presentVoices]

theorem score_requeued (v : Nat) : (requeued rest d).reg (rALLOC_SCORE v) = d.reg (rALLOC_SCORE v) :=
  reg_requeued d rest (by unfold rALLOC_SCORE rALLOC_STAT; omega)

theorem countsFor_requeued (v : Nat) : (requeued rest d).countsFor v = d.countsFor v := rfl

theorem partCount_requeued (q : Nat) : (requeued rest d).partCount q = d.partCount q := by
  simp only [Dev.partCount, presentVoices_requeued, countsFor_requeued]

theorem freeCount_requeued : (requeued rest d).freeCount = d.freeCount := by
  simp only [Dev.freeCount, presentVoices_requeued, countsFor_requeued]

/-! No register of a part, of any number, lies where the queue's counters do. -/

theorem part_map_addr (p : Nat) : rNOTE_PART_MAP p ≠ rALLOC_STAT := by unfold rNOTE_PART_MAP rALLOC_STAT; omega
theorem part_mode_addr (p : Nat) : rNOTE_PART_MODE p ≠ rALLOC_STAT := by unfold rNOTE_PART_MODE rALLOC_STAT; omega
theorem part_alloc_addr (p : Nat) : rNOTE_PART_ALLOC p ≠ rALLOC_STAT := by unfold rNOTE_PART_ALLOC rALLOC_STAT; omega
theorem part_steal_addr (p : Nat) : rNOTE_PART_STEAL p ≠ rALLOC_STAT := by unfold rNOTE_PART_STEAL rALLOC_STAT; omega

theorem unison_requeued (p : Nat) : (requeued rest d).fgAlloc (NOTE_PART_MODE_UNISON p) = d.fgAlloc (NOTE_PART_MODE_UNISON p) :=
  fgAlloc_requeued d rest (part_mode_addr p)
theorem voicing_requeued (p : Nat) : (requeued rest d).fgAlloc (NOTE_PART_MODE_VOICING p) = d.fgAlloc (NOTE_PART_MODE_VOICING p) :=
  fgAlloc_requeued d rest (part_mode_addr p)
theorem retrig_requeued (p : Nat) : (requeued rest d).fgAlloc (NOTE_PART_STEAL_RETRIG p) = d.fgAlloc (NOTE_PART_STEAL_RETRIG p) :=
  fgAlloc_requeued d rest (part_steal_addr p)
theorem prio_requeued (p : Nat) : (requeued rest d).fgAlloc (NOTE_PART_STEAL_PRIO p) = d.fgAlloc (NOTE_PART_STEAL_PRIO p) :=
  fgAlloc_requeued d rest (part_steal_addr p)
theorem limit_requeued (p : Nat) : (requeued rest d).fgAlloc (NOTE_PART_ALLOC_LIMIT p) = d.fgAlloc (NOTE_PART_ALLOC_LIMIT p) :=
  fgAlloc_requeued d rest (part_alloc_addr p)
theorem reserve_requeued (p : Nat) : (requeued rest d).fgAlloc (NOTE_PART_ALLOC_RESERVE p) = d.fgAlloc (NOTE_PART_ALLOC_RESERVE p) :=
  fgAlloc_requeued d rest (part_alloc_addr p)

theorem parts_requeued : (requeued rest d).parts = d.parts := by
  have h (p : Nat) : (requeued rest d).on (NOTE_PART_MAP_EN p) = d.on (NOTE_PART_MAP_EN p) :=
    on_of_reg (reg_requeued d rest (part_map_addr p))
  simp only [Dev.parts, h]

theorem owed_requeued (p : Nat) : (requeued rest d).owed p = d.owed p := by
  simp only [Dev.owed, parts_requeued, reserve_requeued, partCount_requeued]

theorem partTest_requeued (p v : Nat) : (requeued rest d).partTest p v = d.partTest p v := by
  simp only [Dev.partTest, countsFor_requeued, partCount_requeued, limit_requeued, reserve_requeued, owed_requeued,
    freeCount_requeued, prio_requeued]

theorem leafOk_requeued (v : Nat) (prot : Bool) : (requeued rest d).leafOk v prot = d.leafOk v prot := by
  simp only [Dev.leafOk, present_requeued, score_requeued]
  rfl

theorem treePass_requeued (ok : Nat → Bool) : (requeued rest d).treePass ok = d.treePass ok := by
  simp only [Dev.treePass, presentVoices_requeued, score_requeued]

theorem passes_requeued (ok : Nat → Bool) (n : Nat) (got : List Nat) : (requeued rest d).passes ok n got = d.passes ok n got := by
  induction n generalizing got with
  | zero => rfl
  | succ n ih => simp only [Dev.passes, treePass_requeued, ih]

/-- The search reads nothing that the queue's counters write. -/
theorem findLeaves_requeued (p u : Nat) (forced : Bool) : (requeued rest d).findLeaves p u forced = d.findLeaves p u forced := by
  simp only [Dev.findLeaves, leafOk_requeued, partTest_requeued, passes_requeued]

/-- Each of the passes adds one leaf (R156). -/
theorem length_of_passes {d : Dev} {ok : Nat → Bool} {n : Nat} {got vs : List Nat} (h : d.passes ok n got = some vs) :
    vs.length = got.length + n := by
  induction n generalizing got with
  | zero => rw [← Option.some.inj h, Nat.add_zero]
  | succ n ih =>
    unfold Dev.passes at h
    split at h
    · have := ih h
      rw [List.length_append, List.length_singleton] at this
      omega
    · cases h

theorem length_of_findLeaves {d : Dev} {p u : Nat} {vs : List Nat} (h : d.findLeaves p u false = some (vs, false)) :
    vs.length = u := by
  unfold Dev.findLeaves at h
  split at h
  · next l hl =>
    cases h
    exact (length_of_passes hl).trans (Nat.zero_add u)
  · cases h

end

/-! ### The record of a decision (R168) -/

/-- ALLOC_LAST with its refusal, reuse, part, tag and unison; a refused note shows no tag. -/
def decided (refused reuse : Bool) (p tag u : Nat) (d : Dev) : Dev :=
  ((((d.fp ALLOC_LAST_REFUSED (if refused then 1 else 0)).fp ALLOC_LAST_REUSE (if reuse then 1 else 0)).fp
    ALLOC_LAST_PART p).fp ALLOC_LAST_TAG (if refused then 0 else tag)).fp ALLOC_LAST_UNISON (u - 1)

/-- The voices taken through the tree, of which `a` is the first and `z` the last. -/
def tookVoices (a z : Nat) (d : Dev) : Dev :=
  let d := d.fp ALLOC_LAST_VOICE a
  (d.fp ALLOC_LAST_STEAL (if (d.voice z).cls = clsFree then 0 else 1)).setReg rALLOC_LASTSCORE (d.reg (rALLOC_SCORE z))

section
variable (d : Dev) (p tag u : Nat)

theorem setLast_refused : d.setLast p tag u [] false = decided true false p tag u d := rfl

theorem setLast_taken {vs : List Nat} (h : vs ≠ []) :
    ∃ a z, d.setLast p tag u vs false = tookVoices a z (decided false false p tag u d) := by
  cases vs with
  | nil => exact absurd rfl h
  | cons a vs => exact ⟨a, (a :: vs).getLast (List.cons_ne_nil a vs), rfl⟩

theorem reg_decided (refused reuse : Bool) {a : Nat} (h : a ≠ rALLOC_LAST) : (decided refused reuse p tag u d).reg a = d.reg a := by
  rw [decided, reg_fp_other _ ALLOC_LAST_UNISON _ h, reg_fp_other _ ALLOC_LAST_TAG _ h, reg_fp_other _ ALLOC_LAST_PART _ h,
    reg_fp_other _ ALLOC_LAST_REUSE _ h, reg_fp_other _ ALLOC_LAST_REFUSED _ h]

theorem refused_decided (refused reuse : Bool) : (decided refused reuse p tag u d).on ALLOC_LAST_REFUSED = refused := by
  rw [decided, on_fp_other _ ALLOC_LAST_UNISON _ _ (by decide) (by decide), on_fp_other _ ALLOC_LAST_TAG _ _ (by decide) (by decide),
    on_fp_other _ ALLOC_LAST_PART _ _ (by decide) (by decide), on_fp_other _ ALLOC_LAST_REUSE _ _ (by decide) (by decide),
    on_fp_self _ _ _ (by decide)]
  cases refused <;> rfl

theorem reg_tookVoices (x z : Nat) {a : Nat} (h : a ≠ rALLOC_LAST) (h' : a ≠ rALLOC_LASTSCORE) :
    (tookVoices x z d).reg a = d.reg a := by
  rw [tookVoices, reg_setReg_other _ _ h', reg_fp_other _ ALLOC_LAST_STEAL _ h, reg_fp_other _ ALLOC_LAST_VOICE _ h]

theorem refused_tookVoices (x z : Nat) : (tookVoices x z d).on ALLOC_LAST_REFUSED = d.on ALLOC_LAST_REFUSED := by
  have hscore : (tookVoices x z d).reg rALLOC_LAST = _ := reg_setReg_other _ _ (by decide)
  rw [on_of_reg (f := ALLOC_LAST_REFUSED) hscore, on_fp_other _ ALLOC_LAST_STEAL _ _ (by decide) (by decide),
    on_fp_other _ ALLOC_LAST_VOICE _ _ (by decide) (by decide)]

end

section
variable (d : Dev) (p tag u : Nat) (vs : List Nat) (reuse : Bool)

theorem note_setLast : (d.setLast p tag u vs reuse).note = d.note :=
  part_of_keep (Keep.Dev_setLast (M := 0x1) d p tag u vs reuse (Keep.refl (R := Eq) d rfl) rfl) Dev.note 9 rfl rfl

theorem alloc_setLast : (d.setLast p tag u vs reuse).alloc = d.alloc :=
  part_of_keep (Keep.Dev_setLast (M := 0x1) d p tag u vs reuse (Keep.refl (R := Eq) d rfl) rfl) Dev.alloc 15 rfl rfl

variable {vs} (hvs : vs ≠ [])
include hvs

theorem reg_setLast_taken {a : Nat} (h : a ≠ rALLOC_LAST) (h' : a ≠ rALLOC_LASTSCORE) :
    (d.setLast p tag u vs false).reg a = d.reg a := by
  obtain ⟨x, z, hl⟩ := setLast_taken d p tag u hvs
  rw [hl, reg_tookVoices _ x z h h', reg_decided _ _ _ _ _ _ h]

theorem refused_setLast_taken : (d.setLast p tag u vs false).on ALLOC_LAST_REFUSED = false := by
  obtain ⟨x, z, hl⟩ := setLast_taken d p tag u hvs
  rw [hl, refused_tookVoices, refused_decided]

end

/-! ### Pending voices (R155) -/

/-- The voices marked pending for the tag, on the part. -/
def pendingFor (vs : List Nat) (tag p : Nat) (d : Dev) : Dev := each vs (fun v d => d.setPend v tag p) d

section
variable (d : Dev) (vs : List Nat) (tag p : Nat)

theorem pendOf_setPend (v w : Nat) (h : tag ≠ 0) : (d.setPend v tag p).pendOf w = if w = v then (tag, p) else d.pendOf w := by
  have hput : (d.setPend v tag p).pendOf w =
      tget (0, 0) (tput (0, 0) d.alloc.pend v (if tag = 0 then (0, 0) else (tag, p))) w := rfl
  rw [hput, if_neg h, tget_tput]
  rfl

/-- A pending mark is kept when others, or the same again, follow it. -/
theorem pendOf_pendingFor_marked {w : Nat} (h : tag ≠ 0) (hw : w ∈ vs ∨ d.pendOf w = (tag, p)) :
    (pendingFor vs tag p d).pendOf w = (tag, p) := by
  induction vs generalizing d with
  | nil => exact hw.resolve_left List.not_mem_nil
  | cons v vs ih =>
    refine ih _ ?_
    by_cases hv : w = v
    · exact .inr (by rw [pendOf_setPend _ _ _ _ _ h, if_pos hv])
    · rw [pendOf_setPend _ _ _ _ _ h, if_neg hv]
      exact hw.imp_left fun hm => (List.mem_cons.mp hm).resolve_left hv

theorem note_pendingFor : (pendingFor vs tag p d).note = d.note := each_keeps d Dev.note vs _ fun _ _ _ => rfl

theorem queue_pendingFor : (pendingFor vs tag p d).alloc.queue = d.alloc.queue :=
  each_keeps d (fun d => d.alloc.queue) vs _ fun _ _ _ => rfl

theorem tag_pendingFor : (pendingFor vs tag p d).alloc.tag = d.alloc.tag := each_keeps d (fun d => d.alloc.tag) vs _ fun _ _ _ => rfl

/-- The marks show in ALLOC_NOTEv only, behind the other registers of the block. -/
theorem reg_pendingFor {a : Nat} (h : a < 0x40800) : (pendingFor vs tag p d).reg a = d.reg a :=
  each_keeps d (fun d => d.reg a) vs _ fun v _ _ => reg_fp_other _ (ALLOC_NOTE_PEND v) _
    (by show a ≠ 0x40800 + v * 0x8; omega)

end

/-! ### A note's entry -/

theorem reg_setEntry (d : Dev) (q : Nat) (x : PipeEnt) (a : Nat) : (d.setEntry q x).reg a = d.reg a := rfl
theorem alloc_setEntry (d : Dev) (q : Nat) (x : PipeEnt) : (d.setEntry q x).alloc = d.alloc := rfl
theorem reg_takeTag (d : Dev) (a : Nat) : d.takeTag.2.reg a = d.reg a := rfl

theorem entry_setEntry {d : Dev} {q : Nat} {e x : PipeEnt} (h : d.entry q = some e) (hx : x.ev = e.ev) :
    (d.setEntry q x).entry q = some x := by
  have hset : d.setEntry q x = d.mendEntry q fun y => { x with ev := y.ev } := by
    simp only [Dev.mendEntry, h, ← hx]
  rw [hset, entry_mendEntry q (g := fun y => { x with ev := y.ev }) fun _ => ⟨rfl, rfl⟩, if_pos rfl, h, Option.map_some, ← hx]

/-! ### The count of a raised source (R485) -/

/-- A source that is counted and not fatal adds one to its total, whether or not it is held off. -/
theorem total_raise (d : Dev) {k i : Nat} (hi : countIdx k = some i) (hf : fatalSource k = false) (hk : k < 64) :
    (d.raise k).fg (EVT_COUNT_TOTAL i) = min (d.fg (EVT_COUNT_TOTAL i) + 1) 0xFFFF := by
  have hraw : rEVT_COUNT i ≠ rEVT_RAW (k / 32) := by unfold rEVT_COUNT rEVT_RAW; omega
  rw [raise_plain d k hf, Dev.markRaise, hi]
  dsimp only
  split
  · exact (fg_count_other _ (EVT_COUNT_SUPP i) (EVT_COUNT_TOTAL i) 1 (highHalf_ok _) (high_apart_low _)).trans
      (fg_count_self _ (EVT_COUNT_TOTAL i) 1 (lowHalf_ok _))
  · exact (fg_of_reg (f := EVT_COUNT_TOTAL i) (reg_setReg_other _ _ hraw)).trans
      (fg_count_self _ (EVT_COUNT_TOTAL i) 1 (lowHalf_ok _))

end Sys2Proof.Allocation
end

section
/-! PROOFS. ALLOCATION_REQUEST and a write of ALLOC_STAT (R152 to R156, R161, R168): a request is given its leaves or refused. -/
namespace Sys2Proof.Allocation
open Sys2Proof.Machine Sys2Proof.Laws Sys2Proof.Modes Sys2Proof.Scope Sys2Proof.RunAhead

theorem exec_allocationRequest (s : State) : exec .allocationRequest s = .next { s with dev := allocationRequest s.dev } := rfl

theorem exec_qhwmClear (v : Word) {s : State} (h : s.dev.hears = true) :
    exec (.qhwmClear v) s = .next { s with dev := qhwmClear v s.dev } := by
  show done s (s.dev.heard (qhwmClear v)) = _
  rw [heard_of _ _ h, done_eq]

/-! ### Allocation on this device -/

/-- The note of `e` given the voices with the next tag. -/
def given (e : PipeEnt) (vs : List Nat) (d : Dev) : Dev := d.takeTag.2.commitNote e d.alloc.tag vs.length vs true false

section
variable {d : Dev} {e : PipeEnt} {u : Nat} (hv : d.fgAlloc (NOTE_PART_MODE_VOICING e.ev.part) = 0)
  (hr : d.fgAlloc (NOTE_PART_STEAL_RETRIG e.ev.part) = 0)
include hv hr

/-- A polyphonic part reuses no voice, and without RETRIG no key's voices are taken: the search decides. -/
theorem allocLocal_given {vs : List Nat} (h : d.findLeaves e.ev.part u false = some (vs, false)) :
    d.allocLocal e none u false = given e vs d := by
  simp [Dev.allocLocal, hv, hr, h, given, Dev.takeTag]

theorem allocLocal_refused (h : d.findLeaves e.ev.part u false = none) : d.allocLocal e none u false = d.refuseNote e u := by
  simp [Dev.allocLocal, hv, hr, h]

end

/-! ### A note given its voices (R155, R156) -/

/-- The entry of a note given its voices. -/
def startedEntry (e : PipeEnt) (tag : Nat) (vs : List Nat) : PipeEnt :=
  { e with queued := false, tag := tag, u := vs.length, voices := vs, starts := true }

section
variable (d : Dev) (e : PipeEnt) {vs : List Nat}

theorem given_eq : given e vs d = pendingFor vs d.alloc.tag e.ev.part
    ((d.takeTag.2.setLast e.ev.part d.alloc.tag vs.length vs false).setEntry e.ev.seq (startedEntry e d.alloc.tag vs)) := rfl

/-- Giving a note its voices works on registers, entries and the allocator only. -/
theorem given_fields : given e vs d =
    { d with live := (given e vs d).live, note := (given e vs d).note, alloc := (given e vs d).alloc } :=
  (Keep.Dev_commitNote (M := 0x8201) _ e _ _ vs true false
    (Keep.Dev_takeTag d (Keep.refl (R := Eq) d rfl) rfl).snd rfl).frame

theorem evt_given : (given e vs d).evt = d.evt := (congrArg Dev.evt (given_fields d e) :)

theorem entry_given {q : Nat} (h : d.entry q = some e) (hq : e.ev.seq = q) :
    (given e vs d).entry q = some (startedEntry e d.alloc.tag vs) := by
  rw [given_eq, entry_of_note (note_pendingFor ..), hq]
  exact entry_setEntry ((entry_of_note (note_setLast ..)).trans h) rfl

theorem pendOf_given (ht : d.alloc.tag ≠ 0) {w : Nat} (hw : w ∈ vs) : (given e vs d).pendOf w = (d.alloc.tag, e.ev.part) :=
  pendOf_pendingFor_marked _ vs _ _ ht (.inl hw)

theorem queue_given : (given e vs d).alloc.queue = d.alloc.queue := by
  rw [given_eq, queue_pendingFor, alloc_setEntry, alloc_setLast]
  rfl

theorem tag_given : (given e vs d).alloc.tag = nextTag d.alloc.tag := by
  rw [given_eq, tag_pendingFor, alloc_setEntry, alloc_setLast]
  rfl

variable (hvs : vs ≠ [])
include hvs

theorem stat_given : (given e vs d).reg rALLOC_STAT = d.reg rALLOC_STAT := by
  rw [given_eq, reg_pendingFor _ _ _ _ (by decide), reg_setEntry, reg_setLast_taken _ _ _ _ hvs (by decide) (by decide), reg_takeTag]

theorem refused_given : (given e vs d).on ALLOC_LAST_REFUSED = false := by
  rw [given_eq, on_of_reg (f := ALLOC_LAST_REFUSED) (reg_pendingFor _ _ _ _ (by decide)),
    on_of_reg (f := ALLOC_LAST_REFUSED) (reg_setEntry ..), refused_setLast_taken _ _ _ _ hvs]

end

/-! ### A note refused (R161) -/

section
variable (d : Dev) (e : PipeEnt) (u : Nat)

/-- The refusal before source 31: the entry marked, counted, and shown as the last decision. -/
def refusal (e : PipeEnt) (u : Nat) (d : Dev) : Dev :=
  ((d.setEntry e.ev.seq { e with queued := false, refused := true }).count ALLOC_CNT_REFUSED).setLast e.ev.part 0 u [] false

theorem refuseNote_eq : d.refuseNote e u = (refusal e u d).raise 31 := rfl

/-- Refusing a note works on registers, the event unit and entries only. -/
theorem refuseNote_fields : d.refuseNote e u =
    { d with live := (d.refuseNote e u).live, evt := (d.refuseNote e u).evt, note := (d.refuseNote e u).note } := by
  have hset : Keep Eq 0x301 d (d.setEntry e.ev.seq { e with queued := false, refused := true }) :=
    Keep.Dev_setEntry _ _ _ (Keep.refl d rfl) rfl
  have hlast : Keep Eq 0x301 d (refusal e u d) :=
    Keep.Dev_setLast _ _ 0 u [] false (Keep.Dev_count _ ALLOC_CNT_REFUSED 1 hset rfl) rfl
  exact (Keep.raisePlain hlast (k := 31) rfl rfl).frame

theorem alloc_refuseNote : (d.refuseNote e u).alloc = d.alloc := (congrArg Dev.alloc (refuseNote_fields d e u) :)

theorem reg_refuseNote {a : Nat} (hl : a ≠ rALLOC_LAST) (hc : a ≠ rALLOC_CNT) (he : isEvtReg a = false) :
    (d.refuseNote e u).reg a = d.reg a := by
  rw [refuseNote_eq, reg_raise_other _ a (by decide) (by decide) he, refusal, setLast_refused, reg_decided _ _ _ _ _ _ hl,
    reg_count_other _ ALLOC_CNT_REFUSED 1 hc, reg_setEntry]

theorem entry_refuseNote {q : Nat} (h : d.entry q = some e) (hq : e.ev.seq = q) :
    (d.refuseNote e u).entry q = some { e with queued := false, refused := true } := by
  rw [refuseNote_eq, entry_of_note (note_raise _ 31), refusal, setLast_refused, hq]
  exact entry_setEntry (e := e) h rfl

theorem count_refuseNote : (d.refuseNote e u).fg ALLOC_CNT_REFUSED = min (d.fg ALLOC_CNT_REFUSED + 1) 0xFF := by
  rw [refuseNote_eq, fg_raise _ ALLOC_CNT_REFUSED (by decide) (by decide) (evtReg_false (.inr (by decide))), refusal,
    setLast_refused, fg_of_reg (f := ALLOC_CNT_REFUSED) (reg_decided _ _ _ _ _ _ (by decide)),
    fg_count_self _ ALLOC_CNT_REFUSED 1 (by decide), fg_of_reg (f := ALLOC_CNT_REFUSED) (reg_setEntry ..)]
  rfl

theorem refused_refuseNote : (d.refuseNote e u).on ALLOC_LAST_REFUSED = true := by
  have hraise : ((refusal e u d).raise 31).reg rALLOC_LAST = (refusal e u d).reg rALLOC_LAST :=
    reg_raise_other _ _ (by decide) (by decide) (evtReg_false (.inr (by decide)))
  rw [refuseNote_eq, on_of_reg (f := ALLOC_LAST_REFUSED) hraise, refusal, setLast_refused, refused_decided]

theorem total_refuseNote : (d.refuseNote e u).fg (EVT_COUNT_TOTAL 17) = min (d.fg (EVT_COUNT_TOTAL 17) + 1) 0xFFFF := by
  have h : (refusal e u d).fg (EVT_COUNT_TOTAL 17) = d.fg (EVT_COUNT_TOTAL 17) := by
    rw [refusal, setLast_refused]
    exact fg_of_reg <| (reg_decided _ _ _ _ _ _ (by decide)).trans <| (reg_count_other _ ALLOC_CNT_REFUSED 1 (by decide)).trans
      (reg_setEntry ..)
  rw [refuseNote_eq, total_raise (i := 17) _ rfl (by decide) (by decide), h]

end

/-! ### The request at the front (R154) -/

/-- A request of a polyphonic part without RETRIG waits at the front of the queue of a running device without a chain. -/
structure AtFront (d : Dev) (q : Nat) (rest : List Nat) (e : PipeEnt) : Prop where
  running : d.running = true
  queue : d.alloc.queue = q :: rest
  entry : d.entry q = some e
  seq : e.ev.seq = q
  alone : (d.isHead && d.hasMembers) = false
  voicing : d.fgAlloc (NOTE_PART_MODE_VOICING e.ev.part) = 0
  retrig : d.fgAlloc (NOTE_PART_STEAL_RETRIG e.ev.part) = 0

section
variable {d : Dev} {q : Nat} {rest : List Nat} {e : PipeEnt} (h : AtFront d q rest e)
include h

theorem AtFront.served : allocationRequest d =
    (requeued rest d).allocLocal e none (max 1 (d.fgAlloc (NOTE_PART_MODE_UNISON e.ev.part))) false := by
  have hentry : (requeued rest d).entry q = some e := h.entry
  have hhead : (requeued rest d).isHead = d.isHead :=
    congrArg (· == 1) (fg_of_reg (f := CBL_STAT_STATE) (reg_requeued d rest (by decide)))
  have halone : ((requeued rest d).isHead && (requeued rest d).hasMembers) = false := by
    rw [hhead]
    exact h.alone
  rw [← unison_requeued d rest, allocationRequest, if_pos h.running]
  unfold requeued at hentry halone ⊢
  simp only [Dev.serve, h.queue, hentry, halone, Bool.false_eq_true, if_false]

theorem AtFront.given {vs : List Nat} (hf : d.findLeaves e.ev.part (max 1 (d.fgAlloc (NOTE_PART_MODE_UNISON e.ev.part))) false =
    some (vs, false)) : allocationRequest d = given e vs (requeued rest d) := by
  rw [h.served]
  exact allocLocal_given ((voicing_requeued ..).trans h.voicing) ((retrig_requeued ..).trans h.retrig)
    ((findLeaves_requeued ..).trans hf)

theorem AtFront.refused (hf : d.findLeaves e.ev.part (max 1 (d.fgAlloc (NOTE_PART_MODE_UNISON e.ev.part))) false = none) :
    allocationRequest d = (requeued rest d).refuseNote e (max 1 (d.fgAlloc (NOTE_PART_MODE_UNISON e.ev.part))) := by
  rw [h.served]
  exact allocLocal_refused ((voicing_requeued ..).trans h.voicing) ((retrig_requeued ..).trans h.retrig)
    ((findLeaves_requeued ..).trans hf)

end

theorem allocationRequest_empty {d : Dev} (h : d.alloc.queue = []) : allocationRequest d = d := by
  rw [allocationRequest, Dev.serve, h]
  exact ite_self d

/-- Settles O22: the search reads nothing that taking the request off the queue writes, so what it finds is what the note gets. -/
theorem allocatorServesTheFront : Obligations.AllocatorServesTheFront := by
  intro s q rest e vs v d p u front
  have hfront (h : front) : AtFront d q rest e := by
    obtain ⟨hrun, hqueue, hentry, hseq, halone, hvoicing, hretrig⟩ := h
    exact ⟨hrun, hqueue, hentry, hseq, halone, hvoicing, hretrig⟩
  let g := requeued rest d
  have hg (a : Nat) (ha : a ≠ rALLOC_STAT) : g.reg a = d.reg a := reg_requeued d rest ha
  refine ⟨fun h hf => ?_, fun h hf => ?_, fun hq => ?_, fun hh => ?_⟩
  · have hvs : vs ≠ [] := List.ne_nil_of_length_pos (by rw [length_of_findLeaves hf]; exact Nat.le_max_left 1 _)
    have hexec : exec .allocationRequest s = .next { s with dev := given e vs g } := by
      rw [exec_allocationRequest, (hfront h).given hf]
    have hentry := entry_given (vs := vs) g e (hfront h).entry (hfront h).seq
    have hqocc : (given e vs g).fg ALLOC_STAT_QOCC = rest.length % 32 :=
      (fg_of_reg (f := ALLOC_STAT_QOCC) (stat_given g e hvs)).trans (qocc_requeued d rest)
    exact ⟨_, _, hexec, hentry, rfl, rfl, rfl, rfl, rfl, queue_given g e, tag_given g e, hqocc,
      fun w hw ht => pendOf_given g e ht hw, refused_given g e hvs, evt_given g e, congrArg (fun y => { s with dev := y }) (given_fields g e)⟩
  · have hexec : exec .allocationRequest s = .next { s with dev := g.refuseNote e u } := by
      rw [exec_allocationRequest, (hfront h).refused hf]
    have hentry := entry_refuseNote g e u (hfront h).entry (hfront h).seq
    refine ⟨_, _, hexec, hentry, rfl, rfl, congrArg Alloc.queue (alloc_refuseNote g e u), ?_, refused_refuseNote g e u, ?_,
      fun a ha he => ?_, congrArg (fun y => { s with dev := y }) (refuseNote_fields g e u)⟩
    · rw [count_refuseNote, fg_of_reg (f := ALLOC_CNT_REFUSED) (hg _ (by decide))]
    · rw [total_refuseNote, fg_of_reg (f := EVT_COUNT_TOTAL 17) (hg _ (by decide))]
    · simp only [List.mem_cons, List.not_mem_nil, or_false, not_or] at ha
      obtain ⟨hstat, hcnt, hlast⟩ := ha
      exact (reg_refuseNote g e u hlast hcnt he).trans (hg a hstat)
  · rw [exec_allocationRequest, allocationRequest_empty hq]
  · refine ⟨_, exec_qhwmClear v hh, fg_fp_self d _ _ qhwm_ok, fg_fp_other d _ _ _ qhwm_ok qhwm_apart_qocc, fun a ha _ => ?_, rfl⟩
    exact reg_fp_other d ALLOC_STAT_QHWM _ fun e => ha (by simp [e, ALLOC_STAT_QHWM])

end Sys2Proof.Allocation
end

section
/-! PROOFS. A bundle of one operation (R241): it joins its bundle, is passed over, or traps (R236 to R238, R265, R266); what a
trap records and what it leaves. -/
namespace Sys2Proof.Spindles
open Sys2Proof.Machine Sys2Proof.Laws Sys2Proof.Modes Sys2Proof.RunAhead

/-! ### Fields of a spindle's registers (R239) -/

section
variable (n : Nat)

theorem trapCause_ok : Fld.ok (SPN_TRAP_CAUSE n) := by show 28 ≤ 31 ∧ 31 < 32; decide
theorem trapCtx_ok : Fld.ok (SPN_TRAP_CTX n) := by show 16 ≤ 20 ∧ 20 < 32; decide
theorem trapPc_ok : Fld.ok (SPN_TRAP_PC n) := by show 0 ≤ 10 ∧ 10 < 32; decide
theorem statusTrapped_ok : Fld.ok (SPN_STATUS_TRAPPED n) := by show 13 ≤ 13 ∧ 13 < 32; decide
theorem statusRun_ok : Fld.ok (SPN_STATUS_RUN n) := by show 12 ≤ 12 ∧ 12 < 32; decide
theorem statusCur_ok : Fld.ok (SPN_STATUS_CUR n) := by show 0 ≤ 4 ∧ 4 < 32; decide

end

/-! ### An operation and its bundle (R241) -/

section
variable {d : Dev} {n : Nat}

/-- Without a running context on the spindle, or on a trapped one, an operation has no effect. -/
theorem slotOp_idle (o : Op) (last : Bool) (h : (d.spn n).cur = none ∨ d.on (SPN_STATUS_TRAPPED n) = true) :
    slotOp n o last d = d := by
  unfold slotOp
  rcases h with hcur | htrap
  · simp only [hcur, ite_self]
  · rw [htrap, Bool.or_true, if_pos rfl]

variable {j : Nat} (hr : d.running = true) (hn : n < 16) (ht : d.on (SPN_STATUS_TRAPPED n) = false) (hc : (d.spn n).cur = some j)
include hr hn ht hc

/-- On a spindle with a running context an operation takes its slot's place, and the last one issues the bundle. -/
theorem slotOp_running (o : Op) (last : Bool) : slotOp n o last d =
    let ops := ((d.spn n).bundle.filter fun p => p.slot != o.slot) ++ [o]
    if last then (d.setSpn n { d.spn n with bundle := [] }).issue n j ops else d.setSpn n { d.spn n with bundle := ops } := by
  have hopen : (!d.running || decide (16 ≤ n) || d.on (SPN_STATUS_TRAPPED n)) = false := by simp [hr, ht, hn]
  unfold slotOp
  rw [hopen, if_neg Bool.false_ne_true]
  simp only [hc]

theorem slotOp_joins (o : Op) : slotOp n o false d = d.setSpn n { d.spn n with
    bundle := ((d.spn n).bundle.filter fun p => decide (p.slot ≠ o.slot)) ++ [o] } := by
  have hslot : (fun p : Op => p.slot != o.slot) = fun p => decide (p.slot ≠ o.slot) := funext fun p => (decide_not ..).symm
  rw [slotOp_running hr hn ht hc, hslot]
  rfl

end

/-! ### The cause of a trap (R236 to R238, R265, R266) -/

section
variable {d : Dev} {n : Nat} {c : Ctx} {ops : List Op}

theorem trapCause_illegal (h : illegalBundle c ops = true) : d.trapCause n c ops = 1 := by
  rw [Dev.trapCause, if_pos h]

theorem trapCause_window (hl : illegalBundle c ops = false) (h : d.windowBad c ops = true) : d.trapCause n c ops = 2 := by
  rw [Dev.trapCause, if_neg (by simp [hl]), if_pos h]

section
variable (hl : illegalBundle c ops = false) (hw : d.windowBad c ops = false)
include hl hw

theorem trapCause_overrun (h : c.cyc = d.fg (SPN_VBUDGET_VOICE n) ∧ d.on (SPN_CTRL_OVTRAP n) = true) :
    d.trapCause n c ops = 3 := by
  rw [Dev.trapCause, if_neg (by simp [hl]), if_neg (by simp [hw]), if_pos h]

theorem trapCause_limit (hp : ¬(c.cyc = d.fg (SPN_VBUDGET_VOICE n) ∧ d.on (SPN_CTRL_OVTRAP n) = true))
    (h : c.cyc + 1 = d.fg (SPN_BUDGET_CYCLES n)) : d.trapCause n c ops = 4 := by
  rw [Dev.trapCause, if_neg (by simp [hl]), if_neg (by simp [hw]), if_neg hp, if_pos h]

end

theorem illegal_of_encoding (h : bundleLegal ops = false) : illegalBundle c ops = true := by simp [illegalBundle, h]
theorem illegal_of_control (h : controlBad c ops = true) : illegalBundle c ops = true := by simp [illegalBundle, h]
theorem illegal_of_fetch (h : fetchBad c ops = true) : illegalBundle c ops = true := by simp [illegalBundle, h]

/-- No control operation in the delay of a branch (R265). -/
theorem controlBad_delay {o : Op} (ho : o.control = true) (h : c.delay.isSome = true) : controlBad c [o] = true := by
  simp [controlBad, ho, h]

/-- No loop inside a loop, and no end of sample (R265). -/
theorem controlBad_loop {op bad : Nat} {f : AluF} (ho : op = 0x26 ∨ op = 0x28) (h : bitOf c.regs.sr 7 = true) :
    controlBad c [.alu op f bad] = true := by
  rcases ho with rfl | rfl <;> simp [controlBad, Op.control, h]

/-- The call stack holds four (R265). -/
theorem controlBad_call {bad : Nat} {f : AluF} (h : 4 ≤ c.regs.stack.length) : controlBad c [.alu 0x21 f bad] = true := by
  simp [controlBad, Op.control, h]

theorem controlBad_ret {bad : Nat} {f : AluF} (h : c.regs.stack = []) : controlBad c [.alu 0x22 f bad] = true := by
  simp [controlBad, Op.control, h]

/-- No bundle follows bundle 2,047 in sequence (R259, R265). -/
theorem fetchBad_last {op bad : Nat} {f : AluF} (ho : op < 0x20) (hd : c.delay = none) (hl : bitOf c.regs.sr 7 = false)
    (hp : c.regs.pc = 2047) : fetchBad c [.alu op f bad] = true := by
  have hctl : (Op.alu op f bad).control = false := decide_eq_false (by omega)
  have hskip : skipped c [.alu op f bad] = 0 := by simp [skipped, hctl]
  have hnext : c.regs.seqNext = 2048 := by simp [Regs.seqNext, hl, hp]
  have hends : op ≠ 0x28 := by omega
  simp [fetchBad, hd, hskip, hnext, hends]

theorem bundleLegal_size {op : Nat} {g : MemF} (h : g.size = 3) : bundleLegal [.mem op g] = false := by
  simp [bundleLegal, Op.legal, memLegal, h]

/-- A load reads at a multiple of its size (R266). -/
theorem windowBad_load {g : MemF} (h : memAddr c.regs g % (4 * 2 ^ g.size.toNat) ≠ 0) : d.windowBad c [.mem 1 g] = true := by
  simp [Dev.windowBad, memViolates, memBytes, h]

end

/-! ### Raising a fatal source (R486) -/

section
variable (d : Dev)

theorem reg_freeze (k : Nat) {a : Nat} (h : a ∉ [rEVT_FATAL, rEVT_FTIME, rEVT_DUMP, rMEM_BANK 15]) : (d.freeze k).reg a = d.reg a := by
  simp only [List.mem_cons, List.not_mem_nil, or_false, not_or] at h
  obtain ⟨hfatal, htime, hdump, hbank⟩ := h
  unfold Dev.freeze
  dsimp only
  rw [reg_fp_other _ (MEM_BANK_OWNER 15) _ hbank, reg_fp_other _ (MEM_BANK_CUR 15) _ hbank, reg_fp_other _ EVT_DUMP_RES _ hdump,
    reg_setReg_other _ _ htime, reg_fp_other _ EVT_FATAL_MODE _ hfatal, reg_fp_other _ EVT_FATAL_SRC _ hfatal,
    reg_fp_other _ EVT_FATAL_VALID _ hfatal]
  rfl

/-- The fatal source of a trap is in EVT_RAW once it is raised, whether or not it freezes the device (R482, R486). -/
theorem raw_raise_trap : (d.raise 56).raw 56 = true := by
  have hmark (e : Dev) : (e.markRaise 56).raw 56 = true := by
    show ((e.setBit (rEVT_RAW 1) 24).reg (rEVT_RAW 1)).getLsbD 24 = true
    rw [Dev.setBit, reg_setReg_self]
    exact bitOf_set _ (by decide)
  have hfreeze (e : Dev) : (e.freeze 56).raw 56 = e.raw 56 := by rw [Dev.raw, reg_freeze e 56 (by decide), Dev.raw]
  unfold Dev.raise
  dsimp only
  split
  · split
    · exact hmark _
    · exact (hfreeze _).trans (hmark _)
  · exact hmark _

end

/-! ### What a trap records (R238) -/

/-- Cause, context and PC of a trap. -/
def noteTrap (n j cause : Nat) (pc : BitVec 11) (d : Dev) : Dev :=
  ((d.fp (SPN_TRAP_CAUSE n) cause).fp (SPN_TRAP_CTX n) j).fp (SPN_TRAP_PC n) pc.toNat

/-- The words of the bundle. -/
def noteBundle (n : Nat) (ops : List Op) (d : Dev) : Dev :=
  each (List.range 4) (fun k d => d.setReg (rSPN_TRAPB n k) (bundleWord ops k)) d

/-- The spindle is trapped and stands. -/
def stopSpindle (n : Nat) (d : Dev) : Dev := (d.fp (SPN_STATUS_TRAPPED n) 1).fp (SPN_STATUS_RUN n) 0

section
variable (d : Dev) (n j cause : Nat) (pc : BitVec 11) (ops : List Op)

theorem trap_eq : d.trap n j cause pc ops = (stopSpindle n (noteBundle n ops (noteTrap n j cause pc d))).raise 56 := rfl

theorem noteBundle_eq : noteBundle n ops d = (((d.setReg (rSPN_TRAPB n 0) (bundleWord ops 0)).setReg (rSPN_TRAPB n 1)
    (bundleWord ops 1)).setReg (rSPN_TRAPB n 2) (bundleWord ops 2)).setReg (rSPN_TRAPB n 3) (bundleWord ops 3) := rfl

theorem bundleWord_one (o : Op) (k : Nat) : bundleWord [o] k = if o.slot = k then o.word else 0 := by
  unfold bundleWord
  by_cases h : o.slot = k <;> simp [h]

theorem reg_noteBundle_other {a : Nat} (h : a ∉ (List.range 4).map (rSPN_TRAPB n)) : (noteBundle n ops d).reg a = d.reg a :=
  each_keeps (g := fun e => e.reg a) d (List.range 4) _ fun _ hk _ =>
    reg_setReg_other _ _ fun e => h (e ▸ List.mem_map_of_mem hk)

theorem reg_noteBundle {k : Nat} (hk : k < 4) : (noteBundle n ops d).reg (rSPN_TRAPB n k) = bundleWord ops k := by
  rw [noteBundle_eq]
  interval_cases k <;> simp [reg_setReg, rSPN_TRAPB]

theorem cause_noteTrap (h : cause < 16) : (noteTrap n j cause pc d).fg (SPN_TRAP_CAUSE n) = cause := by
  rw [noteTrap, fg_fp_other _ _ _ _ (trapPc_ok n) (.inr (.inl (by show 10 < 28; decide))),
    fg_fp_other _ _ _ _ (trapCtx_ok n) (.inr (.inl (by show 20 < 28; decide))), fg_fp_self _ _ _ (trapCause_ok n)]
  exact Nat.mod_eq_of_lt h

theorem ctx_noteTrap (h : j < 32) : (noteTrap n j cause pc d).fg (SPN_TRAP_CTX n) = j := by
  rw [noteTrap, fg_fp_other _ _ _ _ (trapPc_ok n) (.inr (.inl (by show 10 < 16; decide))), fg_fp_self _ _ _ (trapCtx_ok n)]
  exact Nat.mod_eq_of_lt h

theorem pc_noteTrap : (noteTrap n j cause pc d).fg (SPN_TRAP_PC n) = pc.toNat := by
  rw [noteTrap, fg_fp_self _ _ _ (trapPc_ok n)]
  exact Nat.mod_eq_of_lt pc.isLt

theorem trapped_stopSpindle : (stopSpindle n d).on (SPN_STATUS_TRAPPED n) = true := by
  rw [stopSpindle, on_fp_other _ _ _ _ (statusRun_ok n) (.inr (.inl (by show 12 < 13; decide))), on_fp_self _ _ _ (statusTrapped_ok n)]
  rfl

theorem run_stopSpindle : (stopSpindle n d).on (SPN_STATUS_RUN n) = false := by
  rw [stopSpindle, on_fp_self _ _ _ (statusRun_ok n)]
  rfl

theorem reg_stopSpindle {a : Nat} (h : a ≠ rSPN_STATUS n) : (stopSpindle n d).reg a = d.reg a :=
  (reg_fp_other _ (SPN_STATUS_RUN n) _ h).trans (reg_fp_other d (SPN_STATUS_TRAPPED n) _ h)

theorem reg_noteTrap {a : Nat} (h : a ≠ rSPN_TRAP n) : (noteTrap n j cause pc d).reg a = d.reg a := by
  rw [noteTrap, reg_fp_other _ (SPN_TRAP_PC n) _ h, reg_fp_other _ (SPN_TRAP_CTX n) _ h, reg_fp_other _ (SPN_TRAP_CAUSE n) _ h]

end

/-! ### What is read after a trap -/

section
variable (d : Dev) (n j cause : Nat) (pc : BitVec 11) (ops : List Op)

section
variable {a : Nat} (he : isEvtReg a = false) (hb : a ≠ rMEM_BANK 15)
include he hb

theorem reg_trap : (d.trap n j cause pc ops).reg a = (stopSpindle n (noteBundle n ops (noteTrap n j cause pc d))).reg a :=
  reg_raise_fatal _ a (by decide) he hb

theorem reg_trap_other (ht : a ≠ rSPN_TRAP n) (hs : a ≠ rSPN_STATUS n) (hw : a ∉ (List.range 4).map (rSPN_TRAPB n)) :
    (d.trap n j cause pc ops).reg a = d.reg a := by
  rw [reg_trap d n j cause pc ops he hb, reg_stopSpindle _ _ hs, reg_noteBundle_other _ _ _ hw, reg_noteTrap _ _ _ _ _ ht]

end

/-- The registers of the spindles are none of the event unit, nor that of bank 15. -/
theorem reg_trap_spindle {a : Nat} (hlo : 0x90000 ≤ a) (hhi : a < 0xA0000) :
    (d.trap n j cause pc ops).reg a = (stopSpindle n (noteBundle n ops (noteTrap n j cause pc d))).reg a :=
  reg_trap d n j cause pc ops (evtReg_false (.inr (by omega))) (by simp only [rMEM_BANK]; omega)

variable {n} (hn : n < 16)
include hn

theorem reg_trap_status : (d.trap n j cause pc ops).reg (rSPN_STATUS n) =
    (stopSpindle n (noteBundle n ops (noteTrap n j cause pc d))).reg (rSPN_STATUS n) :=
  reg_trap_spindle d n j cause pc ops (by unfold rSPN_STATUS; omega) (by unfold rSPN_STATUS; omega)

theorem reg_trap_words {k : Nat} (hk : k < 4) : (d.trap n j cause pc ops).reg (rSPN_TRAPB n k) = bundleWord ops k := by
  rw [reg_trap_spindle d n j cause pc ops (by unfold rSPN_TRAPB; omega) (by unfold rSPN_TRAPB; omega),
    reg_stopSpindle _ _ (by unfold rSPN_TRAPB rSPN_STATUS; omega), reg_noteBundle _ _ _ hk]

theorem reg_trap_trap : (d.trap n j cause pc ops).reg (rSPN_TRAP n) = (noteTrap n j cause pc d).reg (rSPN_TRAP n) := by
  have hwords : rSPN_TRAP n ∉ (List.range 4).map (rSPN_TRAPB n) := by
    simp only [List.mem_map, List.mem_range, not_exists, not_and, rSPN_TRAPB, rSPN_TRAP]
    omega
  rw [reg_trap_spindle d n j cause pc ops (by unfold rSPN_TRAP; omega) (by unfold rSPN_TRAP; omega),
    reg_stopSpindle _ _ (by unfold rSPN_TRAP rSPN_STATUS; omega), reg_noteBundle_other _ _ _ hwords]

end

/-- A trap stores no byte: its registers lie above the VOICE windows. -/
theorem rb_trap (d : Dev) (n j cause : Nat) (pc : BitVec 11) (ops : List Op) (a : Nat) : (d.trap n j cause pc ops).rb a = d.rb a := by
  have htrap : 0x90000 ≤ rSPN_TRAP n := by unfold rSPN_TRAP; omega
  have hstatus : 0x90000 ≤ rSPN_STATUS n := by unfold rSPN_STATUS; omega
  have hwords (k : Nat) : 0x90000 ≤ rSPN_TRAPB n k := by unfold rSPN_TRAPB; omega
  rw [trap_eq, rb_raise _ _ _ (by decide), stopSpindle, rb_fp _ (SPN_STATUS_RUN n) _ _ (.inr hstatus),
    rb_fp _ (SPN_STATUS_TRAPPED n) _ _ (.inr hstatus), noteBundle,
    each_keeps (g := fun e => e.rb a) _ _ _ fun k _ _ => rb_setReg _ _ _ (.inr (hwords k)), noteTrap,
    rb_fp _ (SPN_TRAP_PC n) _ _ (.inr htrap), rb_fp _ (SPN_TRAP_CTX n) _ _ (.inr htrap), rb_fp _ (SPN_TRAP_CAUSE n) _ _ (.inr htrap)]

/-- From `d` to `e` a bundle of context j of spindle n with the one operation o has trapped: what is recorded (R238), and that
nothing but the registers of the trap, the overrun count, bank 15 and the event unit's has changed. -/
structure Trapped (n j cause : Nat) (o : Op) (d e : Dev) : Prop where
  cause : e.fg (SPN_TRAP_CAUSE n) = cause
  ctx : e.fg (SPN_TRAP_CTX n) = j
  pc : e.fg (SPN_TRAP_PC n) = (d.ctx (18 * n + j)).regs.pc.toNat
  words : ∀ k, k < 4 → e.reg (rSPN_TRAPB n k) = if o.slot = k then o.word else 0
  trapped : e.on (SPN_STATUS_TRAPPED n) = true
  stands : e.on (SPN_STATUS_RUN n) = false
  raised : e.raw 56 = true
  ctxs : ∀ k, e.ctx k = d.ctx k
  bytes : ∀ a, e.rb a = d.rb a
  regs : ∀ a, a ∉ [rSPN_TRAP n, rSPN_STATUS n, rSPN_OVRUN n, rMEM_BANK 15] ++ (List.range 4).map (rSPN_TRAPB n) →
    isEvtReg a = false → e.reg a = d.reg a

section
variable {d D : Dev} {n : Nat} (j cause : Nat) (o : Op)

/-- A trap on a device that is `d` but for the overrun count: only what it records is new. -/
theorem trapped_trap (h : AtIssue d D n) (hn : n < 16) (hj : j < 18) (hcause : cause < 16) :
    Trapped n j cause o d (D.trap n j cause (d.ctx (18 * n + j)).regs.pc [o]) := by
  have hD : D.ctxs = d.ctxs := by rw [h.parts]
  have hkeep : Keep Eq 0x10000541 D (D.trap n j cause (d.ctx (18 * n + j)).regs.pc [o]) :=
    Keep.Dev_trap D n j cause _ [o] (Keep.refl D rfl) rfl
  constructor
  case cause => rw [fg_of_reg (reg_trap_trap D j cause _ [o] hn), cause_noteTrap _ _ _ _ _ hcause]
  case ctx => rw [fg_of_reg (reg_trap_trap D j cause _ [o] hn), ctx_noteTrap _ _ _ _ _ (by omega)]
  case pc => rw [fg_of_reg (reg_trap_trap D j cause _ [o] hn), pc_noteTrap]
  case words => exact fun k hk => (reg_trap_words D j cause _ [o] hn hk).trans (bundleWord_one o k)
  case trapped => rw [on_of_reg (reg_trap_status D j cause _ [o] hn), trapped_stopSpindle]
  case stands => rw [on_of_reg (reg_trap_status D j cause _ [o] hn), run_stopSpindle]
  case raised => exact raw_raise_trap _
  case ctxs => exact fun k => congrArg (tget Ctx.idle · k) ((part_of_keep hkeep Dev.ctxs 13 rfl rfl).trans hD)
  case bytes => exact fun a => (rb_trap D n j cause _ [o] a).trans (h.bytes a)
  case regs =>
    intro a ha he
    simp only [List.cons_append, List.nil_append, List.mem_cons, not_or] at ha
    obtain ⟨htrap, hstatus, hovrun, hbank, hwords⟩ := ha
    rw [reg_trap_other D n j cause _ [o] he hbank htrap hstatus hwords, h.regs a hovrun he]

end

/-! ### A bundle that traps -/

/-- A context runs on a spindle of the device, and its next bundle begins: nothing has joined it, and nothing repeats it. -/
structure AtBundle (d : Dev) (n j : Nat) : Prop where
  running : d.running = true
  spindle : n < 16
  free : d.on (SPN_STATUS_TRAPPED n) = false
  cur : (d.spn n).cur = some j
  bundle : (d.spn n).bundle = []
  rep : (d.ctx (18 * n + j)).rep = none

section
variable (d : Dev) (n : Nat)

/-- Taking the bundle off the spindle. -/
theorem atIssue_setSpn (x : Spn) : AtIssue d (d.setSpn n x) n :=
  ⟨rfl, fun _ _ _ => rfl, fun _ => rfl, fun m hm => (spn_setSpn d n m x).trans (if_neg hm)⟩

variable {d n} {D : Dev}

/-- The overrun count (R236). -/
theorem atIssue_overrun (h : AtIssue d D n) (hn : n < 16) (cyc : Nat) : AtIssue d (D.overrun n cyc) n := by
  obtain ⟨l, e, ho⟩ := overrun_fields D n cyc
  refine ⟨?_, fun a ha he => ?_, fun a => ?_, fun m hm => ?_⟩
  · rw [ho, h.parts]
  · exact (reg_overrun D n cyc a ha he).trans (h.regs a ha he)
  · exact (rb_overrun D n cyc a hn).trans (h.bytes a)
  · rw [ho]
    exact h.others m hm

variable {j : Nat} (h : AtBundle d n j)
include h

/-- A bundle of one operation with a cause to trap does nothing but trap, its overrun counted where it is no illegal one. -/
theorem AtBundle.trap_eq {o : Op} {cause : Nat} (hcause : d.trapCause n (d.ctx (18 * n + j)) [o] = cause) (hne : cause ≠ 0) :
    ∃ D, AtIssue d D n ∧ slotOp n o true d = D.trap n j cause (d.ctx (18 * n + j)).regs.pc [o] := by
  have hctx (x : Spn) : (d.setSpn n x).ctx (18 * n + j) = d.ctx (18 * n + j) := rfl
  rw [slotOp_running h.running h.spindle h.free h.cur, h.bundle]
  simp only [List.filter_nil, List.nil_append, if_true, Dev.issue, hctx, h.rep, Dev.issueOnce, trapCause_setSpn, hcause, hne, ne_eq,
    not_false_eq_true]
  have hset := atIssue_setSpn d n { d.spn n with bundle := [] }
  split
  · exact ⟨_, hset, rfl⟩
  · exact ⟨_, atIssue_overrun hset h.spindle _, rfl⟩

theorem AtBundle.traps (hj : j < 18) {o : Op} {cause : Nat} (hcause : d.trapCause n (d.ctx (18 * n + j)) [o] = cause)
    (hne : cause ≠ 0) (hlt : cause < 16) : Trapped n j cause o d (slotOp n o true d) := by
  obtain ⟨D, hD, he⟩ := h.trap_eq hcause hne
  rw [he]
  exact trapped_trap j cause o hD h.spindle hj hlt

end

/-- Settles O32: each condition of R236 to R238, R265 and R266 gives its cause, and a bundle with a cause does nothing but record
it; without the last operation of its bundle an operation only joins it. -/
theorem bundlesJoinAndTrap : Obligations.BundlesJoinAndTrap := by
  constructor
  · intro s n j f g c r legal past traps hn hj hr ht hcur hb hrep
    have at_ : AtBundle s.dev n j := ⟨hr, hn, ht, hcur, hb, hrep⟩
    have trap (o : Instr) (op : Op) (cause : Nat) (ho : exec o s = done s (slotOp n op true s.dev))
        (hcause : s.dev.trapCause n c [op] = cause) (hne : cause ≠ 0) (hlt : cause < 16) : traps o op cause := by
      have h := at_.traps hj hcause hne hlt
      exact ⟨_, ho, h.cause, h.ctx, h.pc, h.words, h.trapped, h.stands, h.raised, h.ctxs, h.bytes, rfl, h.regs⟩
    have illegal (o : Instr) (op : Op) (ho : exec o s = done s (slotOp n op true s.dev)) (hbad : illegalBundle c [op] = true) :
        traps o op 1 := trap o op 1 ho (trapCause_illegal hbad) (by decide) (by decide)
    refine ⟨fun hl => ⟨?_, ?_⟩, fun hs => ?_, fun hs => ?_, fun hd => ?_, fun hd hl hp => ?_, fun hg => ?_, fun hl ha => ?_,
      fun ⟨hl, hw⟩ hp => ?_, fun ⟨hl, hw⟩ hp hcyc => ?_⟩
    · exact illegal _ _ rfl (illegal_of_control (controlBad_loop (.inl rfl) hl))
    · exact illegal _ _ rfl (illegal_of_control (controlBad_loop (.inr rfl) hl))
    · exact illegal _ _ rfl (illegal_of_control (controlBad_call hs))
    · exact illegal _ _ rfl (illegal_of_control (controlBad_ret hs))
    · exact illegal _ _ rfl (illegal_of_control (controlBad_delay rfl hd))
    · exact illegal _ _ rfl (illegal_of_fetch (fetchBad_last (by decide) hd hl hp))
    · exact illegal _ _ rfl (illegal_of_encoding (bundleLegal_size hg))
    · exact trap _ _ 2 rfl (trapCause_window hl (windowBad_load ha)) (by decide) (by decide)
    · exact trap _ _ 3 rfl (trapCause_overrun hl hw hp) (by decide) (by decide)
    · exact trap _ _ 4 rfl (trapCause_limit hl hw hp hcyc) (by decide) (by decide)
  · intro s n j f g h last joins
    constructor
    · intro hr hn ht hcur
      have join (o : Instr) (op : Op) (ho : exec o s = done s (slotOp n op false s.dev)) : joins o op := by
        show exec o s = _
        rw [ho, slotOp_joins hr hn ht hcur, done_eq]
      exact ⟨join _ _ rfl, join _ _ rfl, join _ _ rfl, join _ _ rfl, join _ _ rfl, join _ _ rfl, join _ _ rfl⟩
    · intro hidle
      have idle (o : Instr) (op : Op) (ho : exec o s = done s (slotOp n op last s.dev)) : exec o s = .next s := by
        rw [ho, slotOp_idle op last hidle, done_eq]
      exact ⟨idle _ _ rfl, idle _ _ rfl, idle _ _ rfl, idle _ _ rfl⟩

end Sys2Proof.Spindles
end

section
/-! PROOFS. CONTEXT_SWITCH (R127, R228 to R230, R233): what the start of a sample makes of its context and spindle, and which
turn a context has. -/
namespace Sys2Proof.Spindles
open Sys2Proof.Machine Sys2Proof.Laws Sys2Proof.Modes Sys2Proof.RunAhead

/-! ### Changes that keep to a few parts of the device -/

/-- A change of register file and spindles alone. -/
theorem live_spns_of_keep {d e : Dev} (h : Keep Eq 0x4001 d e) : e = { d with live := e.live, spns := e.spns } := h.frame

/-- A change of register file, contexts and spindles alone. -/
theorem live_ctxs_spns_of_keep {d e : Dev} (h : Keep Eq 0x6001 d e) : e = { d with live := e.live, ctxs := e.ctxs, spns := e.spns } := h.frame

/-! ### What a commit writes of a voice (R79, R176) -/

section
variable (d : Dev) (i : Nat) (a s : Word)

theorem keep_commitVoice : Keep Eq 1 d (d.commitVoice i a s) := Keep.Dev_commitVoice d i a s (Keep.refl d rfl) rfl

/-- Only registers of the VOICE windows. -/
theorem reg_commitVoice {b : Nat} (h : 0x90000 ≤ b) : (d.commitVoice i a s).reg b = d.reg b :=
  each_keeps (g := fun e => e.reg b) d _ _ fun w hw _ => reg_setReg_other _ _ fun e => by
    have hwindow := (List.mem_filter.mp hw).2
    simp only [Bool.and_eq_true, decide_eq_true_eq] at hwindow
    omega

end

/-! ### Context and spindle as the program begins (R229, R244) -/

section
variable (d : Dev) (i : Nat)

/-- The program's ENTRY for the next sample of context i. -/
def entryAt (d : Dev) (i : Nat) : BitVec 11 :=
  BitVec.ofNat 11 (fieldOf (d.regAtSample (rSPN_PROG (i / 18)) (d.ctx i).next) 26 16)

theorem regAtSample_congr {d e : Dev} {a : Nat} (hs : e.stg = d.stg) (ha : e.reg a = d.reg a) (x : Word) :
    e.regAtSample a x = d.regAtSample a x := by
  unfold Dev.regAtSample
  rw [hs, ha]

theorem ctx_beginCtx (k : Nat) : (d.beginCtx i).ctx k = if k = i then { d.ctx i with
    regs := { (d.ctx i).regs with pc := entryAt d i, stack := [] }, cyc := 0, flight := [], acc := [], p0 := (d.ctx i).regs.rp,
    appended := [], rep := none, delay := none, lastStock := none } else d.ctx k := ctx_setCtx d i k _

theorem spn_beginCtx (m : Nat) : (d.beginCtx i).spn m =
    if m = i / 18 then { d.spn (i / 18) with cur := some (i % 18), bundle := [] } else d.spn m :=
  spn_setSpn d (i / 18) m { d.spn (i / 18) with cur := some (i % 18), bundle := [] }

theorem cur_beginCtx : (d.beginCtx i).fg (SPN_STATUS_CUR (i / 18)) = i % 18 := by
  have hlt : i % 18 < 2 ^ 5 := by omega
  refine (fg_fp_other _ (SPN_STATUS_RUN (i / 18)) _ _ (statusRun_ok _) (.inr (.inr (by show 4 < 12; decide)))).trans ?_
  exact (fg_fp_self _ _ _ (statusCur_ok _)).trans (Nat.mod_eq_of_lt hlt)

end

/-! ### The start of a sample without events (R127, R229, R230) -/

/-- Context i with the checkpoint of sample s, where s is a multiple of 16 (R127). -/
def checkpointed (i : Nat) (s : Word) (d : Dev) : Dev := if s.toNat % 16 = 0 then d.saveCkpt i s else d

/-- The same with what commits of sample s write of its voice. -/
def committed (i : Nat) (s : Word) (d : Dev) : Dev := (checkpointed i s d).commitVoice i s s

/-- Context i as it stands before it begins sample s: checkpoint and commits, their cycles spent, no event for the program. -/
def readied (i : Nat) (s : Word) (d : Dev) : Dev :=
  let e := (committed i s d).spend (i / 18) (if s.toNat % 16 = 0 then 65 else 1) false
  e.setCtx i { e.ctx i with evq := [] }

/-- The checkpoints of context i once that of sample s is taken. -/
def ckptsAt (d : Dev) (i : Nat) (s : Word) : List Ckpt :=
  if s.toNat % 16 = 0 then ((d.ctx i).ckpts.filter fun q => q.sample != s) ++ [d.takeCkpt i s] else (d.ctx i).ckpts

theorem floor16_self {s : Word} (h : s.toNat % 16 = 0) : floor16 s = s := by
  have hs : s.toNat / 16 * 16 = s.toNat := by omega
  rw [floor16, hs, w32, BitVec.ofNat_toNat, BitVec.setWidth_eq]

section
variable (d : Dev) (i : Nat) (s : Word)

theorem ctx_checkpointed (k : Nat) : (checkpointed i s d).ctx k =
    if k = i then { d.ctx i with ckpts := ckptsAt d i s } else d.ctx k := by
  unfold checkpointed ckptsAt
  split
  · exact ctx_setCtx d i k _
  · split
    · next hk => rw [hk]
    · rfl

theorem keep_committed {M : Nat} (hM : Nat.land M 0x2001 = 0x2001) : Keep Eq M d (committed i s d) := by
  have h : Keep Eq M d (checkpointed i s d) := by
    unfold checkpointed
    split
    · exact Keep.Dev_saveCkpt d i s (Keep.refl d rfl) (Keep.sub hM rfl)
    · exact Keep.refl d rfl
  exact Keep.Dev_commitVoice _ i s s h (Keep.sub hM rfl)

theorem keep_readied : Keep Eq 0x6001 d (readied i s d) :=
  Keep.Dev_setCtx _ _ _ (Keep.Dev_spend _ _ _ _ (keep_committed d i s rfl) rfl) rfl

theorem reg_readied {a : Nat} (h : 0x90000 ≤ a) : (readied i s d).reg a = d.reg a := by
  have hsaved : (checkpointed i s d).reg a = d.reg a := by unfold checkpointed; split <;> rfl
  calc (readied i s d).reg a = (committed i s d).reg a := rfl
    _ = (checkpointed i s d).reg a := reg_commitVoice _ i s s h
    _ = d.reg a := hsaved

theorem spn_readied (m : Nat) : (readied i s d).spn m = if m = i / 18
    then { d.spn (i / 18) with cycles := (d.spn (i / 18)).cycles + if s.toNat % 16 = 0 then 65 else 1 } else d.spn m := by
  have hspn (k : Nat) : (committed i s d).spn k = d.spn k := by
    rw [Dev.spn, part_of_keep (keep_committed d i s (M := 0x2001) rfl) Dev.spns 14 rfl rfl, Dev.spn]
  calc (readied i s d).spn m = ((committed i s d).spend (i / 18) (if s.toNat % 16 = 0 then 65 else 1) false).spn m := rfl
    _ = _ := by rw [Dev.spend, spn_setSpn, hspn, hspn]; rfl

theorem ctx_readied (k : Nat) : (readied i s d).ctx k =
    if k = i then { d.ctx i with evq := [], ckpts := ckptsAt d i s } else d.ctx k := by
  have hctx (k : Nat) : (committed i s d).ctx k = (checkpointed i s d).ctx k := by
    rw [Dev.ctx, committed, part_of_keep (keep_commitVoice _ i s s) Dev.ctxs 13 rfl rfl, Dev.ctx]
  have hspend (k : Nat) : ((committed i s d).spend (i / 18) (if s.toNat % 16 = 0 then 65 else 1) false).ctx k =
      (committed i s d).ctx k := rfl
  rw [readied, ctx_setCtx, hspend, hspend, hctx, hctx, ctx_checkpointed, ctx_checkpointed, if_pos rfl]
  split <;> rfl

/-- A voice that sounds and has no event at sample s begins it: readied, then at the program's ENTRY. -/
theorem renderVoice_plain (hv : (d.noteOf i).cls ≠ clsFree) (hroll : (d.ctx i).roll = none) (hrom : (d.spn (i / 18)).rom = false)
    (hlog : ∀ e ∈ (d.ctx i).log, e.sample ≠ s) : d.renderVoice i s = (readied i s d).beginCtx i := by
  have hes : ((d.ctx i).log.filter fun e => e.sample == s) = [] := List.filter_eq_nil_iff.mpr fun e he => by simpa using hlog e he
  have hfree : ((d.noteOf i).cls == clsFree) = false := beq_eq_false_iff_ne.mpr hv
  have hsave : (if (s.toNat % 16 == 0) = true then d.saveCkpt i (floor16 s) else d) = checkpointed i s d := by
    unfold checkpointed
    by_cases h : s.toNat % 16 = 0 <;> simp [h, floor16_self]
  have hcost : (1 + if s.toNat % 16 = 0 then 64 else 0) = if s.toNat % 16 = 0 then 65 else 1 := by split <;> rfl
  have hplain : ((readied i s d).beginCtx i).runRom i none 0 false = (readied i s d).beginCtx i := by
    have h : (((readied i s d).beginCtx i).spn (i / 18)).rom = false := by
      rw [spn_beginCtx, if_pos rfl, spn_readied, if_pos rfl]
      exact hrom
    rw [Dev.runRom, h]
    rfl
  refine Eq.trans ?_ hplain
  unfold Dev.renderVoice
  simp only [hes, List.find?_nil, Option.isSome_none, Bool.false_and, Bool.false_eq_true, false_and, if_false, hfree, hv,
    Bool.or_false, hsave, hroll, ne_eq, not_false_eq_true, and_true, hcost]
  rfl

end

/-! ### Whose turn it is (R228, R233) -/

/-- The spindle runs no context and is not trapped, on a device whose engine runs. -/
structure Open (d : Dev) (n : Nat) : Prop where
  running : d.running = true
  spindle : n < 16
  free : d.on (SPN_STATUS_TRAPPED n) = false
  cur : (d.spn n).cur = none

section
variable {d : Dev} {n c : Nat}

theorem contextSwitch_closed (h : ¬Open d n) : contextSwitch n c d = d := by
  have hclosed : (!d.running || decide (16 ≤ n) || decide (18 ≤ c) || d.on (SPN_STATUS_TRAPPED n) || (d.spn n).cur.isSome) = true := by
    by_contra hno
    simp only [Bool.or_eq_true, Bool.not_eq_true', decide_eq_true_eq, not_or, Bool.not_eq_false, Bool.not_eq_true,
      Option.isSome_eq_false_iff, Option.isNone_iff_eq_none] at hno
    obtain ⟨⟨⟨⟨hr, hn⟩, -⟩, ht⟩, hc⟩ := hno
    exact h ⟨hr, Nat.lt_of_not_le hn, ht, hc⟩
  rw [contextSwitch, if_pos hclosed]

section
variable (h : Open d n)
include h

theorem Open.proceeds (hc : c < 18) :
    (!d.running || decide (16 ≤ n) || decide (18 ≤ c) || d.on (SPN_STATUS_TRAPPED n) || (d.spn n).cur.isSome) = false := by
  simp [h.running, h.spindle, h.free, h.cur, hc]

theorem contextSwitch_suspended (hc : c < 18) (hs : (d.spn n).susp = some c) : contextSwitch n c d = d.resume n c := by
  rw [contextSwitch, h.proceeds hc, if_neg Bool.false_ne_true, if_pos hs]

/-- A voice that sounds renders its next sample where it may. -/
theorem contextSwitch_sounding (hc : c < 16) (hs : (d.spn n).susp ≠ some c) (hv : (d.noteOf (18 * n + c)).cls ≠ clsFree) :
    contextSwitch n c d = if d.mayRender (18 * n + c) (d.ctx (18 * n + c)).next
      then d.renderVoice (18 * n + c) (d.ctx (18 * n + c)).next else d := by
  have htarget : d.target (18 * n + c) = some (d.ctx (18 * n + c)).next := by rw [Dev.target, if_pos hv]
  rw [contextSwitch, h.proceeds (by omega), if_neg Bool.false_ne_true, if_neg hs, if_pos hc, htarget]

end

/-- No voice that sounds renders beyond its part's frontier (R123). -/
theorem mayRender_beyond {i : Nat} {s : Word} (hv : (d.noteOf i).cls ≠ clsFree) (hs : later s (d.frontier (d.noteOf i).part) > 0) :
    d.mayRender i s = false := by
  have hpart : d.ctxPart i s = (d.noteOf i).part := by rw [Dev.ctxPart, if_pos hv]
  rw [Dev.mayRender, hpart, decide_eq_false (by omega), Bool.false_and]

end

/-! ### A suspended context goes on (R233) -/

section
variable (d : Dev) (n j : Nat)

theorem spn_resume (m : Nat) : (d.resume n j).spn m = if m = n then { d.spn n with cur := some j, susp := none } else d.spn m :=
  spn_setSpn d n m { d.spn n with cur := some j, susp := none }

theorem reg_resume {a : Nat} (hs : a ≠ rSPN_STATUS n) (ho : a ≠ rSPN_ORDERS n) : (d.resume n j).reg a = d.reg a :=
  (reg_fp_other _ (SPN_STATUS_CUR n) _ hs).trans (reg_fp_other _ (SPN_ORDERS_SUSP n) _ ho)

theorem cur_resume (hj : j < 32) : (d.resume n j).fg (SPN_STATUS_CUR n) = j :=
  (fg_fp_self _ _ _ (statusCur_ok n)).trans (Nat.mod_eq_of_lt hj)

theorem resume_fields : d.resume n j = { d with live := (d.resume n j).live, spns := (d.resume n j).spns } :=
  live_spns_of_keep (Keep.Dev_resume d n j (Keep.refl d rfl) rfl)

theorem susp_resume : (d.resume n j).fg (SPN_ORDERS_SUSP n) = 31 := by
  have hsusp : Fld.ok (SPN_ORDERS_SUSP n) := by show 16 ≤ 20 ∧ 20 < 32; decide
  have hne : rSPN_STATUS n ≠ rSPN_ORDERS n := by unfold rSPN_STATUS rSPN_ORDERS; omega
  exact (fg_fp_other _ (SPN_STATUS_CUR n) (SPN_ORDERS_SUSP n) _ (statusCur_ok n) (.inl hne)).trans (fg_fp_self _ _ _ hsusp)

end

/-! ### The commands -/

theorem exec_contextSwitch (n c : Nat) (s : State) : exec (.contextSwitch n c) s = .next { s with dev := contextSwitch n c s.dev } := rfl

/-- Voice context c of spindle n begins the sample that it renders next. -/
def begun (n c : Nat) (d : Dev) : Dev := (readied (18 * n + c) (d.ctx (18 * n + c)).next d).beginCtx (18 * n + c)

section
variable (d : Dev) {n c : Nat}

theorem keep_begun (n c : Nat) : Keep Eq 0x6001 d (begun n c d) := Keep.Dev_beginCtx _ _ (keep_readied d (18 * n + c) _) rfl

theorem begun_fields (n c : Nat) : begun n c d = { d with live := (begun n c d).live, ctxs := (begun n c d).ctxs, spns := (begun n c d).spns } :=
  live_ctxs_spns_of_keep (keep_begun d n c)

theorem ctx_begun (n c k : Nat) : (begun n c d).ctx k = if k = 18 * n + c then { d.ctx (18 * n + c) with
    regs := { (d.ctx (18 * n + c)).regs with pc := entryAt d (18 * n + c), stack := [] }, cyc := 0, flight := [], acc := [], evq := [],
    ckpts := ckptsAt d (18 * n + c) (d.ctx (18 * n + c)).next, p0 := (d.ctx (18 * n + c)).regs.rp,
    appended := [], rep := none, delay := none, lastStock := none } else d.ctx k := by
  have hkeep := keep_readied d (18 * n + c) (d.ctx (18 * n + c)).next
  have hentry : entryAt (readied (18 * n + c) (d.ctx (18 * n + c)).next d) (18 * n + c) = entryAt d (18 * n + c) := by
    have hreg := reg_readied d (18 * n + c) (d.ctx (18 * n + c)).next (a := rSPN_PROG ((18 * n + c) / 18)) (by unfold rSPN_PROG; omega)
    rw [entryAt, ctx_readied, if_pos rfl, regAtSample_congr (part_of_keep hkeep Dev.stg 10 rfl rfl) hreg, entryAt]
  rw [begun, ctx_beginCtx, hentry, ctx_readied, ctx_readied, if_pos rfl]
  split <;> rfl

variable (hc : c < 16)
include hc

theorem spn_begun (m : Nat) : (begun n c d).spn m = if m = n then { d.spn n with
    cur := some c, bundle := []
    cycles := (d.spn n).cycles + if (d.ctx (18 * n + c)).next.toNat % 16 = 0 then 65 else 1 } else d.spn m := by
  have hn : (18 * n + c) / 18 = n := by omega
  have hj : (18 * n + c) % 18 = c := by omega
  rw [begun, spn_beginCtx, spn_readied, spn_readied, hn, hj, if_pos rfl]
  split <;> rfl

theorem cur_begun : (begun n c d).fg (SPN_STATUS_CUR n) = c := by
  have hn : (18 * n + c) / 18 = n := by omega
  have hj : (18 * n + c) % 18 = c := by omega
  have h := cur_beginCtx (readied (18 * n + c) (d.ctx (18 * n + c)).next d) (18 * n + c)
  rwa [hn, hj] at h

theorem contextSwitch_begins (h : Open d n) (hs : (d.spn n).susp ≠ some c) (hrom : (d.spn n).rom = false)
    (hv : (d.noteOf (18 * n + c)).cls ≠ clsFree) (hroll : (d.ctx (18 * n + c)).roll = none)
    (hmay : d.mayRender (18 * n + c) (d.ctx (18 * n + c)).next = true)
    (hlog : ∀ e ∈ (d.ctx (18 * n + c)).log, e.sample ≠ (d.ctx (18 * n + c)).next) : contextSwitch n c d = begun n c d := by
  have hn : (18 * n + c) / 18 = n := by omega
  rw [contextSwitch_sounding h hc hs hv, if_pos hmay, renderVoice_plain d _ _ hv hroll (hn.symm ▸ hrom) hlog, begun]

end

/-- Settles O23: a turn is a context resumed or begun, and the checkpoint and the commits before its start leave the registers of
the spindles and every other context as they are. -/
theorem contextSwitchBeginsSample : Obligations.ContextSwitchBeginsSample := by
  intro s n c d i x sp open_ full
  have hopen : open_ ↔ Open d n := ⟨fun ⟨hr, hn, ht, hc⟩ => ⟨hr, hn, ht, hc⟩, fun ⟨hr, hn, ht, hc⟩ => ⟨hr, hn, ht, hc⟩⟩
  rw [exec_contextSwitch]
  refine ⟨fun ho hc hs => ?_, fun ho hc hs hrom hv hroll hmay hlog => ?_, fun ho => ?_, fun hc hs hv hbeyond => ?_⟩
  · rw [contextSwitch_suspended (hopen.mp ho) hc hs]
    refine ⟨_, rfl, (spn_resume d n c n).trans (if_pos rfl), cur_resume d n c (by omega), susp_resume d n c, fun a ha _ => ?_,
      fun m hm => (spn_resume d n c m).trans (if_neg hm), congrArg (fun y => { s with dev := y }) (resume_fields d n c)⟩
    simp only [List.mem_cons, List.not_mem_nil, or_false, not_or] at ha
    obtain ⟨hstatus, horders⟩ := ha
    exact reg_resume d n c hstatus horders
  · rw [contextSwitch_begins d hc (hopen.mp ho) hs hrom hv hroll hmay hlog]
    have hspn := (spn_begun d hc n).trans (if_pos rfl)
    have hctx := (ctx_begun d n c i).trans (if_pos rfl)
    have hdiv : i / 18 = n := by omega
    have hfull (h : full) : ckptsAt d i x.next = (x.ckpts.filter fun q => q.sample != x.next) ++ [d.takeCkpt i x.next] := if_pos h
    have hnot (h : ¬full) : ckptsAt d i x.next = x.ckpts := if_neg h
    refine ⟨_, rfl, ?_⟩
    dsimp only
    rw [hspn, hctx]
    refine ⟨rfl, rfl, rfl, cur_begun d hc, ?_, rfl, rfl, rfl, rfl, rfl, rfl, fun _ => rfl,
      fun h => ⟨d.takeCkpt i x.next, ?_, rfl, rfl, rfl⟩, hnot, fun k hk => (ctx_begun d n c k).trans (if_neg hk),
      fun m hm => (spn_begun d hc m).trans (if_neg hm), congrArg (fun y => { s with dev := y }) (begun_fields d n c)⟩
    · show entryAt d i = _
      rw [entryAt, hdiv]
    · show _ ∈ ckptsAt d i x.next
      rw [hfull h]
      exact List.mem_append_right _ (List.mem_singleton_self _)
  · rw [contextSwitch_closed (mt hopen.mpr ho)]
  · by_cases ho : open_
    · rw [contextSwitch_sounding (hopen.mp ho) hc hs hv, mayRender_beyond hv hbeyond, if_neg Bool.false_ne_true]
    · rw [contextSwitch_closed (mt hopen.mpr ho)]

end Sys2Proof.Spindles
end
